-- ==== Sys2Proof/Word.lean ====
section
/-! DEFINITION. The machine words of the Pliob and the sparse tables its state is made of. -/
namespace Sys2Proof

/-- A byte of memory. -/
abbrev Byte := BitVec 8

/-- A 64-bit word: control-core registers, pointers, state registers (R83). -/
abbrev Word := BitVec 64

/-- A table from numbers to values, written as the entries that differ from what an unlisted key reads as. -/
abbrev Sparse (α : Type) := List (Nat × α)

end Sys2Proof
end

