-- ==== Sys2Proof/Machine/Sparse.lean ====
section
/-! DEFINITION. Sparse tables: lookup, update, removal; sorted sets of numbers; small list operations. -/
namespace Sys2Proof.Machine

/-- The value a table holds at `k`; `d` where nothing is listed. -/
def sget {α : Type} (d : α) : Sparse α → Nat → α
  | [], _ => d
  | (k', v) :: l, k => if k = k' then v else sget d l k

/-- The listed value at `k`, if any. -/
def sfind {α : Type} : Sparse α → Nat → Option α
  | [], _ => none
  | (k', v) :: l, k => if k = k' then some v else sfind l k

/-- The table with `v` at `k`, its keys kept rising. -/
def sput {α : Type} : Sparse α → Nat → α → Sparse α
  | [], k, v => [(k, v)]
  | (k', v') :: l, k, v =>
    if k < k' then (k, v) :: (k', v') :: l
    else if k = k' then (k, v) :: l
    else (k', v') :: sput l k v

/-- The table with nothing listed at `k`. -/
def sdel {α : Type} : Sparse α → Nat → Sparse α
  | [], _ => []
  | (k', v) :: l, k => if k = k' then sdel l k else (k', v) :: sdel l k

/-- The set with `k` in it, kept rising. -/
def insertNat : List Nat → Nat → List Nat
  | [], k => [k]
  | k' :: l, k => if k < k' then k :: k' :: l else if k = k' then k' :: l else k' :: insertNat l k

/-- The set without `k`. -/
def removeNat : List Nat → Nat → List Nat
  | [], _ => []
  | k' :: l, k => if k = k' then removeNat l k else k' :: removeNat l k

/-- The numbers lo, lo + 1, … (n of them). -/
def range (lo : Nat) : Nat → List Nat
  | 0 => []
  | n + 1 => lo :: range (lo + 1) n

/-- Entry `i` of a list; `d` past its end. -/
def nth {α : Type} (d : α) : List α → Nat → α
  | [], _ => d
  | a :: _, 0 => a
  | _ :: l, i + 1 => nth d l i

/-- The list with entry `i` replaced. -/
def setNth {α : Type} : List α → Nat → α → List α
  | [], _, _ => []
  | _ :: l, 0, v => v :: l
  | a :: l, i + 1, v => a :: setNth l i v

/-- The list without entry `i`. -/
def dropNth {α : Type} : List α → Nat → List α
  | [], _ => []
  | _ :: l, 0 => l
  | a :: l, i + 1 => a :: dropNth l i

/-- The first entry that satisfies `p`, with its position. -/
def findIdx {α : Type} (p : α → Bool) : Nat → List α → Option (Nat × α)
  | _, [] => none
  | i, a :: l => if p a then some (i, a) else findIdx p (i + 1) l

/-- Whether bit `i` of a number is set. -/
def bit (n i : Nat) : Bool := n / 2 ^ i % 2 == 1

/-- The bits [hi:lo] of a number (R3). -/
def bits (n hi lo : Nat) : Nat := n / 2 ^ lo % 2 ^ (hi + 1 - lo)

/-- 1 for true and 0 for false. -/
def b2n (b : Bool) : Nat := if b then 1 else 0

/-- The positions below `n` whose bit of `m` is set, lowest first. -/
def maskList (m n : Nat) : List Nat := (range 0 n).filter (fun i => bit m i)

/-- The value of an `n`-bit pattern read as two's complement (R63). -/
def sextNat (n v : Nat) : Int := if bit v (n - 1) then (v % 2 ^ n : Int) - 2 ^ n else (v % 2 ^ n : Int)

/-- The `n`-bit pattern of an integer (R63). -/
def wrapInt (n : Nat) (v : Int) : Nat := (v % (2 ^ n : Int)).toNat

/-- The number of little-endian bytes `bs` (R3). -/
def ofBytes : List Nat → Nat
  | [] => 0
  | b :: bs => b + 256 * ofBytes bs

/-- The `n` little-endian bytes of a number (R3). -/
def toBytes : Nat → Nat → List Nat
  | 0, _ => []
  | n + 1, w => w % 256 :: toBytes n (w / 256)

end Sys2Proof.Machine
end

