-- ==== Sys2Proof/Machine/Numeric.lean ====
section
/-! DEFINITION. Number formats (04): exact dyadic values, decoding, rounding in the six modes, and block scales. -/
namespace Sys2Proof.Machine

/-! ## Exact dyadic values -/

/-- The value m * 2^e. -/
structure Dy where
  m : Int
  e : Int
  deriving DecidableEq, Repr, Inhabited

/-- The mantissa of a value at a lower exponent. -/
def Dy.at (a : Dy) (e : Int) : Int := a.m * 2 ^ (a.e - e).toNat

def Dy.add (a b : Dy) : Dy :=
  let e := min a.e b.e
  { m := a.at e + b.at e, e := e }

def Dy.neg (a : Dy) : Dy := { a with m := -a.m }

def Dy.sub (a b : Dy) : Dy := a.add b.neg

def Dy.mul (a b : Dy) : Dy := { m := a.m * b.m, e := a.e + b.e }

def Dy.abs (a : Dy) : Dy := { a with m := a.m.natAbs }

def Dy.ofInt (v : Int) : Dy := { m := v, e := 0 }

/-- 2^e. -/
def Dy.pow2 (e : Int) : Dy := { m := 1, e := e }

/-- The sign of a - b: negative, zero or positive. -/
def Dy.cmp (a b : Dy) : Int := (a.sub b).m.sign

def Dy.lt (a b : Dy) : Bool := Dy.cmp a b < 0

def Dy.le (a b : Dy) : Bool := Dy.cmp a b ≤ 0

def Dy.isZero (a : Dy) : Bool := a.m == 0

/-- floor(log2 |a|) of a nonzero value. -/
def Dy.log2 (a : Dy) : Int := (Nat.log2 a.m.natAbs : Int) + a.e

/-- The magnitude of `a` in units of 2^q: its whole part, and the rest over a power of two. -/
def Dy.units (a : Dy) (q : Int) : Nat × Nat × Nat :=
  let n := a.m.natAbs
  if q ≤ a.e then (n * 2 ^ (a.e - q).toNat, 0, 1)
  else
    let d := 2 ^ (q - a.e).toNat
    (n / d, n % d, d)

/-- Round to odd at quantum 2^q (R74): the signed multiple of the quantum. -/
def Dy.roundOdd (a : Dy) (q : Int) : Int :=
  let (t, rest, _) := a.units q
  let t := if rest ≠ 0 && t % 2 == 0 then t + 1 else t
  if a.m < 0 then -(t : Int) else t

/-- The nearest multiple of 2^q, ties toward zero (R141). -/
def Dy.nearest (a : Dy) (q : Int) : Int :=
  let (t, rest, d) := a.units q
  let t := if d < 2 * rest then t + 1 else t
  if a.m < 0 then -(t : Int) else t

/-! ## Rounding (R73-R75) -/

/-- Whether a magnitude of t units and rest/d of a unit is rounded up, in a mode (Table 4.9); `st` is the LFSR state
of mode 101 (R75). -/
def roundsUp (mode : Nat) (neg : Bool) (t rest d st : Nat) : Bool :=
  match mode with
  | 0 => d < 2 * rest || (d == 2 * rest && t % 2 == 1)
  | 2 => !neg && rest != 0
  | 3 => neg && rest != 0
  | 4 => d ≤ 2 * rest
  | 5 => 2 ^ 32 ≤ rest * 2 ^ 32 / d + st && rest * 2 ^ 32 / d != 0
  | _ => false

/-- The LFSR step of R75. -/
def lfsrStep (s : Nat) : Nat := if s % 2 = 1 then (s / 2) ^^^ 0x80200003 else s / 2

/-- The LFSR state after a lane: a lane rounded in mode 101 steps it, whether inexact or not (R75). -/
def lfsrAfter (mode : Nat) (rounds : Bool) (st : Nat) : Nat := if mode == 5 && rounds then lfsrStep st else st

/-- The seed of an LFSR unit (R75). -/
def lfsrSeed (core unit ctx : Nat) : Nat :=
  let s := 0x6C8E9CF5 ^^^ (core % 4096 * 2 ^ 20) ^^^ (unit % 512 * 16) ^^^ (ctx % 4)
  if s = 0 then 1 else s

/-- The flag bits of Table 4.13. -/
def fInvalid : Nat := 1
def fDivide : Nat := 2
def fOverflow : Nat := 4
def fUnderflow : Nat := 8
def fInexact : Nat := 16
def fSteered : Nat := 32
def fCancelled : Nat := 64
def fLength : Nat := 128

/-- A floating format: precision, exponent of the smallest quantum, and largest finite magnitude big * 2^bigE. -/
structure FloatFmt where
  p : Nat
  qmin : Int
  big : Nat
  bigE : Int
  deriving DecidableEq, Repr

/-- The floating formats by tag (Tables 4.3 to 4.7). -/
def floatFmt : Nat → FloatFmt
  | 1 => { p := 24, qmin := -149, big := 2 ^ 24 - 1, bigE := 104 }
  | 2 => { p := 8, qmin := -133, big := 2 ^ 8 - 1, bigE := 120 }
  | 5 => { p := 4, qmin := -9, big := 15, bigE := 5 }
  | 6 => { p := 3, qmin := -16, big := 7, bigE := 14 }
  | _ => { p := 2, qmin := -1, big := 3, bigE := 1 }

/-- Bits of a format in memory (Table 4.1). -/
def memBits : Nat → Nat
  | 0 => 32
  | 1 => 32
  | 2 => 16
  | 3 => 16
  | 7 => 4
  | _ => 8

/-- The lane width of a format (Table 4.1). -/
def laneBits : Nat → Nat
  | 0 => 32
  | 1 => 32
  | 2 => 16
  | 3 => 16
  | _ => 8

def isInt (fmt : Nat) : Bool := fmt == 0 || fmt == 3 || fmt == 4

def isWide (fmt : Nat) : Bool := fmt == 1 || fmt == 2

def isNarrow (fmt : Nat) : Bool := 5 ≤ fmt && fmt ≤ 7

/-- The integer tag of a lane width (R155). -/
def intTag (bits : Nat) : Nat := if bits = 32 then 0 else if bits = 16 then 3 else 4

/-- A rounded magnitude t * 2^q, with whether it differs from the exact one. -/
structure Rounded where
  t : Nat
  q : Int
  inexact : Bool
  deriving DecidableEq, Repr

/-- Round a nonzero value to a format's precision, its range unbounded above. -/
def roundMag (f : FloatFmt) (mode : Nat) (v : Dy) (st : Nat) (bounded : Bool) : Rounded :=
  let q0 := v.log2 - (f.p - 1 : Int)
  let q := if bounded then max q0 f.qmin else q0
  let (t, rest, d) := v.units q
  { t := if roundsUp mode (v.m < 0) t rest d st then t + 1 else t, q := q, inexact := rest != 0 }

/-- The code of a magnitude t * 2^q of a format, sign excluded. -/
def magCode (f : FloatFmt) (r : Rounded) : Nat := (r.q - f.qmin).toNat * 2 ^ (f.p - 1) + r.t

/-- The sign bit's weight. -/
def signBit (fmt : Nat) : Nat := 2 ^ (memBits fmt - 1)

/-- The code of the infinity of a wide format. -/
def infCode (fmt : Nat) : Nat := if fmt = 1 then 0x7F800000 else 0x7F80

/-- The canonical NaN (R65). -/
def nanCode (fmt : Nat) : Nat := if fmt = 1 then 0x7FC00000 else 0x7FC0

/-- The code of the largest finite magnitude. -/
def bigCode (fmt : Nat) : Nat :=
  let f := floatFmt fmt
  magCode f { t := f.big, q := f.bigE, inexact := false }

/-- Whether an overflow in a wide format becomes infinite (R73). -/
def overflowInf (mode : Nat) (neg : Bool) : Bool :=
  match mode with
  | 1 => false
  | 2 => !neg
  | 3 => neg
  | _ => true

/-- A nonzero value rounded into a floating format: its code and flags (R73, R78). `free` marks a blockwise element
whose clamp raises inexact only (R69). -/
def toFloat (fmt mode : Nat) (v : Dy) (st : Nat) (free : Bool := false) : Nat × Nat :=
  let f := floatFmt fmt
  let neg : Bool := v.m < 0
  let sg := if neg then signBit fmt else 0
  let r := roundMag f mode v st true
  let mag : Dy := { m := r.t, e := r.q }
  if Dy.lt { m := f.big, e := f.bigE } mag then
    if isWide fmt then
      (sg + (if overflowInf mode neg then infCode fmt else bigCode fmt), fOverflow + fInexact)
    else (sg + bigCode fmt, if free then fInexact else fOverflow)
  else
    let tiny : Bool :=
      if isWide fmt then
        let u := roundMag f mode v st false
        Dy.lt { m := u.t, e := u.q } (Dy.pow2 (f.qmin + (f.p - 1 : Int)))
      else Dy.lt mag (Dy.pow2 (f.qmin + (f.p - 1 : Int)))
    (sg + magCode f r, if r.inexact then fInexact + (if tiny then fUnderflow else 0) else 0)

/-- The range of an integer format (Table 4.2). -/
def intMin (bits : Nat) (uns : Bool) : Int := if uns then 0 else -(2 ^ (bits - 1))

def intMax (bits : Nat) (uns : Bool) : Int := if uns then 2 ^ bits - 1 else 2 ^ (bits - 1) - 1

/-- An integer into an integer format: saturate in mode 001, else wrap (R63, R77). -/
def intToInt (bits : Nat) (uns : Bool) (mode : Nat) (v : Int) : Nat × Nat :=
  if mode = 1 then
    if v < intMin bits uns then (wrapInt bits (intMin bits uns), fOverflow)
    else if intMax bits uns < v then (wrapInt bits (intMax bits uns), fOverflow)
    else (wrapInt bits v, 0)
  else (wrapInt bits v, 0)

/-- A finite value rounded to an integer format, always saturating (R76). -/
def floatToInt (bits : Nat) (uns : Bool) (mode : Nat) (v : Dy) (st : Nat) : Nat × Nat :=
  let (t, rest, d) := v.units 0
  let t := if roundsUp mode (v.m < 0) t rest d st then t + 1 else t
  let i : Int := if v.m < 0 then -(t : Int) else t
  if i < intMin bits uns then (wrapInt bits (intMin bits uns), fOverflow)
  else if intMax bits uns < i then (wrapInt bits (intMax bits uns), fOverflow)
  else (wrapInt bits i, if rest = 0 then 0 else fInexact)

/-! ## Decoding -/

/-- A number as a conversion sees it. -/
inductive Num where
  | fin (v : Dy)
  | zero (neg : Bool)
  | inf (neg : Bool)
  | nan (signalling : Bool)
  deriving DecidableEq, Repr

/-- The finite magnitude of a floating code without its sign. -/
def magOf (f : FloatFmt) (c : Nat) : Dy :=
  let e := c / 2 ^ (f.p - 1)
  let m := c % 2 ^ (f.p - 1)
  if e = 0 then { m := m, e := f.qmin } else { m := m + 2 ^ (f.p - 1) , e := f.qmin + (e - 1 : Int) }

/-- The number of a code in a format (R63-R67). -/
def decodeNum (fmt : Nat) (uns : Bool) (c : Nat) : Num :=
  if isInt fmt then
    let v : Int := if uns then c % 2 ^ memBits fmt else sextNat (memBits fmt) c
    if v = 0 then .zero false else .fin (Dy.ofInt v)
  else
    let neg := bit c (memBits fmt - 1)
    let mag := c % signBit fmt
    let f := floatFmt fmt
    if isWide fmt && mag / 2 ^ (f.p - 1) == 255 then
      (if mag % 2 ^ (f.p - 1) = 0 then .inf neg else .nan (!bit mag (f.p - 2)))
    else if mag = 0 then .zero neg
    else .fin (if neg then (magOf f mag).neg else magOf f mag)

/-- A number times 2^k. -/
def Num.scale (k : Int) : Num → Num
  | .fin v => .fin { v with e := v.e + k }
  | n => n

/-- An E8M0 scale code's exponent; 0xFF is the block NaN (R68). -/
def scaleExp (code : Nat) : Option Int := if code = 0xFF then none else some ((code : Int) - 127)

/-- Convert a number that is no integer lane's into a format, or an integer into a floating one (R76-R79): code and flags. -/
def convert (fmt : Nat) (uns : Bool) (mode : Nat) (n : Num) (st : Nat) (free : Bool) : Nat × Nat :=
  if isInt fmt then
    match n with
    | .nan _ => (0, fInvalid)
    | .inf neg => (wrapInt (memBits fmt) (if neg then intMin (memBits fmt) uns else intMax (memBits fmt) uns), fInvalid)
    | .zero _ => (0, 0)
    | .fin v => floatToInt (memBits fmt) uns mode v st
  else
    match n with
    | .nan sg => if isWide fmt then (nanCode fmt, if sg then fInvalid else 0) else (0, fInvalid)
    | .inf neg =>
      if isWide fmt then (infCode fmt + (if neg then signBit fmt else 0), 0)
      else (bigCode fmt + (if neg then signBit fmt else 0), fOverflow)
    | .zero neg => (if neg then signBit fmt else 0, 0)
    | .fin v => toFloat fmt mode v st free

/-- emax of R69. -/
def emax (fmt : Nat) : Int := if fmt = 5 then 8 else if fmt = 6 then 15 else 2

/-- The scale of a block (R69), and whether its clamp to 0xFE was needed. -/
def chooseScale (fmt : Nat) (block : List Num) : Nat × Bool :=
  if block.any (fun n => match n with | .nan _ => true | _ => false) then (0xFF, false)
  else
    let fins := block.filterMap (fun n => match n with
      | .fin v => some v.abs
      | .zero _ => some (Dy.ofInt 0)
      | _ => none)
    match fins with
    | [] => (0xFE, false)
    | v :: vs =>
      let a := vs.foldl (fun a b => if Dy.lt a b then b else a) v
      if a.isZero then (0x7F, false)
      else
        let t := a.log2 - emax fmt + 127
        if t < 0 then (0, false) else if 0xFE < t then (0xFE, true) else (t.toNat, false)

end Sys2Proof.Machine
end

