-- ==== Sys2Proof/Syntax.lean ====
section
/-! DEFINITION. The instruction syntax of the Pliob: one constructor for each row of the opcode table.
Register numbers, field values and indices are numbers (Nat); WellFormed says their ranges. -/
namespace Sys2Proof

/-- The fields of a 64-bit fabric word beside its kind and subop (R49). Targets are the 9-bit patterns of R50. -/
structure Fab where
  width : Nat
  mode : Nat
  accept : Nat
  ta : Nat
  tb : Nat
  lsid : Nat
  delay : Nat
  pred : Nat
  imm : Nat
  deriving DecidableEq, Repr, Inhabited

/-- The fields of a matrix order (R54, Table 3.10) beside its opcode. `m1` is M - 1 and `n1` is N - 1. -/
structure MxOrder where
  m1 : Nat
  n1 : Nat
  k : Nat
  afmt : Nat
  bfmt : Nat
  ofmt : Nat
  mode : Nat
  accum : Nat
  bank : Nat
  base : Nat
  acoded : Nat
  bcoded : Nat
  tofab : Nat
  atile : Nat
  aoff : Nat
  btile : Nat
  boff : Nat
  dtile : Nat
  doff : Nat
  astile : Nat
  asoff : Nat
  bstile : Nat
  bsoff : Nat
  mtile : Nat
  moff : Nat
  cidx : Nat
  cport : Nat
  echo : Nat
  deriving DecidableEq, Repr, Inhabited

/-- A firmware manifest (R360): its public key, signed text, signature and version, the SHA-256 digests it lists, and the
images that stand beside it. -/
structure Manifest where
  key : List Nat
  text : List Nat
  sig : List Nat
  version : Nat
  digests : List Nat
  images : List (List Nat)
  deriving DecidableEq, Repr, Inhabited

/-- One constructor for each row of the opcode table: control-core words, fabric words, matrix orders, and the
machine's own events with the numbers of what they concern. -/
inductive Instr where
  /-- ADD (R86). Control-core register add: xd gets xa + xb modulo 2^64. -/
  | add (d : Nat) (a : Nat) (b : Nat)
  /-- SUB (R86). Control-core register subtract: xd gets xa − xb. -/
  | sub (d : Nat) (a : Nat) (b : Nat)
  /-- AND (R86). Control-core bitwise and of xa and xb into xd. -/
  | and (d : Nat) (a : Nat) (b : Nat)
  /-- OR (R86). Control-core bitwise or of xa and xb into xd. -/
  | or (d : Nat) (a : Nat) (b : Nat)
  /-- XOR (R86). Control-core bitwise xor of xa and xb into xd. -/
  | xor (d : Nat) (a : Nat) (b : Nat)
  /-- SLL (R86). Control-core shift left of xa by xb[5:0]. -/
  | sll (d : Nat) (a : Nat) (b : Nat)
  /-- SRL (R86). Control-core logical shift right of xa by xb[5:0]. -/
  | srl (d : Nat) (a : Nat) (b : Nat)
  /-- SRA (R86). Control-core arithmetic shift right of xa by xb[5:0]. -/
  | sra (d : Nat) (a : Nat) (b : Nat)
  /-- MUL (R86). Control-core multiply, low 64 bits of xa × xb. -/
  | mul (d : Nat) (a : Nat) (b : Nat)
  /-- MULH (R86). Control-core signed multiply, high 64 bits. -/
  | mulh (d : Nat) (a : Nat) (b : Nat)
  /-- MULHN (R86). Control-core unsigned multiply, high 64 bits. -/
  | mulhn (d : Nat) (a : Nat) (b : Nat)
  /-- MIN (R86). Control-core signed minimum of xa and xb. -/
  | min (d : Nat) (a : Nat) (b : Nat)
  /-- MAX (R86). Control-core signed maximum of xa and xb. -/
  | max (d : Nat) (a : Nat) (b : Nat)
  /-- MINN (R86). Control-core unsigned minimum of xa and xb. -/
  | minn (d : Nat) (a : Nat) (b : Nat)
  /-- MAXN (R86). Control-core unsigned maximum of xa and xb. -/
  | maxn (d : Nat) (a : Nat) (b : Nat)
  /-- SLT (R86). Control-core signed set-less-than. -/
  | slt (d : Nat) (a : Nat) (b : Nat)
  /-- SLTN (R86). Control-core unsigned set-less-than. -/
  | sltn (d : Nat) (a : Nat) (b : Nat)
  /-- CLZ (R86). Control-core count of leading zero bits of xa. -/
  | clz (d : Nat) (a : Nat)
  /-- POPC (R86). Control-core count of one bits of xa. -/
  | popc (d : Nat) (a : Nat)
  /-- ADDI (R87). Add sign-extended 16-bit immediate to xa. -/
  | addi (d : Nat) (a : Nat) (i : Nat)
  /-- ANDI (R87). And xa with zero-extended immediate. -/
  | andi (d : Nat) (a : Nat) (i : Nat)
  /-- ORI (R87). Or xa with zero-extended immediate. -/
  | ori (d : Nat) (a : Nat) (i : Nat)
  /-- XORI (R87). Xor xa with zero-extended immediate. -/
  | xori (d : Nat) (a : Nat) (i : Nat)
  /-- SLLI (R87). Shift xa left by an immediate count. -/
  | slli (d : Nat) (a : Nat) (n : Nat)
  /-- SRLI (R87). Logical shift right of xa by an immediate count. -/
  | srli (d : Nat) (a : Nat) (n : Nat)
  /-- SRAI (R87). Arithmetic shift right of xa by an immediate count. -/
  | srai (d : Nat) (a : Nat) (n : Nat)
  /-- LUI (R87). Place imm16 in bits [31:16] of xd, sign-extended. -/
  | lui (d : Nat) (i : Nat)
  /-- LD_B (R89). Load one byte, sign-extended, into xd. -/
  | ldB (d : Nat) (a : Nat) (i : Nat)
  /-- LD_H (R89). Load two bytes, sign-extended, into xd. -/
  | ldH (d : Nat) (a : Nat) (i : Nat)
  /-- LD_W (R89). Load four bytes, sign-extended, into xd. -/
  | ldW (d : Nat) (a : Nat) (i : Nat)
  /-- LD_D (R89). Load eight bytes into xd. -/
  | ldD (d : Nat) (a : Nat) (i : Nat)
  /-- LDN_B (R89). Load one byte, zero-extended, into xd. -/
  | ldnB (d : Nat) (a : Nat) (i : Nat)
  /-- LDN_H (R89). Load two bytes, zero-extended, into xd. -/
  | ldnH (d : Nat) (a : Nat) (i : Nat)
  /-- LDN_W (R89). Load four bytes, zero-extended, into xd. -/
  | ldnW (d : Nat) (a : Nat) (i : Nat)
  /-- ST_B (R90). Store the low byte of the data register. -/
  | stB (x : Nat) (a : Nat) (i : Nat)
  /-- ST_H (R90). Store the low two bytes of the data register. -/
  | stH (x : Nat) (a : Nat) (i : Nat)
  /-- ST_W (R90). Store the low four bytes of the data register. -/
  | stW (x : Nat) (a : Nat) (i : Nat)
  /-- ST_D (R90). Store eight bytes of the data register. -/
  | stD (x : Nat) (a : Nat) (i : Nat)
  /-- AMO_SWAP (R93). Atomic swap at the home bank, old value to xd. -/
  | amoSwap (d : Nat) (a : Nat) (b : Nat) (w : Nat) (sc : Nat)
  /-- AMO_ADD (R93). Atomic add at the home bank, old value to xd. -/
  | amoAdd (d : Nat) (a : Nat) (b : Nat) (w : Nat) (sc : Nat)
  /-- AMO_AND (R93). Atomic and at the home bank. -/
  | amoAnd (d : Nat) (a : Nat) (b : Nat) (w : Nat) (sc : Nat)
  /-- AMO_OR (R93). Atomic or at the home bank. -/
  | amoOr (d : Nat) (a : Nat) (b : Nat) (w : Nat) (sc : Nat)
  /-- AMO_XOR (R93). Atomic xor at the home bank. -/
  | amoXor (d : Nat) (a : Nat) (b : Nat) (w : Nat) (sc : Nat)
  /-- AMO_MAX (R93). Atomic signed maximum at the home bank. -/
  | amoMax (d : Nat) (a : Nat) (b : Nat) (w : Nat) (sc : Nat)
  /-- AMO_MIN (R93). Atomic signed minimum at the home bank. -/
  | amoMin (d : Nat) (a : Nat) (b : Nat) (w : Nat) (sc : Nat)
  /-- AMO_MAXN (R93). Atomic unsigned maximum at the home bank. -/
  | amoMaxn (d : Nat) (a : Nat) (b : Nat) (w : Nat) (sc : Nat)
  /-- AMO_MINN (R93). Atomic unsigned minimum at the home bank. -/
  | amoMinn (d : Nat) (a : Nat) (b : Nat) (w : Nat) (sc : Nat)
  /-- AMO_CAS (R93). Atomic compare-and-swap against xd as expected value. -/
  | amoCas (d : Nat) (a : Nat) (b : Nat) (w : Nat) (sc : Nat)
  /-- FENCE (R96). Wait until earlier accesses are performed for every observer of the scope. -/
  | fence (sc : Nat)
  /-- BEQ (R100). Branch when xa equals xb, unwinding the loop stack. -/
  | beq (a : Nat) (b : Nat) (o : Nat)
  /-- BNE (R100). Branch when xa differs from xb. -/
  | bne (a : Nat) (b : Nat) (o : Nat)
  /-- BLT (R100). Branch when xa is signed-less than xb. -/
  | blt (a : Nat) (b : Nat) (o : Nat)
  /-- BGE (R100). Branch when xa is signed-greater-or-equal to xb. -/
  | bge (a : Nat) (b : Nat) (o : Nat)
  /-- BLTN (R100). Branch when xa is unsigned-less than xb. -/
  | bltn (a : Nat) (b : Nat) (o : Nat)
  /-- BGEN (R100). Branch when xa is unsigned-greater-or-equal to xb. -/
  | bgen (a : Nat) (b : Nat) (o : Nat)
  /-- JAL (R101). Jump with link written to x1. -/
  | jal (o : Nat)
  /-- JALR (R101). Jump to xa + offset with link to xd; xd = x0 unwinds loops. -/
  | jalr (d : Nat) (a : Nat) (i : Nat)
  /-- LOOP (R104). Open a hardware loop at a level with a count register. -/
  | loop (l : Nat) (c : Nat) (n : Nat)
  /-- LBRK (R106). End a loop level and every loop inside it. -/
  | lbrk (l : Nat)
  /-- LCNT (R107). Read the remaining count of a loop level. -/
  | lcnt (d : Nat) (l : Nat)
  /-- STORE_BUFFER_DRAIN (R95). A buffered control-core store becomes visible to other observers. -/
  | storeBufferDrain (r : Nat)
  /-- TSEND (R126). Send one token with a header from two registers and optional payload. -/
  | tsend (a : Nat) (b : Nat) (p : Nat)
  /-- TRECV (R127). Take the oldest mailbox message. -/
  | trecv (a : Nat) (b : Nat)
  /-- FOPEN (R124). Open a frame of a context on a core and return its number. -/
  | fopen (a : Nat) (b : Nat) (core : Nat) (depth : Nat) (ctx : Nat)
  /-- FWAIT (R125). Wait until a frame number on a core is free. -/
  | fwait (a : Nat) (core : Nat)
  /-- APSET (R115). Load an access-pattern record into an ap register. -/
  | apset (b : Nat) (ap : Nat)
  /-- APMOD (R115). Replace one field of an ap register. -/
  | apmod (b : Nat) (f : Nat) (ap : Nat)
  /-- SBIND (R117). Bind a pattern copy to a stream port of a context on masked cores. -/
  | sbind (a : Nat) (b : Nat) (port : Nat) (ctx : Nat) (ap : Nat)
  /-- SBAR (R118). Place a barrier entry in named port queues. -/
  | sbar (a : Nat) (b : Nat) (w : Nat)
  /-- SSTAT (R120). Return the port state of a core. -/
  | sstat (a : Nat) (core : Nat)
  /-- BLOAD (R121). Load a block image into a context on masked cores, all or nothing. -/
  | bload (a : Nat) (b : Nat) (ctx : Nat)
  /-- BDROP (R122). Remove a context's block once it has no live frame. -/
  | bdrop (a : Nat) (ctx : Nat)
  /-- LWAIT (R123). Wait for the launch to end and end the launch program. -/
  | lwait
  /-- TALLOC (R128). Request a tile from a core's allocator. -/
  | talloc (a : Nat) (b : Nat) (core : Nat) (ctx : Nat)
  /-- TREL (R129). Release a reader or publish a talloc tile. -/
  | trel (a : Nat) (core : Nat) (pub : Nat) (ctx : Nat)
  /-- TSTATE (R130). Return a tile's state or geometry word. -/
  | tstate (a : Nat) (b : Nat) (core : Nat) (sel : Nat)
  /-- RINGINIT (R131). Set up a ring descriptor. -/
  | ringinit (a : Nat) (core : Nat) (ring : Nat) (ctx : Nat)
  /-- RINGWAIT (R131). Wait for the slot at kp to fill, return its tile and advance kp. -/
  | ringwait (a : Nat) (core : Nat) (ring : Nat) (ctx : Nat)
  /-- RINGREL (R131). Perform one reader's release of the slot at fp. -/
  | ringrel (core : Nat) (ring : Nat) (ctx : Nat)
  /-- CP (R253). Enqueue a byte copy, linear, patterned or move. -/
  | cp (b : Nat) (core : Nat) (ctx : Nat)
  /-- CPG (R255). Enqueue a gather of table rows by index. -/
  | cpg (b : Nat) (core : Nat) (ctx : Nat)
  /-- CPS (R255). Enqueue a scatter of rows into a table by index. -/
  | cps (b : Nat) (core : Nat) (ctx : Nat)
  /-- CPSA (R256). Enqueue a scatter-add of rows into a table. -/
  | cpsa (b : Nat) (core : Nat) (ctx : Nat)
  /-- CPM (R258). Enqueue a multicast copy into several scratchpads. -/
  | cpm (b : Nat) (core : Nat) (ctx : Nat)
  /-- CPBIN (R257). Enqueue a binning of records into bins. -/
  | cpbin (b : Nat) (core : Nat) (ctx : Nat)
  /-- CPCANCEL (R259). Cancel a copy by id, or retry a stopped one. -/
  | cpcancel (a : Nat) (core : Nat) (retry : Nat) (ctx : Nat)
  /-- CPQ (R251). Set the four class quanta of a copy unit. -/
  | cpq (b : Nat) (core : Nat)
  /-- PCINIT (R286). Initialise and mark a phase counter. -/
  | pcinit (a : Nat) (b : Nat) (core : Nat) (ctx : Nat)
  /-- PCARRIVE (R286). Post an arrival count to a phase counter. -/
  | pcarrive (a : Nat) (b : Nat) (core : Nat) (ctx : Nat)
  /-- PCEXPECT (R286). Post an expectation to a phase counter. -/
  | pcexpect (a : Nat) (b : Nat) (core : Nat) (ctx : Nat)
  /-- PCWAIT (R286). Wait until a counter's phase differs from a given value. -/
  | pcwait (a : Nat) (b : Nat) (core : Nat) (ctx : Nat)
  /-- COLL (R299). Start a collective from its record. -/
  | coll (b : Nat)
  /-- COLLWAIT (R299). Wait until a collective id completes. -/
  | collwait (a : Nat)
  /-- CXPRIO (R335). Set a context's firing priority on masked cores. -/
  | cxprio (a : Nat) (prio : Nat) (ctx : Nat)
  /-- CXPARK (R335). Stop a context on masked cores. -/
  | cxpark (a : Nat) (ctx : Nat)
  /-- CXRESUME (R335). Make a stopped slot resident again, abandoning an unsealed save. -/
  | cxresume (a : Nat) (ctx : Nat)
  /-- CXSAVE (R336). Switch a context out into an image at the switch-out point. -/
  | cxsave (a : Nat) (b : Nat) (core : Nat) (ctx : Nat)
  /-- CXREST (R342). Restore a sealed image into a vacant slot. -/
  | cxrest (b : Nat) (core : Nat) (ctx : Nat)
  /-- DVMAP (R339). Change a diversion entry's proof pointer or size. -/
  | dvmap (b : Nat) (core : Nat) (e : Nat)
  /-- DVCLR (R339). Discard an absent image and free its diversion entry. -/
  | dvclr (core : Nat) (e : Nat)
  /-- RENTER (R358). Push a region id onto named region stacks. -/
  | renter (a : Nat) (b : Nat) (own : Nat) (ctx : Nat)
  /-- RLEAVE (R358). Pop named region stacks. -/
  | rleave (a : Nat) (own : Nat) (ctx : Nat)
  /-- SMARK (R358). Write a mark record. -/
  | smark (b : Nat)
  /-- BKPT (R358). Arm or clear a context's breakpoint. -/
  | bkpt (b : Nat) (core : Nat) (ctx : Nat)
  /-- TRAP (R134). Trap with a code, or decline the handled trap when privileged. -/
  | trap (k : Nat)
  /-- TRET (R134). Return from a trap, restoring the loop stack. -/
  | tret
  /-- MVFS (R135). Read a state register. -/
  | mvfs (a : Nat) (n : Nat)
  /-- MVTS (R135). Write a state register that has no row of its own. -/
  | mvts (b : Nat) (n : Nat)
  /-- WFE (R136). Wait for an event bit, then clear the events register. -/
  | wfe
  /-- EVENTS_CLEAR (R136). A write to the events register clears its set bits. -/
  | eventsClear (b : Nat)
  /-- FLAG_WORD_WRITE (R82). A control-core write to a context's flag word, ahead of same-beat commit flags. -/
  | flagWordWrite (b : Nat) (n : Nat)
  /-- DSEL_SCORECARD_CLEAR (R350). A dsel write with bit 8 clears the selected context's scorecard. -/
  | dselScorecardClear (b : Nat)
  /-- SCORECARD_LATCH (R352). A read of register 0x081 latches all ten scorecard counts. -/
  | scorecardLatch (a : Nat)
  /-- LAYER_CLOCK_LATCH (R354). A read of register 0x0A0 latches the three layer clock counters. -/
  | layerClockLatch (a : Nat)
  /-- TRANSLATION_REGISTER_WRITE (R268). A write to rtab, ptroot or otab, dropping cached translations. -/
  | translationRegisterWrite (b : Nat) (n : Nat)
  /-- DEVICE_REGISTER_WRITE (R364). A window 0xF write to a region's device register, ignored while a launch runs. -/
  | deviceRegisterWrite (off : Nat) (v : Nat)
  /-- FABRIC_ADD (R162). Fabric add of ports a and b by the value rule. -/
  | fAdd (w : Fab)
  /-- FABRIC_SUB (R162). Fabric subtract. -/
  | fSub (w : Fab)
  /-- NEG (R162). Fabric negate. -/
  | fNeg (w : Fab)
  /-- ABS (R162). Fabric absolute value. -/
  | fAbs (w : Fab)
  /-- ABSDIFF (R162). Fabric absolute difference. -/
  | fAbsdiff (w : Fab)
  /-- ADDC (R162). Fabric three-operand add with one rounding. -/
  | fAddc (w : Fab)
  /-- FABRIC_MUL (R163). Fabric multiply. -/
  | fMul (w : Fab)
  /-- FMA (R163). Fused multiply-add. -/
  | fFma (w : Fab)
  /-- FMS (R163). Fused multiply-subtract. -/
  | fFms (w : Fab)
  /-- FNMA (R163). Fused negated multiply-add. -/
  | fFnma (w : Fab)
  /-- MULHI (R164). Integer high half of a product. -/
  | fMulhi (w : Fab)
  /-- MULSC (R165). Multiply by a power of two. -/
  | fMulsc (w : Fab)
  /-- CMP_EQ (R166). Compare equal, emitting a predicate train. -/
  | fCmpEq (w : Fab)
  /-- CMP_NE (R166). Compare not equal. -/
  | fCmpNe (w : Fab)
  /-- CMP_LT (R166). Compare less than. -/
  | fCmpLt (w : Fab)
  /-- CMP_LE (R166). Compare less or equal. -/
  | fCmpLe (w : Fab)
  /-- CMP_GT (R166). Compare greater than. -/
  | fCmpGt (w : Fab)
  /-- CMP_GE (R166). Compare greater or equal. -/
  | fCmpGe (w : Fab)
  /-- CMP_MIN (R167). Lane-wise minimum of a and b. -/
  | fCmpMin (w : Fab)
  /-- CMP_MAX (R167). Lane-wise maximum of a and b. -/
  | fCmpMax (w : Fab)
  /-- SIGN (R168). Sign predicate with early decision. -/
  | fSign (w : Fab)
  /-- THR (R168). Threshold predicate against a parameter word. -/
  | fThr (w : Fab)
  /-- CLAMP (R167). Clamp a between bounds b and c. -/
  | fClamp (w : Fab)
  /-- FABRIC_AND (R170). Bitwise and of patterns. -/
  | fAnd (w : Fab)
  /-- FABRIC_OR (R170). Bitwise or of patterns. -/
  | fOr (w : Fab)
  /-- FABRIC_XOR (R170). Bitwise xor of patterns. -/
  | fXor (w : Fab)
  /-- NOT (R170). Complement of a pattern. -/
  | fNot (w : Fab)
  /-- SHL (R171). Shift a pattern left. -/
  | fShl (w : Fab)
  /-- SHR (R171). Logical shift of a pattern right. -/
  | fShr (w : Fab)
  /-- FABRIC_SRA (R171). Arithmetic shift of a pattern right. -/
  | fSra (w : Fab)
  /-- FABRIC_POPC (R170). Count one bits of a pattern. -/
  | fPopc (w : Fab)
  /-- FABRIC_CLZ (R170). Count leading zeros of a pattern. -/
  | fClz (w : Fab)
  /-- BSEL (R170). Bitwise select of a and b under selector c. -/
  | fBsel (w : Fab)
  /-- CVT (R173). Convert lanes to a target format or reinterpret them. -/
  | fCvt (w : Fab)
  /-- RND (R175). Round lanes to their own format, emitting fresh lanes. -/
  | fRnd (w : Fab)
  /-- RESOLVE (R175). Round lanes and emit their pattern as integers. -/
  | fResolve (w : Fab)
  /-- QBLK (R176). Blockwise quantize to a narrow format with chosen scales. -/
  | fQblk (w : Fab)
  /-- DQBLK (R177). Dequantize narrow codes by a scale train. -/
  | fDqblk (w : Fab)
  /-- SAT (R178). Clamp integer lanes to k bits. -/
  | fSat (w : Fab)
  /-- EXP2 (R179). Base-two exponential. -/
  | fExp2 (w : Fab)
  /-- LOG2 (R179). Base-two logarithm. -/
  | fLog2 (w : Fab)
  /-- RCP (R179). Reciprocal. -/
  | fRcp (w : Fab)
  /-- RSQRT (R179). Reciprocal square root. -/
  | fRsqrt (w : Fab)
  /-- SQRT (R179). Square root. -/
  | fSqrt (w : Fab)
  /-- DIV (R179). Division of a by b. -/
  | fDiv (w : Fab)
  /-- SIGM (R179). Logistic sigmoid. -/
  | fSigm (w : Fab)
  /-- TANH (R179). Hyperbolic tangent. -/
  | fTanh (w : Fab)
  /-- SEL (R187). Lane-wise choice of a or b by predicate. -/
  | fSel (w : Fab)
  /-- ROUTE (R187). Send a to target A or B by train decision. -/
  | fRoute (w : Fab)
  /-- MERGE (R187). Pass a or b by train decision, discarding the other. -/
  | fMerge (w : Fab)
  /-- FAN (R188). Copy a train to up to eight consumers. -/
  | fFan (w : Fab)
  /-- FILT (R187). Pack the lanes of a whose predicate is true. -/
  | fFilt (w : Fab)
  /-- GATE (R187). Pass a on true, null on false. -/
  | fGate (w : Fab)
  /-- RED_SUM (R189). Reduce by sum over the instance's trains. -/
  | fRedSum (w : Fab)
  /-- RED_MAX (R189). Reduce by maximum. -/
  | fRedMax (w : Fab)
  /-- RED_MIN (R189). Reduce by minimum. -/
  | fRedMin (w : Fab)
  /-- SCAN (R190). Inclusive prefix across lanes with recurrence carry. -/
  | fScan (w : Fab)
  /-- RECUR (R190). Combine a with the fed-back recurrence train. -/
  | fRecur (w : Fab)
  /-- KEYRED (R191). Reduce runs of equal keys. -/
  | fKeyred (w : Fab)
  /-- FABRIC_LD (R193). Deliver a bound read stream as trains. -/
  | fLd (w : Fab)
  /-- LDT (R194). Deliver a ready tile named by a descriptor. -/
  | fLdt (w : Fab)
  /-- LDRING (R194). Deliver the ring slot at kp and advance kp. -/
  | fLdring (w : Fab)
  /-- LDG (R195). Gather table elements by index lanes. -/
  | fLdg (w : Fab)
  /-- LDVER (R194). Read a tile, repeating until its version words match. -/
  | fLdver (w : Fab)
  /-- FABRIC_ST (R197). Write resolved lanes to a bound write stream. -/
  | fSt (w : Fab)
  /-- STA (R198). Indexed store of lanes into a table. -/
  | fSta (w : Fab)
  /-- STADD (R198). Indexed atomic add of lanes into a table. -/
  | fStadd (w : Fab)
  /-- STMAX (R198). Indexed atomic maximum into a table. -/
  | fStmax (w : Fab)
  /-- STBIN (R200). Append records to bins with an atomic count. -/
  | fStbin (w : Fab)
  /-- PUSH (R201). Push a tag field, entering a loop level. -/
  | fPush (w : Fab)
  /-- POP (R201). Pop a tag field, leaving a loop level. -/
  | fPop (w : Fab)
  /-- INC (R201). Increment a tag field modulo 256. -/
  | fInc (w : Fab)
  /-- EOS (R202). End a stream early when the predicate is true. -/
  | fEos (w : Fab)
  /-- CHK (R201). Check a tag field against a masked expected value. -/
  | fChk (w : Fab)
  /-- CNT (R203). Count data trains or lanes in groups of N. -/
  | fCnt (w : Fab)
  /-- SEQ (R204). Send one token per data train to the matrix or copy node. -/
  | fSeq (w : Fab)
  /-- MARK (R205). Pass trains, optionally forcing tagged sampling. -/
  | fMark (w : Fab)
  /-- BGET (R206). Read a block register into a train. -/
  | fBget (w : Fab)
  /-- ALLOC (R215). Place a tile request on the waiting list and emit its descriptor. -/
  | fAlloc (w : Fab)
  /-- RELEASE (R216). Release one reader of a tile at commit. -/
  | fRelease (w : Fab)
  /-- HANDOFF (R216). Pass a tile's ownership to another context at commit. -/
  | fHandoff (w : Fab)
  /-- MMA (R315). Matrix multiply-accumulate into accumulator columns. -/
  | mMma (o : MxOrder)
  /-- MMA_SP (R318). Matrix multiply with 2:4 sparse A. -/
  | mMmaSp (o : MxOrder)
  /-- MMAC (R319). Join rows to a running product on a bank. -/
  | mMmac (o : MxOrder)
  /-- ACC_CLR (R320). Clear accumulator columns. -/
  | mAccClr (o : MxOrder)
  /-- ACC_RD (R321). Drain accumulator columns to a tile. -/
  | mAccRd (o : MxOrder)
  /-- ACC_RD_FABRIC (R322). Drain accumulator columns as digit trains to an instruction. -/
  | mAccRdFabric (o : MxOrder)
  /-- ACC_RDQ (R323). Drain with blockwise quantization to a tile. -/
  | mAccRdq (o : MxOrder)
  /-- ACC_LD (R324). Load accumulator columns from a tile. -/
  | mAccLd (o : MxOrder)
  /-- MSC_LD (R325). Preload block scales into the scale cache. -/
  | mMscLd (o : MxOrder)
  /-- ORDER_COMPLETION (R313). A matrix order completes and sends its completion token. -/
  | orderCompletion (core : Nat) (bank : Nat)
  /-- LAUNCH_START (R20). An idle control core takes the oldest launch record and starts its program. -/
  | launchStart (r : Nat)
  /-- LAUNCH_END (R22). The launch ends and the status word is written. -/
  | launchEnd (r : Nat)
  /-- TOKEN_DELIVERY (R28). A token reaches its destination network interface and is accepted, spilled or refused. -/
  | tokenDelivery (dst : Nat) (k : Nat)
  /-- FIRE (R32). A ready instance fires as one unit into the pipeline. -/
  | fire (core : Nat) (ctx : Nat) (tag : Nat)
  /-- BEAT_SELECT (R36). Each beat, ready contexts are ordered and advance on their elements. -/
  | beatSelect (core : Nat)
  /-- FALLBACK_RETURN (R150). After the stall, the steering instruction fires with the returned train. -/
  | fallbackReturn (core : Nat) (ctx : Nat)
  /-- CONTEXT_AGED (R38). A context passed over for 4,096 ready beats becomes aged. -/
  | contextAged (core : Nat) (ctx : Nat)
  /-- LATE_OPERAND_ARRIVAL (R35). A response or acknowledge arrives and readies a stalled context. -/
  | lateOperandArrival (core : Nat) (ctx : Nat)
  /-- INSTANCE_COMMIT (R39). An instance commits, making tiles ready and writes and flags visible. -/
  | instanceCommit (core : Nat) (ctx : Nat)
  /-- FRAME_RETIRE (R41). A frame with no open sinks, stores or instances retires. -/
  | frameRetire (core : Nat) (frame : Nat)
  /-- TAKE_TRAP (R132). The control core takes a trap, or escalates it. -/
  | takeTrap (r : Nat)
  /-- WAITING_COMMAND_RESUME (R113). A waiting command completes once what it waits for arrives. -/
  | waitingCommandResume (r : Nat)
  /-- STREAM_START (R117). The dispatcher starts the oldest waiting port entry when the port falls free. -/
  | streamStart (core : Nat) (port : Nat)
  /-- STREAM_ACCESS (R116). A stream's address generator makes its next checked access. -/
  | streamAccess (core : Nat) (port : Nat)
  /-- ALLOC_DEADLOCK (R223). The deadlock watch reaches 65,536 and raises ALLOC-DEADLOCK. -/
  | allocDeadlock (core : Nat)
  /-- SPILL_BANK_MOVE (R224). A spilled register bank leaves an accumulator column before an order uses it. -/
  | spillBankMove (core : Nat) (e : Nat)
  /-- REGISTER_BANK_SWAP (R225). A matched spilled frame swaps banks with a resident frame. -/
  | registerBankSwap (core : Nat) (frame : Nat)
  /-- BANK_HANDOVER (R245). A returned register bank passes to the earliest spilled frame. -/
  | bankHandover (core : Nat) (ctx : Nat)
  /-- FRAME_PARK (R229). In the beat after a frame fault, the frame is parked into a park tile. -/
  | framePark (core : Nat) (frame : Nat)
  /-- FAULT_RECORD_DELIVERY (R234). A fault record reaches the handler subgraph as a token. -/
  | faultRecordDelivery (r : Nat)
  /-- FAULT_MESSAGE (R236). A fault reaches the control core's mailbox and traps it. -/
  | faultMessage (r : Nat)
  /-- VERDICT (R235). A verdict token acts on its parked frame, or is stale. -/
  | verdict (core : Nat)
  /-- RESUMED_REENTRY (R237). Resumed instances re-enter the pipeline once their positions are free. -/
  | resumedReentry (core : Nat) (ctx : Nat)
  /-- PRECISE_STOP (R238). A requested stop lands at the context's next region edge. -/
  | preciseStop (core : Nat) (ctx : Nat)
  /-- COPY_START (R378). A copy reaches the head of its queue and its start checks run. -/
  | copyStart (core : Nat) (cls : Nat)
  /-- COPY_ROUND (R249). A deficit round-robin round issues chunks from the class queues. -/
  | copyRound (core : Nat)
  /-- CHUNK_PERFORMED (R252). A chunk is performed and its phase arrival is made. -/
  | chunkPerformed (core : Nat) (n : Nat)
  /-- COPY_REPLY (R260). A copy reply returns and adjusts the class congestion window. -/
  | copyReply (core : Nat) (cls : Nat) (n : Nat) (marked : Nat)
  /-- MEMORY_REQUEST (R281). A memory node performs a request at its home and answers. -/
  | memoryRequest (core : Nat) (n : Nat)
  /-- PHASE_COMPLETION (R284). A counter's arrivals reach its expectation and the phase advances. -/
  | phaseCompletion (key : Nat)
  /-- ARBITRATION_ROUND (R293). A switch output port sends packets by weighted rounds. -/
  | arbitrationRound (port : Nat)
  /-- PROMOTION (R293). A packet waiting 64 ticks at a hop is promoted. -/
  | promotion (port : Nat) (vc : Nat)
  /-- FLIT_REPLAY (R296). A package-link flit failing its CRC is replayed. -/
  | flitReplay (link : Nat)
  /-- LINK_RETRAIN_FAILURE (R296). A link fails retraining, holding its traffic and telling the application die. -/
  | linkRetrainFailure (link : Nat)
  /-- COLLECTIVE_COMPLETE (R300). A collective's combined result is delivered to the destinations. -/
  | collectiveComplete (r : Nat) (cid : Nat)
  /-- COLL_TIMEOUT (R303). The collective watch reaches collwd and raises COLL-TIMEOUT. -/
  | collTimeout (r : Nat) (cid : Nat)
  /-- DEBUG_HOLD (R302). A debugger halt broadcasts debug-hold and stops contexts at region edges. -/
  | debugHold
  /-- SAVE_PIECE_WRITE (R338). The save engine writes the next piece of an image at its cursor. -/
  | savePieceWrite (core : Nat)
  /-- SAVE_SEAL (R336). Every piece performed, the seal word is written and the slot becomes vacant. -/
  | saveSeal (core : Nat)
  /-- RESTORE_MERGE (R342). A restore restores sections and merges the proof in five steps. -/
  | restoreMerge (core : Nat)
  /-- COLD_RESET (R364). A cold reset clears the device and boots the application die. -/
  | coldReset
  /-- WARM_RESET (R364). A warm reset ends launches and re-runs bring-up. -/
  | warmReset
  /-- RECOVERY_MANIFEST (R360). The recovery loader accepts a manifest on the management port. -/
  | recoveryManifest (m : Manifest)
  /-- ATTESTATION_REPORT (R362). The security block signs an attestation report over a nonce. -/
  | attestationReport (nonce : Nat)
  /-- LANE_REPAIR (R366). A vault's sequencer switches a marginal lane at run time. -/
  | laneRepair (vault : Nat) (lane : Nat) (spare : Nat)
  /-- DVFS_MOVE (R367). Firmware moves a layer's DVFS point between beats. -/
  | dvfsMove (layer : Nat) (mv : Nat)
  /-- THERMAL_THROTTLE (R367). Above 95 °C the layer's point is lowered to its minimum. -/
  | thermalThrottle (layer : Nat) (temp : Nat)
  /-- THERMAL_TRIP (R367). At 105 °C compute power is removed. -/
  | thermalTrip (layer : Nat) (temp : Nat)
  /-- ENDPOINT_DMA (R363). A PCIe endpoint's DMA reaches window 0x8 through the IOMMU. -/
  | endpointDma (wr : Nat) (addr : Nat) (data : List Nat)
  /-- APPLICATION_CORE_ACCESS (R16). An application core accesses device memory through the package root. -/
  | applicationCoreAccess (wr : Nat) (addr : Nat) (data : List Nat)
  /-- APPLICATION_CORE_TOKEN_SEND (R15). An application core of the application die sends a token, such as a launch record to a control core's mailbox, checked at the sender. -/
  | applicationCoreTokenSend (h : Nat) (data : List Nat)
  /-- PACKAGE_LINK_RETRAIN (R296). The link controller on the application die retrains a package link, during which latency bounds do not hold, and the link returns to service. -/
  | packageLinkRetrain (link : Nat)
  /-- DEBUG_HOLD_RELEASE (R302). The debugger releases a halted package, ending its debug-hold broadcast so that paused collective watches count again. -/
  | debugHoldRelease
  deriving DecidableEq, Repr

end Sys2Proof
end

