-- ==== Sys2Proof/WellFormed.lean ====
section
/-! DEFINITION. Which instruction terms stand for an encoding or a happening: every field in the range its table gives. -/
namespace Sys2Proof

/-- The state-register numbers whose `mvts` word is a row of its own: the events register, dsel, the translation
registers and the flag words (R135, R136, R82, R268, R350). -/
def mvtsRow (n : Nat) : Bool :=
  n == 0x033 || n == 0x080 || (0x050 ≤ n && n < 0x059) || (0x100 ≤ n && n < 0x140)

/-- The field ranges of Table 3.5: modes 110 and 111 and a zero accept mask are refused. -/
def Fab.wf (w : Fab) : Bool :=
  w.width < 4 && w.mode < 6 && 1 ≤ w.accept && w.accept < 256 && w.ta < 512 && w.tb < 512 &&
  w.lsid < 32 && w.delay < 16 && w.pred < 4 && w.imm < 4096

/-- The field ranges of Table 3.10. -/
def MxOrder.wf (o : MxOrder) : Bool :=
  o.m1 < 128 && o.n1 < 128 && o.k < 65536 && o.afmt < 8 && o.bfmt < 8 && o.ofmt < 8 && o.mode < 8 && o.accum < 2 &&
  o.bank < 2 && o.base < 256 && o.acoded < 2 && o.bcoded < 2 && o.tofab < 2 && o.atile < 128 && o.aoff < 8192 &&
  o.btile < 128 && o.boff < 8192 && o.dtile < 128 && o.doff < 8192 && o.astile < 128 && o.asoff < 8192 &&
  o.bstile < 128 && o.bsoff < 8192 && o.mtile < 128 && o.moff < 1024 && o.cidx < 32 && o.cport < 4 &&
  o.echo < 2 ^ 64

/-- Well-formed instructions. The to-fabric bit tells the two drains of opcode 4 apart. -/
def Instr.wf : Instr → Bool
  | .add d a b => d < 32 && a < 32 && b < 32
  | .sub d a b => d < 32 && a < 32 && b < 32
  | .and d a b => d < 32 && a < 32 && b < 32
  | .or d a b => d < 32 && a < 32 && b < 32
  | .xor d a b => d < 32 && a < 32 && b < 32
  | .sll d a b => d < 32 && a < 32 && b < 32
  | .srl d a b => d < 32 && a < 32 && b < 32
  | .sra d a b => d < 32 && a < 32 && b < 32
  | .mul d a b => d < 32 && a < 32 && b < 32
  | .mulh d a b => d < 32 && a < 32 && b < 32
  | .mulhn d a b => d < 32 && a < 32 && b < 32
  | .min d a b => d < 32 && a < 32 && b < 32
  | .max d a b => d < 32 && a < 32 && b < 32
  | .minn d a b => d < 32 && a < 32 && b < 32
  | .maxn d a b => d < 32 && a < 32 && b < 32
  | .slt d a b => d < 32 && a < 32 && b < 32
  | .sltn d a b => d < 32 && a < 32 && b < 32
  | .clz d a => d < 32 && a < 32
  | .popc d a => d < 32 && a < 32
  | .addi d a i => d < 32 && a < 32 && i < 65536
  | .andi d a i => d < 32 && a < 32 && i < 65536
  | .ori d a i => d < 32 && a < 32 && i < 65536
  | .xori d a i => d < 32 && a < 32 && i < 65536
  | .slli d a n => d < 32 && a < 32 && n < 64
  | .srli d a n => d < 32 && a < 32 && n < 64
  | .srai d a n => d < 32 && a < 32 && n < 64
  | .lui d i => d < 32 && i < 65536
  | .ldB d a i => d < 32 && a < 32 && i < 65536
  | .ldH d a i => d < 32 && a < 32 && i < 65536
  | .ldW d a i => d < 32 && a < 32 && i < 65536
  | .ldD d a i => d < 32 && a < 32 && i < 65536
  | .ldnB d a i => d < 32 && a < 32 && i < 65536
  | .ldnH d a i => d < 32 && a < 32 && i < 65536
  | .ldnW d a i => d < 32 && a < 32 && i < 65536
  | .stB x a i => x < 32 && a < 32 && i < 65536
  | .stH x a i => x < 32 && a < 32 && i < 65536
  | .stW x a i => x < 32 && a < 32 && i < 65536
  | .stD x a i => x < 32 && a < 32 && i < 65536
  | .amoSwap d a b w sc => d < 32 && a < 32 && b < 32 && w < 2 && sc < 6
  | .amoAdd d a b w sc => d < 32 && a < 32 && b < 32 && w < 2 && sc < 6
  | .amoAnd d a b w sc => d < 32 && a < 32 && b < 32 && w < 2 && sc < 6
  | .amoOr d a b w sc => d < 32 && a < 32 && b < 32 && w < 2 && sc < 6
  | .amoXor d a b w sc => d < 32 && a < 32 && b < 32 && w < 2 && sc < 6
  | .amoMax d a b w sc => d < 32 && a < 32 && b < 32 && w < 2 && sc < 6
  | .amoMin d a b w sc => d < 32 && a < 32 && b < 32 && w < 2 && sc < 6
  | .amoMaxn d a b w sc => d < 32 && a < 32 && b < 32 && w < 2 && sc < 6
  | .amoMinn d a b w sc => d < 32 && a < 32 && b < 32 && w < 2 && sc < 6
  | .amoCas d a b w sc => d < 32 && a < 32 && b < 32 && w < 2 && sc < 6
  | .fence sc => sc < 6
  | .beq a b o => a < 32 && b < 32 && o < 65536
  | .bne a b o => a < 32 && b < 32 && o < 65536
  | .blt a b o => a < 32 && b < 32 && o < 65536
  | .bge a b o => a < 32 && b < 32 && o < 65536
  | .bltn a b o => a < 32 && b < 32 && o < 65536
  | .bgen a b o => a < 32 && b < 32 && o < 65536
  | .jal o => o < 2 ^ 26
  | .jalr d a i => d < 32 && a < 32 && i < 65536
  | .loop l c n => l < 4 && c < 32 && 1 ≤ n && n < 1024
  | .lbrk l => l < 4
  | .lcnt d l => d < 32 && l < 4
  | .storeBufferDrain r => r < 256
  | .tsend a b p => a < 32 && b < 32 && p < 32
  | .trecv a b => a < 32 && b < 32
  | .fopen a b core depth ctx => a < 32 && b < 32 && core < 16 && depth < 8 && ctx < 4
  | .fwait a core => a < 32 && core < 16
  | .apset b ap => b < 32 && ap < 16
  | .apmod b f ap => b < 32 && f < 16 && ap < 16
  | .sbind a b port ctx ap => a < 32 && b < 32 && port < 16 && ctx < 4 && ap < 16
  | .sbar a b w => a < 32 && b < 32 && w < 2
  | .sstat a core => a < 32 && core < 16
  | .bload a b ctx => a < 32 && b < 32 && ctx < 4
  | .bdrop a ctx => a < 32 && ctx < 4
  | .lwait => true
  | .talloc a b core ctx => a < 32 && b < 32 && core < 16 && ctx < 4
  | .trel a core pub ctx => a < 32 && core < 16 && pub < 2 && ctx < 4
  | .tstate a b core sel => a < 32 && b < 32 && core < 16 && sel < 2
  | .ringinit a core ring ctx => a < 32 && core < 16 && ring < 16 && ctx < 4
  | .ringwait a core ring ctx => a < 32 && core < 16 && ring < 16 && ctx < 4
  | .ringrel core ring ctx => core < 16 && ring < 16 && ctx < 4
  | .cp b core ctx => b < 32 && core < 16 && ctx < 4
  | .cpg b core ctx => b < 32 && core < 16 && ctx < 4
  | .cps b core ctx => b < 32 && core < 16 && ctx < 4
  | .cpsa b core ctx => b < 32 && core < 16 && ctx < 4
  | .cpm b core ctx => b < 32 && core < 16 && ctx < 4
  | .cpbin b core ctx => b < 32 && core < 16 && ctx < 4
  | .cpcancel a core retry ctx => a < 32 && core < 16 && retry < 2 && ctx < 4
  | .cpq b core => b < 32 && core < 16
  | .pcinit a b core ctx => a < 32 && b < 32 && core < 16 && ctx < 4
  | .pcarrive a b core ctx => a < 32 && b < 32 && core < 16 && ctx < 4
  | .pcexpect a b core ctx => a < 32 && b < 32 && core < 16 && ctx < 4
  | .pcwait a b core ctx => a < 32 && b < 32 && core < 16 && ctx < 4
  | .coll b => b < 32
  | .collwait a => a < 32
  | .cxprio a prio ctx => a < 32 && prio < 8 && ctx < 4
  | .cxpark a ctx => a < 32 && ctx < 4
  | .cxresume a ctx => a < 32 && ctx < 4
  | .cxsave a b core ctx => a < 32 && b < 32 && core < 16 && ctx < 4
  | .cxrest b core ctx => b < 32 && core < 16 && ctx < 4
  | .dvmap b core e => b < 32 && core < 16 && e < 16
  | .dvclr core e => core < 16 && e < 16
  | .renter a b own ctx => a < 32 && b < 32 && own < 2 && ctx < 4
  | .rleave a own ctx => a < 32 && own < 2 && ctx < 4
  | .smark b => b < 32
  | .bkpt b core ctx => b < 32 && core < 16 && ctx < 4
  | .trap k => k < 256
  | .tret => true
  | .mvfs a n => a < 32 && n < 4096 && n != 0x081 && n != 0x0A0
  | .mvts b n => b < 32 && n < 4096 && !mvtsRow n
  | .wfe => true
  | .eventsClear b => b < 32
  | .flagWordWrite b n => b < 32 && 0x100 ≤ n && n < 0x140
  | .dselScorecardClear b => b < 32
  | .scorecardLatch a => a < 32
  | .layerClockLatch a => a < 32
  | .translationRegisterWrite b n => b < 32 && 0x050 ≤ n && n < 0x059
  | .deviceRegisterWrite off v => off < 2 ^ 60 && v < 2 ^ 64
  | .fAdd w => w.wf
  | .fSub w => w.wf
  | .fNeg w => w.wf
  | .fAbs w => w.wf
  | .fAbsdiff w => w.wf
  | .fAddc w => w.wf
  | .fMul w => w.wf
  | .fFma w => w.wf
  | .fFms w => w.wf
  | .fFnma w => w.wf
  | .fMulhi w => w.wf
  | .fMulsc w => w.wf
  | .fCmpEq w => w.wf
  | .fCmpNe w => w.wf
  | .fCmpLt w => w.wf
  | .fCmpLe w => w.wf
  | .fCmpGt w => w.wf
  | .fCmpGe w => w.wf
  | .fCmpMin w => w.wf
  | .fCmpMax w => w.wf
  | .fSign w => w.wf
  | .fThr w => w.wf
  | .fClamp w => w.wf
  | .fAnd w => w.wf
  | .fOr w => w.wf
  | .fXor w => w.wf
  | .fNot w => w.wf
  | .fShl w => w.wf
  | .fShr w => w.wf
  | .fSra w => w.wf
  | .fPopc w => w.wf
  | .fClz w => w.wf
  | .fBsel w => w.wf
  | .fCvt w => w.wf
  | .fRnd w => w.wf
  | .fResolve w => w.wf
  | .fQblk w => w.wf
  | .fDqblk w => w.wf
  | .fSat w => w.wf
  | .fExp2 w => w.wf
  | .fLog2 w => w.wf
  | .fRcp w => w.wf
  | .fRsqrt w => w.wf
  | .fSqrt w => w.wf
  | .fDiv w => w.wf
  | .fSigm w => w.wf
  | .fTanh w => w.wf
  | .fSel w => w.wf
  | .fRoute w => w.wf
  | .fMerge w => w.wf
  | .fFan w => w.wf
  | .fFilt w => w.wf
  | .fGate w => w.wf
  | .fRedSum w => w.wf
  | .fRedMax w => w.wf
  | .fRedMin w => w.wf
  | .fScan w => w.wf
  | .fRecur w => w.wf
  | .fKeyred w => w.wf
  | .fLd w => w.wf
  | .fLdt w => w.wf
  | .fLdring w => w.wf
  | .fLdg w => w.wf
  | .fLdver w => w.wf
  | .fSt w => w.wf
  | .fSta w => w.wf
  | .fStadd w => w.wf
  | .fStmax w => w.wf
  | .fStbin w => w.wf
  | .fPush w => w.wf
  | .fPop w => w.wf
  | .fInc w => w.wf
  | .fEos w => w.wf
  | .fChk w => w.wf
  | .fCnt w => w.wf
  | .fSeq w => w.wf
  | .fMark w => w.wf
  | .fBget w => w.wf
  | .fAlloc w => w.wf
  | .fRelease w => w.wf
  | .fHandoff w => w.wf
  | .mMma o => o.wf
  | .mMmaSp o => o.wf
  | .mMmac o => o.wf
  | .mAccClr o => o.wf
  | .mAccRd o => o.wf && o.tofab == 0
  | .mAccRdFabric o => o.wf && o.tofab == 1
  | .mAccRdq o => o.wf
  | .mAccLd o => o.wf
  | .mMscLd o => o.wf
  | .orderCompletion core bank => core < 4096 && bank < 3
  | .launchStart r => r < 256
  | .launchEnd r => r < 256
  | .tokenDelivery dst _ => dst < 4352 || dst == 8192 || (20480 ≤ dst && dst < 40960)
  | .fire core ctx tag => core < 4096 && ctx < 4 && tag < 2 ^ 64
  | .beatSelect core => core < 4096
  | .fallbackReturn core ctx => core < 4096 && ctx < 4
  | .contextAged core ctx => core < 4096 && ctx < 4
  | .lateOperandArrival core ctx => core < 4096 && ctx < 4
  | .instanceCommit core ctx => core < 4096 && ctx < 4
  | .frameRetire core frame => core < 4096 && frame < 256
  | .takeTrap r => r < 256
  | .waitingCommandResume r => r < 256
  | .streamStart core port => core < 4096 && port < 16
  | .streamAccess core port => core < 4096 && port < 16
  | .allocDeadlock core => core < 4096
  | .spillBankMove core e => core < 4096 && e < 32
  | .registerBankSwap core frame => core < 4096 && frame < 256
  | .bankHandover core ctx => core < 4096 && ctx < 4
  | .framePark core frame => core < 4096 && frame < 256
  | .faultRecordDelivery r => r < 256
  | .faultMessage r => r < 256
  | .verdict core => core < 4096
  | .resumedReentry core ctx => core < 4096 && ctx < 4
  | .preciseStop core ctx => core < 4096 && ctx < 4
  | .copyStart core cls => core < 4096 && cls < 4
  | .copyRound core => core < 4096
  | .chunkPerformed core _ => core < 4096
  | .copyReply core cls _ marked => core < 4096 && cls < 4 && marked < 2
  | .memoryRequest core _ => core < 4096
  | .phaseCompletion _ => true
  | .arbitrationRound _ => true
  | .promotion _ vc => vc < 8
  | .flitReplay link => link < 16
  | .linkRetrainFailure link => link < 16
  | .collectiveComplete r cid => r < 256 && cid < 256
  | .collTimeout r cid => r < 256 && cid < 256
  | .debugHold => true
  | .savePieceWrite core => core < 4096
  | .saveSeal core => core < 4096
  | .restoreMerge core => core < 4096
  | .coldReset => true
  | .warmReset => true
  | .recoveryManifest _ => true
  | .attestationReport nonce => nonce < 2 ^ 256
  | .laneRepair vault lane spare => vault < 4096 && lane < 256 && spare < 16
  | .dvfsMove layer _ => layer < 8
  | .thermalThrottle layer _ => layer < 8
  | .thermalTrip layer _ => layer < 8
  | .endpointDma wr addr data => wr < 2 && addr < 2 ^ 64 && data.all (· < 256)
  | .applicationCoreAccess wr addr data => wr < 2 && addr < 2 ^ 64 && data.all (· < 256)
  | .applicationCoreTokenSend h data => h < 2 ^ 128 && data.all (· < 256)
  | .packageLinkRetrain link => link < 16
  | .debugHoldRelease => true

end Sys2Proof
end

