-- ==== Sys2Proof/Decode.lean ====
section
/-! DEFINITION. Decoding of the three binary kinds (R45-R55), total on any bytes, and the encoder from the same tables. -/
namespace Sys2Proof

/-- Why bytes are no instruction. -/
inductive DecodeError where
  /-- fewer bytes than the word needs -/
  | truncated
  /-- a reserved major opcode (R46) -/
  | reservedMajor
  /-- a func value no table lists (R47, R48) -/
  | reservedFunc
  /-- a nonzero bit in a field marked zero or unused (R45) -/
  | nonzeroField
  /-- an atomic operation code 10 to 15 (R47) -/
  | reservedAtomic
  /-- a scope code 6 or 7 (R47) -/
  | reservedScope
  /-- a loop word with a body length of 0 (R46) -/
  | emptyLoopBody
  /-- a fabric kind 12 to 15 or a subop no table lists (R51) -/
  | reservedFabric
  /-- a fabric mode 110 or 111 (R49) -/
  | reservedMode
  /-- a zero accept mask (R52) -/
  | emptyAccept
  /-- a matrix opcode 8 to 15 (R55) -/
  | reservedOrder
  deriving DecidableEq, Repr

/-- The three binary kinds of the device (03, opening). -/
inductive WordKind where
  | control
  | fabric
  | order
  deriving DecidableEq, Repr

/-- The bytes a word of a kind takes (R45, R49, R54). -/
def WordKind.bytes : WordKind → Nat
  | .control => 4
  | .fabric => 8
  | .order => 32

/-- The field of `n` bits whose lowest bit is `lo`. -/
def fieldOf (w lo n : Nat) : Nat := w / 2 ^ lo % 2 ^ n

/-- The number whose bytes, lowest address first, are `bs` (R3). -/
def leNat : List Nat → Nat
  | [] => 0
  | b :: bs => b + 256 * leNat bs

/-- The `n` bytes of a number, lowest address first (R3). -/
def leBytes : Nat → Nat → List Nat
  | 0, _ => []
  | n + 1, w => w % 256 :: leBytes n (w / 256)

/-- Answer `i` if every bit of `z` is zero. -/
def ifZero (z : Nat) (i : Instr) : Except DecodeError Instr :=
  if z = 0 then .ok i else .error .nonzeroField

/-- Major 0x01 (Table 3.3). -/
def decodeQ (d a b func : Nat) : Except DecodeError Instr :=
  match func with
  | 0x000 => .ok (.add d a b)
  | 0x001 => .ok (.sub d a b)
  | 0x002 => .ok (.and d a b)
  | 0x003 => .ok (.or d a b)
  | 0x004 => .ok (.xor d a b)
  | 0x005 => .ok (.sll d a b)
  | 0x006 => .ok (.srl d a b)
  | 0x007 => .ok (.sra d a b)
  | 0x008 => .ok (.mul d a b)
  | 0x009 => .ok (.mulh d a b)
  | 0x00A => .ok (.mulhn d a b)
  | 0x00B => .ok (.min d a b)
  | 0x00C => .ok (.max d a b)
  | 0x00D => .ok (.minn d a b)
  | 0x00E => .ok (.maxn d a b)
  | 0x00F => .ok (.slt d a b)
  | 0x010 => .ok (.sltn d a b)
  | 0x011 => ifZero b (.clz d a)
  | 0x012 => ifZero b (.popc d a)
  | _ => .error .reservedFunc

/-- Major 0x15: an atomic (R47). -/
def decodeAmo (d a b func : Nat) : Except DecodeError Instr :=
  let w := fieldOf func 6 1
  let sc := fieldOf func 3 3
  if fieldOf func 0 3 ≠ 0 then .error .nonzeroField
  else if 6 ≤ sc then .error .reservedScope
  else match fieldOf func 7 4 with
    | 0 => .ok (.amoSwap d a b w sc)
    | 1 => .ok (.amoAdd d a b w sc)
    | 2 => .ok (.amoAnd d a b w sc)
    | 3 => .ok (.amoOr d a b w sc)
    | 4 => .ok (.amoXor d a b w sc)
    | 5 => .ok (.amoMax d a b w sc)
    | 6 => .ok (.amoMin d a b w sc)
    | 7 => .ok (.amoMaxn d a b w sc)
    | 8 => .ok (.amoMinn d a b w sc)
    | 9 => .ok (.amoCas d a b w sc)
    | _ => .error .reservedAtomic

/-- The state-register read of number `n`; two numbers are latching rows of their own (R352, R354). -/
def decodeMvfs (a n : Nat) : Instr :=
  if n = 0x081 then .scorecardLatch a else if n = 0x0A0 then .layerClockLatch a else .mvfs a n

/-- The state-register write of number `n`; some numbers are rows of their own (R136, R350, R268, R82). -/
def decodeMvts (b n : Nat) : Instr :=
  if n = 0x033 then .eventsClear b
  else if n = 0x080 then .dselScorecardClear b
  else if 0x050 ≤ n ∧ n < 0x059 then .translationRegisterWrite b n
  else if 0x100 ≤ n ∧ n < 0x140 then .flagWordWrite b n
  else .mvts b n

/-- The command groups, majors 0x22 to 0x2B (Tables 3.4, 6.1, 14.3, 16.7, 17.4, 21.2, 23.7). `f` is func [11:8], `g`
is func [7:0]; each arm answers only if the bits its table does not name are zero. -/
def decodeC (major a b aux f g : Nat) : Except DecodeError Instr :=
  let ctx := fieldOf g 0 2
  match major with
  | 0x22 => match f with
    | 0 => ifZero (aux + fieldOf g 5 3) (.tsend a b (fieldOf g 0 5))
    | 1 => ifZero (aux + g) (.trecv a b)
    | 2 => ifZero (fieldOf g 5 3) (.fopen a b aux (fieldOf g 2 3) ctx)
    | 3 => ifZero (b + g) (.fwait a aux)
    | _ => .error .reservedFunc
  | 0x23 => match f with
    | 0 => ifZero (a + aux + fieldOf g 4 4) (.apset b (fieldOf g 0 4))
    | 1 => ifZero (a + fieldOf g 4 4) (.apmod b aux (fieldOf g 0 4))
    | 2 => ifZero (fieldOf g 6 2) (.sbind a b aux (fieldOf g 4 2) (fieldOf g 0 4))
    | 3 => ifZero (aux + fieldOf g 1 7) (.sbar a b (fieldOf g 0 1))
    | 4 => ifZero (b + g) (.sstat a aux)
    | _ => .error .reservedFunc
  | 0x24 => match f with
    | 0 => ifZero (aux + fieldOf g 2 6) (.bload a b ctx)
    | 1 => ifZero (b + aux + fieldOf g 2 6) (.bdrop a ctx)
    | 2 => ifZero (a + b + aux + g) .lwait
    | _ => .error .reservedFunc
  | 0x25 => match f with
    | 0 => ifZero (fieldOf g 2 6) (.talloc a b aux ctx)
    | 1 => ifZero (b + fieldOf g 3 5) (.trel a aux (fieldOf g 2 1) ctx)
    | 2 => ifZero (fieldOf g 0 2 + fieldOf g 3 5) (.tstate a b aux (fieldOf g 2 1))
    | 3 => ifZero (b + fieldOf g 2 2) (.ringinit a aux (fieldOf g 4 4) ctx)
    | 4 => ifZero (b + fieldOf g 2 2) (.ringwait a aux (fieldOf g 4 4) ctx)
    | 5 => ifZero (a + b + fieldOf g 2 2) (.ringrel aux (fieldOf g 4 4) ctx)
    | _ => .error .reservedFunc
  | 0x26 => match f with
    | 0 => ifZero (a + fieldOf g 2 6) (.cp b aux ctx)
    | 1 => ifZero (a + fieldOf g 2 6) (.cpg b aux ctx)
    | 2 => ifZero (a + fieldOf g 2 6) (.cps b aux ctx)
    | 3 => ifZero (a + fieldOf g 2 6) (.cpsa b aux ctx)
    | 4 => ifZero (a + fieldOf g 2 6) (.cpm b aux ctx)
    | 5 => ifZero (a + fieldOf g 2 6) (.cpbin b aux ctx)
    | 6 => ifZero (b + fieldOf g 3 5) (.cpcancel a aux (fieldOf g 2 1) ctx)
    | 7 => ifZero (a + g) (.cpq b aux)
    | _ => .error .reservedFunc
  | 0x27 => match f with
    | 0 => ifZero (fieldOf g 2 6) (.pcinit a b aux ctx)
    | 1 => ifZero (fieldOf g 2 6) (.pcarrive a b aux ctx)
    | 2 => ifZero (fieldOf g 2 6) (.pcexpect a b aux ctx)
    | 3 => ifZero (fieldOf g 2 6) (.pcwait a b aux ctx)
    | _ => .error .reservedFunc
  | 0x28 => match f with
    | 0 => ifZero (a + aux + g) (.coll b)
    | 1 => ifZero (b + aux + g) (.collwait a)
    | _ => .error .reservedFunc
  | 0x29 => match f with
    | 0 => ifZero (b + aux + fieldOf g 5 3) (.cxprio a (fieldOf g 2 3) ctx)
    | 1 => ifZero (b + aux + fieldOf g 2 6) (.cxpark a ctx)
    | 2 => ifZero (b + aux + fieldOf g 2 6) (.cxresume a ctx)
    | 3 => ifZero (fieldOf g 2 6) (.cxsave a b aux ctx)
    | 4 => ifZero (a + fieldOf g 2 6) (.cxrest b aux ctx)
    | 5 => ifZero (a + fieldOf g 4 4) (.dvmap b aux (fieldOf g 0 4))
    | 6 => ifZero (a + b + fieldOf g 4 4) (.dvclr aux (fieldOf g 0 4))
    | _ => .error .reservedFunc
  | 0x2A => match f with
    | 0 => ifZero (aux + fieldOf g 2 2 + fieldOf g 5 3) (.renter a b (fieldOf g 4 1) ctx)
    | 1 => ifZero (b + aux + fieldOf g 2 2 + fieldOf g 5 3) (.rleave a (fieldOf g 4 1) ctx)
    | 2 => ifZero (a + aux + g) (.smark b)
    | 3 => ifZero (a + fieldOf g 2 6) (.bkpt b aux ctx)
    | _ => .error .reservedFunc
  | 0x2B => match f with
    | 0 => ifZero (a + b + aux) (.trap g)
    | 1 => ifZero (a + b + aux + g) .tret
    | 2 => ifZero b (decodeMvfs a (256 * aux + g))
    | 3 => ifZero a (decodeMvts b (256 * aux + g))
    | 4 => ifZero (a + b + aux + g) .wfe
    | _ => .error .reservedFunc
  | _ => .error .reservedMajor

/-- A control-core word (R45, R46). -/
def decodeControl (w : Nat) : Except DecodeError Instr :=
  let d := fieldOf w 21 5
  let a := fieldOf w 16 5
  let b := fieldOf w 11 5
  let i := fieldOf w 0 16
  match fieldOf w 26 6 with
  | 0x01 => decodeQ d a b (fieldOf w 0 11)
  | 0x02 => .ok (.addi d a i)
  | 0x03 => .ok (.andi d a i)
  | 0x04 => .ok (.ori d a i)
  | 0x05 => .ok (.xori d a i)
  | 0x06 => ifZero (fieldOf w 6 10) (.slli d a (fieldOf w 0 6))
  | 0x07 => ifZero (fieldOf w 6 10) (.srli d a (fieldOf w 0 6))
  | 0x08 => ifZero (fieldOf w 6 10) (.srai d a (fieldOf w 0 6))
  | 0x09 => ifZero a (.lui d i)
  | 0x0A => .ok (.ldB d a i)
  | 0x0B => .ok (.ldH d a i)
  | 0x0C => .ok (.ldW d a i)
  | 0x0D => .ok (.ldD d a i)
  | 0x0E => .ok (.ldnB d a i)
  | 0x0F => .ok (.ldnH d a i)
  | 0x10 => .ok (.ldnW d a i)
  | 0x11 => .ok (.stB d a i)
  | 0x12 => .ok (.stH d a i)
  | 0x13 => .ok (.stW d a i)
  | 0x14 => .ok (.stD d a i)
  | 0x15 => decodeAmo d a b (fieldOf w 0 11)
  | 0x16 =>
    if fieldOf w 3 23 ≠ 0 then .error .nonzeroField
    else if 6 ≤ fieldOf w 0 3 then .error .reservedScope
    else .ok (.fence (fieldOf w 0 3))
  | 0x17 => .ok (.beq d a i)
  | 0x18 => .ok (.bne d a i)
  | 0x19 => .ok (.blt d a i)
  | 0x1A => .ok (.bge d a i)
  | 0x1B => .ok (.bltn d a i)
  | 0x1C => .ok (.bgen d a i)
  | 0x1D => .ok (.jal (fieldOf w 0 26))
  | 0x1E => .ok (.jalr d a i)
  | 0x1F =>
    if fieldOf w 0 9 ≠ 0 then .error .nonzeroField
    else if fieldOf w 9 10 = 0 then .error .emptyLoopBody
    else .ok (.loop (fieldOf w 24 2) (fieldOf w 19 5) (fieldOf w 9 10))
  | 0x20 => ifZero (fieldOf w 0 24) (.lbrk (fieldOf w 24 2))
  | 0x21 => ifZero (a + fieldOf w 2 14) (.lcnt d (fieldOf w 0 2))
  | m => decodeC m d a (fieldOf w 12 4) (fieldOf w 8 4) (fieldOf w 0 8)

/-- The fields of a fabric word beside its kind and subop (Table 3.5). -/
def fabOf (w : Nat) : Fab :=
  { width := fieldOf w 52 2, mode := fieldOf w 49 3, accept := fieldOf w 41 8, ta := fieldOf w 32 9,
    tb := fieldOf w 23 9, lsid := fieldOf w 18 5, delay := fieldOf w 14 4, pred := fieldOf w 12 2,
    imm := fieldOf w 0 12 }

/-- The instruction of a fabric kind and subop (Table 3.7). -/
def fabricInstr (kind sub : Nat) (w : Fab) : Option Instr :=
  match kind with
  | 0 => match sub with
    | 0 => some (.fAdd w) | 1 => some (.fSub w) | 2 => some (.fNeg w) | 3 => some (.fAbs w)
    | 4 => some (.fAbsdiff w) | 5 => some (.fAddc w) | _ => none
  | 1 => match sub with
    | 0 => some (.fMul w) | 1 => some (.fFma w) | 2 => some (.fFms w) | 3 => some (.fFnma w)
    | 4 => some (.fMulhi w) | 5 => some (.fMulsc w) | _ => none
  | 2 => match sub with
    | 0 => some (.fCmpEq w) | 1 => some (.fCmpNe w) | 2 => some (.fCmpLt w) | 3 => some (.fCmpLe w)
    | 4 => some (.fCmpGt w) | 5 => some (.fCmpGe w) | 8 => some (.fCmpMin w) | 9 => some (.fCmpMax w)
    | 10 => some (.fSign w) | 11 => some (.fThr w) | 12 => some (.fClamp w) | _ => none
  | 3 => match sub with
    | 0 => some (.fAnd w) | 1 => some (.fOr w) | 2 => some (.fXor w) | 3 => some (.fNot w) | 4 => some (.fShl w)
    | 5 => some (.fShr w) | 6 => some (.fSra w) | 7 => some (.fPopc w) | 8 => some (.fClz w)
    | 9 => some (.fBsel w) | _ => none
  | 4 => match sub with
    | 0 => some (.fCvt w) | 1 => some (.fRnd w) | 2 => some (.fResolve w) | 3 => some (.fQblk w)
    | 4 => some (.fDqblk w) | 5 => some (.fSat w) | _ => none
  | 5 => match sub with
    | 0 => some (.fExp2 w) | 1 => some (.fLog2 w) | 2 => some (.fRcp w) | 3 => some (.fRsqrt w)
    | 4 => some (.fSqrt w) | 5 => some (.fDiv w) | 6 => some (.fSigm w) | 7 => some (.fTanh w) | _ => none
  | 6 => match sub with
    | 0 => some (.fSel w) | 1 => some (.fRoute w) | 2 => some (.fMerge w) | 3 => some (.fFan w)
    | 4 => some (.fFilt w) | 5 => some (.fGate w) | _ => none
  | 7 => match sub with
    | 0 => some (.fRedSum w) | 1 => some (.fRedMax w) | 2 => some (.fRedMin w) | 3 => some (.fScan w)
    | 4 => some (.fRecur w) | 5 => some (.fKeyred w) | _ => none
  | 8 => match sub with
    | 0 => some (.fLd w) | 1 => some (.fLdt w) | 2 => some (.fLdring w) | 3 => some (.fLdg w)
    | 4 => some (.fLdver w) | _ => none
  | 9 => match sub with
    | 0 => some (.fSt w) | 1 => some (.fSta w) | 2 => some (.fStadd w) | 3 => some (.fStmax w)
    | 4 => some (.fStbin w) | _ => none
  | 10 => match sub with
    | 0 => some (.fPush w) | 1 => some (.fPop w) | 2 => some (.fInc w) | 3 => some (.fEos w) | 4 => some (.fChk w)
    | 5 => some (.fCnt w) | 6 => some (.fSeq w) | 7 => some (.fMark w) | 8 => some (.fBget w) | _ => none
  | 11 => match sub with
    | 0 => some (.fAlloc w) | 1 => some (.fRelease w) | 2 => some (.fHandoff w) | _ => none
  | _ => none

/-- A fabric word (R49, R51, R52). -/
def decodeFabric (w : Nat) : Except DecodeError Instr :=
  match fabricInstr (fieldOf w 60 4) (fieldOf w 54 6) (fabOf w) with
  | none => .error .reservedFabric
  | some i =>
    if 6 ≤ fieldOf w 49 3 then .error .reservedMode
    else if fieldOf w 41 8 = 0 then .error .emptyAccept
    else .ok i

/-- The fields of a matrix order whose four words, o0 lowest, are the number `w` (Table 3.10). -/
def orderFields (w : Nat) : MxOrder :=
  { m1 := fieldOf w 53 7, n1 := fieldOf w 46 7, k := fieldOf w 30 16, afmt := fieldOf w 27 3, bfmt := fieldOf w 24 3,
    ofmt := fieldOf w 21 3, mode := fieldOf w 18 3, accum := fieldOf w 17 1, bank := fieldOf w 16 1,
    base := fieldOf w 8 8, acoded := fieldOf w 6 1, bcoded := fieldOf w 5 1, tofab := fieldOf w 4 1,
    atile := fieldOf w 121 7, aoff := fieldOf w 108 13, btile := fieldOf w 101 7, boff := fieldOf w 88 13,
    dtile := fieldOf w 81 7, doff := fieldOf w 68 13, astile := fieldOf w 185 7, asoff := fieldOf w 172 13,
    bstile := fieldOf w 165 7, bsoff := fieldOf w 152 13, mtile := fieldOf w 145 7, moff := fieldOf w 135 10,
    cidx := fieldOf w 130 5, cport := fieldOf w 128 2, echo := fieldOf w 192 64 }

/-- A matrix order (R54, R55). Reserved bits are ignored by R5. -/
def decodeOrder (w : Nat) : Except DecodeError Instr :=
  let o := orderFields w
  match fieldOf w 60 4 with
  | 0 => .ok (.mMma o)
  | 1 => .ok (.mMmaSp o)
  | 2 => .ok (.mMmac o)
  | 3 => .ok (.mAccClr o)
  | 4 => if o.tofab = 1 then .ok (.mAccRdFabric o) else .ok (.mAccRd o)
  | 5 => .ok (.mAccRdq o)
  | 6 => .ok (.mAccLd o)
  | 7 => .ok (.mMscLd o)
  | _ => .error .reservedOrder

/-- Decode a word of a kind from its number. -/
def decodeWord : WordKind → Nat → Except DecodeError Instr
  | .control, w => decodeControl w
  | .fabric, w => decodeFabric w
  | .order, w => decodeOrder w

/-- Decode one instruction from bytes, lowest address first, and answer it with the bytes that follow. -/
def decode (k : WordKind) (bs : List Nat) : Except DecodeError (Instr × List Nat) :=
  if bs.length < k.bytes then .error .truncated
  else match decodeWord k (leNat (bs.take k.bytes)) with
    | .ok i => .ok (i, bs.drop k.bytes)
    | .error e => .error e

/-- The word kind that holds a table row of `nbits` bits. -/
def kindOfBits (nbits : Nat) : WordKind :=
  if nbits ≤ 32 then .control else if nbits ≤ 64 then .fabric else .order

/-- The instruction this decoder reads from the table word `w` of `nbits` bits, laid out in memory little-endian. -/
def decodeTableWord (nbits w : Nat) : Option Instr :=
  match decode (kindOfBits nbits) (leBytes (kindOfBits nbits).bytes w) with
  | .ok (i, _) => some i
  | .error _ => none

/-! The encoder, from the same tables. -/

def encQ (d a b func : Nat) : Nat := 0x04000000 + 2 ^ 21 * d + 2 ^ 16 * a + 2 ^ 11 * b + func

def encI (major d a i : Nat) : Nat := 2 ^ 26 * major + 2 ^ 21 * d + 2 ^ 16 * a + i

def encAmo (op d a b w sc : Nat) : Nat :=
  0x54000000 + 2 ^ 21 * d + 2 ^ 16 * a + 2 ^ 11 * b + 2 ^ 7 * op + 2 ^ 6 * w + 2 ^ 3 * sc

def encC (major a b aux f g : Nat) : Nat := 2 ^ 26 * major + 2 ^ 21 * a + 2 ^ 16 * b + 2 ^ 12 * aux + 2 ^ 8 * f + g

def encFab (kind sub : Nat) (w : Fab) : Nat :=
  2 ^ 60 * kind + 2 ^ 54 * sub + 2 ^ 52 * w.width + 2 ^ 49 * w.mode + 2 ^ 41 * w.accept + 2 ^ 32 * w.ta +
  2 ^ 23 * w.tb + 2 ^ 18 * w.lsid + 2 ^ 14 * w.delay + 2 ^ 12 * w.pred + w.imm

def encOrder (op : Nat) (o : MxOrder) : Nat :=
  2 ^ 192 * o.echo +
  2 ^ 185 * o.astile + 2 ^ 172 * o.asoff + 2 ^ 165 * o.bstile + 2 ^ 152 * o.bsoff + 2 ^ 145 * o.mtile +
  2 ^ 135 * o.moff + 2 ^ 130 * o.cidx + 2 ^ 128 * o.cport +
  2 ^ 121 * o.atile + 2 ^ 108 * o.aoff + 2 ^ 101 * o.btile + 2 ^ 88 * o.boff + 2 ^ 81 * o.dtile + 2 ^ 68 * o.doff +
  2 ^ 60 * op + 2 ^ 53 * o.m1 + 2 ^ 46 * o.n1 + 2 ^ 30 * o.k + 2 ^ 27 * o.afmt + 2 ^ 24 * o.bfmt + 2 ^ 21 * o.ofmt +
  2 ^ 18 * o.mode + 2 ^ 17 * o.accum + 2 ^ 16 * o.bank + 2 ^ 8 * o.base + 2 ^ 6 * o.acoded + 2 ^ 5 * o.bcoded +
  2 ^ 4 * o.tofab

/-- The word of an instruction and its kind; the machine's own events have no encoding. -/
def encodeWord : Instr → Option (WordKind × Nat)
  | .add d a b => some (.control, encQ d a b 0x0)
  | .sub d a b => some (.control, encQ d a b 0x1)
  | .and d a b => some (.control, encQ d a b 0x2)
  | .or d a b => some (.control, encQ d a b 0x3)
  | .xor d a b => some (.control, encQ d a b 0x4)
  | .sll d a b => some (.control, encQ d a b 0x5)
  | .srl d a b => some (.control, encQ d a b 0x6)
  | .sra d a b => some (.control, encQ d a b 0x7)
  | .mul d a b => some (.control, encQ d a b 0x8)
  | .mulh d a b => some (.control, encQ d a b 0x9)
  | .mulhn d a b => some (.control, encQ d a b 0xa)
  | .min d a b => some (.control, encQ d a b 0xb)
  | .max d a b => some (.control, encQ d a b 0xc)
  | .minn d a b => some (.control, encQ d a b 0xd)
  | .maxn d a b => some (.control, encQ d a b 0xe)
  | .slt d a b => some (.control, encQ d a b 0xf)
  | .sltn d a b => some (.control, encQ d a b 0x10)
  | .clz d a => some (.control, encQ d a 0 0x11)
  | .popc d a => some (.control, encQ d a 0 0x12)
  | .addi d a i => some (.control, encI 0x2 d a i)
  | .andi d a i => some (.control, encI 0x3 d a i)
  | .ori d a i => some (.control, encI 0x4 d a i)
  | .xori d a i => some (.control, encI 0x5 d a i)
  | .slli d a n => some (.control, encI 6 d a n)
  | .srli d a n => some (.control, encI 7 d a n)
  | .srai d a n => some (.control, encI 8 d a n)
  | .lui d i => some (.control, encI 0x09 d 0 i)
  | .ldB d a i => some (.control, encI 0xa d a i)
  | .ldH d a i => some (.control, encI 0xb d a i)
  | .ldW d a i => some (.control, encI 0xc d a i)
  | .ldD d a i => some (.control, encI 0xd d a i)
  | .ldnB d a i => some (.control, encI 0xe d a i)
  | .ldnH d a i => some (.control, encI 0xf d a i)
  | .ldnW d a i => some (.control, encI 0x10 d a i)
  | .stB x a i => some (.control, encI 0x11 x a i)
  | .stH x a i => some (.control, encI 0x12 x a i)
  | .stW x a i => some (.control, encI 0x13 x a i)
  | .stD x a i => some (.control, encI 0x14 x a i)
  | .amoSwap d a b w sc => some (.control, encAmo 0 d a b w sc)
  | .amoAdd d a b w sc => some (.control, encAmo 1 d a b w sc)
  | .amoAnd d a b w sc => some (.control, encAmo 2 d a b w sc)
  | .amoOr d a b w sc => some (.control, encAmo 3 d a b w sc)
  | .amoXor d a b w sc => some (.control, encAmo 4 d a b w sc)
  | .amoMax d a b w sc => some (.control, encAmo 5 d a b w sc)
  | .amoMin d a b w sc => some (.control, encAmo 6 d a b w sc)
  | .amoMaxn d a b w sc => some (.control, encAmo 7 d a b w sc)
  | .amoMinn d a b w sc => some (.control, encAmo 8 d a b w sc)
  | .amoCas d a b w sc => some (.control, encAmo 9 d a b w sc)
  | .fence sc => some (.control, encI 0x16 0 0 sc)
  | .beq a b o => some (.control, encI 0x17 a b o)
  | .bne a b o => some (.control, encI 0x18 a b o)
  | .blt a b o => some (.control, encI 0x19 a b o)
  | .bge a b o => some (.control, encI 0x1a a b o)
  | .bltn a b o => some (.control, encI 0x1b a b o)
  | .bgen a b o => some (.control, encI 0x1c a b o)
  | .jal o => some (.control, 2 ^ 26 * 0x1D + o)
  | .jalr d a i => some (.control, encI 0x1e d a i)
  | .loop l c n => some (.control, 2 ^ 26 * 0x1F + 2 ^ 24 * l + 2 ^ 19 * c + 2 ^ 9 * n)
  | .lbrk l => some (.control, 2 ^ 26 * 0x20 + 2 ^ 24 * l)
  | .lcnt d l => some (.control, encI 0x21 d 0 l)
  | .storeBufferDrain _ => none
  | .tsend a b p => some (.control, encC 0x22 a b 0 0 p)
  | .trecv a b => some (.control, encC 0x22 a b 0 1 0)
  | .fopen a b core depth ctx => some (.control, encC 0x22 a b core 2 (4 * depth + ctx))
  | .fwait a core => some (.control, encC 0x22 a 0 core 3 0)
  | .apset b ap => some (.control, encC 0x23 0 b 0 0 ap)
  | .apmod b f ap => some (.control, encC 0x23 0 b f 1 ap)
  | .sbind a b port ctx ap => some (.control, encC 0x23 a b port 2 (16 * ctx + ap))
  | .sbar a b w => some (.control, encC 0x23 a b 0 3 w)
  | .sstat a core => some (.control, encC 0x23 a 0 core 4 0)
  | .bload a b ctx => some (.control, encC 0x24 a b 0 0 ctx)
  | .bdrop a ctx => some (.control, encC 0x24 a 0 0 1 ctx)
  | .lwait => some (.control, encC 0x24 0 0 0 2 0)
  | .talloc a b core ctx => some (.control, encC 0x25 a b core 0 ctx)
  | .trel a core pub ctx => some (.control, encC 0x25 a 0 core 1 (4 * pub + ctx))
  | .tstate a b core sel => some (.control, encC 0x25 a b core 2 (4 * sel))
  | .ringinit a core ring ctx => some (.control, encC 0x25 a 0 core 3 (16 * ring + ctx))
  | .ringwait a core ring ctx => some (.control, encC 0x25 a 0 core 4 (16 * ring + ctx))
  | .ringrel core ring ctx => some (.control, encC 0x25 0 0 core 5 (16 * ring + ctx))
  | .cp b core ctx => some (.control, encC 0x26 0 b core 0 ctx)
  | .cpg b core ctx => some (.control, encC 0x26 0 b core 1 ctx)
  | .cps b core ctx => some (.control, encC 0x26 0 b core 2 ctx)
  | .cpsa b core ctx => some (.control, encC 0x26 0 b core 3 ctx)
  | .cpm b core ctx => some (.control, encC 0x26 0 b core 4 ctx)
  | .cpbin b core ctx => some (.control, encC 0x26 0 b core 5 ctx)
  | .cpcancel a core retry ctx => some (.control, encC 0x26 a 0 core 6 (4 * retry + ctx))
  | .cpq b core => some (.control, encC 0x26 0 b core 7 0)
  | .pcinit a b core ctx => some (.control, encC 0x27 a b core 0 ctx)
  | .pcarrive a b core ctx => some (.control, encC 0x27 a b core 1 ctx)
  | .pcexpect a b core ctx => some (.control, encC 0x27 a b core 2 ctx)
  | .pcwait a b core ctx => some (.control, encC 0x27 a b core 3 ctx)
  | .coll b => some (.control, encC 0x28 0 b 0 0 0)
  | .collwait a => some (.control, encC 0x28 a 0 0 1 0)
  | .cxprio a prio ctx => some (.control, encC 0x29 a 0 0 0 (4 * prio + ctx))
  | .cxpark a ctx => some (.control, encC 0x29 a 0 0 1 ctx)
  | .cxresume a ctx => some (.control, encC 0x29 a 0 0 2 ctx)
  | .cxsave a b core ctx => some (.control, encC 0x29 a b core 3 ctx)
  | .cxrest b core ctx => some (.control, encC 0x29 0 b core 4 ctx)
  | .dvmap b core e => some (.control, encC 0x29 0 b core 5 e)
  | .dvclr core e => some (.control, encC 0x29 0 0 core 6 e)
  | .renter a b own ctx => some (.control, encC 0x2A a b 0 0 (16 * own + ctx))
  | .rleave a own ctx => some (.control, encC 0x2A a 0 0 1 (16 * own + ctx))
  | .smark b => some (.control, encC 0x2A 0 b 0 2 0)
  | .bkpt b core ctx => some (.control, encC 0x2A 0 b core 3 ctx)
  | .trap k => some (.control, encC 0x2B 0 0 0 0 k)
  | .tret => some (.control, encC 0x2B 0 0 0 1 0)
  | .mvfs a n => some (.control, encC 0x2B a 0 (n / 256) 2 (n % 256))
  | .mvts b n => some (.control, encC 0x2B 0 b (n / 256) 3 (n % 256))
  | .wfe => some (.control, encC 0x2B 0 0 0 4 0)
  | .eventsClear b => some (.control, encC 0x2B 0 b 0 3 0x33)
  | .flagWordWrite b n => some (.control, encC 0x2B 0 b (n / 256) 3 (n % 256))
  | .dselScorecardClear b => some (.control, encC 0x2B 0 b 0 3 0x80)
  | .scorecardLatch a => some (.control, encC 0x2B a 0 0 2 0x81)
  | .layerClockLatch a => some (.control, encC 0x2B a 0 0 2 0xA0)
  | .translationRegisterWrite b n => some (.control, encC 0x2B 0 b 0 3 n)
  | .deviceRegisterWrite _ _ => none
  | .fAdd w => some (.fabric, encFab 0 0 w)
  | .fSub w => some (.fabric, encFab 0 1 w)
  | .fNeg w => some (.fabric, encFab 0 2 w)
  | .fAbs w => some (.fabric, encFab 0 3 w)
  | .fAbsdiff w => some (.fabric, encFab 0 4 w)
  | .fAddc w => some (.fabric, encFab 0 5 w)
  | .fMul w => some (.fabric, encFab 1 0 w)
  | .fFma w => some (.fabric, encFab 1 1 w)
  | .fFms w => some (.fabric, encFab 1 2 w)
  | .fFnma w => some (.fabric, encFab 1 3 w)
  | .fMulhi w => some (.fabric, encFab 1 4 w)
  | .fMulsc w => some (.fabric, encFab 1 5 w)
  | .fCmpEq w => some (.fabric, encFab 2 0 w)
  | .fCmpNe w => some (.fabric, encFab 2 1 w)
  | .fCmpLt w => some (.fabric, encFab 2 2 w)
  | .fCmpLe w => some (.fabric, encFab 2 3 w)
  | .fCmpGt w => some (.fabric, encFab 2 4 w)
  | .fCmpGe w => some (.fabric, encFab 2 5 w)
  | .fCmpMin w => some (.fabric, encFab 2 8 w)
  | .fCmpMax w => some (.fabric, encFab 2 9 w)
  | .fSign w => some (.fabric, encFab 2 10 w)
  | .fThr w => some (.fabric, encFab 2 11 w)
  | .fClamp w => some (.fabric, encFab 2 12 w)
  | .fAnd w => some (.fabric, encFab 3 0 w)
  | .fOr w => some (.fabric, encFab 3 1 w)
  | .fXor w => some (.fabric, encFab 3 2 w)
  | .fNot w => some (.fabric, encFab 3 3 w)
  | .fShl w => some (.fabric, encFab 3 4 w)
  | .fShr w => some (.fabric, encFab 3 5 w)
  | .fSra w => some (.fabric, encFab 3 6 w)
  | .fPopc w => some (.fabric, encFab 3 7 w)
  | .fClz w => some (.fabric, encFab 3 8 w)
  | .fBsel w => some (.fabric, encFab 3 9 w)
  | .fCvt w => some (.fabric, encFab 4 0 w)
  | .fRnd w => some (.fabric, encFab 4 1 w)
  | .fResolve w => some (.fabric, encFab 4 2 w)
  | .fQblk w => some (.fabric, encFab 4 3 w)
  | .fDqblk w => some (.fabric, encFab 4 4 w)
  | .fSat w => some (.fabric, encFab 4 5 w)
  | .fExp2 w => some (.fabric, encFab 5 0 w)
  | .fLog2 w => some (.fabric, encFab 5 1 w)
  | .fRcp w => some (.fabric, encFab 5 2 w)
  | .fRsqrt w => some (.fabric, encFab 5 3 w)
  | .fSqrt w => some (.fabric, encFab 5 4 w)
  | .fDiv w => some (.fabric, encFab 5 5 w)
  | .fSigm w => some (.fabric, encFab 5 6 w)
  | .fTanh w => some (.fabric, encFab 5 7 w)
  | .fSel w => some (.fabric, encFab 6 0 w)
  | .fRoute w => some (.fabric, encFab 6 1 w)
  | .fMerge w => some (.fabric, encFab 6 2 w)
  | .fFan w => some (.fabric, encFab 6 3 w)
  | .fFilt w => some (.fabric, encFab 6 4 w)
  | .fGate w => some (.fabric, encFab 6 5 w)
  | .fRedSum w => some (.fabric, encFab 7 0 w)
  | .fRedMax w => some (.fabric, encFab 7 1 w)
  | .fRedMin w => some (.fabric, encFab 7 2 w)
  | .fScan w => some (.fabric, encFab 7 3 w)
  | .fRecur w => some (.fabric, encFab 7 4 w)
  | .fKeyred w => some (.fabric, encFab 7 5 w)
  | .fLd w => some (.fabric, encFab 8 0 w)
  | .fLdt w => some (.fabric, encFab 8 1 w)
  | .fLdring w => some (.fabric, encFab 8 2 w)
  | .fLdg w => some (.fabric, encFab 8 3 w)
  | .fLdver w => some (.fabric, encFab 8 4 w)
  | .fSt w => some (.fabric, encFab 9 0 w)
  | .fSta w => some (.fabric, encFab 9 1 w)
  | .fStadd w => some (.fabric, encFab 9 2 w)
  | .fStmax w => some (.fabric, encFab 9 3 w)
  | .fStbin w => some (.fabric, encFab 9 4 w)
  | .fPush w => some (.fabric, encFab 10 0 w)
  | .fPop w => some (.fabric, encFab 10 1 w)
  | .fInc w => some (.fabric, encFab 10 2 w)
  | .fEos w => some (.fabric, encFab 10 3 w)
  | .fChk w => some (.fabric, encFab 10 4 w)
  | .fCnt w => some (.fabric, encFab 10 5 w)
  | .fSeq w => some (.fabric, encFab 10 6 w)
  | .fMark w => some (.fabric, encFab 10 7 w)
  | .fBget w => some (.fabric, encFab 10 8 w)
  | .fAlloc w => some (.fabric, encFab 11 0 w)
  | .fRelease w => some (.fabric, encFab 11 1 w)
  | .fHandoff w => some (.fabric, encFab 11 2 w)
  | .mMma o => some (.order, encOrder 0 o)
  | .mMmaSp o => some (.order, encOrder 1 o)
  | .mMmac o => some (.order, encOrder 2 o)
  | .mAccClr o => some (.order, encOrder 3 o)
  | .mAccRd o => some (.order, encOrder 4 o)
  | .mAccRdFabric o => some (.order, encOrder 4 o)
  | .mAccRdq o => some (.order, encOrder 5 o)
  | .mAccLd o => some (.order, encOrder 6 o)
  | .mMscLd o => some (.order, encOrder 7 o)
  | .orderCompletion _ _ => none
  | .launchStart _ => none
  | .launchEnd _ => none
  | .tokenDelivery _ _ => none
  | .fire _ _ _ => none
  | .beatSelect _ => none
  | .fallbackReturn _ _ => none
  | .contextAged _ _ => none
  | .lateOperandArrival _ _ => none
  | .instanceCommit _ _ => none
  | .frameRetire _ _ => none
  | .takeTrap _ => none
  | .waitingCommandResume _ => none
  | .streamStart _ _ => none
  | .streamAccess _ _ => none
  | .allocDeadlock _ => none
  | .spillBankMove _ _ => none
  | .registerBankSwap _ _ => none
  | .bankHandover _ _ => none
  | .framePark _ _ => none
  | .faultRecordDelivery _ => none
  | .faultMessage _ => none
  | .verdict _ => none
  | .resumedReentry _ _ => none
  | .preciseStop _ _ => none
  | .copyStart _ _ => none
  | .copyRound _ => none
  | .chunkPerformed _ _ => none
  | .copyReply _ _ _ _ => none
  | .memoryRequest _ _ => none
  | .phaseCompletion _ => none
  | .arbitrationRound _ => none
  | .promotion _ _ => none
  | .flitReplay _ => none
  | .linkRetrainFailure _ => none
  | .collectiveComplete _ _ => none
  | .collTimeout _ _ => none
  | .debugHold => none
  | .savePieceWrite _ => none
  | .saveSeal _ => none
  | .restoreMerge _ => none
  | .coldReset => none
  | .warmReset => none
  | .recoveryManifest _ => none
  | .attestationReport _ => none
  | .laneRepair _ _ _ => none
  | .dvfsMove _ _ => none
  | .thermalThrottle _ _ => none
  | .thermalTrip _ _ => none
  | .endpointDma _ _ _ => none
  | .applicationCoreAccess _ _ _ => none
  | .applicationCoreTokenSend _ _ => none
  | .packageLinkRetrain _ => none
  | .debugHoldRelease => none

/-- The bytes of an instruction, lowest address first; none for an event. -/
def encode (i : Instr) : Option (WordKind × List Nat) :=
  match encodeWord i with
  | some (k, w) => some (k, leBytes k.bytes w)
  | none => none

end Sys2Proof
end

