-- ==== Sys2Proof/Config.lean ====
section
/-! DEFINITION. What the spec leaves to the implementation or does not state: constants with no body, so that nothing
can be proved of their values, and the few fixed choices the assumption log names. -/
namespace Sys2Proof.Config

/-- A value the spec leaves open, the `n`-th one used (log 6). -/
opaque freeValue : Nat → Word

/-- FUNC results that Table 8.7 gives only to an error bound (R179): the subop, the lane's digit count, and the input
value m * 2^e, to a result mantissa and exponent (log 7). -/
opaque funcApprox : (subop n : Nat) → (m e : Int) → Int × Int

/-- SHA-256 of a byte string (R360, R361): a standard the spec cites and does not define (log 11). -/
opaque sha256 : List Nat → BitVec 256

/-- SLH-DSA verification of R360: public key, signed text, signature (log 11). -/
opaque slhDsaVerify : List Nat → List Nat → List Nat → Bool

/-- The secret from which the security block derives the device identity key at the first boot (R362, log 11). -/
opaque identitySeed : List Nat

/-- The public key of the key pair that SLH-DSA derives from a secret (R362, log 11). -/
opaque slhDsaPublic : List Nat → List Nat

/-- The SLH-DSA signature over a text with the key pair of a secret (R362, log 11). -/
opaque slhDsaSign : List Nat → List Nat → List Nat

/-- Whether the persistent repair log has lost a vault's entry at the `n`-th boot (R365, log 64). -/
opaque logLost : (n vault : Nat) → Bool

/-- Whether a vault passes its lane check at the `n`-th boot (R365, log 64). -/
opaque laneCheck : (n vault : Nat) → Bool

/-- The IOMMU's entries after the `n`-th boot: base, physical base and bytes (R363): what software of the application die maps is no
matter of the spec (log 88). -/
opaque iommu : Nat → List (Nat × Nat × Nat)

/-- Whether a lane of a vault serves a byte offset (R365): the spec gives no lane layout (log 64). -/
opaque laneServes : (lane off : Nat) → Bool

/-- The number that the `n`-th boot gives the package in its load-store domain (R11), none where it stands alone: the domain gives
it from outside (log 88). -/
opaque domainNumber : Nat → Option Nat

/-- The route tables that the firmware of the `n`-th boot writes (R296): for entry `64 * stack + package` of the four stack roots, the local
link, 0 to 3, or 4 plus the other stack root to use; none where the entry is empty (log 88). -/
opaque route : (n entry : Nat) → Option Nat

/-- The 8-byte units that the `n`-th lane switch, by offset in its vault, or the `n`-th beat, by their key, reads with an
uncorrectable error (R366, R280): which cells fail is no matter of the spec (log 89). -/
opaque uncorrectable : Nat → List Nat

/-- The soft errors that the `n`-th beat corrects in SRAM and in stacked DRAM (R280, R353, log 89). -/
opaque corrected : Nat → Nat × Nat

/-- What a byte of stacked DRAM that nothing has written reads as: DESIGN CHOICE, the spec gives none (log 3). The
scratchpads and banks are cleared to zero at reset by R364. -/
def unlistedByte : Byte := 0

end Sys2Proof.Config
end

