-- ==== Sys2Proof/Machine/State.lean ====
section
/-! DEFINITION. The state of a Pliob package, as plain data, and the state after a cold reset.
Regions, cores, banks and ports are held sparsely: what is not listed is as reset leaves it. -/
namespace Sys2Proof.Machine

/-! ## Values in the fabric -/

/-- The float specials of Table 7.3; `neg` is the sign. -/
inductive Special where
  | zero (neg : Bool)
  | inf (neg : Bool)
  | nan (signalling : Bool) (frac : Nat)
  | high (neg : Bool)
  | low (neg : Bool)
  deriving DecidableEq, Repr, Inhabited

/-- One lane of a train (R138, R139). An integer lane is its exact value and its beat-0 part; an integer lane beyond the
rail keeps its direction and its exact value (R166); a float lane is its rail and the integers of its two digit beats;
a narrow lane is its code (R140). -/
inductive Lane where
  | absent
  | int (v hi : Int)
  | beyond (up : Bool) (v : Int)
  | flt (x hi lo : Int)
  | spec (s : Special)
  | code (c : Nat)
  deriving DecidableEq, Repr, Inhabited

/-- The kinds of Table 2.4, bits [38:37]. -/
inductive TokenKind where
  | data
  | null
  | eos
  | poison
  deriving DecidableEq, Repr, Inhabited

/-- A train (R138): its kind, format tag code, lanes, and the 64-bit tag (frame, f6 to f0). -/
structure Train where
  kind : TokenKind
  fmt : Nat
  lanes : List Lane
  tag : Nat
  deriving DecidableEq, Repr, Inhabited

/-- A train in a port's balance buffer: the advance at which it reaches the port, its block instance, the instruction that
sent it, and, on a cancellable arc, the flags each lane's beat 1 would raise, none for a lane that is never cancelled (R144,
R158). The EOS of a matrix drain holds the flags that enter with it (R322). -/
structure Timed where
  due : Nat
  inst : Nat
  src : Nat
  lf : List (Option Nat)
  train : Train
  deriving DecidableEq, Repr, Inhabited

/-- A token (Table 2.4). `tag` is header [127:64]; `payload` holds the payload bytes as they travel. -/
structure Token where
  tag : Nat
  core : Nat
  slot : Nat
  port : Nat
  ctx : Nat
  fmt : Nat
  kind : TokenKind
  mark : Nat
  cls : Nat
  len : Nat
  inl : Nat
  payload : List Nat
  sender : Option Nat := none
  deriving DecidableEq, Repr, Inhabited

/-! ## The control core -/

/-- The two modes of R84. -/
inductive Mode where
  | unprivileged
  | privileged
  deriving DecidableEq, Repr, Inhabited

/-- A loop-stack entry (R103). -/
structure LoopEntry where
  start : Word
  len : Nat
  count : Nat
  deriving DecidableEq, Repr, Inhabited

/-- What a trap saves beside the resume address (R132, R133). -/
structure Cause where
  tcause : Word
  tinfo : Word
  tinfoH : Word
  deriving DecidableEq, Repr, Inhabited

/-- A store in the store buffer (R95): the memory keys of its bytes, checked and translated at issue (R88), and the bytes. -/
structure BufStore where
  keys : List Nat
  bytes : List Nat
  deriving DecidableEq, Repr, Inhabited

/-- The running launch (Table 2.2): the eight words of its record. -/
structure Launch where
  words : List Word
  deriving DecidableEq, Repr, Inhabited

/-- A collective of one participant (R298, R299): its record, the contribution it read, one value an element (none is
poison), the memory keys of its destination, the tick of its `coll`, the ticks its watch has paused (R303), and whether
its id has been freed by a timeout, its contribution staying at the reducer. -/
structure Coll where
  words : List Word
  data : List (Option Nat)
  dest : List Nat
  start : Nat
  paused : Nat
  freed : Bool
  deriving DecidableEq, Repr, Inhabited

/-- A fault record on the exception network (R232), with the hsel that held as it was numbered (R239), whether a poisoned
table entry caused it (R280), and the instance it arose in. -/
structure FaultRec where
  fault : Nat
  seq : Nat
  core : Nat
  ctx : Nat
  instr : Nat
  detail : Nat
  tag : Nat
  addr : Word
  rtop : Nat
  rsecond : Nat
  hsel : Nat := 0
  poison : Bool := false
  inst : Nat := 0
  deriving DecidableEq, Repr, Inhabited

/-- The state of a region's control core: registers (R83), state registers (Tables 6.7, 11.2, 16.2, 17.2, 21.4, 23.1),
mailbox (R20, R127) and running launch; `bars` names the barrier entries a waiting `sbar` has placed, by core and barrier
number (R118), `awaiting` the faults that await a verdict, each with the hsel it was numbered under (R233, R239), and
`cancelling` the copy a waiting `cpcancel` has cancelled, by core and number (R259), `owed` the status words, each with its
address, that a held home keeps back (R22, R281), `leaving` the cores, by mask, that are cleaned once they are written (R23), `recs`
the records created and not yet written, each with its place (R356); `heldAt` is the vault at which the waiting word's atomic waits, and the
tick since which (R366), `sendSince` the tick since which a token of it waits at its source (R290). -/
structure Region where
  x : Sparse Word
  pc : Word
  mode : Mode
  depth : Nat
  loops : Sparse LoopEntry
  saved : Sparse Word
  tvec : Word
  tpc : Word
  tcause : Word
  tinfo : Word
  tinfoH : Word
  scratch : Sparse Word
  events : Word
  hsel : Word
  tdest : Word
  collwd : Word
  rtab : Sparse Word
  ptroot : Sparse Word
  otab : Word
  adverts : Sparse Word
  dsel : Word
  recBase : Word
  recSize : Word
  recIndex : Word
  scLatch : List Nat
  clkLatch : List Nat
  aps : Sparse (List Word)
  stores : List BufStore
  launches : List (List Word)
  msgs : List Token
  launch : Option Launch
  held : List Cause
  waiting : Bool
  atLwait : Bool
  regionSplit : Nat
  faultSeq : Nat
  awaiting : List (Nat × Nat)
  records : List FaultRec
  messages : List FaultRec
  colls : List Coll
  bars : List (Nat × Nat)
  cancelling : Option (Nat × Nat)
  owed : List (Word × Word)
  leaving : Nat
  recs : List (Nat × Nat × Nat × Nat)
  heldAt : Option (Nat × Nat)
  sendSince : Option Nat
  rstack : List Nat
  deriving DecidableEq, Repr, Inhabited

/-! ## Blocks, contexts and frames -/

/-- A loaded block image (R53) with the balance its loader computed (R147): `ins` and `outs` per instruction. -/
structure Block where
  id : Nat
  storeMask : Nat
  prio : Nat
  rank : Nat
  dbg : Nat
  nout : Nat
  after : Nat
  words : List Nat
  params : List Nat
  addr : Word
  place : List Nat
  ins : List Nat
  outs : List Nat
  deriving DecidableEq, Repr, Inhabited

/-- A ring descriptor (R131). -/
structure Ring where
  setup : Bool
  rank : Nat
  readers : Nat
  size : Nat
  slots : Nat
  wp : Nat
  kp : Nat
  fp : Nat
  tiles : List (Nat × Nat)
  freed : List Nat
  deriving DecidableEq, Repr, Inhabited

/-- What an element's digit state and rails are made of (R152): the advance in which the last train's beat 0 entered, its
instance, the trains of the ports, the output train, the advance in which its beat 0 leaves, and whether its beat 1 is owed
as null digits. -/
structure Latch where
  since : Nat
  inst : Nat
  ins : List (Nat × Train)
  out : Option Train
  due : Nat
  cut : Bool
  deriving DecidableEq, Repr, Inhabited

/-- Digit beats of a train that an element holds (R143, R351): the advances of the first and the last, the instance, and whether
every lane is cancelled. -/
structure Hold where
  first : Nat
  last : Nat
  inst : Nat
  cut : Bool
  deriving DecidableEq, Repr, Inhabited

/-- The running state of one element for one context (R148): what RED, STEER, TAG, LD and ST words carry from train to
train of an instance; `held` lists the digit beats it holds;
`lost` says that the tile it was reading has become empty, and whether the read was waiting then (R214), `sendSince` the tick since which
a token of it waits at its source (R290). -/
structure Elem where
  inst : Nat
  active : Bool
  ended : Bool
  poisoned : Bool
  started : Bool
  next : Nat
  pos : Nat
  count : Nat
  acc : List Lane
  keys : List Lane
  runVal : Option Lane
  runKey : Option Lane
  tile : Nat
  limit : Nat
  version : Nat
  tries : Nat
  busy : Bool
  buf : List (Nat × Bool)
  held : List Hold
  latch : Latch
  lost : Option Bool
  sendSince : Option Nat := none
  deriving DecidableEq, Repr, Inhabited

/-- A commit-time act of a `release` or `handoff` word (R216). -/
structure TileAct where
  idx : Nat
  handoff : Bool
  desc : Nat
  owner : Nat
  deriving DecidableEq, Repr, Inhabited

/-- An instance in flight (R32, R39): register writes and emissions so far, what reached channel 31, in a handler
context the trains of out0 and out1 that await a verdict token (`chan`, R235), and the frame's registers as it fired
(`bank`, R206); `loops` are the recurrences whose path still owes its EOS, `owedEos` those of them past their own (R242), `done` the
LD words that have read all they read for it (R192, R194). -/
structure Inst where
  id : Nat
  tag : Nat
  regs : List (Nat × Option Nat)
  outs : List Nat
  exits : List (Train × Nat)
  chan : List (Nat × Train)
  exitNulls : List Nat
  eosCh : List Nat
  lsids : List Nat
  flags : Nat
  unacked : Nat
  isEnd : Bool
  tiles : List Nat
  acts : List TileAct
  owedEos : List Nat
  loops : List Nat
  done : List Nat
  marked : Bool
  rtop : Nat
  rsecond : Nat
  bank : Sparse Nat
  stages : List Nat
  deriving DecidableEq, Repr, Inhabited

/-- A train steered to a fallback instruction (R150): where it came from, the fallback, and whether a memory fallback has made
its request. -/
structure Steer where
  idx : Nat
  port : Nat
  fb : Nat
  train : Train
  asked : Bool
  deriving DecidableEq, Repr, Inhabited

/-- A breakpoint (R358). -/
structure Bkpt where
  block : Nat
  region : Nat
  deriving DecidableEq, Repr, Inhabited

/-- The slot states of Table 21.1. -/
inductive Slot where
  | empty
  | resident
  | stopped
  | vacant
  deriving DecidableEq, Repr, Inhabited

/-- One context of a core (R24) with its pipeline. `adv` counts its advances; `queues` holds the trains at each instruction port
(key 4 * index + port); `late` lists the elements whose late operand its schedule waits on (R35), with the reason: 0 memory, 1
network, 2 allocation, 3 a tile; `fireAt` is the first advance whose entry positions no earlier instance takes. What this beat has
brought and the next takes up: `prioNew` a new priority (R37), `parkNew` a `cxpark` (R335), `stackNew` a changed region stack
(R358), `lateBeat` the beat in which a late operand came (R35), `fresh` the flags that have entered and `enables` the trap enables
that a write has replaced (R82). `hit` is the tag of the instance that a breakpoint has met, with the two region entries it fired
under (R356, R358); `fixes` are the trains that verdicts give in place of what an instruction faulted on, each with its instance
and instruction (R235). -/
structure Ctx where
  slot : Slot
  block : Option Block
  prio : Nat
  age : Nat
  last : Nat
  flags : Nat
  lfsr : Sparse Nat
  rstack : List Nat
  bkpt : Option Bkpt
  rings : Sparse Ring
  score : List Nat
  adv : Nat
  queues : Sparse (List Timed)
  elems : Sparse Elem
  insts : List Inst
  nextInst : Nat
  steer : Option Steer
  holdFire : Bool
  stopWanted : Bool
  hit : Option (Nat × Nat × Nat)
  late : List (Nat × Nat)
  fireAt : Nat
  prioNew : Option Nat
  parkNew : Bool
  lateBeat : Option Nat
  fresh : Nat
  enables : Option Nat
  stackNew : Option (List Nat)
  fixes : List (Nat × Nat × Train)
  deriving DecidableEq, Repr, Inhabited

/-- The frame states of Table 2.3 (an absent entry is free). -/
inductive FrameState where
  | opened
  | parked
  | retiring
  deriving DecidableEq, Repr, Inhabited

/-- A live frame: its frame-table entry (Table 2.3), its register bank (R26), its open record (R124), and the fault
awaiting a verdict (R233); while its bank moves it does not fire before beat `rests` (R225, R245). -/
structure Frame where
  state : FrameState
  ctx : Nat
  depth : Nat
  bank : Nat
  div : Nat
  sinks : Nat
  stores : Nat
  blockId : Nat
  inflight : Nat
  regs : Sparse Nat
  exitRoute : Option Nat
  exitFrame : Nat
  closed : Bool
  fired : Bool
  eosCh : List Nat
  fault : Option FaultRec
  opened : Nat
  lastFire : Nat
  rests : Nat
  deriving DecidableEq, Repr, Inhabited

/-- A token in the matching store or the spill pool (R32, R33); `held` marks one that waits on a parked frame (R231);
`beat` is the beat in which it arrived (R355). -/
structure Stored where
  tok : Token
  spilled : Bool
  held : Bool
  beat : Nat
  deriving DecidableEq, Repr, Inhabited

/-- One access of an element's train (R192, R196): a pointer, a size, and for a write the pattern, or for an update the
lane itself. -/
structure Access where
  addr : Word
  size : Nat
  value : Nat
  poison : Bool
  lane : Nat
  item : Lane
  deriving DecidableEq, Repr, Inhabited

/-- What a memory request does at its home (R281). -/
inductive ReqKind where
  | read
  | write
  | add
  | max
  | append
  deriving DecidableEq, Repr, Inhabited

/-- What an access has waited on (R214): draining tiles of the core, and whether one of them has become empty since. -/
structure Waited where
  tiles : List Nat
  lost : Bool
  deriving DecidableEq, Repr, Inhabited

/-- A request of an LD or ST element for one train (R281): the accesses still to make, what those made gave (`got`: lane, value,
poison), the flags the updates raised, and whether the acknowledge is poison. A request of a stream takes its accesses from its
port. `waited` is what its next access has waited on; `faulted` marks one whose access has faulted; `heldAt` is the vault at which
its next update waits, and since when (R366). -/
structure MemReq where
  kind : ReqKind
  ctx : Nat
  idx : Nat
  inst : Nat
  fmt : Nat
  mode : Nat
  uns : Bool
  accs : List Access
  tag : Nat
  due : Nat
  last : Bool
  lines : Nat
  entry : Option Nat
  port : Option Nat
  got : List (Nat × Nat × Bool)
  flags : Nat
  poison : Bool
  waited : Waited
  faulted : Bool := false
  heldAt : Option (Nat × Nat) := none
  deriving DecidableEq, Repr, Inhabited

/-- The answer to a request: the train the element emits, the flags its updates raised, and what it closes. -/
structure MemResp where
  ctx : Nat
  idx : Nat
  inst : Nat
  train : Train
  due : Nat
  flags : Nat
  eosAfter : Bool
  ack : Bool
  lines : Nat
  faulted : Bool := false
  deriving DecidableEq, Repr, Inhabited

/-- The park image of a frame (R229, R231): what was lifted out of the context, in place of the park tile's records; its
tokens, the offending token of a TAG-CHECK (R228), and the bytes of the park tile that are left. `captured` is the beat in which its
capture has ended (R229); once resumed, `tokens` are those not yet returned, `repair` and `repairTrain` the fault that a verdict has
repaired and the train for it, `fixes` earlier repairs not yet used (R235, R237). -/
structure Park where
  before : Frame
  insts : List Inst
  queues : Sparse (List Timed)
  elems : Sparse Elem
  latches : Sparse Latch
  holds : List (Nat × Hold)
  tokens : List Token
  offend : Option Token
  tile : Nat
  room : Nat
  adv : Nat
  resumed : Bool
  repair : Option FaultRec
  repairTrain : Option Train
  fixes : List (Nat × Nat × Train)
  captured : Nat
  reqs : List MemReq
  resps : List MemResp
  deriving DecidableEq, Repr, Inhabited

/-! ## Streams, tiles and the allocator -/

/-- An entry of a stream port's queue (R117, R118): a stream with its pattern copy and position, or a barrier.
`tried` marks a read stream whose next access, tried ahead of a request, does not pass its checks. -/
structure PortEntry where
  ctx : Nat
  barrier : Option Nat
  pattern : List Word
  addend : Word
  pos : Nat
  active : Bool
  stopped : Bool
  finished : Bool
  buf : List (Nat × Bool)
  err : Option (Nat × Nat)
  waited : Waited
  tried : Bool
  deriving DecidableEq, Repr, Inhabited

/-- The tile states of Table 6.4. -/
inductive TileState where
  | empty
  | filling
  | ready
  | draining
  deriving DecidableEq, Repr, Inhabited

/-- What fills a tile (R212), and whether it is lent (R337) or a park tile (R231). -/
inductive Producer where
  | fabric (inst : Nat)
  | talloc
  | ring (n : Nat)
  | launch
  | hosted
  | park
  deriving DecidableEq, Repr, Inhabited

/-- A tile-table entry (R211, Tables 6.4, 6.5). `written` is the written map of an all-or-nothing tile; `reads` counts
the LD reads and the matrix orders that still hold the tile; `emptying` is a release deferred behind them (R216, R329). -/
structure Tile where
  rank : Nat
  owner : Nat
  poison : Bool
  aon : Bool
  readers : Nat
  state : TileState
  version : Nat
  base : Nat
  size : Nat
  pool : Nat
  written : Nat
  committed : Bool
  producer : Producer
  reads : Nat
  emptying : Bool
  deriving DecidableEq, Repr, Inhabited

/-- Who waits on the allocator (R219). -/
inductive Requester where
  | alloc (idx inst : Nat)
  | ring (n cls : Nat)
  | talloc
  deriving DecidableEq, Repr, Inhabited

/-- A waiting-list entry (R219). -/
structure Wait where
  pool : Nat
  rank : Nat
  size : Nat
  readers : Nat
  aon : Bool
  owner : Nat
  who : Requester
  age : Nat
  frame : Nat
  deriving DecidableEq, Repr, Inhabited

/-- A spill-map entry (Table 10.5). -/
structure Spill where
  ctx : Nat
  frame : Nat
  inBank : Bool
  place : Nat
  half : Nat
  deriving DecidableEq, Repr, Inhabited

/-! ## Copies -/

/-- A copy (R246): its record words, context, source (31 for a command), the ring slot's tile once granted and its offset
(R254), the move source (R253), its position in bytes, rows or records and within a split row, the records read at its
start, the flags it has raised (R256), and the diversion entry of the absent image it belongs to (R340). `waited` is as in
a request. -/
structure Copy where
  uid : Nat
  words : List Word
  ctx : Nat
  seqIdx : Nat
  started : Bool
  stopped : Bool
  asked : Bool
  slotTile : Option Nat
  slotOff : Nat
  moveTile : Option Nat
  pos : Nat
  roff : Nat
  src : List Word
  dst : List Word
  table : List Word
  flags : Nat
  allIssued : Bool
  cancelled : Bool
  entry : Option Nat
  waited : Waited
  rowAt : Option Nat := none
  lostAt : List Nat := []
  deriving DecidableEq, Repr, Inhabited

/-- One write of a chunk at memory keys: bytes with their poison; an addition to one element (R256); an append to a bin,
with the keys of its count and of its slots from slot 1 (R257). -/
inductive ChunkOp where
  | write (keys bytes : List Nat) (poison : List Bool)
  | add (keys : List Nat) (fmt mode uns value : Nat) (poison : Bool)
  | append (count : List Nat) (slots : List (List Nat)) (bytes : List Nat) (poison : List Bool)
  deriving DecidableEq, Repr, Inhabited

/-- A chunk in flight (R248, R252): the writes still to make, each with the keys its bytes are read from (`srcs`; none where they
have been), and the cores it signals. `fetched` says that its reads have been made, `held` that a full proof holds it (R341);
`writes` are the write requests it makes, by first key and bytes; `pos`, `roff` and `rowAt` are the copy's as it was issued; `waits`
and `lostAt` are the draining tiles it waits on (128 core + tile) and the cores at which it has lost one (R214); `heldAt` is the vault at
which its update waits, and since when (R366). -/
structure Chunk where
  copy : Nat
  cls : Nat
  bytes : Nat
  ops : List ChunkOp
  targets : List Nat
  held : Bool
  id : Nat
  writes : List (Nat × Nat)
  srcs : List (List Nat)
  fetched : Bool
  pos : Nat
  roff : Nat
  rowAt : Option Nat
  waits : List Nat
  lostAt : List Nat
  heldAt : Option (Nat × Nat) := none
  deriving DecidableEq, Repr, Inhabited

/-- A core's copy unit (R248-R251, R260); `flying` lists the copies that have left their queues and have chunks in
flight; `owing` gives the class, the bytes and the replies to come of each chunk that is outstanding. -/
structure CopyUnit where
  queues : Sparse (List Copy)
  flying : List Copy
  quanta : List Nat
  deficits : List Nat
  windows : List Nat
  outstanding : List Nat
  sinceHalf : List Nat
  sinceMark : List Nat
  chunks : List Chunk
  nextUid : Nat
  nextChunk : Nat
  owing : Sparse (Nat × Nat × Nat)
  deriving DecidableEq, Repr, Inhabited

/-! ## The matrix node -/

/-- An accumulator column's status (Table 19.3). -/
structure Column where
  written : Bool
  int : Bool
  poison : Bool
  owner : Nat
  deriving DecidableEq, Repr, Inhabited

/-- An order in the node's queue (R311). -/
structure QOrder where
  word : Nat
  ctx : Nat
  bad : Bool
  entry : Option Nat
  deriving DecidableEq, Repr, Inhabited

/-- A running product that `mmac` may join (R319). -/
structure Product where
  order : MxOrder
  rows : Nat
  deriving DecidableEq, Repr, Inhabited

/-- An order that has run and not completed (R313): the tile writes it still has to make, the trains it drains and the flags of
their lanes (R322), the tiles it reads (R329), its status bits, and what it raises: its flags, the offset of the first poisoned
unit, the row and group of the first illegal nibble. -/
structure Running where
  bank : Nat
  opcode : Nat
  ctx : Nat
  order : MxOrder
  ops : List ChunkOp
  trains : List Train
  lfs : List (List Nat)
  reads : List Nat
  poison : Bool
  incomplete : Bool
  flags : Nat
  mpoison : Option Nat
  sparse : Option Nat
  entry : Option Nat
  deriving DecidableEq, Repr, Inhabited

/-- Trains of a drain whose first has gone out as an entry token (R322): they follow it at its port when it fires; `lfs` are
the flags of each train's lanes. -/
structure Drain where
  ctx : Nat
  idx : Nat
  port : Nat
  tag : Nat
  trains : List Train
  lfs : List (List Nat)
  deriving DecidableEq, Repr, Inhabited

/-- A core's matrix engine (R310, R311). Accumulator words have key 128 * column + row. -/
structure Matrix where
  queue : List QOrder
  cols : Sparse Column
  acc : Sparse Nat
  incomplete : List Nat
  lfsr : Sparse Nat
  products : Sparse Product
  cache : List (Nat × Nat × Nat × Nat)
  running : List Running
  deriving DecidableEq, Repr, Inhabited

/-! ## Memory requests, saves, debug -/

/-- An answer that a record of kind 5 has taken (R340): a response to an element, or the tile granted under a key to an `alloc`. -/
inductive Answered where
  | resp (a : MemResp)
  | grant (key tile : Nat)
  deriving DecidableEq, Repr, Inhabited

/-- A diversion entry (Table 21.7), the tick of its switch-out point, and the state of its image that no section of Table 21.6
holds: the pipeline, frames, parked frames, tiles, waiting entries and port entries as they were, the stream requests not yet
performed, the answers diverted (record kind 5), the grants not yet taken, the faults not yet parked and the verdicts not yet
acted on; the 8-byte units of the image that hold poisoned bytes of its tiles (R280); its hosted register banks (context, bank and
bytes) and line groups of the region bank (R336); and whether `dvclr` drops what lands for it (R339). -/
structure Divert where
  slot : Nat
  full : Bool
  cxid : Nat
  seq : Nat
  image : Word
  proof : Word
  size : Nat
  used : Nat
  since : Nat
  pipe : Ctx
  frames : List (Nat × Frame)
  parks : List (Nat × Park)
  tiles : List (Nat × Tile)
  waits : List Wait
  entries : List (Nat × List PortEntry)
  reqs : List MemReq
  resps : List Answered
  grants : List (Nat × Nat)
  faults : List (Nat × FaultRec)
  verdicts : List Token
  poison : List Nat
  banks : List (Nat × Nat × List Nat)
  groups : List Nat
  dropping : Bool
  deriving DecidableEq, Repr, Inhabited

/-- A save in progress (R336), listed by its slot: its entry, area size in bytes, image bytes and cursor, and whether a
fault has stopped it (R344). -/
structure Saving where
  entry : Nat
  area : Nat
  image : List Nat
  cursor : Nat
  stopped : Bool
  deriving DecidableEq, Repr, Inhabited

/-- A tile of a core's image (R60, R211): its context, reader count and bytes, padded to whole granules. -/
structure ImageTile where
  ctx : Nat
  readers : Nat
  bytes : List Nat
  deriving DecidableEq, Repr, Inhabited

/-- The state of one core (Table 1.4). `image` is the core image the runtime has loaded for its launches; `retired` holds
the frame numbers that fell free in this beat (R25), `clearing` the columns that a spilled bank leaves, with the beat in which it has
left (R224); `offends` the tokens whose faults park their frames (R228), `dropped` the EOS tokens that closed slots have discarded in
this beat (R25, R42); `touched` the pools that the allocator serves at the end of this beat (R219); `awayReqs` and
`awayResps` are the requests and answers in flight of absent images (R340), `restore` the slot, entry and image pointer of
a merge about to run (R342); `countersNew` the event counts that writes set from the next beat (R353), `scoreClears` the contexts
whose scorecards are 0 from it (R359). -/
structure Core where
  ctxs : Sparse Ctx
  store : List Stored
  frames : Sparse Frame
  spill : Sparse Spill
  ports : Sparse (List PortEntry)
  nextBar : Nat
  tiles : Sparse Tile
  pools : List (Nat × Nat)
  spillSize : Nat
  waits : List Wait
  touched : List Nat
  grants : List (Nat × Nat)
  dead : Nat
  copy : CopyUnit
  mx : Matrix
  drains : List Drain
  reqs : List MemReq
  resps : List MemResp
  awayReqs : List MemReq
  awayResps : List (Nat × MemResp)
  divs : Sparse Divert
  saves : Sparse Saving
  restore : Option (Nat × Nat × Nat)
  counters : Sparse Nat
  countersNew : Sparse Nat
  scoreClears : List Nat
  selects : Sparse Nat
  sampling : Word
  sampler : Option Nat
  following : Option (Nat × Nat)
  parks : Sparse Park
  faults : List (Nat × FaultRec)
  offends : List Stored
  dropped : List Stored
  verdicts : List Token
  triggers : List (Nat × Nat × Nat)
  hosts : List (Nat × Nat × Nat)
  image : List ImageTile
  beat : Nat
  retired : List Nat
  clearing : List (Nat × Nat)
  deriving DecidableEq, Repr, Inhabited

/-! ## Network, links, package -/

/-- A packet (R290): its header and payload as a token, the endpoints it goes between and their packages, its sequence number, and
whether it is a reply (R291). `ask` is the sideband's memory-request mark, with the length code of the reply asked for; `bytes`
and `chunk` are the bytes of a copy's chunk that a request or reply stands for (R260), 0 for another requester. `since` is the
tick from which its wait at this hop counts, `stayed` says that it waited at its source, `promoted` that it is promoted (R293);
`input` is the port it came through (its number plus 1, 0 where it was injected), `path` the ports still ahead of it. -/
structure Packet where
  tok : Token
  src : Nat
  dst : Nat
  srcPkg : Nat
  pkg : Nat
  seq : Nat
  reply : Bool
  ask : Option Nat
  bytes : Nat
  chunk : Nat
  since : Nat
  stayed : Bool
  promoted : Bool
  input : Nat
  path : List Nat
  deriving DecidableEq, Repr, Inhabited

/-- One switch output port (R293): the weights left, the input last served in each class, and the flits in use downstream by
channel (R294). -/
structure NetPort where
  left : List Nat
  rr : List Nat
  used : Sparse Nat
  deriving DecidableEq, Repr, Inhabited

/-- The states of a package link (R296). -/
inductive LinkState where
  | up
  | retraining
  | failed
  deriving DecidableEq, Repr, Inhabited

/-- A package link (R296). -/
structure Link where
  state : LinkState
  sent : List Packet
  replays : Nat
  deriving DecidableEq, Repr, Inhabited

/-- What the application die is told (R22, R132, R296, R341). -/
inductive Notice where
  | status (region : Nat) (word : Word)
  | statusLost (region : Nat) (word : Word)
  | escalated (region fault : Nat)
  | linkFailed (link : Nat)
  | report (bytes : List Nat)
  | read (addr : Nat) (bytes : List Nat)
  | refused (code : Nat)
  deriving DecidableEq, Repr, Inhabited

/-- Where the package stands between reset and running (R360, R364). -/
inductive Boot where
  | running
  | stopped
  | unpowered
  deriving DecidableEq, Repr, Inhabited

/-- A vault's controller (R365, R366): whether it holds every request, the lanes that spares serve, the repair log's
entry and whether the log has lost it, and the repair under way. -/
structure Vault where
  held : Bool
  repair : Option (Nat × Nat)
  lanes : List (Nat × Nat)
  log : List (Nat × Nat)
  logLost : Bool
  deriving DecidableEq, Repr, Inhabited

/-- The application die and the package's slow state (R16, R360-R368): boot, measurement register and log, fuses, the
manifest in SPI-NOR, the package number, what the die has been told, its IOMMU (base, physical base, size), the DVFS points
in mV and temperatures of the layers (2 * stack for a VCL, 2 * stack + 1 for an ML), power, vaults, links, routes to other
packages, and debug-hold. -/
structure Die where
  boot : Boot
  measure : BitVec 256
  bootLog : List (BitVec 256 × Nat × BitVec 256)
  keyHash : BitVec 256
  minVersion : Nat
  version : Nat
  nor : Manifest
  package : Option Nat
  notices : List Notice
  iommu : List (Nat × Nat × Nat)
  mv : Sparse Nat
  temp : Sparse Nat
  powered : Bool
  vaults : Sparse Vault
  links : Sparse Link
  routes : Sparse Nat
  debugHold : Bool
  holdSince : Nat
  deriving DecidableEq, Repr, Inhabited

/-! ## The machine -/

/-- What moves next: a control core issues a word, an element steps with its word, a matrix bank runs its head order,
or one of the machine's own events happens. -/
inductive Happening where
  | issue (r : Nat)
  | element (core ctx idx : Nat)
  | order (core bank : Nat)
  | event (i : Instr)
  deriving DecidableEq, Repr

/-- The element or matrix bank that the running step concerns. -/
structure Cursor where
  core : Nat
  ctx : Nat
  idx : Nat
  deriving DecidableEq, Repr, Inhabited

/-- The whole machine. `mem`, `poison` and `marks` cover every address space by one key (see Machine/Ops.lean); `lastDone` is the
counter that completed a phase last and the tick of its home cycle (R284). -/
structure State where
  mem : List Host.Cell
  poison : List Nat
  marks : List Nat
  regions : Sparse Region
  cores : Sparse Core
  quadSplit : Sparse Nat
  sectorSplit : Sparse Nat
  ports : Sparse NetPort
  queues : Sparse (List Packet)
  arrivals : Sparse (List Packet)
  sent : Sparse Nat
  expect : Sparse Nat
  undelivered : Sparse Nat
  waitingSend : List Packet
  clocks : Sparse (List Nat)
  lastDone : Option (Nat × Nat)
  ticks : Word
  die : Die
  agenda : List Happening
  turn : Nat
  cur : Cursor
  free : Nat
  vcFlits : Nat
  deriving DecidableEq, Repr

/-- Why the machine stops with a fault: no rule of the spec stops it; this names the one thing the model cannot follow. -/
inductive Fault where
  /-- Raised by `step` when the agenda names an element or an order that holds no word: there is nothing to run. Safe:
  no run of the device does it. -/
  | nothingToRun
  deriving DecidableEq, Repr

/-- Why an instruction has no meaning. -/
inductive Refusal where
  /-- Raised by an arm of `exec` whose instruction is not modelled yet. Safe: nothing is claimed of it. -/
  | notModelled (mnemonic : String)
  deriving DecidableEq, Repr

/-! ## Reset -/

/-- A control core after cold reset (Table 24.2; registers with no stated value are zero, log 2). -/
def Region.reset : Region :=
  { x := [], pc := 0, mode := .unprivileged, depth := 0, loops := [], saved := [], tvec := 0, tpc := 0, tcause := 0,
    tinfo := 0, tinfoH := 0, scratch := [], events := 0, hsel := 0, tdest := 0, collwd := 0x1000000, rtab := [],
    ptroot := [], otab := 0, adverts := [], dsel := 0, recBase := 0, recSize := 0, recIndex := 0, scLatch := [],
    clkLatch := [], aps := [], stores := [], launches := [], msgs := [], launch := none, held := [], waiting := false,
    atLwait := false, regionSplit := 8, faultSeq := 0, awaiting := [], records := [], messages := [], colls := [],
    bars := [], cancelling := none, owed := [], leaving := 0, recs := [], heldAt := none, sendSince := none, rstack := [0] }

/-- An empty context slot. -/
def Ctx.reset : Ctx :=
  { slot := .empty, block := none, prio := 0, age := 0, last := 0, flags := 0, lfsr := [], rstack := [0], bkpt := none,
    rings := [], score := [], adv := 0, queues := [], elems := [], insts := [], nextInst := 0, steer := none,
    holdFire := false, stopWanted := false, hit := none, late := [], fireAt := 0,
    prioNew := none, parkNew := false, lateBeat := none, fresh := 0, enables := none, stackNew := none, fixes := [] }

/-- A ring descriptor that `ringinit` has not set up. -/
def Ring.reset : Ring :=
  { setup := false, rank := 0, readers := 0, size := 0, slots := 1, wp := 0, kp := 0, fp := 0, tiles := [], freed := [] }

/-- An access that has not waited. -/
def Waited.reset : Waited := { tiles := [], lost := false }

/-- A latch that holds no train. -/
def Latch.reset : Latch := { since := 0, inst := 0, ins := [], out := none, due := 0, cut := false }

/-- An element that holds nothing. -/
def Elem.reset : Elem :=
  { inst := 0, active := false, ended := false, poisoned := false, started := false, next := 0, pos := 0, count := 0,
    acc := [], keys := [], runVal := none, runKey := none, tile := 0, limit := 0, version := 0, tries := 0, busy := false,
    buf := [], held := [], latch := Latch.reset, lost := none }

/-- An empty tile-table entry. -/
def Tile.reset : Tile :=
  { rank := 0, owner := 0, poison := false, aon := false, readers := 0, state := .empty, version := 0, base := 0,
    size := 0, pool := 0, written := 0, committed := false, producer := .launch, reads := 0, emptying := false }

/-- An unwritten f32 column (R310). -/
def Column.reset : Column := { written := false, int := false, poison := false, owner := 0 }

/-- An idle copy unit: quanta 16, 8, 4 and 2 KiB (R251), windows 32 KiB (R260). -/
def CopyUnit.reset : CopyUnit :=
  { queues := [], flying := [], quanta := [16, 8, 4, 2], deficits := [0, 0, 0, 0],
    windows := [32768, 32768, 32768, 32768], outstanding := [0, 0, 0, 0],
    sinceHalf := [32768, 32768, 32768, 32768], sinceMark := [0, 0, 0, 0], chunks := [], nextUid := 0, nextChunk := 0, owing := [] }

/-- An idle matrix engine. -/
def Matrix.reset : Matrix :=
  { queue := [], cols := [], acc := [], incomplete := [], lfsr := [], products := [], cache := [], running := [] }

/-- A core after reset. -/
def Core.reset : Core :=
  { ctxs := [], store := [], frames := [], spill := [], ports := [], nextBar := 0, tiles := [], pools := [],
    spillSize := 0, waits := [], touched := [], grants := [], dead := 0, copy := CopyUnit.reset, mx := Matrix.reset, drains := [], reqs := [],
    resps := [], awayReqs := [], awayResps := [], divs := [], saves := [], restore := none, counters := [], countersNew := [], scoreClears := [], selects := [], sampling := 0,
    sampler := none, following := none, parks := [], faults := [], offends := [], dropped := [], verdicts := [], triggers := [], hosts := [],
    image := [], beat := 0, retired := [], clearing := [] }

/-- A switch output port with a fresh round and every credit (R293). -/
def NetPort.reset : NetPort := { left := [8, 4, 2, 1], rr := [0, 0, 0, 0], used := [] }

/-- A trained package link. -/
def Link.reset : Link := { state := .up, sent := [], replays := 0 }

/-- A vault that answers (its replay done, R365). -/
def Vault.reset : Vault := { held := false, repair := none, lanes := [], log := [], logLost := false }

/-- The application die after its boot has started the runtime (R360, R364); every layer stands at the nominal 675 mV (R17). -/
def Die.reset : Die :=
  { boot := .running, measure := 0, bootLog := [], keyHash := 0, minVersion := 0, version := 0, nor := { key := [], text := [], sig := [], version := 0, digests := [], images := [] },
    package := none, notices := [], iommu := [], mv := (List.range 8).map (fun l => (l, 675)), temp := [], powered := true, vaults := [], links := [],
    routes := [], debugHold := false, holdSince := 0 }

/-- The machine after a cold reset and bring-up (R364). -/
def State.reset : State :=
  { mem := [], poison := [], marks := [], regions := [], cores := [], quadSplit := [], sectorSplit := [], ports := [], queues := [],
    arrivals := [], sent := [], expect := [], undelivered := [], waitingSend := [], clocks := [], lastDone := none, ticks := 0,
    die := Die.reset, agenda := [], turn := 0, cur := { core := 0, ctx := 0, idx := 0 }, free := 0, vcFlits := 33 }

end Sys2Proof.Machine
end

