-- ==== Sys2Proof/Machine/Ops.lean ====
section
/-! DEFINITION. The named operations over registers, memory, traps and launches. -/
namespace Sys2Proof.Machine

/-! ## Faults and traps -/

/-- The fault codes of Table 3.11. -/
inductive FaultCode where
  | illegal
  | blockFormat
  | blockBalance
  | poolFloor
  | formatUnaccepted
  | streamLength
  | tagDepth
  | tagCheck
  | allocDeadlock
  | windowStraddle
  | translation
  | protection
  | objectBound
  | versionRetry
  | matrixPoison
  | sparseMeta
  | collTimeout
  | saveFault
  | saveSpace
  | restoreUnsealed
  | proofFull
  | gatherIndex
  | arith
  deriving DecidableEq, Repr, Inhabited

/-- The 8-bit code of a fault (R56, Table 3.11). -/
def FaultCode.code : FaultCode → Nat
  | .illegal => 0x01
  | .blockFormat => 0x02
  | .blockBalance => 0x03
  | .poolFloor => 0x04
  | .formatUnaccepted => 0x05
  | .streamLength => 0x06
  | .tagDepth => 0x07
  | .tagCheck => 0x08
  | .allocDeadlock => 0x09
  | .windowStraddle => 0x0A
  | .translation => 0x0B
  | .protection => 0x0C
  | .objectBound => 0x0D
  | .versionRetry => 0x0E
  | .matrixPoison => 0x0F
  | .sparseMeta => 0x10
  | .collTimeout => 0x11
  | .saveFault => 0x12
  | .saveSpace => 0x13
  | .restoreUnsealed => 0x14
  | .proofFull => 0x15
  | .gatherIndex => 0x16
  | .arith => 0x17

/-- A trap's cause before it is laid out: Table 6.6 and tinfo, tinfo_h (R133), with the fields of Table 21.10 in
`extra`. -/
structure Trap where
  fault : Nat
  poison : Bool
  core : Nat
  ctx : Nat
  source : Nat
  instr : Nat
  code : Nat
  info : Nat
  infoH : Nat
  extra : Nat
  deriving DecidableEq, Repr, Inhabited

/-- A trap of a control-core word with no faulting address. -/
def Trap.word (f : FaultCode) : Trap :=
  { fault := f.code, poison := false, core := 0, ctx := 0, source := 0, instr := 0, code := 0, info := 0, infoH := 0,
    extra := 0 }

/-- A trap of a control-core access at an address; `p` marks poison (R92). -/
def Trap.access (f : FaultCode) (addr : Nat) (p : Bool := false) : Trap :=
  { Trap.word f with info := addr, poison := p }

/-- An asynchronous trap with source 01 (R132): core index, context and instruction of its cause. -/
def Trap.engine (f core ctx instr info infoH : Nat) : Trap :=
  { fault := f, poison := false, core := core % 16, ctx := ctx, source := 1, instr := instr, code := 0, info := info,
    infoH := infoH, extra := 0 }

/-- The cause words of a trap (Tables 6.6 and 21.10). -/
def Trap.cause (t : Trap) : Cause :=
  { tcause := BitVec.ofNat 64 (t.extra + 2 ^ 40 * t.code + 2 ^ 36 * t.core + 2 ^ 34 * t.ctx + 2 ^ 32 * t.source +
      2 ^ 16 * b2n t.poison + 2 ^ 8 * t.instr + t.fault)
    tinfo := BitVec.ofNat 64 t.info
    tinfoH := BitVec.ofNat 64 t.infoH }

/-- Why a word does not complete: it traps, or it waits (R113). -/
inductive Stop where
  | trap (t : Trap)
  | wait
  deriving DecidableEq, Repr, Inhabited

/-- The result of a control-core operation. -/
abbrev Res (α : Type) := Except Stop α

/-- Raise a fault of the word. -/
def fail {α : Type} (f : FaultCode) : Res α := .error (.trap (Trap.word f))

/-- Raise a fault of the word unless `c` holds. -/
def need (c : Bool) (f : FaultCode) : Res Unit := if c then .ok () else fail f

/-- Wait unless `c` holds (R113). -/
def await (c : Bool) : Res Unit := if c then .ok () else .error .wait

/-! ## The parts of the state -/

def State.region (s : State) (r : Nat) : Region := sget Region.reset s.regions r

def State.setRegion (s : State) (r : Nat) (v : Region) : State := { s with regions := sput s.regions r v }

def State.core (s : State) (c : Nat) : Core := sget Core.reset s.cores c

def State.setCore (s : State) (c : Nat) (v : Core) : State := { s with cores := sput s.cores c v }

def Core.ctx (c : Core) (x : Nat) : Ctx := sget Ctx.reset c.ctxs x

def Core.setCtx (c : Core) (x : Nat) (v : Ctx) : Core := { c with ctxs := sput c.ctxs x v }

def State.ctx (s : State) (c x : Nat) : Ctx := (s.core c).ctx x

def State.setCtx (s : State) (c x : Nat) (v : Ctx) : State := s.setCore c ((s.core c).setCtx x v)

/-- The region of a core (R9). -/
def regionOf (core : Nat) : Nat := core / 16

/-- The core that index `i` of a region names (R9). -/
def coreOf (r i : Nat) : Nat := 16 * r + i

def State.setFree (s : State) (n : Nat) : State := { s with free := n }

/-! ## Tiles -/

def Core.tile (c : Core) (n : Nat) : Tile := sget Tile.reset c.tiles n

/-- An empty tile is not listed. -/
def Core.setTile (c : Core) (n : Nat) (t : Tile) : Core :=
  { c with tiles := if t.state = .empty then sdel c.tiles n else sput c.tiles n t }

def State.tile (s : State) (core n : Nat) : Tile := (s.core core).tile n

def State.setTile (s : State) (core n : Nat) (t : Tile) : State := s.setCore core ((s.core core).setTile n t)

/-! ## Event counters (R353) -/

/-- Whether an event source is counted for a select's context mask (Table 23.3). -/
def maskedSource (src : Nat) : Bool := (1 ≤ src && src ≤ 9) || src == 15 || src == 20

/-- Count `n` events of a source for a context in every counter whose select names them (R353). -/
def Core.countEvent (c : Core) (src ctx n : Nat) : Core :=
  { c with counters := (range 0 8).foldl (fun t k =>
      let sel := sget 0 c.selects k
      if bits sel 7 0 = src ∧ (!maskedSource src || bits sel 11 8 == 0 || bit (bits sel 11 8) ctx) then
        sput t k ((sget 0 t k + n) % 2 ^ 48) else t) c.counters }

def State.countEvent (s : State) (core src ctx n : Nat) : State := s.setCore core ((s.core core).countEvent src ctx n)

/-! ## General registers (R83) -/

/-- Register x0 reads as zero. -/
def Region.getX (g : Region) (n : Nat) : Word := if n = 0 then 0 else sget 0 g.x n

/-- A write to x0 is discarded. -/
def Region.setX (g : Region) (n : Nat) (v : Word) : Region := if n = 0 then g else { g with x := sput g.x n v }

def State.getX (s : State) (r n : Nat) : Word := (s.region r).getX n

def State.setX (s : State) (r n : Nat) (v : Word) : State := s.setRegion r ((s.region r).setX n v)

/-! ## Memory -/

/-- The memory key of a byte of stacked DRAM: its 45-bit physical address (R13). -/
def dramKey (p : Nat) : Nat := p

/-- The memory key of a scratchpad byte (R210). -/
def spadKey (core off : Nat) : Nat := 2 ^ 45 + 2 ^ 19 * core + off

/-- The memory key of a byte of a quad bank's window part (R12). -/
def quadKey (quad off : Nat) : Nat := 2 ^ 46 + 2 ^ 21 * quad + off

/-- The memory key of a byte of a region bank's window part. -/
def regionKey (r off : Nat) : Nat := 2 ^ 46 + 2 ^ 32 + 2 ^ 22 * r + off

/-- The memory key of a byte of a sector bank's window part. -/
def sectorKey (sec off : Nat) : Nat := 2 ^ 46 + 2 ^ 33 + 2 ^ 23 * sec + off

/-- The byte of a memory at a key. -/
def memRead (m : List Host.Cell) (k : Nat) : Byte := sget Config.unlistedByte m k

/-- A byte write: the form stays canonical (rising keys, no entry equal to the unlisted byte). -/
def memWrite (m : List Host.Cell) (k : Nat) (v : Byte) : List Host.Cell :=
  if v = Config.unlistedByte then sdel m k else sput m k v

/-- The keys of a memory rise strictly. -/
def keysRise : List Host.Cell → Bool
  | [] => true
  | [_] => true
  | (a, _) :: (b, v) :: l => a < b && keysRise ((b, v) :: l)

/-- The canonical form of a memory. -/
def memWf (m : List Host.Cell) : Bool := keysRise m && m.all (fun c => c.2 != Config.unlistedByte)

def State.readByte (s : State) (k : Nat) : Nat := (memRead s.mem k).toNat

def State.writeByte (s : State) (k v : Nat) : State := { s with mem := memWrite s.mem k (BitVec.ofNat 8 v) }

/-- The bytes at a list of keys. -/
def State.readKeys (s : State) (ks : List Nat) : List Nat := ks.map s.readByte

/-- Write bytes at a list of keys, in ascending order (R91). -/
def State.writeKeys (s : State) : List Nat → List Nat → State
  | k :: ks, b :: bs => (s.writeByte k b).writeKeys ks bs
  | _, _ => s

/-- Whether any byte at the keys lies in a poisoned unit (R280). -/
def State.poisonedAt (s : State) (ks : List Nat) : Bool := ks.any (fun k => s.poison.contains (k / 8))

/-- The 8-byte units that a write of these keys covers wholly (R280). -/
def wholeUnits (ks : List Nat) : List Nat :=
  (ks.filter (fun k => k % 8 == 0 && (range k 8).all (fun j => ks.contains j))).map (fun k => k / 8)

/-- A plain write in one access: the bytes, poison cleared in the units it covers wholly (R280, R92), and counters it
overlaps unmarked (R282). -/
def State.store (s : State) (ks bs : List Nat) : State :=
  let s := s.writeKeys ks bs
  { s with poison := (wholeUnits ks).foldl removeNat s.poison
           marks := s.marks.filter (fun m => !(ks.any (fun k => k / 16 == m / 16))) }

/-- The core that counts an error of a byte: the scratchpad's, the vault's, or the first below a bank (log 89). -/
def eventCore (k : Nat) : Nat :=
  if k < 2 ^ 45 then k / 2 ^ 27 % 4096
  else if k < 2 ^ 46 then (k - 2 ^ 45) / 2 ^ 19
  else if k < 2 ^ 46 + 2 ^ 32 then 4 * ((k - 2 ^ 46) / 2 ^ 21)
  else if k < 2 ^ 46 + 2 ^ 33 then 16 * ((k - 2 ^ 46 - 2 ^ 32) / 2 ^ 22)
  else 64 * ((k - 2 ^ 46 - 2 ^ 33) / 2 ^ 23)

/-- Poison units: each that was not poisoned is counted (R280, R353). -/
def State.spoil (s : State) (us : List Nat) : State :=
  let fresh := (us.filter (fun u => !s.poison.contains u)).foldl insertNat []
  fresh.foldl (fun t u => t.countEvent (eventCore (8 * u)) 12 0 1) { s with poison := us.foldl insertNat s.poison }

/-- Poison every unit these keys touch (R280). -/
def State.poisonKeys (s : State) (ks : List Nat) : State := s.spoil ((ks.map (· / 8)).foldl insertNat [])

/-- A write that carries poison with its bytes (R280): the units that poisoned bytes touch are poisoned; those that were not before
are counted. -/
def State.storeMarked (s : State) (ks bs : List Nat) (ps : List Bool) : State :=
  let s1 := s.store ks bs
  let bad := (ks.zip ps).filterMap (fun p => if p.2 then some (p.1 / 8) else none)
  if bad.isEmpty then s1
  else
    let old := (bad.filter s.poison.contains).foldl insertNat []
    ({ s1 with poison := old.foldl insertNat s1.poison } : State).spoil (bad.foldl insertNat [])

/-- The soft errors of a beat of a core, which the model leaves free: what is uncorrectable is poisoned and counted, what is corrected
is counted (R280, R353, log 89). -/
def State.softErrors (s : State) (core : Nat) : State :=
  let us := (Config.uncorrectable s.free).filter (fun u => eventCore (8 * u) == core)
  let (a, b) := Config.corrected s.free
  (((s.spoil us).countEvent core 10 0 a).countEvent core 11 0 b).setFree (s.free + 1)

/-- A little-endian number read at keys (R3). -/
def State.readNat (s : State) (ks : List Nat) : Nat := ofBytes (s.readKeys ks)

/-- This package's number, 0 while it has none (log 78). -/
def State.packageNo (s : State) : Nat := s.die.package.getD 0

/-- The link by which the route tables lead from a stack to a package (R296): an entry below 4 names a link of its own root, another
the root whose table goes on. -/
def State.routeFrom (s : State) (pkg : Nat) : Nat → Nat → Option Nat
  | 0, _ => none
  | f + 1, stack => match sfind s.die.routes (64 * stack + pkg) with
    | none => none
    | some v => if v < 4 then some (4 * stack + v) else s.routeFrom pkg f (v - 4)

def State.link (s : State) (l : Nat) : Link := sget Link.reset s.die.links l

/-- Whether a link that is up leads from some stack to a package. -/
def State.reaches (s : State) (pkg : Nat) : Bool :=
  (range 0 4).any (fun st => (s.routeFrom pkg 4 st).any (fun l => (s.link l).state == .up))

/-- Whether the home of a byte at these keys answers nothing now: a vault whose controller holds requests (R281, R365, R366),
its number bits [38:27], or memory of a package that no link leads to (R13, R296, log 10). -/
def vaultHeld (s : State) (ks : List Nat) : Bool :=
  ks.any (fun k => k < 2 ^ 45 && (if k / 2 ^ 39 = s.packageNo then (sget Vault.reset s.die.vaults (k / 2 ^ 27 % 4096)).held
    else !s.reaches (k / 2 ^ 39)))

/-! ## Held atomics (R366) -/

/-- The vault of a byte, its package included. -/
def vaultNo (k : Nat) : Nat := k / 2 ^ 27

/-- When the atomics that wait at a vault have arrived there. -/
def State.heldAtomics (s : State) (v : Nat) : List Nat :=
  let due (h : Option (Nat × Nat)) : Option Nat := h.bind (fun p => if p.1 = v then some p.2 else none)
  s.regions.filterMap (fun g => due g.2.heldAt) ++
    s.cores.flatMap (fun c => c.2.reqs.filterMap (fun r => due r.heldAt) ++ c.2.copy.chunks.filterMap (fun h => due h.heldAt))

/-- Whether an atomic at these keys, which waits there since `own` or has just come, is performed now: its vault is not held, and
no atomic that has arrived before it waits (R366). -/
def atomicGoes (s : State) (own : Option (Nat × Nat)) (ks : List Nat) : Bool :=
  let mine := own.filter (fun p => ks.any (fun k => vaultNo k == p.1))
  !vaultHeld s ks && ks.all (fun k => !(k < 2 ^ 45) || (s.heldAtomics (vaultNo k)).all (fun t => mine.any (fun p => p.2 ≤ t)))

/-- The place of an atomic that cannot be performed now: the one it has at that vault, else behind those that wait. -/
def heldPlace (s : State) (own : Option (Nat × Nat)) (ks : List Nat) : Option (Nat × Nat) :=
  match ks with
  | k :: _ => if own.any (fun p => ks.any (fun k => vaultNo k == p.1)) then own else if k < 2 ^ 45 then some (vaultNo k, s.ticks.toNat) else none
  | [] => none

/-- An atomic's write of its word: poison and marks stay (R279, R282). -/
def State.rmw (s : State) (ks bs : List Nat) : State := s.writeKeys ks bs

/-! ## Windows (R265, R266) -/

/-- The window part, in bytes, of a bank of `size` bytes whose split is `e` eighths (R12). -/
def windowPart (size e : Nat) : Nat := size / 8 * e

def State.quadEnd (s : State) (core : Nat) : Nat := windowPart (2 ^ 21) (sget 8 s.quadSplit (regionOf core))

def State.regionEnd (s : State) (r : Nat) : Nat := windowPart (2 ^ 22) (s.region r).regionSplit

def State.sectorEnd (s : State) (sec : Nat) : Nat := windowPart (2 ^ 23) (sget 4 s.sectorSplit sec)

/-- Who makes an access: a control core, a context of a core, or an application core (Table 16.1). -/
inductive Actor where
  | control (r : Nat)
  | context (core ctx : Nat)
  deriving DecidableEq, Repr

def Actor.region : Actor → Nat
  | .control r => r
  | .context c _ => regionOf c

/-- The context whose tables translate (R268): the control core uses context 0. -/
def Actor.tables : Actor → Nat
  | .control _ => 0
  | .context _ x => x

/-- What an access does, for its rights (R269). -/
inductive Want where
  | read
  | write
  | atomic
  deriving DecidableEq, Repr

/-- A fault of an access, with the poison mark of tcause (R133). -/
abbrev Acc (α : Type) := Except (FaultCode × Bool) α

/-- The rights an access needs from the read, write and atomic bits (R269, R279). -/
def rightsOk (w : Want) (r wr a : Bool) : Bool :=
  match w with
  | .read => r
  | .write => wr
  | .atomic => r && wr && a

/-- The keys of 8 bytes of physical memory. -/
def physKeys (p n : Nat) : List Nat := range (dramKey p) n

/-- Whether entry `e` of a range table is valid and breaks Table 16.3 or passes 2^45 (R269). -/
def rangeBad (e : Nat) : Bool :=
  let base := bits e 51 0
  let limit := bits e 115 64
  let pbase := bits e 172 128
  bit e 63 && (bits e 59 52 != 0 || bits e 127 116 != 0 || bits e 191 173 != 0 || bits e 255 192 != 0 ||
    base % 4096 != 0 || pbase % 4096 != 0 || (limit + 1) % 4096 != 0 || limit < base || 2 ^ 45 < pbase + (limit + 1 - base))

/-- The keys of entry `i` of a range table. -/
def rangeEntry (table i : Nat) : List Nat := physKeys (table + 32 * i) 32

/-- The first of `n` entries from entry `i` that translates `va`: a physical address and the entry's rights (R268); a poisoned
entry on the way faults (R280). -/
def rangeSearch (s : State) (table va : Nat) : Nat → Nat → Acc (Option (Nat × Bool × Bool × Bool))
  | 0, _ => .ok none
  | n + 1, i =>
    let ks := rangeEntry table i
    if s.poisonedAt ks then .error (.translation, true)
    else
      let e := s.readNat ks
      if bit e 63 && bits e 51 0 ≤ va && va ≤ bits e 115 64 then
        .ok (some (bits e 172 128 + (va - bits e 51 0), bit e 62, bit e 61, bit e 60))
      else rangeSearch s table va n (i + 1)

/-- The range search (R268, R269): a malformed entry anywhere in the table faults every access that reaches it. -/
def rangeLookup (s : State) (table va : Nat) : Acc (Option (Nat × Bool × Bool × Bool)) :=
  match rangeSearch s table va 32 0 with
  | .error e => .error e
  | .ok t =>
    if (range 0 32).any (fun i => !s.poisonedAt (rangeEntry table i) && rangeBad (s.readNat (rangeEntry table i))) then
      .error (.translation, false)
    else .ok t

/-- The bytes of a leaf of a size code (Table 16.4), with the one level that allows it (R270). -/
def leafSize (code : Nat) : Option (Nat × Nat) :=
  match code with
  | 0 => some (2 ^ 12, 0)
  | 1 => some (2 ^ 16, 0)
  | 2 => some (2 ^ 21, 1)
  | 3 => some (2 ^ 25, 1)
  | 4 => some (2 ^ 30, 2)
  | _ => none

/-- Walk the page tables (R270, R271) from a table at a level, downward; a leaf adds the low bits of `va` to its frame, within
the 45 bits of a physical address (log 86). -/
def pageWalk (s : State) (va : Nat) : Nat → Nat → Acc (Nat × Bool × Bool × Bool)
  | level, table =>
    let index := if level = 3 then bits va 51 39 else va / 2 ^ (12 + 9 * level) % 512
    let ks := physKeys (table + 8 * index) 8
    if s.poisonedAt ks then .error (.translation, true)
    else
      let e := s.readNat ks
      if !bit e 63 || bits e 55 45 != 0 || bits e 11 0 != 0 then .error (.translation, false)
      else if bit e 56 then
        match leafSize (bits e 59 57) with
        | some (size, l) =>
          if l = level then .ok ((2 ^ 12 * bits e 44 12 + va % size) % 2 ^ 45, bit e 62, bit e 61, bit e 60)
          else .error (.translation, false)
        | none => .error (.translation, false)
      else match level with
        | 0 => .error (.translation, false)
        | l + 1 => pageWalk s va l (2 ^ 12 * bits e 44 12)

/-- Translate a window 0x8 address by the tables of a region's context (R268). -/
def translate (s : State) (r x va : Nat) : Acc (Nat × Bool × Bool × Bool) :=
  let g := s.region r
  let rt := (sget 0 g.rtab x).toNat
  let pt := (sget 0 g.ptroot x).toNat
  match (if bit rt 63 then rangeLookup s (bits rt 44 0) va else .ok none) with
  | .error e => .error e
  | .ok (some t) => .ok t
  | .ok none => if bit pt 63 then pageWalk s va 3 (bits pt 44 0) else .error (.translation, false)

/-- The keys of an access of `n` bytes at a window 0x8 offset, page by page, with its rights (R267). -/
def globalKeys (s : State) (r x va n : Nat) (w : Want) : Acc (List Nat) := do
  let t ← translate s r x va
  let inPage := 4096 - va % 4096
  if n ≤ inPage then
    if rightsOk w t.2.1 t.2.2.1 t.2.2.2 then .ok (range t.1 n) else .error (.protection, false)
  else
    let u ← translate s r x (va + inPage)
    if rightsOk w t.2.1 t.2.2.1 t.2.2.2 && rightsOk w u.2.1 u.2.2.1 u.2.2.2 then
      .ok (range t.1 inPage ++ range u.1 (n - inPage))
    else .error (.protection, false)

/-- The end of a window for an actor, and the key of its first byte (R265, R266); the first fault of check 1 of R267. -/
def windowOf (s : State) (who : Actor) (win : Nat) : Acc (Nat × Nat) :=
  match who with
  | .control r =>
    match win with
    | 0x0 => .error (.protection, false)
    | 0x1 => .error (.protection, false)
    | 0x2 => .ok (s.regionEnd r, regionKey r 0)
    | 0x3 => .ok (s.sectorEnd (r / 4), sectorKey (r / 4) 0)
    | 0x8 => .ok (2 ^ 52, 0)
    | 0xF => if (s.region r).mode = .privileged then .ok (2 ^ 60, 0) else .error (.protection, false)
    | _ => .error (.translation, false)
  | .context c _ =>
    match win with
    | 0x0 => .ok (2 ^ 19, spadKey c 0)
    | 0x1 => .ok (s.quadEnd c, quadKey (c / 4) 0)
    | 0x2 => .ok (s.regionEnd (regionOf c), regionKey (regionOf c) 0)
    | 0x3 => .ok (s.sectorEnd (c / 64), sectorKey (c / 64) 0)
    | 0x8 => .ok (2 ^ 52, 0)
    | 0xF => .error (.protection, false)
    | _ => .error (.translation, false)

/-- Checks 1 to 4 of R267 on an access of `n` bytes (1 or more) at a pointer: the memory keys of its bytes. A device
register access (window 0xF, offset [59]) answers no keys. -/
def resolve (s : State) (who : Actor) (addr n : Nat) (w : Want) : Acc (List Nat) := do
  let win := addr / 2 ^ 60
  let off := addr % 2 ^ 60
  let (stop, base) ← windowOf s who win
  if stop ≤ off then .error (.translation, false)
  else if win = 0xF ∧ bits off 58 45 ≠ 0 then .error (.translation, false)
  else if (addr + n - 1) % 2 ^ 64 / 2 ^ 60 ≠ win then .error (.windowStraddle, false)
  else if stop < off + n ∨ (win = 0xF ∧ bits (off + n - 1) 58 45 ≠ 0) then .error (.translation, false)
  else if win = 0x8 then globalKeys s who.region who.tables off n w
  else if win = 0xF then (if bit off 59 then .ok [] else .ok (range (bits off 44 0) n))
  else .ok (range (base + off) n)

/-- Check 5 of R267: object `j` of the region's object table covers the access and gives its right (R273). -/
def objectOk (s : State) (r j addr n : Nat) (w : Want) : Acc Unit :=
  if j = 0xFFFF then .ok ()
  else
    let ot := (s.region r).otab.toNat
    if !bit ot 63 then .error (.objectBound, false)
    else
      let ks := physKeys (bits ot 44 0 + 64 * j) 64
      if s.poisonedAt ks then .error (.objectBound, true)
      else
        let e := s.readNat ks
        let base := bits e 63 0
        if bit e 191 && base ≤ addr && addr + n ≤ base + bits e 103 64 && rightsOk w (bit e 190) (bit e 189) (bit e 188)
        then .ok () else .error (.objectBound, false)

/-- Whether a walk of the page tables from a table at a level reads a line whose home answers nothing now (R281). -/
def pageHeld (s : State) (va : Nat) : Nat → Nat → Bool
  | level, table =>
    let index := if level = 3 then bits va 51 39 else va / 2 ^ (12 + 9 * level) % 512
    let ks := physKeys (table + 8 * index) 8
    let e := s.readNat ks
    vaultHeld s ks || (!s.poisonedAt ks && bit e 63 && bits e 55 45 == 0 && bits e 11 0 == 0 && !bit e 56 && (match level with
      | 0 => false
      | l + 1 => pageHeld s va l (2 ^ 12 * bits e 44 12)))

/-- Whether the translation of `va` reads such a line. -/
def tablesHeld (s : State) (r x va : Nat) : Bool :=
  let g := s.region r
  let rt := (sget 0 g.rtab x).toNat
  let pt := (sget 0 g.ptroot x).toNat
  if bit rt 63 && vaultHeld s [bits rt 44 0] then true
  else match (if bit rt 63 then rangeLookup s (bits rt 44 0) va else .ok none) with
    | .ok none => bit pt 63 && pageHeld s va 3 (bits pt 44 0)
    | _ => false

/-- Whether the tables that an access of `n` bytes needs are held: the access waits as a late operand (R281, R289). -/
def walkHeld (s : State) (who : Actor) (addr n : Nat) : Bool :=
  let off := addr % 2 ^ 60
  addr / 2 ^ 60 == 8 && off + n ≤ 2 ^ 52 && (tablesHeld s who.region who.tables off ||
    (4096 < off % 4096 + n && tablesHeld s who.region who.tables (off + (4096 - off % 4096))))

/-- Whether the object-table entry an access is checked against is held. -/
def objectHeld (s : State) (r j : Nat) : Bool :=
  let ot := (s.region r).otab.toNat
  j != 0xFFFF && bit ot 63 && vaultHeld s [bits ot 44 0 + 64 * j]

/-- An access fault of a control-core word: the faulting address goes to tinfo (R133). -/
def ofAcc {α : Type} (addr : Nat) : Acc α → Res α
  | .ok a => .ok a
  | .error (f, p) => .error (.trap (Trap.access f addr p))

/-! ## The store buffer (R95) -/

/-- The bytes at a key as the control core sees them: its own newest buffered byte, else memory. -/
def bufRead (stores : List BufStore) (k : Nat) (d : Nat) : Nat :=
  stores.foldl (fun v b => match (b.keys.zip b.bytes).find? (fun p => p.1 == k) with
    | some p => p.2
    | none => v) d

def State.ccRead (s : State) (r : Nat) (ks : List Nat) : List Nat :=
  ks.map (fun k => bufRead (s.region r).stores k (s.readByte k))

/-- The oldest buffered store becomes visible to every other observer; it waits while its home is held. -/
def State.drainOne (s : State) (r : Nat) : State :=
  let g := s.region r
  match g.stores with
  | [] => s
  | b :: rest => if vaultHeld s b.keys then s else (s.setRegion r { g with stores := rest }).store b.keys b.bytes

/-- Perform a list of buffered stores in order. -/
def State.storeAll (s : State) : List BufStore → State
  | [] => s
  | b :: bs => (s.store b.keys b.bytes).storeAll bs

/-- The buffered stores that go before the first whose home is held. -/
def State.going (s : State) (r : Nat) : List BufStore := (s.region r).stores.takeWhile (fun b => !vaultHeld s b.keys)

/-- Every buffered store of the control core is performed, in order (R96, R98), up to one whose home is held. -/
def State.drain (s : State) (r : Nat) : State :=
  let g := s.region r
  (s.setRegion r { g with stores := g.stores.drop (s.going r).length }).storeAll (s.going r)

/-- Whether every buffered store of the control core can be performed now. -/
def State.drains (s : State) (r : Nat) : Bool := (s.region r).stores.all (fun b => !vaultHeld s b.keys)

/-- Whether a store finds room in the buffer (R95). -/
def State.bufferRoom (s : State) (r : Nat) : Bool :=
  (s.region r).stores.length < 8 || !((s.region r).stores.head?.any (fun b => vaultHeld s b.keys))

/-- A store enters the buffer; a full buffer first performs its oldest (R95). -/
def State.buffer (s : State) (r : Nat) (b : BufStore) : State :=
  let s := if (s.region r).stores.length < 8 then s else s.drainOne r
  s.setRegion r { s.region r with stores := (s.region r).stores ++ [b] }

/-! ## Loops and the end of a word (R103-R109) -/

/-- The address of an entry's last body word (R103). -/
def LoopEntry.last (e : LoopEntry) : Word := e.start + BitVec.ofNat 64 (4 * (e.len - 1))

/-- The entry at a level. -/
def Region.loopAt (g : Region) (l : Nat) : LoopEntry := sget { start := 0, len := 0, count := 0 } g.loops l

/-- End processing after the word at `a` completes (R105), from depth `n` down: the new depth, entries and pc. -/
def endCheck (a : Word) : Nat → Sparse LoopEntry → Nat × Sparse LoopEntry × Word
  | 0, ls => (0, ls, a + 4)
  | n + 1, ls =>
    let e := sget { start := 0, len := 0, count := 0 } ls n
    if a = e.last then
      let ls := sput ls n { e with count := e.count - 1 }
      if 0 < e.count - 1 then (n + 1, ls, e.start) else endCheck a n ls
    else (n + 1, ls, a + 4)

/-- The control core after the word at its pc completes with no taken transfer (R105). -/
def Region.completed (g : Region) : Region :=
  let (d, ls, pc) := endCheck g.pc g.depth g.loops
  { g with depth := d, loops := ls, pc := pc, waiting := false, heldAt := none, sendSince := none }

/-- Unwind the loop stack to the entries that hold the target (R108). -/
def unwind (t : Word) : Nat → Sparse LoopEntry → Nat
  | 0, _ => 0
  | n + 1, ls =>
    let e := sget { start := 0, len := 0, count := 0 } ls n
    if e.start.toNat ≤ t.toNat ∧ t.toNat ≤ e.last.toNat then n + 1 else unwind t n ls

/-- A jump to `t`; `un` unwinds the loop stack (R108). -/
def Region.jump (g : Region) (t : Word) (un : Bool) : Region :=
  { g with pc := t, depth := if un then unwind t g.depth g.loops else g.depth, waiting := false, heldAt := none, sendSince := none }

/-- Word 1 of a saved loop entry (Table 5.7). -/
def LoopEntry.word1 (e : LoopEntry) : Word := BitVec.ofNat 64 (2 ^ 48 * e.len + e.count)

/-- The saved loop-stack state (R109): depth at 0, then two words for each of ls0 to ls3. -/
def Region.saveLoops (g : Region) : Sparse Word :=
  (0, BitVec.ofNat 64 g.depth) ::
    (range 0 4).flatMap (fun l => [(2 * l + 1, (g.loopAt l).start), (2 * l + 2, (g.loopAt l).word1)])

/-- A saved entry back as a loop entry. -/
def savedEntry (saved : Sparse Word) (l : Nat) : LoopEntry :=
  let w1 := (sget 0 saved (2 * l + 2)).toNat
  { start := sget 0 saved (2 * l + 1), len := bits w1 57 48, count := bits w1 47 0 }

/-- Whether `tret` accepts the saved loop state (R109). -/
def savedOk (saved : Sparse Word) : Bool :=
  let d := (sget 0 saved 0).toNat
  d ≤ 4 && (range 0 d).all (fun l =>
    let e := savedEntry saved l
    let w1 := (sget 0 saved (2 * l + 2)).toNat
    e.len != 0 && e.count != 0 && e.start.toNat % 4 == 0 && bits w1 63 58 == 0)

/-! ## Taking a trap and returning (R132-R134) -/

/-- Enter the handler: save the resume address, the loop stack and the cause; privileged mode; pc at tvec (R132). -/
def Region.enterTrap (g : Region) (resume : Word) (c : Cause) : Region :=
  { g with tpc := resume, saved := g.saveLoops, depth := 0, tcause := c.tcause, tinfo := c.tinfo, tinfoH := c.tinfoH,
           mode := .privileged, pc := g.tvec, waiting := false, heldAt := none, sendSince := none, atLwait := false }

/-- Return from the handler: the loop stack, unprivileged mode, and pc at tpc (R134, R109). -/
def Region.returnTrap (g : Region) : Region :=
  { g with depth := (sget 0 g.saved 0).toNat,
           loops := (range 0 4).map (fun l => (l, savedEntry g.saved l)),
           mode := .unprivileged, pc := g.tpc, waiting := false, heldAt := none, sendSince := none }

/-! ## Launches: the record's fields (Table 2.2) -/

def Launch.w (l : Launch) (i : Nat) : Nat := (nth 0 l.words i).toNat

def Launch.id (l : Launch) : Nat := bits (l.w 0) 63 48

def Launch.mask (l : Launch) : Nat := bits (l.w 0) 47 32

def Launch.spill (l : Launch) : Nat := bits (l.w 0) 15 0

/-- The core mask of the running launch; no launch has none. -/
def Region.mask (g : Region) : Nat :=
  match g.launch with
  | some l => l.mask
  | none => 0

/-- The four pool sizes, context 0 first (R210): equal shares when w4 is zero. -/
def Launch.pools (l : Launch) : List Nat :=
  if l.w 4 = 0 then List.replicate 4 ((16384 - l.spill) / 4)
  else (range 0 4).map (fun c => bits (l.w 4) (16 * c + 15) (16 * c))

/-- The four proof sizes (R339): a zero field is the pool's size. -/
def Launch.proofs (l : Launch) : List Nat :=
  (range 0 4).map (fun c =>
    let p := bits (l.w 5) (16 * c + 15) (16 * c)
    if p = 0 then nth 0 l.pools c else p)

/-- The status word of R22. -/
def statusWord (id status fault : Nat) : Word := BitVec.ofNat 64 (2 ^ 48 * id + 2 ^ 40 * status + 2 ^ 32 * fault)

/-- Tell the application die. -/
def State.notify (s : State) (n : Notice) : State := { s with die := { s.die with notices := s.die.notices ++ [n] } }

/-- Whether a status word can be written now: every store before it, its tables and its home answer (R22, R281). -/
def State.statusReady (s : State) (r completion : Nat) : Bool :=
  s.drains r && !walkHeld s (.control r) completion 8 && (match resolve s (.control r) completion 8 .write with
    | .ok ks => !vaultHeld s ks
    | .error _ => true)

/-- Write a status word at the launch's completion address through context 0's tables (R22, R268), a release store at
package scope; a completion address that fails its checks loses the word (log 13), and one whose home is held is owed until
STORE_BUFFER_DRAIN. -/
def State.writeStatus (s : State) (r completion : Nat) (w : Word) : State :=
  let s := s.drain r
  if completion % 8 = 0 ∧ completion / 2 ^ 60 = 8 then
    if !s.statusReady r completion then
      s.setRegion r { s.region r with owed := (s.region r).owed ++ [(BitVec.ofNat 64 completion, w)] }
    else match resolve s (.control r) completion 8 .write with
      | .ok ks => (s.store ks (toBytes 8 w.toNat)).notify (.status r w)
      | .error _ => s.notify (.statusLost r w)
  else s.notify (.statusLost r w)

/-! ## Frames, contexts and the cleaning of cores -/

/-- Every column the context owns is cleared as `acc.clr` clears it (R320), with written 0. -/
def Matrix.clearOwned (m : Matrix) (p : Nat → Bool) : Matrix :=
  let cs := (m.cols.filter (fun c => p c.2.owner)).map (·.1)
  { m with cols := m.cols.filter (fun c => !p c.2.owner)
           acc := m.acc.filter (fun a => !cs.contains (a.1 / 128))
           incomplete := m.incomplete.filter (fun a => !cs.contains (a / 128)) }

/-- The marks of counters whose bytes lie at keys `lo` to `hi - 1` are lost (R349). -/
def State.unmark (s : State) (lo hi : Nat) : State :=
  { s with marks := s.marks.filter (fun m => !(lo ≤ m && m < hi)) }

/-- Cores of a region's launch mask. -/
def maskCores (r mask : Nat) : List Nat := (maskList mask 16).map (coreOf r)

/-- A copy unit at a launch's end: quanta and windows as at reset (R23); a tile that a copy held is gone. -/
def CopyUnit.clean (u : CopyUnit) : CopyUnit :=
  let g (q : Copy) : Copy := { q with moveTile := none, slotTile := none }
  { u with quanta := CopyUnit.reset.quanta, windows := CopyUnit.reset.windows, sinceHalf := CopyUnit.reset.sinceHalf,
           sinceMark := CopyUnit.reset.sinceMark, flying := u.flying.map g,
           queues := u.queues.map (fun (q : Nat × List Copy) => (q.1, q.2.map g)) }

/-- The matrix engine at a launch's end: columns and scale cache cleared (R23); an order under way has no tile to write. -/
def Matrix.clean (m : Matrix) : Matrix :=
  let g (r : Running) : Running := { r with ops := [], reads := [] }
  { Matrix.reset with lfsr := m.lfsr, queue := m.queue, running := m.running.map g }

/-- One core back to the clean state of R23. Scorecards, event counters and selects, sampling control, the drain
LFSR states, and copies and orders under way run on (log 63); breakpoints and diversion entries are cleared (log 83). -/
def Core.clean (c : Core) : Core :=
  { Core.reset with
    ctxs := c.ctxs.map (fun p => (p.1, { Ctx.reset with score := p.2.score, last := p.2.last, prio := p.2.prio }))
    mx := c.mx.clean, copy := c.copy.clean
    counters := c.counters, countersNew := c.countersNew, scoreClears := c.scoreClears, selects := c.selects, sampling := c.sampling, sampler := c.sampler, image := c.image, beat := c.beat }

/-- Set an event bit of the region (R136). -/
def State.setEvent (s : State) (r b : Nat) : State :=
  let g := s.region r
  if g.launch.isNone then s else s.setRegion r { g with events := g.events ||| BitVec.ofNat 64 (2 ^ b) }

/-- The frame byte of a tag. -/
def frameOf (tag : Nat) : Nat := bits tag 63 56

/-! ### Tiles that become empty (R212, R216) -/

/-- Pools that this beat touches: a request has entered, or a tile has become empty (R219). -/
def Core.touch (c : Core) (qs : List Nat) : Core := { c with touched := (qs.filter (fun q => q < 4)).foldl insertNat c.touched }

def State.touch (s : State) (core : Nat) (qs : List Nat) : State := s.setCore core ((s.core core).touch qs)

/-- Advance fp past freed slots, up to kp. -/
def advanceFp : Nat → Ring → Ring
  | 0, g => g
  | n + 1, g =>
    if g.fp ≠ g.kp ∧ g.freed.contains g.fp then
      advanceFp n { g with freed := removeNat g.freed g.fp, tiles := g.tiles.filter (fun t => t.1 != g.fp),
                           fp := (g.fp + 1) % 65536 }
    else g

/-- The slot that holds a tile is freed. -/
def Ring.free (g : Ring) (tile : Nat) : Ring :=
  match g.tiles.find? (fun t => t.2 == tile && !g.freed.contains t.1) with
  | some t => advanceFp 64 { g with freed := insertNat g.freed t.1 }
  | none => g

/-- Free the ring slot of an emptied tile in whichever ring of the core holds it. -/
def Core.freeSlots (c : Core) (tile : Nat) : Core :=
  { c with ctxs := c.ctxs.map (fun x => (x.1, { x.2 with rings := x.2.rings.map (fun r => (r.1, r.2.free tile)) })) }

/-- An access that waits on a tile has lost it. -/
def Waited.lose (w : Waited) (n : Nat) : Waited := if w.tiles.contains n then { w with lost := true } else w

/-- The elements of a block that still read a tile have lost it. -/
def loseElems (b : Option Block) (late : Nat → Bool) (n : Nat) (es : Sparse Elem) : Sparse Elem :=
  es.map (fun (e : Nat × Elem) =>
    let kind := match b with
      | some b => bits (nth 0 b.words e.1) 63 60
      | none => 0
    (e.1, if kind = 8 && e.2.started && e.2.tile == n then { e.2 with lost := some (late e.1) } else e.2))

/-- LD elements that still read a tile, orders under way and accesses of elements that wait on it have lost it as it becomes
empty (R214). -/
def Core.loseTile (c : Core) (n : Nat) : Core :=
  let req (r : MemReq) : MemReq := { r with waited := r.waited.lose n }
  let entry (e : PortEntry) : PortEntry := { e with waited := e.waited.lose n }
  { c with
    ctxs := c.ctxs.map (fun (x : Nat × Ctx) =>
      (x.1, { x.2 with elems := loseElems x.2.block (fun i => x.2.late.any (fun l => l.1 == i)) n x.2.elems })),
    parks := c.parks.map (fun (p : Nat × Park) =>
      (p.1, { p.2 with elems := loseElems (c.ctx p.2.before.ctx).block (fun _ => false) n p.2.elems, reqs := p.2.reqs.map req })),
    mx := { c.mx with running := c.mx.running.map (fun (r : Running) => { r with reads := r.reads.filter (fun t => t != n) }) },
    reqs := c.reqs.map req, ports := c.ports.map (fun (q : Nat × List PortEntry) => (q.1, q.2.map entry)) }

/-- Copies and chunks of a unit that wait on a tile of a core have lost it there (R214); a copy's tiles are numbered 128 core +
tile. -/
def CopyUnit.lose (u : CopyUnit) (core n : Nat) : CopyUnit :=
  let copy (q : Copy) : Copy := if q.waited.tiles.contains (128 * core + n) then { q with lostAt := insertNat q.lostAt core } else q
  let chunk (h : Chunk) : Chunk := if h.waits.contains (128 * core + n) then { h with lostAt := insertNat h.lostAt core } else h
  { u with queues := u.queues.map (fun (q : Nat × List Copy) => (q.1, q.2.map copy)), chunks := u.chunks.map chunk }

def State.loseCopies (s : State) (core n : Nat) : State :=
  { s with cores := s.cores.map (fun (k : Nat × Core) => (k.1, { k.2 with copy := k.2.copy.lose core n })) }

/-- A tile becomes empty: marks of counters in it are lost (R349), its ring slot is freed, and its pool is served in this beat
(R219). -/
def State.vacateTile (s : State) (core n : Nat) : State :=
  let t := s.tile core n
  let s := s.unmark (spadKey core (32 * t.base)) (spadKey core (32 * (t.base + t.size)))
  let s := (s.setCore core ((((s.core core).loseTile n).setTile n Tile.reset).touch [t.pool])).loseCopies core n
  let s := match t.producer with
    | .ring _ => s.setCore core ((s.core core).freeSlots n)
    | _ => s
  s.setEvent (regionOf core) 3

/-! ### Records (R356) -/

/-- The two entries at the top of a region stack (R232, R357). -/
def stackTop (st : List Nat) : Nat × Nat := (nth 0 st.reverse 0, nth 0 st.reverse 1)

/-- Create a record for the region's buffer: it is written later, in creation order; with no buffer it is dropped, and a dropped
sample is counted. -/
def State.record (s : State) (r core : Nat) (q0 q2 q3 : Nat) : State :=
  let g := s.region r
  let base := bits g.recBase.toNat 44 0
  let size := bits g.recSize.toNat 31 0
  if base = 0 ∨ size = 0 then (if bits q0 63 60 = 1 then s.countEvent core 21 (bits q0 55 54) 1 else s)
  else s.setRegion r { g with recIndex := BitVec.ofNat 64 ((g.recIndex.toNat + 1) % size),
                              recs := g.recs ++ [(base + 32 * (g.recIndex.toNat % size), q0, q2, q3)] }

/-- The oldest record that has been created is written, with the ticks of now, where its home answers (R356, R281). -/
def State.payRecord (s : State) (r : Nat) : State :=
  let g := s.region r
  match g.recs with
  | [] => s
  | (at', q0, q2, q3) :: rest =>
    if vaultHeld s (physKeys at' 32) then s
    else (s.setRegion r { g with recs := rest }).store (physKeys at' 32)
      (toBytes 8 q0 ++ toBytes 8 s.ticks.toNat ++ toBytes 8 q2 ++ toBytes 8 q3)

/-- Words q0 and q2 of a record (Table 23.6). -/
def recordQ0 (kind core ctx uncommitted cc frame f0 blockId : Nat) : Nat :=
  2 ^ 60 * kind + 2 ^ 56 * (core % 16) + 2 ^ 54 * ctx + 2 ^ 53 * uncommitted + 2 ^ 52 * cc + 2 ^ 44 * frame +
    2 ^ 32 * f0 + 2 ^ 16 * blockId

def recordQ2 (top second value : Nat) : Nat := 2 ^ 48 * top + 2 ^ 32 * second + value % 2 ^ 32

/-- The sample record of a marked instance of a block that commits, parks or is discarded (R355, R356). -/
def State.sampleOf (s : State) (c x block : Nat) (n : Inst) (uncommitted : Bool) : State :=
  if !n.marked then s
  else
    let st (i : Nat) : Nat := Nat.min (nth 0 n.stages i) 4095
    let k := s.core c
    let s := s.setCore c { k with following := if k.following = some (x, n.id) then none else k.following }
    s.record (regionOf c) c (recordQ0 1 c x (b2n uncommitted) 0 (frameOf n.tag) (bits n.tag 7 0) block)
      (recordQ2 n.rtop n.rsecond 0) (2 ^ 48 * st 0 + 2 ^ 36 * st 1 + 2 ^ 24 * st 2 + 2 ^ 12 * st 3 + st 4)

/-- The sample record of an instance of a context's block. -/
def State.sample (s : State) (c x : Nat) (n : Inst) (uncommitted : Bool) : State :=
  s.sampleOf c x (((s.ctx c x).block.map (·.id)).getD 0) n uncommitted

/-! ### The context reset (R364) -/

/-- Whether a frame belongs to the slot of a context: one of an absent image does not (R333). -/
def Core.slotFrame (c : Core) (x n : Nat) : Bool := (sfind c.frames n).any (fun f => f.ctx == x && f.bank != 5)

/-- The stream ports without the streams of a context (R122). -/
def Core.dropStreams (c : Core) (x : Nat) : Sparse (List PortEntry) :=
  (c.ports.map (fun q => (q.1, q.2.filter (fun e => e.barrier.isSome || e.ctx != x)))).filter (fun q => !q.2.isEmpty)

/-- A copy unit without the queued copies of some works; issued chunks complete (R259, R368). -/
def CopyUnit.drop (u : CopyUnit) (mine : Copy → Bool) : CopyUnit :=
  let flies (q : Copy) : Bool := u.chunks.any (fun h => h.copy == q.uid)
  let stop (q : Copy) : Copy := { q with cancelled := true, started := true }
  let queued := (u.queues.flatMap (fun (q : Nat × List Copy) => q.2)).filter (fun q => mine q && flies q)
  { u with queues := (u.queues.map (fun (q : Nat × List Copy) => (q.1, q.2.filter (fun k => !mine k)))).filter (fun q => !q.2.isEmpty),
           flying := (u.flying ++ queued).map (fun q => if mine q then stop q else q) }

/-- The matrix engine without what a slot has ordered: its orders are discarded, its columns cleared as by `acc.clr`, and their LFSRs
seeded anew (R364, R75). -/
def Matrix.dropSlot (m : Matrix) (x : Nat) : Matrix :=
  let mine (e : Option Nat) (y : Nat) : Bool := y == x && e.isNone
  let m1 := { m with queue := m.queue.filter (fun q => !mine q.entry q.ctx), running := m.running.filter (fun r => !mine r.entry r.ctx),
                     lfsr := m.lfsr.filter (fun l => !m.cols.any (fun k => k.1 == l.1 && k.2.owner == x)) }
  m1.clearOwned (fun o => o == x)

/-- One slot of a core after a context reset (R364): it is empty, and its frames, tokens, copies and orders are gone; the images of its
name that are absent stay. -/
def Core.dropSlot (c : Core) (x : Nat) : Core :=
  let old := c.ctx x
  { c with
    ctxs := sput c.ctxs x { Ctx.reset with score := old.score, last := old.last, bkpt := old.bkpt, flags := old.flags,
                                           fresh := old.fresh, enables := old.enables, prio := old.prio },
    store := c.store.filter (fun t => t.tok.ctx != x), frames := c.frames.filter (fun f => !c.slotFrame x f.1),
    spill := c.spill.filter (fun e => !c.slotFrame x e.2.frame), ports := c.dropStreams x,
    waits := c.waits.filter (fun w => w.owner != x || w.who == .talloc),
    grants := c.grants.filter (fun g => g.1 == 2048 || (sfind c.tiles g.2).isSome),
    drains := c.drains.filter (fun d => d.ctx != x), reqs := c.reqs.filter (fun r => r.ctx != x),
    resps := c.resps.filter (fun r => r.ctx != x), parks := c.parks.filter (fun p => !c.slotFrame x p.1),
    faults := c.faults.filter (fun f => !c.slotFrame x f.1), offends := c.offends.filter (fun t => t.tok.ctx != x),
    dropped := c.dropped.filter (fun t => t.tok.ctx != x), saves := sdel c.saves x,
    restore := if c.restore.any (fun r => r.1 == x) then none else c.restore,
    following := if c.following.any (fun f => f.1 == x) then none else c.following,
    copy := c.copy.drop (fun q => q.ctx == x && q.entry.isNone), mx := c.mx.dropSlot x }

/-- The tiles of a context, but for one that `talloc` has been granted and has not collected. -/
def Core.slotTiles (c : Core) (x : Nat) : List Nat :=
  (c.tiles.filter (fun t => t.2.owner == x && !c.grants.contains (2048, t.1))).map (·.1)

/-- The context reset of one slot of one core (R364): its tiles become empty, and a marked instance of it leaves its sample record
(R356). -/
def State.contextReset (s : State) (c x : Nat) : State :=
  let s1 := (s.ctx c x).insts.foldl (fun s n => s.sample c x n true) s
  let s2 := ((s1.core c).slotTiles x).foldl (fun s n => s.vacateTile c n) s1
  s2.setCore c ((s2.core c).dropSlot x)

/-- A core without the work of its absent images. -/
def Core.dropImages (c : Core) : Core :=
  { c with frames := [], parks := [], awayReqs := [], awayResps := [], copy := c.copy.drop (fun _ => true),
           mx := { c.mx with queue := [], running := [] } }

/-- The work of a list of cores is discarded: the context reset of their four slots, and what their absent images have at work. -/
def State.discardCores (s : State) : List Nat → State
  | [] => s
  | c :: cs =>
    let t := (range 0 4).foldl (fun s x => s.contextReset c x) s
    (t.setCore c (t.core c).dropImages).discardCores cs

/-- Clean a list of cores, with the marks of counters in their scratchpads. -/
def State.cleanCores (s : State) : List Nat → State
  | [] => s
  | c :: cs => ((s.setCore c (s.core c).clean).unmark (spadKey c 0) (spadKey (c + 1) 0)).cleanCores cs

/-- The control core between launches (R23, R20): no launch runs and it takes the next record. -/
def Region.idle (g : Region) : Region :=
  { g with launch := none, waiting := false, heldAt := none, sendSince := none, atLwait := false, held := [], awaiting := [],
           records := [], messages := [], colls := [], bars := [], cancelling := none }

/-- Clean the cores of a launch that has ended, once its status word has been written (R23). -/
def State.leave (s : State) (r mask : Nat) : State :=
  if (s.region r).owed.isEmpty then (s.setRegion r { s.region r with leaving := 0 }).cleanCores (maskCores r mask)
  else s.setRegion r { s.region r with leaving := mask }

/-- End the running launch: write its status word, leave the control core idle, clean its cores (R22, R23). -/
def State.endLaunch (s : State) (r status fault : Nat) : State :=
  match (s.region r).launch with
  | none => s
  | some l =>
    let s := s.writeStatus r (l.w 3) (statusWord l.id status fault)
    (s.setRegion r (s.region r).idle).leave r l.mask

/-- The oldest owed status word is written, or owed again; the last lets the cores of its launch be cleaned (R23). -/
def State.payStatus (s : State) (r : Nat) : State :=
  match (s.region r).owed with
  | [] => s
  | p :: rest =>
    if s.statusReady r p.1.toNat then
      ((s.setRegion r { s.region r with owed := rest }).writeStatus r p.1.toNat p.2).leave r (s.region r).leaving
    else s

/-- Escalate (R132): the launch ends with status 0x03 and the fault, its frames discarded and contexts reset, and the
application die is told. -/
def State.escalate (s : State) (r fault : Nat) : State :=
  ((s.notify (.escalated r fault)).discardCores (maskCores r (s.region r).mask)).endLaunch r 0x03 fault

/-- Take a synchronous trap of the running word with a resume address (R132). -/
def State.takeTrap (s : State) (r : Nat) (resume : Word) (t : Trap) : State :=
  let g := s.region r
  if g.mode = .privileged ∨ g.tvec = 0 then s.escalate r t.fault
  else s.setRegion r (g.enterTrap resume t.cause)

/-- Queue an asynchronous cause at a region's control core (R132): it is taken before the next word issues, or after
`tret`. With no launch running nothing takes it and it is dropped (log 82). -/
def State.raiseAsync (s : State) (r : Nat) (t : Trap) : State :=
  let g := s.region r
  if g.launch.isNone then s else s.setRegion r { g with held := g.held ++ [t.cause] }

/-- The next free value (log 6). -/
def State.takeFree (s : State) : Nat × State := ((Config.freeValue s.free).toNat, { s with free := s.free + 1 })

/-! ## What every control-core word ends with -/

/-- The clock moves on one tick (log 5). -/
def State.tick (s : State) : State := { s with ticks := s.ticks + 1 }

/-- The word at pc completed with this state: end processing (R105). -/
def State.complete (s : State) (r : Nat) : State := (s.setRegion r (s.region r).completed).tick

/-- A word that took no effect and waits (R113). -/
def State.wait (s : State) (r : Nat) : State := (s.setRegion r { s.region r with waiting := true }).tick

/-- A waiting atomic at these keys keeps its place at their vault (R366). -/
def State.holdAtomic (s : State) (r : Nat) (ks : List Nat) : State :=
  s.setRegion r { s.region r with heldAt := heldPlace s (s.region r).heldAt ks }

/-- The outcome of a word: it completes, traps with no effect of its own (R85), or waits. -/
def finish (s : State) (r : Nat) : Res State → Host.Outcome State Fault Refusal
  | .ok s' => .next (s'.complete r)
  | .error (.trap t) => .next (s.takeTrap r (s.region r).pc t).tick
  | .error .wait => .next (s.wait r)

/-- The outcome of a word that sets pc itself. -/
def finishJump (s : State) (r : Nat) : Res State → Host.Outcome State Fault Refusal
  | .ok s' => .next s'.tick
  | .error (.trap t) => .next (s.takeTrap r (s.region r).pc t).tick
  | .error .wait => .next (s.wait r)

/-- A command: every earlier store is performed first (R98), then its effect or its fault. -/
def command (s : State) (f : State → Res State) : Host.Outcome State Fault Refusal :=
  finish (s.drain s.turn) s.turn (if s.drains s.turn then f (s.drain s.turn) else .error .wait)

/-- A privileged word in unprivileged mode raises PROTECTION (R84). -/
def needPrivileged (s : State) (r : Nat) : Res Unit := need ((s.region r).mode == .privileged) .protection

end Sys2Proof.Machine
end

