-- ==== Sys2Proof/Machine/Block.lean ====
section
/-! DEFINITION. Block images and the configuration loader: targets (R50), the ports a word takes (R155, R183, R215), the
checks of R52 in their order, placement (R146), balance (R147, R190) and the floor test (R220). -/
namespace Sys2Proof.Machine

/-! ## Words of a block -/

/-- A fabric word with its kind and subop (R49). -/
structure FWord where
  kind : Nat
  sub : Nat
  f : Fab
  deriving DecidableEq, Repr, Inhabited

/-- A 64-bit fabric word, field by field (Table 3.5). -/
def fwordOf (w : Nat) : FWord := { kind := bits w 63 60, sub := bits w 59 54, f := fabOf w }

/-- A target, field by field (Table 3.6). -/
structure Target where
  ty : Nat
  idx : Nat
  port : Nat
  deriving DecidableEq, Repr, Inhabited

def targetOf (t : Nat) : Target := { ty := bits t 8 7, idx := bits t 6 2, port := bits t 1 0 }

/-- The word of instruction `i`. -/
def Block.word (b : Block) (i : Nat) : FWord := fwordOf (nth 0 b.words i)

def Block.count (b : Block) : Nat := b.words.length

/-- Parameter word `w`; zero past the count. -/
def Block.param (b : Block) (w : Nat) : Nat := nth 0 b.params w

def FWord.imm (w : FWord) : Nat := w.f.imm

/-- The length policy, immediate [11:10]. -/
def FWord.policy (w : FWord) : Nat := bits w.f.imm 11 10

/-- The signedness bit of R62. -/
def FWord.uns (w : FWord) : Bool := bit w.f.imm 9

/-- Whether the word accepts a format tag. -/
def FWord.accepts (w : FWord) (fmt : Nat) : Bool := bit w.f.accept fmt

/-- LD and ST words carry an LSID in [22:18] and no fallback (R183). -/
def FWord.isMem (w : FWord) : Bool := w.kind == 8 || w.kind == 9

/-- A fan with extra targets (R188). -/
def FWord.fansOut (w : FWord) : Bool := w.kind == 6 && w.sub == 3 && bit w.f.imm 8

/-- Every target of a word in order: A, B, and the extra targets of a fan (R188). -/
def Block.targets (b : Block) (i : Nat) : List Target :=
  let w := b.word i
  let extra := if w.fansOut then (range 0 6).map (fun m => bits (b.param (bits w.f.imm 7 0)) (9 * m + 8) (9 * m)) else []
  ([w.f.ta, w.f.tb] ++ extra).map targetOf

/-- An arc of a block: the producer, which of its targets, the consumer and its port. -/
structure Arc where
  src : Nat
  which : Nat
  dst : Nat
  port : Nat
  deriving DecidableEq, Repr, Inhabited

/-- The instruction-to-instruction arcs of a block (R32). -/
def Block.arcs (b : Block) : List Arc :=
  (range 0 b.count).flatMap (fun i =>
    ((range 0 (b.targets i).length).zip (b.targets i)).filterMap (fun p =>
      if p.2.ty = 1 then some { src := i, which := p.1, dst := p.2.idx, port := p.2.port } else none))

/-! ## Ports -/

/-- The ports a subop always takes (Tables 8.1, 9.1, 10.3), as port numbers a 0, b 1, c 2, p 3. -/
def basePorts (w : FWord) : List Nat :=
  match w.kind with
  | 0 => if w.sub = 2 ∨ w.sub = 3 then [0] else if w.sub = 5 then [0, 1, 2] else [0, 1]
  | 1 => if w.sub = 5 then [0] else if 1 ≤ w.sub ∧ w.sub ≤ 3 then [0, 1, 2] else [0, 1]
  | 2 => if w.sub = 10 ∨ w.sub = 11 then [0] else if w.sub = 12 then [0, 1, 2] else [0, 1]
  | 3 =>
    if w.sub < 3 then [0, 1]
    else if 4 ≤ w.sub ∧ w.sub ≤ 6 then (if bit w.f.imm 8 then [0, 1] else [0])
    else if w.sub = 9 then [0, 1, 2] else [0]
  | 4 => if w.sub = 4 then [0, 1] else if w.sub = 0 ∧ bit w.f.imm 5 then [0, 1] else [0]
  | 5 => if w.sub = 5 then [0, 1] else [0]
  | 6 => if w.sub = 3 then [0] else if w.sub = 0 ∨ w.sub = 2 then [0, 1, 3] else [0, 3]
  | 7 => if w.sub = 4 then [0, 3] else if w.sub = 5 then [0, 1] else [0]
  | 8 => if w.sub = 0 ∨ w.sub = 2 then [] else [0]
  | 9 => if w.sub = 0 then [0] else [0, 1]
  | 10 => if w.sub = 3 then [0, 3] else [0]
  | _ => [0]

/-- Whether predicate 01 or 10 gives the word port p (R155, R183). -/
def FWord.predicated (w : FWord) : Bool := (w.kind ≤ 5 || w.kind == 9) && (w.f.pred == 1 || w.f.pred == 2)

/-- The ports a word always takes. -/
def wordPorts (w : FWord) : List Nat := basePorts w ++ (if w.predicated then [3] else [])

/-- The ports an arc may end on: also the after port c of LD and ST, and the recurrence port p of scan (R52). -/
def arcPorts (w : FWord) : List Nat :=
  wordPorts w ++ (if w.isMem then [2] else if w.kind = 7 ∧ w.sub = 3 then [3] else [])

/-- Whether a word has a recurrence port p (R190). -/
def FWord.recurs (w : FWord) : Bool := w.kind == 7 && (w.sub == 3 || w.sub == 4)

/-- Whether some word names instruction `i` as its fallback (R150). -/
def Block.isFallback (b : Block) (i : Nat) : Bool :=
  (range 0 b.count).any (fun j => !(b.word j).isMem && (b.word j).f.lsid == i && i != 31)

/-- Whether an arc of the block ends on a port. -/
def Block.fed (b : Block) (i port : Nat) : Bool := b.arcs.any (fun a => a.dst == i && a.port == port)

/-- The ports instruction `i` takes in this block (R52): a fallback instruction takes steered trains on port a only. -/
def Block.ports (b : Block) (i : Nat) : List Nat :=
  let w := b.word i
  if b.isFallback i then [0]
  else wordPorts w ++ (if w.isMem && (b.fed i 2 || bit b.after i) then [2] else []) ++
    (if w.kind == 7 && w.sub == 3 && b.fed i 3 then [3] else [])

/-- The entry slots of a block, as instruction and port (R32, R52). -/
def Block.entries (b : Block) : List (Nat × Nat) :=
  (range 0 b.count).flatMap (fun i =>
    if b.isFallback i then []
    else (b.ports i).filterMap (fun q =>
      if b.fed i q || ((b.word i).recurs && q == 3) then none else some (i, q)))

/-- Whether a word is a source subop: ld and ldring produce without a port (R184). -/
def FWord.source (w : FWord) : Bool := w.kind == 8 && (w.sub == 0 || w.sub == 2)

/-! ## Elements, delays, placement (R143, R145, R146) -/

/-- The first element and the number of elements of a kind (Table 7.5). -/
def kindElements (kind : Nat) : Nat × Nat :=
  match kind with
  | 0 => (0, 6)
  | 1 => (6, 4)
  | 2 => (10, 3)
  | 3 => (13, 2)
  | 4 => (15, 2)
  | 5 => (17, 1)
  | 6 => (18, 3)
  | 7 => (21, 2)
  | 8 => (23, 3)
  | 9 => (26, 2)
  | 10 => (28, 2)
  | _ => (30, 2)

/-- The fixed online delay of a subop (Table 7.4). -/
def delayOf (kind sub : Nat) : Nat :=
  match kind with
  | 1 => if sub = 4 then 2 else 1
  | 3 => 2
  | 4 => 2
  | 5 => 4
  | 7 => if sub = 3 ∨ sub = 4 then 1 else 2
  | 8 => 2
  | 9 => 2
  | _ => 1

/-- The delay of a word with its extra delay (R143). -/
def FWord.delay (w : FWord) : Nat := delayOf w.kind w.sub + w.f.delay

/-- The element for one instruction (R146): the lowest free one that the fewest other contexts have configured. -/
def placeOne (others : List (List Nat)) (taken : List Nat) (kind : Nat) : Option Nat :=
  let (first, n) := kindElements kind
  let uses (e : Nat) : Nat := (others.filter (fun l => l.contains e)).length
  ((range first n).filter (fun e => !taken.contains e)).foldl (fun best e =>
    match best with
    | none => some e
    | some b => if uses e < uses b then some e else some b) none

/-- Place words in index order (R146). -/
def placeAll (others : List (List Nat)) : List Nat → List FWord → List Nat
  | taken, [] => taken
  | taken, w :: ws =>
    match placeOne others taken w.kind with
    | some e => placeAll others (taken ++ [e]) ws
    | none => placeAll others (taken ++ [kindElements w.kind |>.1]) ws

/-! ## Balance (R147, R186, R190) -/

/-- The arcs that are balanced: not recurrence arcs, and not arcs to fallback instructions. -/
def Block.balanced (b : Block) : List Arc :=
  b.arcs.filter (fun a => !((b.word a.dst).recurs && a.port == 3) && !b.isFallback a.dst)

/-- arrive(arc): port p of a STEER word is taken one advance after its producer's output (R186). -/
def arrive (b : Block) (outs : List Nat) (a : Arc) : Nat :=
  nth 0 outs a.src + b2n ((b.word a.dst).kind == 6 && a.port == 3)

/-- in(i) under given outputs. -/
def inOf (b : Block) (outs : List Nat) (i : Nat) : Nat :=
  (b.balanced.filter (fun a => a.dst == i)).foldl (fun m a => max m (arrive b outs a)) 0

/-- One pass of the balance equations. -/
def balancePass (b : Block) (outs : List Nat) : List Nat :=
  (range 0 b.count).map (fun i => inOf b outs i + (b.word i).delay)

/-- The outputs after as many passes as the block has instructions: the fixed point where no cycle runs. -/
def balanceOuts (b : Block) : Nat → List Nat → List Nat
  | 0, outs => outs
  | n + 1, outs => balanceOuts b n (balancePass b outs)

/-- The instructions reached over a list of arcs from those in `l`, in at most `n` more steps. -/
def reachOver (arcs : List Arc) : Nat → List Nat → List Nat
  | 0, l => l
  | n + 1, l => reachOver arcs n ((arcs.filter (fun a => l.contains a.src)).foldl (fun m a => insertNat m a.dst) l)

/-- What the output of `i` reaches over a list of arcs. -/
def reachFrom (arcs : List Arc) (n i : Nat) : List Nat :=
  reachOver arcs n ((arcs.filter (fun a => a.src == i)).map (·.dst))

/-- The producer of an arc on port p of instruction `i`, if any. -/
def Block.backArc (b : Block) (i : Nat) : Option Arc := b.arcs.find? (fun a => a.dst == i && a.port == 3)

/-- Whether a subop may lie on a recurrence path (R190). -/
def onLoopOk (w : FWord) : Bool := w.kind ≤ 5 || (w.kind == 6 && (w.sub == 0 || w.sub == 3))

/-! ## The checks of R52 -/

/-- Why the loader refuses: the fault and the instruction index it names. -/
abbrev Refused := FaultCode × Nat

/-- A NaN pattern in f32. -/
def isNan32 (v : Nat) : Bool := bits v 30 23 == 255 && bits v 22 0 != 0

/-- Accept bits of a mask within `m`. -/
def maskWithin (accept m : Nat) : Bool := (range 0 8).all (fun t => !bit accept t || bit m t)

/-- The integer codes of an accept mask: tags 000, 011 and 100. -/
def intCodes : Nat := 0x19

/-- A target's own fields (R52 step 2): `st` marks an ST word, which takes no register target (R196). -/
def targetOk (b : Block) (st : Bool) (t : Target) : Bool :=
  match t.ty with
  | 0 => t.idx == 0 && t.port == 0
  | 1 => true
  | 2 => t.port == 0 && !st
  | _ => t.port == 0 && (t.idx == 31 || t.idx < b.nout)

/-- The immediate bits [8:0] that a subop names (Tables 8.9, 9.6, 10.3). -/
def immNamed (w : FWord) : Nat :=
  match w.kind with
  | 1 => if w.sub = 5 then 0x1FF else 0
  | 2 => if w.sub = 10 then 0x100 else if w.sub = 11 then 0x1FF else 0
  | 3 => if 4 ≤ w.sub ∧ w.sub ≤ 6 then (if bit w.f.imm 8 then 0x100 else 0x13F) else 0
  | 4 => match w.sub with
    | 0 => 0x0FF
    | 3 => 0x007
    | 4 => 0x0C7
    | 5 => 0x01F
    | _ => 0
  | 6 => if w.sub = 3 then 0x1FF else 0
  | 7 => if w.sub < 3 then 0x100 else if w.sub = 5 then 0x003 else 0x1FF
  | 8 => if w.sub = 1 ∨ w.sub = 4 then 0x1E0 else if w.sub = 2 then 0x1EF else 0x00F
  | 9 => 0x00F
  | 10 => match w.sub with
    | 0 => 0x007
    | 1 => 0x007
    | 2 => 0x007
    | 4 => 0x0FF
    | 5 => 0x1FF
    | 6 => 0x0FF
    | 7 => 0x001
    | 8 => 0x03F
    | _ => 0
  | 11 => if w.sub = 0 then 0x0FF else if w.sub = 2 then 0x003 else 0
  | _ => 0

/-- The accept masks each subop admits (R49, R140, R164, R165, R178, R179, R183, R215). -/
def acceptOk (w : FWord) : Bool :=
  let a := w.f.accept
  a != 0 &&
  (w.f.width == 3 || (range 0 8).all (fun t => !bit a t || laneBits t == 8 * 2 ^ w.f.width)) &&
  (!maskWithin a intCodes || w.f.mode < 2) &&
  (match w.kind with
    | 0 => maskWithin a 0x1F
    | 1 => maskWithin a 0x1F && (w.sub != 4 || maskWithin a intCodes) && (w.sub != 5 || maskWithin a 0x06)
    | 2 => maskWithin a 0x1F
    | 4 => w.sub != 5 || maskWithin a intCodes
    | 5 => maskWithin a 0x06
    | 7 => maskWithin a 0x1F
    | 9 => w.sub < 2 || maskWithin a 0x1F
    | 11 => a == 1
    | _ => true)

/-- The mode field (R161, R183, R178). -/
def modeOk (w : FWord) : Bool :=
  w.f.mode < 6 &&
  (match w.kind with
    | 1 => w.sub == 4 || w.f.mode == 0
    | 3 => true
    | 4 => w.sub != 5 || w.f.mode < 2
    | 9 => true
    | _ => w.f.mode == 0)

/-- The predicate field (R155, Table 9.1, R215). -/
def predOk (w : FWord) : Bool :=
  match w.kind with
  | 6 => if w.sub = 3 then w.f.pred == 0 else w.f.pred == 3
  | 7 => w.f.pred == 0
  | 8 => w.f.pred == 0
  | 10 => if w.sub = 3 then w.f.pred == 1 else w.f.pred == 0
  | 11 => w.f.pred == 0
  | _ => w.f.pred < 3

/-- The length policy (R49, R155, R173, R183, R215); an `alloc` word obeys what R183 asks of its kind (log 85). -/
def policyOk (w : FWord) : Bool :=
  let p := w.policy
  let ps := wordPorts w
  p != 3 &&
  (if w.kind ≤ 5 then
    (p == 0 || ps != [0]) &&
    (p != 2 || !((w.kind == 2 && w.sub ≤ 5) || (w.kind == 3 && w.sub == 9) || (w.kind == 4 && w.sub == 4) ||
      (w.kind == 4 && w.sub == 0 && ps.contains 1)))
  else p != 2 && (p == 0 || ps.contains 1))

/-- The parts of the immediate that a subop's own rules check against the parameters and the mask; a `chk` or `cnt` that names
no parameter word of the image is refused as a `thr` is (log 85). -/
def immOk (b : Block) (w : FWord) : Bool :=
  let i := w.f.imm
  let a := w.f.accept
  let has (k : Nat) : Bool := k < b.params.length
  let nanFree (k : Nat) : Bool := !((bit a 1 || bit a 2) && isNan32 (b.param k))
  let lo := bits i 8 0
  (range 0 9).all (fun k => !bit lo k || bit (immNamed w) k) &&
  (w.kind > 5 || !bit i 9 || !maskWithin a (0xFF - intCodes)) &&
  (match w.kind, w.sub with
    | 2, 11 => has (bits i 7 0) && nanFree (bits i 7 0)
    | 4, 0 => !(bit i 4 && bit i 5) && (bits i 7 6 == 0 ||
        (range 0 8).any (fun t => bit a t && laneBits t < laneBits (bits i 2 0)))
    | 4, 3 => 5 ≤ bits i 2 0
    | 4, 4 => bits i 2 0 == 1 || bits i 2 0 == 2
    | 4, 5 => (!bit a 3 || bits i 4 0 < 16) && (!bit a 4 || bits i 4 0 < 8)
    | 6, 3 => !bit i 8 || (has (bits i 7 0) && b.param (bits i 7 0) < 2 ^ 54)
    | 7, 3 => bits i 1 0 != 3 && (!bit i 8 || (has (bits i 4 2) && nanFree (bits i 4 2)))
    | 7, 4 => bits i 1 0 != 3 && (!bit i 8 || (has (bits i 4 2) && nanFree (bits i 4 2)))
    | 7, 5 => bits i 1 0 != 3
    | 10, 0 => bits i 2 0 != 0
    | 10, 1 => bits i 2 0 != 0
    | 10, 2 => bits i 2 0 != 7
    | 10, 4 => bits i 2 0 != 7 && has (bits i 7 3)
    | 10, 5 => has (bits i 7 0) && bits (b.param (bits i 7 0)) 31 0 != 0
    | 10, 6 =>
      let r := b.param (bits i 7 0)
      has (bits i 7 0 + 4) && (bits r 13 10 < 8 || bits r 13 10 == 15) &&
        (bits r 5 0 == 32 || bits r 5 0 == 33)
    | 11, 0 =>
      let r := b.param (bits i 7 0)
      has (bits i 7 0) && bits r 63 20 == 0 && bits r 15 12 != 0 && (bit r 19 || bits r 18 17 == 0)
    | _, _ => true)

/-- An instruction's own fields (R52 step 2). The count of its kind among the words up to it stays within the core's
elements of that kind. -/
def wordOk (b : Block) (i : Nat) : Bool :=
  let w := b.word i
  (fabricInstr w.kind w.sub w.f).isSome && modeOk w && acceptOk w && predOk w && policyOk w && immOk b w &&
  ((b.targets i).take 2).all (targetOk b (w.kind == 9)) && ((b.targets i).drop 2).all (targetOk b false) &&
  (w.isMem || w.f.lsid == 31 || w.f.lsid < b.count) &&
  ((range 0 (i + 1)).filter (fun j => (b.word j).kind == w.kind)).length ≤ (kindElements w.kind).2

/-- Whether a word may be a fallback instruction (R150): no arc ends on it, every target is of type 00, and it names no
fallback. -/
def fallbackOk (b : Block) (j : Nat) : Bool :=
  !b.arcs.any (fun a => a.dst == j) && (b.targets j).all (fun t => t.ty == 0) &&
  ((b.word j).isMem || (b.word j).f.lsid == 31)

/-- The pool of an `alloc` word of context `ctx` (Table 10.4). -/
def allocPool (b : Block) (ctx i : Nat) : Nat :=
  let r := b.param (bits (b.word i).f.imm 7 0)
  if bit r 19 then bits r 18 17 else ctx

def isAlloc (w : FWord) : Bool := w.kind == 11 && w.sub == 0

/-- The checks that join instructions, for instruction `i` (R52 step 3); two `alloc` words of one pool are refused here, at the
higher index (log 85). -/
def joinOk (b : Block) (ctx i : Nat) : Bool :=
  let w := b.word i
  let mine := b.arcs.filter (fun a => a.dst == i)
  (b.targets i).all (fun t => t.ty != 1 || (t.idx < b.count && (arcPorts (b.word t.idx)).contains t.port)) &&
  (w.isMem || w.f.lsid == 31 || (w.f.lsid != i && fallbackOk b w.f.lsid)) &&
  (range 0 4).all (fun q => (mine.filter (fun a => a.port == q)).length ≤ 1) &&
  (!bit b.after i || (w.isMem && !b.fed i 2)) &&
  (!w.recurs || (match b.backArc i with
    | none => true
    | some a =>
      let fwd := reachFrom b.arcs b.count i
      fwd.contains a.src && fwd.all (fun x => x == i || onLoopOk (b.word x) ||
        !(x == a.src || (reachFrom b.arcs b.count x).contains a.src)))) &&
  (!b.isFallback i || fallbackOk b i) &&
  (w.kind != 9 || (bit b.storeMask w.f.lsid &&
    (range 0 i).all (fun j => (b.word j).kind != 9 || (b.word j).f.lsid != w.f.lsid))) &&
  (!isAlloc w || (range 0 i).all (fun j => !isAlloc (b.word j) || allocPool b ctx j != allocPool b ctx i))

/-- Every bit of the store mask belongs to an ST. -/
def maskOwned (b : Block) : Bool :=
  (range 0 32).all (fun l => !bit b.storeMask l ||
    (range 0 b.count).any (fun i => (b.word i).kind == 9 && (b.word i).f.lsid == l))

/-- The first index of a list that fails a test. -/
def firstBad (p : Nat → Bool) : List Nat → Option Nat
  | [] => none
  | i :: l => if p i then firstBad p l else some i

/-- The checks of balance (R147, R190), in index order, after the block's balance is filled in. -/
def balanceBad (b : Block) : Option Nat :=
  match firstBad (fun i => !(reachFrom b.balanced b.count i).contains i) (range 0 b.count) with
  | some i => some i
  | none =>
    firstBad (fun i =>
      (b.balanced.filter (fun a => a.dst == i)).all (fun a => nth 0 b.ins i ≤ arrive b b.outs a + 15) &&
      -- an entry slot or a stream-fed port arrives at 0
      (b.entries.all (fun e => e.1 != i || nth 0 b.ins i ≤ 15)) && ((b.word i).kind != 8 || (b.word i).sub != 0 || nth 0 b.ins i ≤ 15) &&
      (!(b.word i).recurs || (match b.backArc i with
        | some a => nth 0 b.outs a.src == nth 0 b.ins i + 2 * (bits (b.word i).f.imm 7 5 + 1)
        | none => (b.word i).sub == 3))) (range 0 b.count)

/-- The requests of a pool on a core (R220), as rank and size: `alloc` words of the blocks and slots of the rings. -/
def poolRequests (blocks : List (Nat × Block)) (rings : List (Nat × Ring)) (q : Nat) : List (Nat × Nat) :=
  blocks.flatMap (fun p => (range 0 p.2.count).filterMap (fun i =>
    if isAlloc (p.2.word i) && allocPool p.2 p.1 i == q then
      some (p.2.rank, bits (p.2.param (bits (p.2.word i).f.imm 7 0)) 11 0 + 1) else none)) ++
  rings.filterMap (fun p => if p.1 == q && p.2.setup then some (p.2.rank, p.2.size) else none)

/-- The sum over the ranks present of the largest request at that rank (R220). -/
def floorSum (rs : List (Nat × Nat)) : Nat :=
  ((rs.map (·.1)).foldl insertNat []).foldl (fun n k =>
    n + (rs.filter (fun r => r.1 == k)).foldl (fun m r => max m r.2) 0) 0

/-- The floor test of a pool of `size` granules. -/
def floorOk (blocks : List (Nat × Block)) (rings : List (Nat × Ring)) (q size : Nat) : Bool :=
  floorSum (poolRequests blocks rings q) ≤ size

/-! ## Loading -/

/-- A block from the words of an image, before placement and balance (R53). -/
def blockOf (addr : Word) (ws : List Nat) : Block :=
  let h0 := nth 0 ws 0
  let h1 := nth 0 ws 1
  let n := bits h0 47 43 + 1
  { id := bits h0 63 48, storeMask := bits h0 42 11, prio := bits h0 10 8, rank := bits h0 7 0, dbg := bits h1 63 48,
    nout := bits h1 39 32, after := bits h1 31 0, words := (ws.drop 2).take n,
    params := (ws.drop (2 + n)).take (bits h1 47 40), addr := addr, place := [], ins := [], outs := [] }

/-- The words an image takes, from its two header words (R53). -/
def imageWords (h0 h1 : Nat) : Nat := 2 + (bits h0 47 43 + 1) + bits h1 47 40

/-- The block with its placement and balance. -/
def Block.laidOut (b : Block) (others : List (List Nat)) : Block :=
  let outs := balanceOuts b b.count (List.replicate b.count 0)
  { b with place := placeAll others [] ((range 0 b.count).map b.word),
           ins := (range 0 b.count).map (inOf b outs), outs := outs }

/-- The loader's verdict on an image for context `ctx` (R52): the block laid out, or the first failure. `others` holds
the placements of the other contexts, `blocks` and `rings` what the floor test counts beside it, `pools` the pool
sizes. A pool floor names the first `alloc` word whose pool fails, a loop delay its `recur` or `scan` word (log 85). -/
def loadBlock (b : Block) (ctx : Nat) (others : List (List Nat)) (blocks : List (Nat × Block))
    (rings : List (Nat × Ring)) (pools : List Nat) : Except Refused Block :=
  if 31 < b.nout || b.after / 2 ^ b.count != 0 then .error (.blockFormat, 31)
  else match firstBad (wordOk b) (range 0 b.count) with
    | some i => .error (.blockFormat, i)
    | none => match firstBad (joinOk b ctx) (range 0 b.count) with
      | some i => .error (.blockFormat, i)
      | none =>
        if !maskOwned b then .error (.blockFormat, 31)
        else
          let b := b.laidOut others
          match balanceBad b with
          | some i => .error (.blockBalance, i)
          | none =>
            match firstBad (fun i => !isAlloc (b.word i) ||
                floorOk (blocks ++ [(ctx, b)]) rings (allocPool b ctx i) (nth 0 pools (allocPool b ctx i)))
                (range 0 b.count) with
            | some i => .error (.poolFloor, i)
            | none => .ok b

end Sys2Proof.Machine
end

