-- ==== Sys2Proof/Machine/Functions.lean ====
section
/-! DEFINITION. The functions of FUNC words (R179): the exact results of rcp, sqrt and div, and the values of exp2, log2,
rsqrt, sigm and tanh, worked in fixed point far past a lane's digits, which bound the element's approximations. -/
namespace Sys2Proof.Machine

/-- A value with an odd mantissa, or zero: equal values have equal forms. -/
def normDy : Nat → Dy → Dy
  | 0, v => v
  | n + 1, v => if v.m ≠ 0 ∧ v.m % 2 = 0 then normDy n { m := v.m / 2, e := v.e + 1 } else v

/-- The quotient num / den * 2^e of positive numbers, held to `k` bits by rounding to odd (R74). -/
def ratioOdd (k num den : Nat) (e : Int) : Dy :=
  let sh := k + Nat.log2 den + 1 - Nat.log2 num
  let q := num * 2 ^ sh / den
  { m := if num * 2 ^ sh % den ≠ 0 && q % 2 == 0 then (q + 1 : Nat) else (q : Nat), e := e - sh }

/-- The integer square root by bits, from bit `n` down. -/
def isqrtFrom (v : Nat) : Nat → Nat → Nat
  | 0, r => if (r + 1) * (r + 1) ≤ v then r + 1 else r
  | n + 1, r => isqrtFrom v n (if (r + 2 ^ (n + 1)) * (r + 2 ^ (n + 1)) ≤ v then r + 2 ^ (n + 1) else r)

def isqrt (v : Nat) : Nat := isqrtFrom v (Nat.log2 v / 2 + 1) 0

/-- A positive value with an even exponent: its mantissa and half that exponent. -/
def evenForm (v : Dy) : Nat × Int :=
  if v.e % 2 = 0 then (v.m.natAbs, v.e / 2) else (2 * v.m.natAbs, (v.e - 1) / 2)

/-- The square root of a positive value, held to more than `k` bits by rounding to odd. -/
def sqrtOdd (k : Nat) (v : Dy) : Dy :=
  let (m, h) := evenForm v
  let big := m * 2 ^ (2 * k)
  let r := isqrt big
  { m := if r * r ≠ big && r % 2 == 0 then (r + 1 : Nat) else (r : Nat), e := h - k }

/-! ## Functions whose values are not dyadic

Each works in units of 2^-160 and ends with a 1 below its last bit: the exact value is no multiple of any unit there. -/

/-- The fraction bits worked with. -/
def fracBits : Nat := 160

/-- ln 2 and log2 e in units of 2^-192. -/
def ln2 : Dy := { m := 0xb17217f7d1cf79abc9e3b39803f2f6af40f343267298b62d, e := -192 }

def log2e : Dy := { m := 0x171547652b82fe1777d0ffda0d23a7d11d6aef551bad2b4b1, e := -192 }

/-- The value in units of 2^-160, rounded down. -/
def Dy.fixed (a : Dy) : Int := let sh := a.e + fracBits; if 0 ≤ sh then a.m * 2 ^ sh.toNat else a.m / 2 ^ (-sh).toNat

/-- The sum of t^j / j! from term `i` on, all in units of 2^-160. -/
def expSeries (t : Nat) : Nat → Nat → Nat → Nat
  | 0, _, _ => 0
  | n + 1, i, term => term + expSeries t n (i + 1) (term * t / 2 ^ fracBits / (i + 1))

/-- A value of `n` units of 2^e and a bit more. -/
def justAbove (n : Int) (e : Int) : Dy := { m := 2 * n + 1, e := e - 1 }

/-- 2^(u / 2^160). -/
def exp2Fixed (u : Int) : Dy :=
  let k := u / 2 ^ fracBits
  let t := ((u % 2 ^ fracBits) * ln2.m / 2 ^ 192).toNat
  justAbove (expSeries t 48 0 (2 ^ fracBits)) (k - fracBits)

/-- The fraction bits of log2 of x / 2^400, where 1 ≤ x / 2^400 < 2, by repeated squaring. -/
def log2Bits : Nat → Nat → Nat → Nat
  | 0, _, acc => acc
  | n + 1, x, acc =>
    let y := x * x / 2 ^ 400
    if 2 ^ 401 ≤ y then log2Bits n (y / 2) (2 * acc + 1) else log2Bits n y (2 * acc)

/-- log2 of a positive value that is no power of two. -/
def log2Fixed (v : Dy) : Dy :=
  let l := Nat.log2 v.m.natAbs
  justAbove (((l : Int) + v.e) * 2 ^ fracBits + log2Bits fracBits (v.m.natAbs * 2 ^ 400 / 2 ^ l) 0) (-fracBits)

/-- 1 / sqrt of a positive value that is no power of four. -/
def rsqrtFixed (v : Dy) : Dy :=
  let (m, h) := evenForm v
  let k := fracBits + Nat.log2 m
  justAbove (isqrt (2 ^ (2 * k) / m)) (-(k : Int) - h)

/-- A value a bit below 1. -/
def belowOne : Dy := { m := 2 ^ fracBits - 1, e := -fracBits }

/-- e^-a as a mantissa and the power of two it is over, for a positive value. -/
def expNeg (a : Dy) : Nat × Nat :=
  let e := exp2Fixed (a.mul log2e).neg.fixed
  (e.m.natAbs, 2 ^ (-e.e).toNat)

/-- 1 / (1 + e^-a) of a nonzero value. -/
def sigmFixed (a : Dy) : Dy :=
  if Dy.le (Dy.ofInt 1024) a.abs then (if a.m < 0 then Dy.pow2 (-1024) else belowOne)
  else
    let (m, d) := expNeg a.abs
    ratioOdd fracBits (if a.m < 0 then m else d) (d + m) 0

/-- tanh of a nonzero value: a bit nearer zero than a value so small that its cube is out of sight. -/
def tanhFixed (a : Dy) : Dy :=
  let r := if Dy.lt a.abs (Dy.pow2 (-40)) then { m := a.abs.m * 2 ^ fracBits - 1, e := a.e - fracBits }
    else if Dy.le (Dy.ofInt 64) a.abs then belowOne
    else
      let (m, d) := expNeg { a.abs with e := a.e + 1 }
      ratioOdd fracBits (d - m) (d + m) 0
  if a.m < 0 then r.neg else r

/-- The value of an approximated function (0 exp2, 1 log2, 3 rsqrt, 6 sigm, 7 tanh). -/
def funcValue (sub : Nat) (v : Dy) : Dy :=
  match sub with
  | 0 => exp2Fixed v.fixed
  | 1 => log2Fixed v
  | 3 => rsqrtFixed v
  | 6 => sigmFixed v
  | _ => tanhFixed v

/-- The error of Table 8.7 in f32, in units in the last place. -/
def funcUlps (sub : Nat) : Nat := if sub = 6 ∨ sub = 7 then 2 else 1

/-- Whether a lane value stands for the exact value `y` as Table 8.7 asks: in f32 its RNE resolve is inexact and within
the error; in bf16 it rounds as `y` does in every mode, which two bits past the format's precision decide. -/
def withinError (sub n : Nat) (y cand : Dy) : Bool :=
  !cand.isZero && (decide (cand.m < 0) == decide (y.m < 0)) &&
    (if n = 8 then
      let r := roundMag (floatFmt 1) 0 cand.abs 0 true
      let v : Dy := { m := r.t, e := r.q }
      let ulp := max (y.log2 - 23) (-149)
      r.inexact && Dy.le (v.sub y.abs).abs { m := funcUlps sub, e := ulp } && (sub != 7 || Dy.le v (Dy.ofInt 1))
    else
      let q := y.log2 - 9
      cand.roundOdd q == y.roundOdd q)

/-- An approximated function: the element's table gives a value within Table 8.7's error; which one the spec leaves open
(log 7). -/
def approx (sub n : Nat) (v : Dy) : Dy :=
  let u := normDy v.m.natAbs.log2 v
  let y := funcValue sub u
  let (m, e) := Config.funcApprox sub n u.m u.e
  if withinError sub n y { m := m, e := e } then { m := m, e := e } else y

end Sys2Proof.Machine
end

