-- ==== Sys2Proof/Machine/Lanes.lean ====
section
/-! DEFINITION. Lanes of digit trains: values, the value rule (R141), float and integer beyond lanes (R139), early
decisions (R144), and resolving to patterns (R142, R169). -/
namespace Sys2Proof.Machine

/-- The digit count of a lane of a format (R138). -/
def digits (fmt : Nat) : Nat := laneBits fmt / 4

/-- The lanes of a train of a format (R138). -/
def lanesOf (fmt : Nat) : Nat := 1024 / laneBits fmt

/-- A float lane at rail `x`; a rail outside -511 to +510 becomes a beyond special (R139). -/
def mkFlt (n : Nat) (x hi lo : Int) : Lane :=
  let neg : Bool := hi * 2 ^ (2 * n) + lo < 0
  if x < -511 then .spec (.low neg) else if 510 < x then .spec (.high neg) else .flt x hi lo

/-- A fresh float lane of a nonzero value, held to 4n bits by rounding to odd (R140, R74). -/
def freshFlt (n : Nat) (v : Dy) : Lane :=
  let x := v.log2 + 1
  let r := v.roundOdd (x - 4 * n)
  let a := r.natAbs
  let sg (t : Nat) : Int := if r < 0 then -(t : Int) else t
  mkFlt n x (sg (a / 2 ^ (2 * n))) (sg (a % 2 ^ (2 * n)))

/-- An integer lane of a value and a beat-0 part, beyond when the rail cannot extend to it (Table 7.2). -/
def mkInt (n : Nat) (v hi : Int) : Lane :=
  if 511 * 2 ^ (4 * n) ≤ v then .beyond true v
  else if v ≤ -(512 * 2 ^ (4 * n)) then .beyond false v
  else .int v hi

/-- The beat-0 part of a computed integer lane: the nearest multiple of 16^(n/2) (log 15), short of the rails -512 and +511
that mark beyond lanes (Table 7.2). -/
def intHi (n : Nat) (v : Int) : Int :=
  let h := (Dy.ofInt v).nearest (2 * n) * 2 ^ (2 * n)
  max (2 ^ (2 * n) - 512 * 2 ^ (4 * n)) (min (511 * 2 ^ (4 * n) - 2 ^ (2 * n)) h)

/-- The beat-0 part of a fresh integer lane: its upper radix-16 digits, with its sign (R140). -/
def freshHi (n : Nat) (v : Int) : Int :=
  let t : Int := (v.natAbs / 2 ^ (2 * n) * 2 ^ (2 * n) : Nat)
  if v < 0 then -t else t

def freshInt (n : Nat) (v : Int) : Lane := mkInt n v (freshHi n v)

/-- The zero lane of a format (R158): +0 for floats, 0 for integers, code 0 for narrow lanes. -/
def zeroLane (fmt : Nat) : Lane :=
  if isInt fmt then .int 0 0 else if isWide fmt then .spec (.zero false) else .code 0

/-- The canonical NaN lane of a format (R65); the fraction field keeps every bit of the pattern below the exponent, and
the sign above them. -/
def nanLane (fmt : Nat) : Lane := .spec (.nan false (if fmt = 1 then 0x400000 else 0x40))

/-- The fraction and sign bits a NaN lane carries from its pattern (R65, R139). -/
def nanBits (fmt c : Nat) : Nat :=
  if fmt = 1 then c % 2 ^ 23 + 2 ^ 23 * (c / 2 ^ 31 % 2) else c % 2 ^ 7 + 2 ^ 7 * (c / 2 ^ 15 % 2)

/-- The pattern of a NaN lane (R65). -/
def nanPattern (fmt b : Nat) : Nat :=
  if fmt = 1 then 0x7F800000 + b % 2 ^ 23 + 2 ^ 31 * (b / 2 ^ 23 % 2) else 0x7F80 + b % 2 ^ 7 + 2 ^ 15 * (b / 2 ^ 7 % 2)

/-- The fresh lane of a pattern (R140, R193). -/
def ofPattern (fmt : Nat) (uns : Bool) (c : Nat) : Lane :=
  if isNarrow fmt then .code (c % 2 ^ memBits fmt)
  else if isInt fmt then
    freshInt (digits fmt) (if uns then (c % 2 ^ memBits fmt : Nat) else sextNat (memBits fmt) c)
  else match decodeNum fmt uns (c % 2 ^ memBits fmt) with
    | .fin v => freshFlt (digits fmt) v
    | .zero neg => .spec (.zero neg)
    | .inf neg => .spec (.inf neg)
    | .nan sg => .spec (.nan sg (nanBits fmt c))

/-! ## Float operands -/

/-- A float operand under the value rule: its class, its value, its beat-0 part and the bound L (R141). -/
inductive Kind where
  | nan (signalling : Bool)
  | inf (neg : Bool)
  | high (neg : Bool)
  | zero (neg : Bool)
  | low (neg : Bool)
  | fin
  deriving DecidableEq, Repr

structure Term where
  k : Kind
  v : Dy
  h : Dy
  l : Dy
  deriving DecidableEq, Repr

def dyZero : Dy := { m := 0, e := 0 }

/-- The term of a float lane of `n` digits; an integer, code or absent lane never reaches it. -/
def termOf (n : Nat) : Lane → Term
  | .flt x hi lo =>
    { k := .fin, v := { m := hi * 2 ^ (2 * n) + lo, e := x - 4 * n }, h := { m := hi, e := x - 2 * n },
      l := (Dy.pow2 (x - 2 * n)).sub (Dy.pow2 (x - 4 * n)) }
  | .spec (.zero s) => { k := .zero s, v := dyZero, h := dyZero, l := dyZero }
  | .spec (.inf s) => { k := .inf s, v := dyZero, h := dyZero, l := dyZero }
  | .spec (.nan sg _) => { k := .nan sg, v := dyZero, h := dyZero, l := dyZero }
  | .spec (.high s) => { k := .high s, v := dyZero, h := dyZero, l := dyZero }
  | .spec (.low s) => { k := .low s, v := dyZero, h := dyZero, l := dyZero }
  | .int v hi => { k := .fin, v := Dy.ofInt v, h := Dy.ofInt hi, l := dyZero }
  | .beyond _ v => { k := .fin, v := Dy.ofInt v, h := Dy.ofInt v, l := dyZero }
  | _ => { k := .zero false, v := dyZero, h := dyZero, l := dyZero }

def Kind.neg : Kind → Kind
  | .inf s => .inf !s
  | .high s => .high !s
  | .zero s => .zero !s
  | .low s => .low !s
  | k => k

def Term.neg (t : Term) : Term := { t with k := t.k.neg, v := t.v.neg, h := t.h.neg }

/-- The IEEE sign of a term; a digit zero is taken as +0 (R139). -/
def Term.sign (t : Term) : Bool :=
  match t.k with
  | .inf s => s
  | .high s => s
  | .zero s => s
  | .low s => s
  | .nan _ => false
  | .fin => t.v.m < 0

/-- Whether a term is a zero: a zero special, a beyond low standing in, or a lane whose value is 0. -/
def Term.isZero (t : Term) : Bool :=
  match t.k with
  | .zero _ => true
  | .low _ => true
  | .fin => t.v.isZero
  | _ => false

/-- Whether a term is an exact zero (R139). -/
def Term.exactZero (t : Term) : Bool :=
  match t.k with
  | .zero _ => true
  | .fin => t.v.isZero
  | _ => false

def Term.isInf (t : Term) : Bool :=
  match t.k with
  | .inf _ => true
  | .high _ => true
  | _ => false

def Term.isNan (t : Term) : Bool :=
  match t.k with
  | .nan _ => true
  | _ => false

def Term.signals (t : Term) : Bool :=
  match t.k with
  | .nan sg => sg
  | _ => false

/-- The product of two terms (R139, R141, R163): a term, and whether 0 times an infinity made it invalid. -/
def Term.mul (a b : Term) : Term × Bool :=
  let s := a.sign != b.sign
  if a.isNan || b.isNan then ({ a with k := .nan (a.signals || b.signals) }, false)
  else if (a.isInf && b.isZero) || (a.isZero && b.isInf) then ({ a with k := .nan false }, true)
  else
    let h := a.h.mul b.h
    let l := ((a.h.abs.mul b.l).add (b.h.abs.mul a.l)).add (a.l.mul b.l)
    if a.isInf || b.isInf then
      let exact := match a.k, b.k with
        | .inf _, _ => true
        | _, .inf _ => true
        | _, _ => false
      ({ k := if exact then .inf s else .high s, v := dyZero, h := dyZero, l := dyZero }, false)
    else
      match a.k, b.k with
      | .fin, .fin => ({ k := .fin, v := a.v.mul b.v, h := h, l := l }, false)
      | _, _ =>
        ({ k := if a.exactZero || b.exactZero then .zero s else .low s, v := dyZero, h := dyZero, l := dyZero }, false)

/-! ## The value rule (R141) -/

/-- Least j with m ≤ c * 2^j, for nonzero m and c. -/
def leastShift (m c : Nat) : Int :=
  let j0 : Int := (Nat.log2 m : Int) - (Nat.log2 c : Int) - 1
  let ok (j : Int) : Bool := if 0 ≤ j then m ≤ c * 2 ^ j.toNat else m * 2 ^ (-j).toNat ≤ c
  if ok j0 then j0 else if ok (j0 + 1) then j0 + 1 else j0 + 2

/-- The smallest X with |e| + B + 2^(X-2n) ≤ 2^X and 2^(X-2n) ≥ 2B + 2^(X-4n+2), from |e| and B not both zero. -/
def railOf (n : Nat) (e b : Dy) : Int :=
  let a := e.abs.add b
  let x1 := leastShift a.m.natAbs (2 ^ (2 * n) - 1) + a.e + 2 * n
  if b.isZero then x1
  else max x1 (leastShift (2 * b.m.natAbs) (2 ^ (2 * n) - 4) + b.e + 4 * n)

/-- The lane of beat-0 estimate `e`, bound `b` and exact result `v` (R141). -/
def ruleLane (n : Nat) (e b v : Dy) : Lane :=
  if e.isZero && b.isZero then .flt (-511) 0 0
  else
    let x := railOf n e b
    let d0 := e.nearest (x - 2 * n)
    let r := v.roundOdd (x - 4 * n)
    mkFlt n x d0 (r - d0 * 2 ^ (2 * n))

/-- The sum of terms as a lane, with the flags invalid and divide (R139, R141, R162): `fs` adds a final operation on the
sum (identity or absolute value). -/
def sumLane (fmt : Nat) (absolute : Bool) (ts : List Term) (invalid : Bool) : Lane × Nat :=
  let n := digits fmt
  let sig := ts.any Term.signals
  if ts.any Term.isNan then (nanLane fmt, if invalid || sig then fInvalid else 0)
  else if ts.any Term.isInf then
    let infs := ts.filter Term.isInf
    let negs := infs.map Term.sign
    if negs.contains true && negs.contains false then (nanLane fmt, fInvalid)
    else
      let neg := !absolute && negs.contains true
      let exact := infs.any (fun t => match t.k with
        | .inf _ => true
        | _ => false)
      (.spec (if exact then .inf neg else .high neg), 0)
  else
    let v := (ts.map Term.v).foldl Dy.add dyZero
    let e := (ts.map Term.h).foldl Dy.add dyZero
    let b := (ts.map Term.l).foldl Dy.add dyZero
    let e := if absolute then e.abs else e
    let v := if absolute then v.abs else v
    if ts.all Term.isZero then
      let signs := ts.map Term.sign
      let neg := !absolute && !signs.contains false
      if ts.any (fun t => match t.k with
        | .low _ => true
        | _ => false) then (.spec (.low neg), 0)
      else if e.isZero && b.isZero then
        if signs.contains true && signs.contains false && !absolute then (.flt (-511) 0 0, 0)
        else (.spec (.zero neg), 0)
      else (ruleLane n e b v, 0)
    else (ruleLane n e b v, 0)

/-! ## Integer lanes (R139, R141) -/

/-- An integer operand: its value, its direction where it is beyond. -/
def intOf : Lane → Int × Option Bool
  | .int v _ => (v, none)
  | .beyond up v => (v, some up)
  | .code c => (c, none)
  | _ => (0, none)

/-- An integer lane as a word reads it (R62, R166): under signedness bit 1 a lane below 0 that is not beyond is its pattern of the
lane's width, every other lane its value (log 91). -/
def readLane (fmt : Nat) (uns : Bool) (l : Lane) : Lane :=
  match l with
  | .int v _ => if isInt fmt && uns && v < 0 then freshInt (digits fmt) (wrapInt (laneBits fmt) v) else l
  | l => l

/-- The sign of an integer operand, from its direction where it is beyond. -/
def intSign (o : Int × Option Bool) : Int :=
  match o.2 with
  | some true => 1
  | some false => -1
  | none => o.1.sign

/-- A lane of an exact result `v` whose beyond terms point as `dirs` (R139): below only where all point below. -/
def intLane (n : Nat) (v : Int) (dirs : List Bool) : Lane :=
  match dirs with
  | [] => mkInt n v (intHi n v)
  | ds => .beyond (ds.contains true) v

/-- The directions of the beyond terms of a sum, each negated where its flag says so. -/
def sumDirs (ts : List ((Int × Option Bool) × Bool)) : List Bool :=
  ts.filterMap (fun t => match t.1.2 with
    | some up => some (up != t.2)
    | none => none)

/-- The product of integer operands: an exact zero factor gives 0 exactly (R139). -/
def intProd (a b : Int × Option Bool) : Int × Option Bool :=
  if (a.2.isNone && a.1 == 0) || (b.2.isNone && b.1 == 0) then (0, none)
  else if a.2.isSome || b.2.isSome then (a.1 * b.1, some (0 < intSign a * intSign b))
  else (a.1 * b.1, none)

/-! ## Early decisions (R144) -/

/-- The beat-0 part of a lane and its unit, for lanes that may decide early. -/
def hiUnit (fmt : Nat) : Lane → Option (Dy × Dy)
  | .flt x hi _ => some ({ m := hi, e := x - 2 * digits fmt }, Dy.pow2 (x - 2 * digits fmt))
  | .spec (.zero _) => some (dyZero, dyZero)
  | .int _ hi => some (Dy.ofInt hi, Dy.pow2 (2 * digits fmt))
  | _ => none

def isInfLane : Lane → Bool
  | .spec (.inf _) => true
  | _ => false

/-- Whether thr or sign decides a lane at the end of beat 0 against a threshold. -/
def earlyThr (fmt : Nat) (l : Lane) (t : Dy) : Bool :=
  isInfLane l || (match hiUnit fmt l with
    | some (h, u) => Dy.lt u (h.sub t).abs
    | none => false)

/-- Whether cmp.eq to cmp.ge decides a lane at the end of beat 0 (R166): the rails give an infinity away. -/
def earlyCmp (fmt : Nat) (a b : Lane) : Bool :=
  let sees (l : Lane) : Bool := isInfLane l || (hiUnit fmt l).isSome
  sees a && sees b && (isInfLane a || isInfLane b || (match hiUnit fmt a, hiUnit fmt b with
    | some (h, u), some (g, v) => Dy.lt (u.add v) (h.sub g).abs
    | _, _ => false))

/-! ## Resolving (R142, R169) -/

/-- The number a lane stands for at a resolve: a digit zero is -0 in mode 011 and +0 elsewhere, a beyond high is too
large for any format and a beyond low too small (R139). -/
def numOf (fmt mode : Nat) (l : Lane) : Num :=
  match l with
  | .flt _ _ _ =>
    let v := (termOf (digits fmt) l).v
    if v.isZero then .zero (mode == 3) else .fin v
  | .spec (.zero s) => .zero s
  | .spec (.inf s) => .inf s
  | .spec (.nan sg _) => .nan sg
  | .spec (.high s) => .fin { m := if s then -1 else 1, e := 4096 }
  | .spec (.low s) => .fin { m := if s then -1 else 1, e := -4096 }
  | .int v _ => if v = 0 then .zero false else .fin (Dy.ofInt v)
  | .beyond _ v => if v = 0 then .zero false else .fin (Dy.ofInt v)
  | .code c => decodeNum fmt false c
  | .absent => .zero false

/-- What a beyond lane raises beside the overflow or the underflow it rounds as (R139). -/
def beyondFlags : Lane → Nat
  | .spec (.high _) => fInexact
  | .spec (.low _) => fInexact
  | _ => 0

/-- An integer lane's pattern: wrap exactly, or saturate, a beyond lane in its direction (R63, R139). -/
def resolveInt (fmt : Nat) (uns : Bool) (mode : Nat) (l : Lane) : Nat × Nat :=
  let bits := memBits fmt
  match l with
  | .beyond up v =>
    if mode = 1 then (wrapInt bits (if up then intMax bits uns else intMin bits uns), fOverflow) else (wrapInt bits v, 0)
  | l => intToInt bits uns mode (intOf l).1

/-- The pattern and flags of a lane in its own format; a NaN keeps its bits (R142, R65). -/
def resolveLane (fmt : Nat) (uns : Bool) (mode st : Nat) (l : Lane) : Nat × Nat :=
  if isNarrow fmt then ((match l with
    | .code c => c
    | _ => 0), 0)
  else if isInt fmt then resolveInt fmt uns mode l
  else match l with
    | .spec (.nan _ b) => (nanPattern fmt b, 0)
    | l => convert fmt uns mode (numOf fmt mode l) st false

/-- The pattern a BIT subop or `resolve` reads: a NaN is canonical (R169). -/
def patternLane (fmt : Nat) (uns : Bool) (mode st : Nat) (l : Lane) : Nat × Nat :=
  match l with
  | .spec (.nan _ _) => if isWide fmt then (nanCode fmt, 0) else resolveLane fmt uns mode st l
  | l => resolveLane fmt uns mode st l

/-- Resolve the lanes of a train in ascending order, stepping the LFSR after each rounded lane of mode 101 (R75): one pattern a
lane (none for an absent one), the flags, and the LFSR state after them. -/
def resolveTrain (fmt : Nat) (uns : Bool) (mode : Nat) : List Lane → Nat → List (Option Nat) × Nat × Nat
  | [], st => ([], 0, st)
  | .absent :: ls, st =>
    let (ps, f, st') := resolveTrain fmt uns mode ls st
    (none :: ps, f, st')
  | l :: ls, st =>
    let (p, f) := resolveLane fmt uns mode st l
    let (ps, f', st') := resolveTrain fmt uns mode ls (lfsrAfter mode (isWide fmt) st)
    (some p :: ps, f ||| f', st')

/-! ## Trains and bytes (R29, R193) -/

/-- The bytes of a train of a format in memory. -/
def trainBytes (fmt : Nat) : Nat := lanesOf fmt * memBits fmt / 8

/-- The lanes of a byte string: a lane is present when all its bytes are there; e2m1 has two lanes a byte (R61). -/
def lanesOfBytes (fmt : Nat) (uns : Bool) (bs : List Nat) : List Lane :=
  (range 0 (lanesOf fmt)).map (fun j =>
    if fmt = 7 then
      (if j / 2 < bs.length then .code (nth 0 bs (j / 2) / 16 ^ (j % 2) % 16) else .absent)
    else
      let w := memBits fmt / 8
      if (j + 1) * w ≤ bs.length then ofPattern fmt uns (ofBytes ((bs.drop (j * w)).take w)) else .absent)

/-- A train with nothing but its kind. -/
def kindTrain (k : TokenKind) (fmt tag : Nat) : Train := { kind := k, fmt := fmt, lanes := [], tag := tag }

/-- Lane `j` of a train; absent past its end. -/
def Train.lane (t : Train) (j : Nat) : Lane := nth .absent t.lanes j

end Sys2Proof.Machine
end

