-- ==== Sys2Proof/Machine/Compute.lean ====
section
/-! DEFINITION. What the compute subops (kinds ADD, MUL, CMP, BIT, CVT, FUNC) do to one train of lanes (08). -/
namespace Sys2Proof.Machine

/-- One firing of a word: the trains of its ports (none: not taken, or a missing side), its LFSR state, its block. -/
structure FArg where
  w : FWord
  b : Block
  fmt : Nat
  a : Option Train
  pb : Option Train
  c : Option Train
  p : Option Train
  st : Nat
  deriving DecidableEq, Repr, Inhabited

/-- What a firing gives: the output format and lanes, a second output for target B (qblk), each lane's flags, the LFSR
state after it, and a fault in place of all of it. -/
structure FOut where
  fmt : Nat
  lanes : List Lane
  second : Option (Nat × List Lane)
  flags : List Nat
  st : Nat
  err : Option FaultCode
  deriving DecidableEq, Repr, Inhabited

def FOut.fault (f : FaultCode) (x : FArg) : FOut :=
  { fmt := 0, lanes := [], second := none, flags := [], st := x.st, err := some f }

/-! ## Lanes and predicates -/

/-- The lane of a governing train that governs output lane `j` of width `width` (R157). -/
def govLane (t : Train) (width j : Nat) : Lane := t.lane (width * j / laneBits t.fmt)

/-- Whether output lane `j` is computed under the predicate (R158); none where its p lane is absent (R159). -/
def FArg.gate (x : FArg) (width j : Nat) : Option Bool :=
  match x.p with
  | none => some true
  | some t =>
    match govLane t width j with
    | .absent => none
    | l => some (((intOf l).1 != 0) == (x.w.f.pred == 1))

/-- Work through output lanes in ascending order, carrying the LFSR state (R75). -/
def eachLane (f : Nat → Nat → Lane × Nat × Nat) : List Nat → Nat → List Lane × List Nat × Nat
  | [], st => ([], [], st)
  | j :: js, st =>
    let (l, fl, st1) := f j st
    let (ls, fs, st2) := eachLane f js st1
    (l :: ls, fl :: fs, st2)

/-- Lane `j` of the train of a port, where the port is there. -/
def laneAt (t : Option Train) (j : Nat) : Option Lane := t.map (fun t => t.lane j)

/-- A word whose output lane `j` comes from lane `j` of its data ports: absent lanes and the predicate first (R158,
R159). -/
def pointwise (x : FArg) (fmt : Nat) (f : Nat → Nat → Lane × Nat × Nat) : FOut :=
  let (ls, fs, st) := eachLane (fun j st =>
    if laneAt x.a j == some .absent || laneAt x.pb j == some .absent || laneAt x.c j == some .absent then (.absent, 0, st)
    else match x.gate (laneBits fmt) j with
      | none => (.absent, 0, st)
      | some false => (zeroLane fmt, 0, st)
      | some true => f j st) (range 0 (lanesOf fmt)) x.st
  { fmt := fmt, lanes := ls, second := none, flags := fs, st := st, err := none }

/-- Lane `j` of ports a, b and c; a missing side reads as absent. -/
def FArg.la (x : FArg) (j : Nat) : Lane := (laneAt x.a j).getD .absent

def FArg.lb (x : FArg) (j : Nat) : Lane := (laneAt x.pb j).getD .absent

def FArg.lc (x : FArg) (j : Nat) : Lane := (laneAt x.c j).getD .absent

/-- A lane as the word's signedness bit has it read (R62). -/
def FArg.read (x : FArg) (l : Lane) : Lane := readLane x.fmt x.w.uns l

/-! ## ADD (R162) and MUL (R163-R165) -/

/-- A signed sum of lanes, optionally made absolute (Table 8.2). -/
def addLanes (fmt : Nat) (absolute : Bool) (ts : List (Lane × Bool)) : Lane × Nat :=
  if isInt fmt then
    let os := ts.map (fun t => (intOf t.1, t.2))
    let v := os.foldl (fun v o => if o.2 then v - o.1.1 else v + o.1.1) 0
    let ds := sumDirs os
    if absolute then (intLane (digits fmt) v.natAbs (ds.map (fun _ => true)), 0)
    else (intLane (digits fmt) v ds, 0)
  else sumLane fmt absolute (ts.map (fun t =>
    let u := termOf (digits fmt) t.1
    if t.2 then u.neg else u)) false

/-- A product, negated or not, with an optional addend (Table 8.3): rounded once. -/
def mulLanes (fmt : Nat) (a b : Lane) (negProd : Bool) (c : Option (Lane × Bool)) : Lane × Nat :=
  if isInt fmt then
    let p := intProd (intOf a) (intOf b)
    let os := (p, negProd) :: (match c with
      | some (l, n) => [(intOf l, n)]
      | none => [])
    (intLane (digits fmt) (os.foldl (fun v o => if o.2 then v - o.1.1 else v + o.1.1) 0) (sumDirs os), 0)
  else
    let n := digits fmt
    let (t, bad) := (termOf n a).mul (termOf n b)
    sumLane fmt false ((if negProd then t.neg else t) :: (match c with
      | some (l, ng) => [if ng then (termOf n l).neg else termOf n l]
      | none => [])) bad

/-- Subops of ADD (Table 8.2). A signalling NaN raises nothing in neg and abs (R160). -/
def addSub (sub : Nat) (x : FArg) : FOut :=
  pointwise x x.fmt (fun j st =>
    let (l, f) := match sub with
      | 0 => addLanes x.fmt false [(x.la j, false), (x.lb j, false)]
      | 1 => addLanes x.fmt false [(x.la j, false), (x.lb j, true)]
      | 2 => ((addLanes x.fmt false [(x.la j, true)]).1, 0)
      | 3 => ((addLanes x.fmt true [(x.la j, false)]).1, 0)
      | 4 => addLanes x.fmt true [(x.la j, false), (x.lb j, true)]
      | _ => addLanes x.fmt false [(x.la j, false), (x.lb j, false), (x.lc j, false)]
    (l, f, st))

/-- mul, fma, fms and fnma (Table 8.3). -/
def mulSub (sub : Nat) (x : FArg) : FOut :=
  pointwise x x.fmt (fun j st =>
    let (l, f) := match sub with
      | 0 => mulLanes x.fmt (x.la j) (x.lb j) false none
      | 1 => mulLanes x.fmt (x.la j) (x.lb j) false (some (x.lc j, false))
      | 2 => mulLanes x.fmt (x.la j) (x.lb j) false (some (x.lc j, true))
      | _ => mulLanes x.fmt (x.la j) (x.lb j) true (some (x.lc j, false))
    (l, f, st))

/-- mulhi (R164): both lanes resolved to the lane's width, then floor(a * b / 2^P). -/
def mulhi (x : FArg) : FOut :=
  pointwise x x.fmt (fun j st =>
    let n := laneBits x.fmt
    let (p, f) := resolveInt x.fmt x.w.uns x.w.f.mode (x.la j)
    let (q, g) := resolveInt x.fmt x.w.uns x.w.f.mode (x.lb j)
    let v (u : Nat) : Int := if x.w.uns then u else sextNat n u
    (freshInt (digits x.fmt) (v p * v q / 2 ^ n), f ||| g, st))

/-- A float lane times 2^s: its digits kept, its rail moved; a zero passes unchanged, that of R139 too (R165). -/
def scaleLane (fmt : Nat) (s : Int) (l : Lane) : Lane × Nat :=
  match l with
  | .flt r hi lo => (if (termOf (digits fmt) l).v.isZero then l else mkFlt (digits fmt) (r + s) hi lo, 0)
  | .spec (.nan sg _) => (nanLane fmt, if sg then fInvalid else 0)
  | l => (l, 0)

def mulsc (x : FArg) : FOut :=
  pointwise x x.fmt (fun j st =>
    let (l, f) := scaleLane x.fmt (sextNat 9 (bits x.w.imm 8 0)) (x.la j)
    (l, f, st))

/-! ## CMP (R166-R168) -/

/-- A magnitude above every lane's: it stands for an infinity in an ordering. -/
def hugeDy (neg : Bool) : Dy := { m := if neg then -1 else 1, e := 8192 }

/-- The value an ordering sees: an infinity or a beyond high is one of its sign (R139). -/
def Term.key (t : Term) : Dy := if t.isInf then hugeDy t.sign else t.v

/-- The order of two float lanes, none where either is a NaN (R166). -/
def laneOrder (fmt : Nat) (a b : Lane) : Option Int :=
  let x := termOf (digits fmt) a
  let y := termOf (digits fmt) b
  if x.isNan || y.isNan then none else some (Dy.cmp x.key y.key)

/-- The flags of a comparison: a signalling NaN raises invalid, and any NaN does in an ordered one (Table 8.4). -/
def orderFlags (fmt : Nat) (ordered : Bool) (a b : Lane) : Nat :=
  let x := termOf (digits fmt) a
  let y := termOf (digits fmt) b
  if x.signals || y.signals || (ordered && (x.isNan || y.isNan)) then fInvalid else 0

/-- A predicate lane (R156). -/
def predLane (b : Bool) : Lane := .int (if b then 1 else 0) 0

/-- cmp.eq to cmp.ge (R166), on the values of the lanes as bit [9] has them read. -/
def cmpSub (sub : Nat) (x : FArg) : FOut :=
  pointwise x (intTag (laneBits x.fmt)) (fun j st =>
    let o := laneOrder x.fmt (x.read (x.la j)) (x.read (x.lb j))
    let r : Bool := match o, sub with
      | none, 1 => true
      | none, _ => false
      | some v, 0 => v == 0
      | some v, 1 => v != 0
      | some v, 2 => v < 0
      | some v, 3 => v ≤ 0
      | some v, 4 => 0 < v
      | some v, _ => 0 ≤ v
    (predLane r, orderFlags x.fmt (2 ≤ sub) (x.la j) (x.lb j), st))

/-- The threshold of thr or sign, read as the lanes' format gives (R168). -/
def threshold (w : FWord) (b : Block) (fmt : Nat) : Dy :=
  if w.sub = 10 then dyZero
  else
    let v := bits (b.param (bits w.imm 7 0)) 31 0
    if isInt fmt then Dy.ofInt (if w.uns then v else sextNat 32 v)
    else match decodeNum 1 false v with
      | .fin d => d
      | .inf n => hugeDy n
      | _ => dyZero

/-- sign and thr (R168). -/
def thrSub (x : FArg) : FOut :=
  pointwise x (intTag (laneBits x.fmt)) (fun j st =>
    let t := termOf (digits x.fmt) (x.la j)
    let ge := bit x.w.imm 8
    let o := Dy.cmp t.key (threshold x.w x.b x.fmt)
    let r : Bool := if t.isNan then false
      else if x.w.sub = 10 then (if ge then 0 ≤ o else o < 0) else if ge then 0 ≤ o else 0 < o
    (predLane r, if t.signals then fInvalid else 0, st))

/-- An operand of a selection: its lane, its ordering value and its term. -/
structure Pick where
  lane : Lane
  t : Term
  deriving DecidableEq, Repr

/-- Whether `a` comes before `b`: by value, and -0 before +0 (R167). -/
def Pick.before (a b : Pick) : Bool :=
  let o := Dy.cmp a.t.key b.t.key
  o < 0 || (o == 0 && a.t.isZero && b.t.isZero && a.t.sign && !b.t.sign)

def pickMin (a b : Pick) : Pick := if b.before a then b else a

def pickMax (a b : Pick) : Pick := if a.before b then b else a

/-- The beat-0 estimate's ordering value of an operand. -/
def Term.hkey (t : Term) : Dy := if t.isInf then hugeDy t.sign else t.h

def dyMin (a b : Dy) : Dy := if Dy.lt b a then b else a

def dyMax (a b : Dy) : Dy := if Dy.lt a b then b else a

def isSpec : Lane → Bool
  | .spec _ => true
  | _ => false

/-- The lane of a selection: `sel` over operands and `hsel` over their estimates (R167). -/
def selLanes (fmt : Nat) (sel : Pick) (hsel : Dy) (all : List Pick) : Lane :=
  let n := digits fmt
  if isInt fmt then
    match sel.lane with
    | .beyond up v => .beyond up v
    | l => mkInt n (intOf l).1 (intHi n (intOf l).1)
  else if all.any (fun p => p.t.isNan) then nanLane fmt
  else if sel.t.isInf || all.all (fun p => isSpec p.lane) then sel.lane
  else ruleLane n hsel ((all.map (fun p => p.t.l)).foldl Dy.add dyZero) sel.t.v

def pickOf (fmt : Nat) (l : Lane) : Pick := { lane := l, t := termOf (digits fmt) l }

/-- min or max of two lanes. -/
def minMax (fmt : Nat) (least : Bool) (a b : Lane) : Lane :=
  let p := pickOf fmt a
  let q := pickOf fmt b
  if least then selLanes fmt (pickMin p q) (dyMin p.t.hkey q.t.hkey) [p, q]
  else selLanes fmt (pickMax p q) (dyMax p.t.hkey q.t.hkey) [p, q]

/-- A lane that an operation passes on: a NaN leaves canonical (R65). -/
def canonLane (fmt : Nat) (l : Lane) : Lane :=
  match l with
  | .spec (.nan _ _) => nanLane fmt
  | l => l

/-- min and max of lanes as bit [9] has them read (R167): a side missing under PAD leaves the present input. -/
def minMaxSub (least : Bool) (x : FArg) : FOut :=
  pointwise x x.fmt (fun j st =>
    (match x.a, x.pb with
      | some a, some b => minMax x.fmt least (x.read (a.lane j)) (x.read (b.lane j))
      | some a, none => canonLane x.fmt (x.read (a.lane j))
      | none, some b => canonLane x.fmt (x.read (b.lane j))
      | none, none => .absent, 0, st))

/-- clamp of a between b and c, either bound missing under PAD (R167). -/
def clampSub (x : FArg) : FOut :=
  pointwise x x.fmt (fun j st =>
    let a := pickOf x.fmt (x.read (x.la j))
    let bs := (match x.pb with
      | some t => [pickOf x.fmt (x.read (t.lane j))]
      | none => [])
    let cs := (match x.c with
      | some t => [pickOf x.fmt (x.read (t.lane j))]
      | none => [])
    let lo := bs.foldl pickMax a
    let hlo := bs.foldl (fun h p => dyMax h p.t.hkey) a.t.hkey
    (selLanes x.fmt (cs.foldl pickMin lo) (cs.foldl (fun h p => dyMin h p.t.hkey) hlo) (a :: bs ++ cs), 0, st))

/-! ## BIT (R169-R171) -/

/-- A pattern as BIT reads it; a float lane is rounded, and steps the LFSR of mode 101. -/
def patStep (x : FArg) (st : Nat) (l : Lane) : Nat × Nat × Nat :=
  let (p, f) := patternLane x.fmt x.w.uns x.w.f.mode st l
  (p, f, lfsrAfter x.w.f.mode (isWide x.fmt) st)

/-- The pattern of a side of `and`: one missing under PAD is all ones (Table 8.1). -/
def padOnes (x : FArg) (t : Option Train) (st : Nat) (l : Lane) : Nat × Nat × Nat :=
  if t.isSome then patStep x st l else (2 ^ memBits x.fmt - 1, 0, st)

/-- A pattern operation on a, b and c. -/
def bitOp (x : FArg) (fmt : Nat) (f : Nat → Nat → Nat → Lane) : FOut :=
  pointwise x fmt (fun j st =>
    let (a, fa, st) := patStep x st (x.la j)
    let (b, fb, st) := if x.pb.isSome then patStep x st (x.lb j) else (0, 0, st)
    let (c, fc, st) := if x.c.isSome then patStep x st (x.lc j) else (0, 0, st)
    (f a b c, fa ||| fb ||| fc, st))

/-- Leading zeros of a pattern of `n` bits. -/
def clzBits (n v : Nat) : Nat := if v = 0 then n else n - 1 - Nat.log2 v

/-- The pattern operations of Table 8.5. -/
def bitSub (sub : Nat) (x : FArg) : FOut :=
  let n := memBits x.fmt
  let it := intTag (laneBits x.fmt)
  let out (v : Nat) : Lane := ofPattern x.fmt x.w.uns v
  match sub with
  | 0 => pointwise x x.fmt (fun j st =>
    let (a, fa, st) := padOnes x x.a st (x.la j)
    let (b, fb, st) := padOnes x x.pb st (x.lb j)
    (out (a &&& b), fa ||| fb, st))
  | 1 => bitOp x x.fmt (fun a b _ => out (a ||| b))
  | 2 => bitOp x x.fmt (fun a b _ => out (a ^^^ b))
  | 3 => bitOp x x.fmt (fun a _ _ => out (2 ^ n - 1 - a))
  | 7 => bitOp x it (fun a _ _ => freshInt (digits it) (maskList a n).length)
  | 8 => bitOp x it (fun a _ _ => freshInt (digits it) (clzBits n a))
  | _ => bitOp x x.fmt (fun a b c => out ((a &&& c) ||| (b &&& (2 ^ n - 1 - c))))

/-- A pattern of `n` bits shifted by `k` (R171): left, right, or right with copies of the top bit. -/
def shiftPattern (sub n a k : Nat) : Nat :=
  match sub with
  | 4 => if n ≤ k then 0 else a * 2 ^ k % 2 ^ n
  | 5 => if n ≤ k then 0 else a / 2 ^ k
  | _ =>
    let k := min k n
    a / 2 ^ k + (if bit a (n - 1) then 2 ^ n - 2 ^ (n - k) else 0)

/-- The count of a shift for an output lane, with the flags of its resolve: none where the governing lane is absent; a
missing side is count 0. A count lane is resolved as every input lane is (R169, R171). -/
def shiftCount (x : FArg) (j : Nat) : Option (Nat × Nat) :=
  if !bit x.w.imm 8 then some (bits x.w.imm 5 0, 0)
  else match x.pb with
    | none => some (0, 0)
    | some t => match govLane t (laneBits x.fmt) j with
      | .absent => none
      | l =>
        let (p, f) := resolveInt t.fmt x.w.uns x.w.f.mode l
        some (p % 256, f)

/-- shl, shr and sra: an absent count lane makes the output lane absent whatever the predicate says (R159). -/
def shiftSub (sub : Nat) (x : FArg) : FOut :=
  let (ls, fs, st) := eachLane (fun j st =>
    match x.la j, shiftCount x j, x.gate (laneBits x.fmt) j with
    | .absent, _, _ => (.absent, 0, st)
    | _, none, _ => (.absent, 0, st)
    | _, _, none => (.absent, 0, st)
    | _, _, some false => (zeroLane x.fmt, 0, st)
    | l, some (k, g), some true =>
      let (a, f, st) := patStep x st l
      (ofPattern x.fmt x.w.uns (shiftPattern sub (memBits x.fmt) a k), f ||| g, st)) (range 0 (lanesOf x.fmt)) x.st
  { fmt := x.fmt, lanes := ls, second := none, flags := fs, st := st, err := none }

/-! ## CVT (R172-R178) -/

/-- The input lane of output lane `j` in a width change (R172). -/
def sourceLane (inFmt outFmt part j : Nat) : Nat :=
  if lanesOf outFmt < lanesOf inFmt then part * lanesOf outFmt + j else j

/-- One lane converted to a format with a block scale exponent on its narrow side (R76-R79, R173); none is the block
NaN. -/
def convertLane (x : FArg) (out : Nat) (uns : Bool) (sc : Option Int) (st : Nat) (l : Lane) : Nat × Nat :=
  let n := numOf x.fmt x.w.f.mode l
  if isInt x.fmt && isInt out then resolveInt out uns x.w.f.mode l
  else if isNarrow x.fmt then
    convert out uns x.w.f.mode (match sc with
      | some k => n.scale k
      | none => .nan false) st false
  else if isNarrow out then
    match sc with
    | some k => convert out uns x.w.f.mode (n.scale (-k)) st false
    | none => (0, fInvalid)
  else convert out uns x.w.f.mode n st false

/-- The scale exponent of an output lane of cvt: none where its lane is absent; `some none` is the block NaN. -/
def cvtScale (x : FArg) (out j : Nat) : Option (Option Int) :=
  if !bit x.w.imm 5 then some (some 0)
  else match x.pb with
    | none => some (some 0)
    | some t => match govLane t (laneBits out) j with
      | .absent => none
      | g => some (scaleExp (wrapInt 8 (intOf g).1))

/-- One lane of cvt: converted, with no more than invalid under the block NaN (R78), or with reinterpret its pattern as it stands
(R174), a lane that is rounded stepping the LFSR (R75). -/
def cvtLane (x : FArg) (out : Nat) (sc : Option Int) (st : Nat) (l : Lane) : Lane × Nat × Nat :=
  let uns := bit x.w.imm 3
  if bit x.w.imm 4 then
    let (p, f) := resolveLane x.fmt x.w.uns x.w.f.mode st l
    (ofPattern out uns (p % 2 ^ memBits out), f, lfsrAfter x.w.f.mode (isWide x.fmt) st)
  else
    let (p, f) := convertLane x out uns sc st (x.read l)
    (ofPattern out uns p, f ||| (if sc.isSome then beyondFlags l else 0), lfsrAfter x.w.f.mode (!(isInt x.fmt && isInt out)) st)

/-- cvt (R173): absent lanes first, then the predicate (R158, R159). -/
def cvt (x : FArg) : FOut :=
  let out := bits x.w.imm 2 0
  if bit x.w.imm 4 && !(memBits out == laneBits x.fmt || (out == 7 && laneBits x.fmt == 8)) then
    FOut.fault .formatUnaccepted x
  else
    let (ls, fs, st) := eachLane (fun j st =>
      match x.la (sourceLane x.fmt out (bits x.w.imm 7 6) j), cvtScale x out j, x.gate (laneBits out) j with
      | .absent, _, _ => (.absent, 0, st)
      | _, none, _ => (.absent, 0, st)
      | _, _, none => (.absent, 0, st)
      | _, _, some false => (zeroLane out, 0, st)
      | l, some sc, some true => cvtLane x out sc st l) (range 0 (lanesOf out)) x.st
    { fmt := out, lanes := ls, second := none, flags := fs, st := st, err := none }

/-- rnd (R175): each lane rounded to its own format; a NaN becomes canonical. -/
def rnd (x : FArg) : FOut :=
  pointwise x x.fmt (fun j st =>
    let l := x.la j
    let (p, f) := patternLane x.fmt x.w.uns x.w.f.mode st l
    let f := if isWide x.fmt && (termOf (digits x.fmt) l).signals then f ||| fInvalid else f
    (ofPattern x.fmt x.w.uns p, f, lfsrAfter x.w.f.mode (isWide x.fmt) st))

/-- resolve (R175): the rounded pattern as an unsigned integer lane of the lane width. -/
def resolveSub (x : FArg) : FOut :=
  let it := intTag (laneBits x.fmt)
  pointwise x it (fun j st =>
    let (p, f, st) := patStep x st (x.la j)
    (freshInt (digits it) p, f, st))

/-- A lane as the choice of a block's scale sees it: a beyond lane is an infinity or a zero (R139, R160). -/
def scaleNum (fmt mode : Nat) (l : Lane) : Num :=
  match l with
  | .spec (.high s) => .inf s
  | .spec (.low s) => .zero s
  | l => numOf fmt mode l

/-- The scales of blocks of 32 lanes (R176). -/
def blockScale (x : FArg) (out k : Nat) : Nat × Bool :=
  chooseScale out ((range (32 * k) 32).filterMap (fun j => match x.la j with
    | .absent => none
    | l => some (scaleNum x.fmt x.w.f.mode l)))

/-- qblk (R176): codes on A, scales on B. -/
def qblk (x : FArg) : FOut :=
  let out := bits x.w.imm 2 0
  let nin := lanesOf x.fmt
  let nblocks := (nin + 31) / 32
  let scales := (range 0 nblocks).map (blockScale x out)
  let (ls, fs, st) := eachLane (fun j st =>
    match x.la j, x.gate (laneBits out) j with
    | .absent, _ => (.absent, 0, st)
    | _, none => (.absent, 0, st)
    | _, some false => (zeroLane out, 0, st)
    | l, some true =>
      let (sc, clamped) := nth (0, false) scales (j / 32)
      let sg := if (termOf (digits x.fmt) l).signals && isWide x.fmt then fInvalid else 0
      let st' := lfsrAfter x.w.f.mode true st
      match scaleExp sc with
      | none => (.code 0, sg, st')
      | some k =>
        let free := !clamped && beyondFlags l == 0
        let (p, f) := convert out false x.w.f.mode ((numOf x.fmt x.w.f.mode l).scale (-k)) st free
        (.code p, f ||| beyondFlags l, st')) (range 0 (lanesOf out)) x.st
  let scaleLanes := (range 0 (lanesOf 4)).map (fun k =>
    if k < nblocks && (range (32 * k) 32).any (fun j => x.la j != .absent) then
      freshInt (digits 4) (nth (0, false) scales k).1 else .absent)
  { fmt := out, lanes := ls, second := some (4, scaleLanes), flags := fs, st := st, err := none }

/-- dqblk (R177): input lane i takes its scale from port-b lane i / 32. -/
def dqblk (x : FArg) : FOut :=
  let out := bits x.w.imm 2 0
  let (ls, fs, st) := eachLane (fun j st =>
    let i := sourceLane x.fmt out (bits x.w.imm 7 6) j
    match x.la i, x.lb (i / 32), x.gate (laneBits out) j with
    | .absent, _, _ => (.absent, 0, st)
    | _, .absent, _ => (.absent, 0, st)
    | _, _, none => (.absent, 0, st)
    | _, _, some false => (zeroLane out, 0, st)
    | l, g, some true =>
      let n := numOf x.fmt x.w.f.mode l
      let (p, f) := convert out false x.w.f.mode (match scaleExp (wrapInt 8 (intOf g).1) with
        | some k => n.scale k
        | none => .nan false) st false
      (ofPattern out false p, f, lfsrAfter x.w.f.mode true st)) (range 0 (lanesOf out)) x.st
  { fmt := out, lanes := ls, second := none, flags := fs, st := st, err := none }

/-- sat (R178): integer lanes clamped to k bits, a beyond lane by its direction. -/
def satSub (x : FArg) : FOut :=
  pointwise x x.fmt (fun j st =>
    let k := bits x.w.imm 4 0 + 1
    let lo := intMin k x.w.uns
    let hi := intMax k x.w.uns
    let (v, f) := match intOf (x.la j) with
      | (_, some true) => (hi, fOverflow)
      | (_, some false) => (lo, fOverflow)
      | (v, none) => if v < lo then (lo, fOverflow) else if hi < v then (hi, fOverflow) else (v, 0)
    (freshInt (digits x.fmt) v, f, st))

/-! ## FUNC (R179, R180) -/

/-- What a FUNC subop answers for a lane: a value, or a special of a sign, and its flags. -/
inductive FuncRes where
  | val (v : Dy)
  | zero (neg : Bool)
  | inf (neg : Bool)
  | nan
  deriving DecidableEq, Repr

/-- A value as an integer, where it is one. -/
def asInt (v : Dy) : Option Int :=
  let u := normDy v.m.natAbs.log2 v
  if 0 ≤ u.e then some (u.m * 2 ^ u.e.toNat) else none

/-- log2 of a power of two. -/
def asPow2 (v : Dy) : Option Int :=
  let u := normDy v.m.natAbs.log2 v
  if u.m = 1 then some u.e else none

/-- exp2 of a finite nonzero value: outside the rail's reach it is a power of two out there. -/
def exp2Of (n : Nat) (v : Dy) : FuncRes :=
  if Dy.le (Dy.ofInt 1024) v then .val (Dy.pow2 1024)
  else if Dy.le v (Dy.ofInt (-1024)) then .val (Dy.pow2 (-1024))
  else match asInt v with
    | some k => .val (Dy.pow2 k)
    | none => .val (approx 0 n v)

/-- The functions of Table 8.7 with the special inputs of Table 8.8, on one term (div takes two). -/
def funcOf (sub n : Nat) (a b : Term) : FuncRes × Nat :=
  let neg := a.sign
  match sub with
  | 0 => if a.isInf then (if neg then .zero false else .inf false, 0)
         else if a.isZero then (.val (Dy.ofInt 1), 0) else (exp2Of n a.v, 0)
  | 1 => if a.isZero then (.inf true, fDivide)
         else if neg then (.nan, fInvalid)
         else if a.isInf then (.inf false, 0)
         else (match asPow2 a.v with
           | some k => if k = 0 then (.zero false, 0) else (.val (Dy.ofInt k), 0)
           | none => (.val (approx 1 n a.v), 0))
  | 2 => if a.isZero then (.inf neg, fDivide) else if a.isInf then (.zero neg, 0)
         else
           let r := ratioOdd (4 * n + 4) 1 a.v.m.natAbs (-a.v.e)
           (.val (if neg then r.neg else r), 0)
  | 3 => if a.isZero then (.inf neg, fDivide) else if neg then (.nan, fInvalid)
         else if a.isInf then (.zero false, 0)
         else (match asPow2 a.v with
           | some k => if k % 2 = 0 then (.val (Dy.pow2 (-(k / 2))), 0) else (.val (approx 3 n a.v), 0)
           | none => (.val (approx 3 n a.v), 0))
  | 4 => if a.isZero then (.zero neg, 0) else if neg then (.nan, fInvalid) else if a.isInf then (.inf false, 0)
         else (.val (sqrtOdd (4 * n + 4) a.v), 0)
  | 5 =>
    let s := a.sign != b.sign
    if (a.isZero && b.isZero) || (a.isInf && b.isInf) then (.nan, fInvalid)
    else if a.isInf then (.inf s, 0)
    else if b.isZero then (.inf s, fDivide)
    else if b.isInf || a.isZero then (.zero s, 0)
    else
      let r := ratioOdd (4 * n + 4) a.v.m.natAbs b.v.m.natAbs (a.v.e - b.v.e)
      (.val (if s then r.neg else r), 0)
  | 6 => if a.isZero then (.val (Dy.pow2 (-1)), 0)
         else if a.isInf then (if neg then .zero false else .val (Dy.ofInt 1), 0)
         else (.val (approx 6 n a.v), 0)
  | _ => if a.isZero then (.zero neg, 0)
         else if a.isInf then (.val (Dy.ofInt (if neg then -1 else 1)), 0)
         else
           let r := approx 7 n a.v
           (.val (if Dy.lt (Dy.ofInt 1) r.abs then Dy.ofInt (if r.m < 0 then -1 else 1) else r), 0)

/-- Whether an operand stands in for a special: a beyond high or a beyond low (R139). -/
def Term.beyondIn (t : Term) : Bool :=
  match t.k with
  | .high _ => true
  | .low _ => true
  | _ => false

/-- Whether an operand is a beyond low. -/
def Term.isLow (t : Term) : Bool :=
  match t.k with
  | .low _ => true
  | _ => false

/-- The lane of a FUNC result, which keeps the beyond kind where it owes its special to beyond inputs alone (R139). -/
def funcLane (fmt sub : Nat) (a b : Lane) : Lane × Nat :=
  let n := digits fmt
  let x := termOf n a
  let y := if sub = 5 then termOf n b else x
  if x.isNan || y.isNan then (nanLane fmt, if x.signals || y.signals then fInvalid else 0)
  else
    let (r, f) := funcOf sub n x y
    match r with
    | .nan => (nanLane fmt, fInvalid)
    | .val v => (if v.isZero then .spec (.zero false) else freshFlt n v, f)
    | .inf s =>
      -- the infinity special needs an exact infinity, or an exact zero divisor
      let exact := if sub = 5 then
          (if x.isInf then !x.beyondIn || y.exactZero else !y.isLow)
        else !x.beyondIn
      let f := if sub = 5 && x.beyondIn && y.exactZero then fDivide else f
      if exact then (.spec (.inf s), f) else (.spec (.high s), 0)
    | .zero s =>
      let exact := if sub = 5 then x.exactZero || (y.isInf && !y.beyondIn) else !x.beyondIn
      (if exact then .spec (.zero s) else .spec (.low s), f)

def funcSub (sub : Nat) (x : FArg) : FOut :=
  pointwise x x.fmt (fun j st =>
    let (l, f) := funcLane x.fmt sub (x.la j) (x.lb j)
    (l, f, st))

end Sys2Proof.Machine
end

