-- ==== Sys2Proof/Machine/Flags.lean ====
section
/-! DEFINITION. Flag words (R80-R82), trap enables (R81). The flags of each
operation are computed with its value, in Numeric, Lanes and Compute. -/
namespace Sys2Proof.Machine

/-- The flags of a context's flag word. -/
def flagBits (word : Nat) : Nat := word % 256

/-- The trap enables of a context's flag word. -/
def flagEnables (word : Nat) : Nat := word / 256 % 256

/-- The lowest raised flag whose trap enable is set (R81). -/
def trapBit (word raised : Nat) : Option Nat := (range 0 8).find? (fun b => bit raised b && bit (flagEnables word) b)

/-- Flags enter a flag word and stay until a write clears them (R80); those of this beat are kept beside it (R82). -/
def Ctx.enterFlags (c : Ctx) (raised : Nat) : Ctx :=
  { c with flags := c.flags ||| raised % 256, fresh := c.fresh ||| raised % 256 }

/-- The trap enables that govern a flag raised now: those that held before this beat's writes (R82). -/
def Ctx.trapEnables (c : Ctx) : Nat := c.enables.getD (flagEnables c.flags)

/-- The flag that traps, of flags raised now in a context. -/
def Ctx.trapBit (c : Ctx) (raised : Nat) : Option Nat := (range 0 8).find? (fun b => bit raised b && bit c.trapEnables b)

/-- A control-core write of a flag word: flags that have entered in this beat are ORed in, and its enables govern from the next
(R82). -/
def Ctx.writeFlags (c : Ctx) (v : Nat) : Ctx := { c with flags := v ||| c.fresh, enables := some c.trapEnables }

/-- The next beat begins: what this one has brought holds from now on (R37, R82, R335). -/
def Ctx.nextBeat (c : Ctx) : Ctx :=
  { c with slot := if c.parkNew && c.slot == .resident then .stopped else c.slot, parkNew := false,
           prio := c.prioNew.getD c.prio, prioNew := none, rstack := c.stackNew.getD c.rstack, stackNew := none, fresh := 0,
           enables := none }

/-- The region stack as the commands have left it (R358). -/
def Ctx.stackNow (c : Ctx) : List Nat := c.stackNew.getD c.rstack

end Sys2Proof.Machine
end

