-- ==== Sys2Proof/Machine/Network.lean ====
section
/-! DEFINITION. The tree network (17): token headers, paths (R10), sending and its limits (R290), arbitration, promotion and
congestion marks (R293, R294), package links (R296). -/
namespace Sys2Proof.Machine

/-! ## Headers (Table 2.4) -/

/-- The kind of a 2-bit code. -/
def kindOf : Nat → TokenKind
  | 0 => .data
  | 1 => .null
  | 2 => .eos
  | _ => .poison

def TokenKind.code : TokenKind → Nat
  | .data => 0
  | .null => 1
  | .eos => 2
  | .poison => 3

/-- Payload bytes of a length code: four, sixteen or thirty-two flits of 16 bytes. -/
def lenBytes : Nat → Nat
  | 0 => 0
  | 1 => 64
  | 2 => 256
  | _ => 512

/-- The token of a 128-bit header and its payload bytes. -/
def tokenOf (h : Nat) (payload : List Nat) : Token :=
  { tag := bits h 127 64, core := bits h 63 52, slot := bits h 51 46, port := bits h 45 44, ctx := bits h 43 42,
    fmt := bits h 41 39, kind := kindOf (bits h 38 37), mark := bits h 36 36, cls := bits h 35 34, len := bits h 33 32,
    inl := bits h 31 0, payload := payload }

/-- Header bits [63:0] of a token. -/
def Token.low (t : Token) : Nat :=
  2 ^ 52 * t.core + 2 ^ 46 * t.slot + 2 ^ 44 * t.port + 2 ^ 42 * t.ctx + 2 ^ 39 * t.fmt + 2 ^ 37 * t.kind.code +
    2 ^ 36 * t.mark + 2 ^ 34 * t.cls + 2 ^ 32 * t.len + t.inl

/-- The flits of a packet: the header and its payload (R27). -/
def Token.flits (t : Token) : Nat := 1 + lenBytes t.len / 16

/-- A token with no payload. -/
def plainToken (tag core slot port ctx fmt : Nat) (kind : TokenKind) (cls inl : Nat) : Token :=
  { tag := tag, core := core, slot := slot, port := port, ctx := ctx, fmt := fmt, kind := kind, mark := 0, cls := cls,
    len := 0, inl := inl, payload := [] }

/-! ## Endpoints and paths (R9-R11) -/

/-- The endpoint of the application die; cores are 0 to 4095 and the mailbox of region r is 4096 + r. -/
def appDie : Nat := 8192

def mailbox (r : Nat) : Nat := 4096 + r

/-- The bank of node `n` of level `h`, 1 to 5 (R8). -/
def bankEnd (h n : Nat) : Nat := 16384 + 4096 * h + n

/-- Where a token goes: its core, or for slot 36 the mailbox of the core's region (R15). -/
def Token.dest (t : Token) : Nat := if t.slot = 36 then mailbox (regionOf t.core) else t.core

/-- The core whose scratchpad holds a key. -/
def spadOf (k : Nat) : Option Nat := if 2 ^ 45 ≤ k ∧ k < 2 ^ 46 then some ((k - 2 ^ 45) / 2 ^ 19) else none

/-- The endpoint of the home of a key: the core of a scratchpad, the core of a vault's memory node, or a quad, region or
sector bank (R13, R274). -/
def homeOf (k : Nat) : Nat :=
  if k < 2 ^ 45 then k / 2 ^ 27 % 4096
  else if k < 2 ^ 46 then (k - 2 ^ 45) / 2 ^ 19
  else if k < 2 ^ 46 + 2 ^ 32 then bankEnd 1 ((k - 2 ^ 46) / 2 ^ 21)
  else if k < 2 ^ 46 + 2 ^ 33 then bankEnd 2 ((k - 2 ^ 46 - 2 ^ 32) / 2 ^ 22)
  else bankEnd 3 ((k - 2 ^ 46 - 2 ^ 33) / 2 ^ 23)

/-- An endpoint's height in the tree and its number there: cores hang at 0, control cores at the region switch, the
application die at the package root, a bank at the switch of its level. -/
def endpoint (e : Nat) : Nat × Nat :=
  if e < 4096 then (0, e) else if e < 8192 then (2, e - 4096) else if e < 16384 then (6, 0) else ((e - 16384) / 4096, e % 4096)

/-- The number, at height h, of the node above node n of height h0: two bits a level, and one root at height 6. -/
def above (h0 n h : Nat) : Nat := if h = 6 then 0 else n / 4 ^ (h - h0)

/-- The output port from node n of height h up. -/
def upPort (h n : Nat) : Nat := (h + 1) * 4096 + n

/-- The output port from height h down to child node n of height h - 1. -/
def downPort (h n : Nat) : Nat := (8 + h) * 4096 + n

/-- The output port of a stack root to a package link. -/
def linkPort (l : Nat) : Nat := 16 * 4096 + l

/-- The reply port of a bank into its switch (R307). -/
def bankPort (h n : Nat) : Nat := (24 + h) * 4096 + n

/-- The height of the lowest common ancestor of two endpoints, at or above height h (R10). -/
def lcaFrom (a b : Nat × Nat) : Nat → Nat → Nat
  | 0, h => h
  | n + 1, h => if above a.1 a.2 h = above b.1 b.2 h then h else lcaFrom a b n (h + 1)

def lcaHeight (a b : Nat × Nat) : Nat := lcaFrom a b 6 (max a.1 b.1)

/-- The port by which what an endpoint sends enters the network, where its switch has one for it: the reply port of a bank (R307). -/
def firstPort (e : Nat) : List Nat := if e < 16384 then [] else [bankPort (endpoint e).1 (endpoint e).2]

/-- The way from a node of the tree to an endpoint: up to the lowest common ancestor, then down (R10). -/
def pathFrom (a : Nat × Nat) (dst : Nat) : List Nat :=
  let b := endpoint dst
  let l := lcaHeight a b
  (range a.1 (l - a.1)).map (fun h => upPort h (above a.1 a.2 h)) ++
    ((range (b.1 + 1) (l - b.1)).reverse).map (fun h => downPort h (above b.1 b.2 (h - 1)))

/-- The fixed path between two endpoints (R10). -/
def pathTo (src dst : Nat) : List Nat := firstPort src ++ pathFrom (endpoint src) dst

/-- The path of what comes in over package link `l`, from its stack root. -/
def pathFromLink (l dst : Nat) : List Nat := pathFrom (5, l / 4) dst

/-- The path to package link `l`, which its stack root (4 links each) holds: up to the root of the source's stack, over
the package root where the link is another stack's. -/
def pathToLink (src l : Nat) : List Nat :=
  let a := endpoint src
  let stack := above a.1 a.2 5
  let ups (top : Nat) : List Nat := (range a.1 (top - a.1)).map (fun h => upPort h (above a.1 a.2 h))
  if a.1 < 6 ∧ l / 4 = stack then ups 5 ++ [linkPort l] else ups 6 ++ [downPort 6 (l / 4), linkPort l]

/-- The link from an endpoint below a stack root to a package. -/
def State.route (s : State) (src pkg : Nat) : Option Nat := s.routeFrom pkg 4 (above (endpoint src).1 (endpoint src).2 5)

/-! ## Sending (R290) -/

/-- The key of a source and destination pair. -/
def pairKey (src dst : Nat) : Nat := 2 ^ 24 * src + dst

/-- Whether a source may send one more packet of a pair now: at most 16 are undelivered, and none waits before it. -/
def State.canSend (s : State) (src dst : Nat) : Bool :=
  sget 0 s.undelivered (pairKey src dst) < 16 && !s.waitingSend.any (fun p => p.src == src && p.dst == dst)

def State.port (s : State) (p : Nat) : NetPort := sget NetPort.reset s.ports p

def State.setPort (s : State) (p : Nat) (v : NetPort) : State := { s with ports := sput s.ports p v }

/-- The virtual channel of a packet (R291). -/
def Packet.vc (p : Packet) : Nat := 2 * p.tok.cls + b2n p.reply

/-- The input of a switch that a packet came by: children 0 to 3, the parent 4, the local agent 5, the bank 6. -/
def inputNo (from' : Nat) : Nat :=
  if from' = 0 then 5 else if (from' - 1) / 4096 < 8 then (from' - 1) % 4 else if (from' - 1) / 4096 < 24 then 4 else 6

/-- The queue a packet stands in: the virtual channel of the input it came by, or of the source that injected it. -/
def Packet.queue (p : Packet) : Nat := 8 * (if p.input = 0 then 2 ^ 20 + p.src else p.input) + p.vc

/-- A packet whose wait at this hop begins: one that waited at its source has waited since then (R290). -/
def Packet.arriving (p : Packet) (now : Nat) : Packet :=
  { p with since := (if p.stayed && p.input == 0 then p.since else now), promoted := false }

/-- Put a packet where its path leads next: the queue of its input, or the destination interface. -/
def State.place (s : State) (p : Packet) : State :=
  if p.path.isEmpty then { s with arrivals := sput s.arrivals p.dst (sget [] s.arrivals p.dst ++ [p]) }
  else { s with queues := sput s.queues p.queue (sget [] s.queues p.queue ++ [p.arriving s.ticks.toNat]) }

/-- A packet enters the network with the pair's next sequence number. -/
def State.inject (s : State) (p : Packet) : State :=
  let k := pairKey p.src p.dst
  let here (e : Nat) : Nat := if e < 2 ^ 16 then s.packageNo else e / 2 ^ 16 - 1
  let q := { p with seq := sget 0 s.sent k % 16, srcPkg := here p.src, pkg := here p.dst }
  ({ s with sent := sput s.sent k ((sget 0 s.sent k + 1) % 16)
            undelivered := sput s.undelivered k (sget 0 s.undelivered k + 1) }).place q

/-- The packet of a token from a source within the package. -/
def packetOf (src : Nat) (t : Token) : Packet :=
  { tok := t, src := src, dst := t.dest, srcPkg := 0, pkg := 0, seq := 0, reply := false, ask := none, bytes := 0, chunk := 0, since := 0,
    stayed := false, promoted := false, input := 0, path := pathTo src t.dest }

/-- Send a packet: it leaves at once, or waits at its source for the pair's oldest packet to be delivered (R290). Those that wait
stand newest first. -/
def State.sendPacket (s : State) (p : Packet) : State :=
  if s.canSend p.src p.dst then s.inject p
  else { s with waitingSend := { p with stayed := true, since := s.ticks.toNat } :: s.waitingSend }

/-- A packet that has waited at its source since a tick, or has just come, leaves (R290). -/
def State.sendSourced (s : State) (since : Option Nat) (p : Packet) : State :=
  s.inject { p with stayed := since.isSome, since := since.getD 0 }

/-- Whether a token from a region's control core is on its way to a core. -/
def State.tokensTo (s : State) (r core : Nat) : Bool :=
  let its (p : Packet) : Bool := p.src == mailbox r && p.dst == core && !p.reply && p.ask.isNone
  (sget [] s.arrivals core).any its || s.waitingSend.any its || s.queues.any (fun q => q.2.any its)

/-- Send a token. -/
def State.send (s : State) (src : Nat) (t : Token) : State := s.sendPacket (packetOf src t)

/-- Return the credits a packet holds at the port it came through. -/
def State.returnCredit (s : State) (p : Packet) : State :=
  if p.input = 0 then s
  else
    let n := s.port (p.input - 1)
    s.setPort (p.input - 1) { n with used := sput n.used p.vc (sget 0 n.used p.vc - p.tok.flits) }

/-- A delivery is returned to the source: the pair's place among its sixteen comes free, and the oldest packet of the pair that
waits at its source leaves (R290). -/
def State.freePair (s : State) (p : Packet) : State :=
  let k := pairKey p.src p.dst
  let s := { s with undelivered := sput s.undelivered k (sget 0 s.undelivered k - 1) }
  match s.waitingSend.reverse.find? (fun q => q.src == p.src && q.dst == p.dst) with
  | some q => ({ s with waitingSend := (s.waitingSend.reverse.erase q).reverse }).inject q
  | none => s

/-- A packet is delivered (R290, R292): its credits and its place among the pair's sixteen come free. -/
def State.delivered (s : State) (p : Packet) : State :=
  let k := pairKey p.src p.dst
  (({ s with arrivals := sput s.arrivals p.dst ((sget [] s.arrivals p.dst).erase p)
             expect := sput s.expect k ((sget 0 s.expect k + 1) % 16) } : State).returnCredit p).freePair p

/-- The packet of index `k` at a destination, where it is the next of its pair (R292). -/
def State.arrived (s : State) (d k : Nat) : Option Packet :=
  match (sget [] s.arrivals d)[k]? with
  | some p => if p.seq = sget 0 s.expect (pairKey p.src d) then some p else none
  | none => none

/-! ## Memory requests and their replies (R28, R291, R305-R307) -/

/-- The length code of the fewest payload flits that hold `n` bytes, at most 32 flits (R306). -/
def lenCode (n : Nat) : Nat := if n = 0 then 0 else if n ≤ 64 then 1 else if n ≤ 256 then 2 else 3

/-- A memory request from a requester to a home, of class `cls`, with payload of length code `out`, that asks for a reply of length code
`back`; its token goes to the memory node's slot 34. -/
def askPacket (src home cls out back bytes chunk : Nat) : Packet :=
  { tok := { plainToken 0 (home % 4096) 34 0 0 0 .data cls 0 with len := out }, src := src, dst := home, srcPkg := 0, pkg := 0, seq := 0,
    reply := false, ask := some back, bytes := bytes, chunk := chunk, since := 0, stayed := false, promoted := false, input := 0,
    path := pathTo src home }

/-- The reply to a request: its class and its mark are the request's (R291, R294). -/
def Packet.answer (p : Packet) (back : Nat) : Packet :=
  { p with tok := { p.tok with len := back }, src := p.dst, dst := p.src, reply := true, ask := none, stayed := false,
           promoted := false, input := 0, path := pathTo p.dst p.src }

/-- The endpoint of the home of a key: for memory of another package, the memory node there (R13). -/
def State.nodeOf (s : State) (k : Nat) : Nat :=
  if k < 2 ^ 45 ∧ k / 2 ^ 39 ≠ s.packageNo then 2 ^ 16 * (k / 2 ^ 39 + 1) + homeOf k else homeOf k

/-- The home of an access at these keys; a register of a device is the application die's. -/
def State.homeAt (s : State) (ks : List Nat) : Nat :=
  match ks with
  | k :: _ => s.nodeOf k
  | [] => appDie

/-- Send a request to its home: over the link that leads to its package where that is another (R297). -/
def State.sendAsk (s : State) (p : Packet) : State :=
  if p.dst < 2 ^ 16 then s.sendPacket p
  else match s.route p.src (p.dst / 2 ^ 16 - 1) with
    | some l => s.sendPacket { p with path := pathToLink p.src l }
    | none => s

/-- A control core's access travels in class 0 (R305): a load or fetch asks for its line, a store carries one and asks for an
acknowledge, an atomic carries one and asks for one, and a `pcwait` asks for the word of its phase (R291, log 44). -/
inductive Access0 where
  | load
  | store
  | atomic
  | phase
  deriving DecidableEq, Repr

def State.askControl (s : State) (r home : Nat) (a : Access0) : State :=
  match a with
  | .load => s.sendAsk (askPacket (mailbox r) home 0 0 1 0 0)
  | .store => s.sendAsk (askPacket (mailbox r) home 0 1 0 0 0)
  | .atomic => s.sendAsk (askPacket (mailbox r) home 0 1 1 0 0)
  | .phase => s.sendAsk (askPacket (mailbox r) home 0 0 0 0 0)

/-- An access of a core's streams and elements travels in the class of its pattern, but within its own scratchpad (log 44). -/
def State.askElement (s : State) (core cls : Nat) (ks : List Nat) (write : Bool) : State :=
  if (ks.head?.bind spadOf) == some core then s
  else if write then s.sendAsk (askPacket core (s.homeAt ks) cls (lenCode ks.length) 0 0 0)
  else s.sendAsk (askPacket core (s.homeAt ks) cls 0 (lenCode ks.length) 0 0)

/-- The requests of 512 bytes, the last shorter, that cover these keys, by first key and bytes; no write into the core's own
scratchpad makes one (R306). -/
def cutRequests (core : Nat) (write : Bool) (ks : List Nat) : List (Nat × Nat) :=
  let away := ks.filter (fun k => !write || spadOf k != some core)
  (range 0 ((away.length + 511) / 512)).map (fun j => (nth 0 away (512 * j), Nat.min 512 (away.length - 512 * j)))

/-- A copy unit sends the requests of a chunk. -/
def State.askCopy (s : State) (core cls chunk : Nat) (write : Bool) (qs : List (Nat × Nat)) : State :=
  qs.foldl (fun s q => s.sendAsk (if write then askPacket core (s.nodeOf q.1) cls (lenCode q.2) 0 q.2 chunk
    else askPacket core (s.nodeOf q.1) cls 0 (lenCode q.2) q.2 chunk)) s

/-- A delivered request is answered at its home, where the vault is not held (R281). -/
def State.serveAsk (s : State) (p : Packet) (back : Nat) : State :=
  if p.dst < 4096 && (sget Vault.reset s.die.vaults p.dst).held then s else (s.delivered p).sendPacket (p.answer back)

/-! ## Arbitration (R293, R294) -/

/-- Weights of the classes. -/
def weights : List Nat := [8, 4, 2, 1]

def State.setLink (s : State) (l : Nat) (v : Link) : State :=
  { s with die := { s.die with links := sput s.die.links l v } }

/-- The package link of a port. -/
def portLink (q : Nat) : Option Nat := if q / 4096 = 16 then some (q % 4096) else none

/-- Whether a port sends: one of a link that has failed holds its traffic (R296). -/
def portUp (s : State) (q : Nat) : Bool := (portLink q).all (fun l => (s.link l).state == .up)

/-- Whether a packet has credits at the hop after port `q` (R290). -/
def creditOk (s : State) (q : Nat) (p : Packet) : Bool := sget 0 (s.port q).used p.vc + p.tok.flits ≤ s.vcFlits

/-- The heads of the input virtual channels that wait for port `q`, each with its queue (R293). -/
def headsAt (s : State) (q : Nat) : List (Nat × Packet) :=
  s.queues.filterMap (fun e => match e.2 with
    | p :: _ => if p.path.head? = some q then some (e.1, p) else none
    | [] => none)

/-- Those of them that have credits. -/
def readyHeads (s : State) (q : Nat) : List Packet :=
  if portUp s q then ((headsAt s q).map (·.2)).filter (creditOk s q) else []

/-- Whether promoted head `a` goes before `b`: the longer wait, then the lower input, then reply before request. -/
def promotedBefore (a b : Packet) : Bool :=
  a.since < b.since || (a.since == b.since && (inputNo a.input < inputNo b.input ||
    (inputNo a.input == inputNo b.input && a.reply && !b.reply)))

/-- Whether head `a` goes before `b` within a class: reply first, then round-robin after input `last`. -/
def classBefore (last : Nat) (a b : Packet) : Bool :=
  (a.reply && !b.reply) || (a.reply == b.reply &&
    (inputNo a.input + 7 - last - 1) % 7 < (inputNo b.input + 7 - last - 1) % 7)

/-- The first of a list under an order. -/
def pickFirst {α : Type} (before : α → α → Bool) : List α → Option α
  | [] => none
  | a :: l => match pickFirst before l with
    | none => some a
    | some b => if before b a then some b else some a

/-- The packet a round of port `q` sends next. -/
def nextPacket (s : State) (q : Nat) : Option Packet :=
  let hs := readyHeads s q
  let n := s.port q
  match pickFirst promotedBefore (hs.filter (·.promoted)) with
  | some p => some p
  | none =>
    match (range 0 4).find? (fun c => 0 < nth 0 n.left c && hs.any (fun p => p.tok.cls == c)) with
    | some c => pickFirst (classBefore (nth 0 n.rr c)) (hs.filter (fun p => p.tok.cls == c))
    | none => none

/-- A channel is congested while at least three quarters of its downstream credits are in use (R294). -/
def congested (s : State) (n : NetPort) (vc : Nat) : Bool := 3 * s.vcFlits ≤ 4 * sget 0 n.used vc

/-- A packet crosses a package link, and its credits and its delivery come back at once: a memory request is answered by the node of the
other package, whose reply comes in over the link; what that package does with a token is not modelled (log 10). -/
def State.enterLink (s : State) (l : Nat) (p : Packet) : State :=
  let k := s.link l
  let t := ((s.setLink l { k with sent := k.sent ++ [p] }).returnCredit p).freePair p
  match p.ask with
  | some back => t.sendPacket { p.answer back with path := pathFromLink l p.src }
  | none => t

/-- A queue without its head: the wait of the next begins. -/
def nextHead (now : Nat) : List Packet → List Packet
  | _ :: h :: t => h.arriving now :: t
  | _ => []

/-- Port `q` sends packet `p` on: the next head's wait begins, credits move one hop, and a request that leaves through a
congested channel is marked. -/
def State.sendOn (s : State) (q : Nat) (p : Packet) : State :=
  let n := s.port q
  let rest := nextHead s.ticks.toNat (sget [] s.queues p.queue)
  let mark := congested s n p.vc && !p.reply
  let n := { n with left := setNth n.left p.tok.cls (nth 0 n.left p.tok.cls - 1)
                    rr := setNth n.rr p.tok.cls (inputNo p.input)
                    used := sput n.used p.vc (sget 0 n.used p.vc + p.tok.flits) }
  let s := ({ s with queues := (if rest.isEmpty then sdel s.queues p.queue else sput s.queues p.queue rest) } : State)
  let s := (s.setPort q n).returnCredit p
  let p := { p with input := q + 1, path := p.path.drop 1,
                    tok := if mark then { p.tok with mark := 1 } else p.tok }
  match portLink q with
  | some l => s.enterLink l p
  | none => s.place p

/-- Run a round until nothing promoted or within its weight is ready. -/
def roundLoop (q : Nat) : Nat → State → State
  | 0, s => s
  | n + 1, s =>
    match nextPacket s q with
    | some p => roundLoop q n (s.sendOn q p)
    | none => s

/-- The packets queued in the network. -/
def queued (s : State) : Nat := (s.queues.map (fun e => e.2.length)).foldl (· + ·) 0

/-- ARBITRATION_ROUND: one round of a switch output port (R293). -/
def execArbitrationRound (port : Nat) (s : State) : Host.Outcome State Fault Refusal :=
  let s := s.setPort port { s.port port with left := weights }
  .next (roundLoop port (queued s) s).tick

/-- A head that has waited 64 ticks at its hop and is not promoted. -/
def Packet.due (p : Packet) (now : Nat) : Bool := p.since + 64 ≤ now && !p.promoted

/-- PROMOTION: the head of a virtual channel that has waited 64 ticks at its hop is promoted; of several inputs, the one
that has waited longest (R293). -/
def execPromotion (port vc : Nat) (s : State) : Host.Outcome State Fault Refusal :=
  let heads := (headsAt s port).filter (fun e => e.2.vc == vc && e.2.due s.ticks.toNat)
  match pickFirst (fun a b => a.2.since < b.2.since || (a.2.since == b.2.since && inputNo a.2.input < inputNo b.2.input)) heads with
  | some (k, p) =>
    .next ({ s with queues := sput s.queues k ({ p with promoted := true } :: (sget [] s.queues k).drop 1) } : State).tick
  | none => .next s.tick

/-! ## Package links (R296) -/

/-- FLIT_REPLAY: a flit failed its check and is replayed from the replay buffer: order is kept, the event is counted on
the cores of the link's stack. -/
def execFlitReplay (link : Nat) (s : State) : Host.Outcome State Fault Refusal :=
  let k := s.link link
  let s := s.setLink link { k with replays := k.replays + 1 }
  let cs : Sparse Core := s.cores.map (fun c => (c.1, if c.1 / 1024 = link / 4 then c.2.countEvent 13 0 1 else c.2))
  .next ({ s with cores := cs } : State).tick

/-- LINK_RETRAIN_FAILURE: the link's port holds its traffic and the application die is told. -/
def execLinkRetrainFailure (link : Nat) (s : State) : Host.Outcome State Fault Refusal :=
  .next ((s.setLink link { s.link link with state := .failed }).notify (.linkFailed link)).tick

/-- PACKAGE_LINK_RETRAIN: the link trains again, and the packets its port holds go on in order. -/
def execPackageLinkRetrain (link : Nat) (s : State) : Host.Outcome State Fault Refusal :=
  .next (s.setLink link { s.link link with state := .up }).tick

end Sys2Proof.Machine
end

