-- ==== Sys2Proof/Machine/Tiles.lean ====
section
/-! DEFINITION. The tile table and the allocator of a core (10): states and transitions (R212), access checks (R214), best
fit (R218), the waiting list (R219), release, publish and rings (R131, R216). -/
namespace Sys2Proof.Machine

/-! ## Tiles -/

def TileState.code : TileState → Nat
  | .empty => 0
  | .filling => 1
  | .ready => 2
  | .draining => 3

/-- The tile state word, select 0 (Table 6.4); an empty tile reads as zeros (R130). -/
def Tile.word0 (t : Tile) : Nat :=
  if t.state = .empty then 0
  else 2 ^ 56 * t.rank + 2 ^ 54 * t.owner + 2 ^ 53 * b2n t.poison + 2 ^ 52 * b2n t.aon + 2 ^ 48 * t.readers +
    2 ^ 46 * t.state.code

/-- The tile geometry word, select 1 (Table 6.5). -/
def Tile.word1 (t : Tile) : Nat :=
  if t.state = .empty then 0 else 2 ^ 32 * t.version + 2 ^ 18 * t.base + 2 ^ 6 * (t.size - 1)

/-- The tile whose granules hold granule `g`, if any. -/
def Core.tileAt (c : Core) (g : Nat) : Option (Nat × Tile) :=
  c.tiles.find? (fun p => p.2.base ≤ g && g < p.2.base + p.2.size)

/-- The granules that `n` bytes at a scratchpad offset touch. -/
def granules (off n : Nat) : List Nat := range (off / 32) ((off + n - 1) / 32 - off / 32 + 1)

/-- What Table 10.2 answers to an access; a wait names the draining tiles. -/
inductive TileVerdict where
  | ok
  | wait (draining : List Nat)
  | prot
  deriving DecidableEq, Repr, Inhabited

/-- The check of a window 0x0 access of `n` bytes for context `ctx` (R214). -/
def tileCheck (c : Core) (ctx off n : Nat) (write : Bool) : TileVerdict :=
  let ts := (granules off n).map c.tileAt
  if ts.any (fun t => match t with
    | some p => p.2.owner != ctx
    | none => true) then .prot
  else if ts.any (fun t => match t with
    | some p => p.2.state == .draining || (!write && p.2.state == .filling)
    | none => false) then
    .wait ((ts.filterMap (fun t => t.bind (fun p => if p.2.state = .draining then some p.1 else none))).foldl insertNat [])
  else .ok

/-- The bytes of a granule-aligned tile that an access covers, as a bit map. -/
def byteMask (t : Tile) (off n : Nat) : Nat :=
  ((range off n).filter (fun o => 32 * t.base ≤ o && o < 32 * (t.base + t.size))).foldl
    (fun m o => m ||| 2 ^ (o - 32 * t.base)) 0

/-- Whether every byte of a tile has been written (R212). -/
def Tile.full (t : Tile) : Bool := t.written == 2 ^ (32 * t.size) - 1

/-! ## Free runs (R218) -/

/-- Insert a run in rising order of base. -/
def insertRun (r : Nat × Nat) : List (Nat × Nat) → List (Nat × Nat)
  | [] => [r]
  | q :: l => if r.1 ≤ q.1 then r :: q :: l else q :: insertRun r l

/-- The gaps that sorted runs leave from `lo` up to `hi`, as base and length. -/
def gaps : Nat → Nat → List (Nat × Nat) → List (Nat × Nat)
  | lo, hi, [] => if lo < hi then [(lo, hi - lo)] else []
  | lo, hi, (b, n) :: l => (if lo < b then [(lo, b - lo)] else []) ++ gaps (max lo (b + n)) hi l

/-- The free runs of pool `q`; pool 4 is the spill pool, where only park tiles lie (R231). -/
def Core.freeRuns (c : Core) (q : Nat) : List (Nat × Nat) :=
  let (lo, n) := if q = 4 then (0, c.spillSize) else nth (0, 0) c.pools q
  gaps lo (lo + n) ((c.tiles.filter (fun t => t.2.pool == q)).foldl (fun l t => insertRun (t.2.base, t.2.size) l) [])

/-- The base a request takes: the shortest free run that holds it, the lowest of equals. -/
def Core.bestFit (c : Core) (q size : Nat) : Option Nat :=
  ((c.freeRuns q).foldl (fun best r =>
    if r.2 < size then best
    else match best with
      | none => some r
      | some b => if r.2 < b.2 then some r else some b) none).map (·.1)

/-- The lowest free tile number. -/
def Core.freeTile (c : Core) : Option Nat := (range 0 128).find? (fun n => (c.tile n).state == .empty)

/-- Whether a request fits, and where. -/
def Core.fits (c : Core) (q size : Nat) : Option (Nat × Nat) :=
  match c.freeTile, c.bestFit q size with
  | some n, some b => some (n, b)
  | _, _ => none

/-! ## Serving (R219) -/

/-- Change the instance of a number. -/
def Ctx.modInst (c : Ctx) (id : Nat) (f : Inst → Inst) : Ctx :=
  { c with insts := c.insts.map (fun i => if i.id = id then f i else i) }

/-- The key a grant is found by. -/
def Wait.key (w : Wait) : Nat :=
  match w.who with
  | .alloc idx inst => 4096 + 128 * inst + 32 * w.owner + idx
  | .ring n cls => 1024 + 64 * w.owner + 4 * n + cls
  | .talloc => 2048

def Wait.producer (w : Wait) : Producer :=
  match w.who with
  | .alloc _ inst => .fabric inst
  | .ring n _ => .ring n
  | .talloc => .talloc

/-- Grant a request: its tile is filling (R212). -/
def Core.grant (c : Core) (w : Wait) (n base : Nat) : Core :=
  let t : Tile := { Tile.reset with rank := w.rank, owner := w.owner, aon := w.aon, readers := w.readers,
                                    state := .filling, base := base, size := w.size, pool := w.pool,
                                    producer := w.producer }
  let c := c.setTile n t
  let c := match w.who with
    | .alloc _ inst =>
      let x := c.ctx w.owner
      let give (i : Inst) : Inst := { i with tiles := i.tiles ++ [n] }
      -- the instance may be parked while its request waits (R223)
      let ps : Sparse Park := c.parks.map (fun (p : Nat × Park) => (p.1, if p.2.before.ctx = w.owner then
        { p.2 with insts := p.2.insts.map (fun (i : Inst) => if i.id = inst then give i else i) } else p.2))
      ({ c with parks := ps } : Core).setCtx w.owner (x.modInst inst give)
    | _ => c
  { c with waits := c.waits.erase w, grants := c.grants ++ [(w.key, n)] }

/-- The entry that a pool serves next: the highest rank, the oldest of equals; the list stands in the order of age. -/
def nextWait : List Wait → Option Wait
  | [] => none
  | w :: l => match nextWait l with
    | none => some w
    | some v => if w.rank < v.rank then some v else some w

/-- The hosted piece of a pool with the lowest granule (R337): its tile number, image and piece. -/
def Core.hostedPiece (c : Core) (q : Nat) : Option (Nat × Nat × Nat) :=
  (c.hosts.filter (fun h => (c.tile h.1).pool == q)).foldl (fun best h =>
    match best with
    | none => some h
    | some b => if (c.tile h.1).base < (c.tile b.1).base then some h else some b) none

/-- Evict a hosted piece of a pool home (R337): its bytes, with their poison (R280), and its host-map
entry; none where its home refuses it
or is held. -/
def State.evictPiece (s : State) (core q : Nat) : Option State :=
  match (s.core core).hostedPiece q with
  | none => none
  | some (n, image, piece) =>
    let owner := image / 16
    let e := sget default (s.core owner).divs (image % 16)
    let r := regionOf core
    match resolve s (.control r) (e.image.toNat + 2048 * piece) 2048 .write,
        resolve s (.control r) (e.image.toNat + 64 + 4 * piece) 4 .write with
    | .ok ks, .ok ms =>
      if walkHeld s (.control r) (e.image.toNat + 2048 * piece) 2048 || walkHeld s (.control r) (e.image.toNat + 64 + 4 * piece) 4 ||
          vaultHeld s (ks ++ ms) then none else
      let held := range (spadKey core (32 * (s.tile core n).base)) 2048
      let s := (s.storeMarked ks (s.readKeys held) (held.map (fun k => s.poison.contains (k / 8)))).store ms [0, 0, 0, 0]
      let c := s.core core
      some (s.setCore core ({ c with hosts := c.hosts.filter (fun h => h.1 != n) }.setTile n Tile.reset))
    | _, _ => none

/-- Make room for a request by evicting hosted pieces, lowest granule first. -/
def State.makeRoom (s : State) (core q size : Nat) : Nat → State
  | 0 => s
  | n + 1 =>
    if ((s.core core).fits q size).isSome then s
    else match s.evictPiece core q with
      | some s' => s'.makeRoom core q size n
      | none => s

/-- Whether a frame of a context waits for a park tile of its pool, ahead of every waiting request (R231). -/
def Core.parksFirst (c : Core) (q : Nat) : Bool :=
  c.faults.any (fun g => match sfind c.frames g.1 with
    | some f => f.state == .opened && f.ctx == q
    | none => false)

/-- serve(q): grant entries in order until one does not fit; those of a context whose save has not sealed stand still (R344). -/
def State.serve (s : State) (core q : Nat) : Nat → State
  | 0 => s
  | n + 1 =>
    if (s.core core).parksFirst q then s
    else match nextWait ((s.core core).waits.filter (fun w => w.pool == q && (sfind (s.core core).saves w.owner).isNone)) with
    | none => s
    | some w =>
      let s := s.makeRoom core q w.size 128
      match (s.core core).fits q w.size with
      | some (k, b) => (s.setCore core ((s.core core).grant w k b)).serve core q n
      | none => s

def State.servePool (s : State) (core q : Nat) : State := s.serve core q 64

/-- The end of a beat: each pool it touched is served once, in ascending number (R219). -/
def State.serveTouched (s : State) (core : Nat) : State :=
  let c := s.core core
  ((range 0 4).filter (fun q => c.touched.contains q)).foldl (fun s q => s.servePool core q) (s.setCore core { c with touched := [] })

/-- Where requests of one beat stand in the order of age (R219): `alloc` words by element and context, ring slots by context and
ring, `talloc`. -/
def Core.waitOrder (c : Core) (w : Wait) : Nat :=
  match w.who with
  | .alloc idx _ => 8 * (match (c.ctx w.owner).block with
      | some b => nth 0 b.place idx
      | none => 0) + w.owner
  | .ring n _ => 1024 + 64 * w.owner + n
  | .talloc => 4096

/-- A request takes its place on the list: behind every older one. -/
def Core.enterWait (c : Core) (w : Wait) : List Wait → List Wait
  | [] => [w]
  | v :: l => if v.age < w.age || c.waitOrder v ≤ c.waitOrder w then v :: c.enterWait w l else w :: v :: l

/-- Place a request on the waiting list in this beat, if it has room; its pool is served at the end of the beat. -/
def State.request (s : State) (core : Nat) (w : Wait) : Option State :=
  let c := s.core core
  if 64 ≤ c.waits.length then none
  else some (s.setCore core (({ c with waits := c.enterWait { w with age := c.beat } c.waits } : Core).touch [w.pool]))

/-- Take a grant by its key. -/
def Core.takeGrant (c : Core) (key : Nat) : Option (Nat × Core) :=
  match c.grants.find? (fun g => g.1 == key) with
  | some g => some (g.2, { c with grants := c.grants.erase g })
  | none => none

/-! ## Rings (R131, R254) -/

def Ctx.ring (c : Ctx) (n : Nat) : Ring := sget Ring.reset c.rings n

def Ctx.setRing (c : Ctx) (n : Nat) (g : Ring) : Ctx := { c with rings := sput c.rings n g }

/-- The slots held, and the filled slots not yet taken. -/
def Ring.held (g : Ring) : Nat := (g.wp + 65536 - g.fp) % 65536

def Ring.filled (g : Ring) : Nat := (g.wp + 65536 - g.kp) % 65536

/-- The tile of the slot a pointer names. -/
def Ring.tileOf (g : Ring) (p : Nat) : Nat := ((g.tiles.find? (fun t => t.1 == p)).map (·.2)).getD 0

/-! ## Transitions (R212, R216) -/

/-- One reader's release (R216); the last empties the tile, deferred while a read holds it. -/
def State.releaseTile (s : State) (core n : Nat) : State :=
  let t := s.tile core n
  let t := { t with readers := t.readers - 1 }
  if t.readers = 0 then
    if t.reads = 0 then (s.setTile core n t).vacateTile core n else s.setTile core n { t with emptying := true }
  else s.setTile core n t

/-- A read of a tile begins and ends. -/
def State.beginRead (s : State) (core n : Nat) : State :=
  let t := s.tile core n
  s.setTile core n { t with reads := t.reads + 1 }

/-- A read of a tile ends: a deferred release takes effect (R216). -/
def State.endRead (s : State) (core n : Nat) : State :=
  let t := s.tile core n
  let t := { t with reads := t.reads - 1 }
  if t.reads = 0 ∧ t.emptying then (s.setTile core n t).vacateTile core n else s.setTile core n t

/-- Tiles become empty together. -/
def State.emptyAll (s : State) (core : Nat) (ns : List Nat) : State := ns.foldl (fun s n => s.vacateTile core n) s

/-- A filling tile becomes ready: its version steps once (R213). -/
def State.readyTile (s : State) (core n : Nat) : State :=
  let t := s.tile core n
  (s.setTile core n { t with state := .ready, version := (t.version + 1) % 2 ^ 32 }).setEvent (regionOf core) 3

/-- The producer is done with a filling tile: it becomes ready, or with the all-or-nothing flag once every byte is
written. -/
def State.commitTile (s : State) (core n : Nat) : State :=
  let t := s.tile core n
  if t.state ≠ .filling then s
  else if t.aon && !t.full then s.setTile core n { t with committed := true }
  else s.readyTile core n

/-- A write of `n` bytes at a scratchpad offset has been performed: versions of ready tiles step, written maps are
marked, poison is noted (R213, R214). -/
def State.noteWrite (s : State) (core off n : Nat) (poisoned : Bool) : State :=
  let ts := ((granules off n).filterMap (fun g => ((s.core core).tileAt g).map (·.1))).foldl insertNat []
  ts.foldl (fun s k =>
    let t := s.tile core k
    let t := { t with poison := t.poison || poisoned }
    match t.state with
    | .ready => s.setTile core k { t with version := (t.version + 1) % 2 ^ 32 }
    | .filling =>
      let t := { t with written := if t.aon then t.written ||| byteMask t off n else t.written }
      let s := s.setTile core k t
      if t.committed && t.full then s.readyTile core k else s
    | _ => s.setTile core k t) s

/-- The scratchpad offset of a memory key of a core, if it is one. -/
def spadOff (core k : Nat) : Option Nat :=
  if spadKey core 0 ≤ k ∧ k < spadKey (core + 1) 0 then some (k - spadKey core 0) else none

/-! ## Descriptors (R194, R215) -/

/-- The descriptor fields of a lane: tile number, first granule, and whether bits [31:19] are zero. -/
def descTile (d : Nat) : Nat := bits d 6 0

def descGranule (d : Nat) : Nat := bits d 18 7

def descOk (d : Nat) : Bool := bits d 31 19 == 0

end Sys2Proof.Machine
end

