-- ==== Sys2Proof/Machine/Fabric.lean ====
section
/-! DEFINITION. How an element takes trains from its ports and sends trains on: queues, faults of a frame, targets (R26, R39,
R50), length policies (R41), format checks and steering (R149, R157), cancellation (R144). -/
namespace Sys2Proof.Machine

/-! ## Queues, elements, instances -/

def Ctx.queue (k : Ctx) (i p : Nat) : List Timed := sget [] k.queues (4 * i + p)

/-- An empty queue is not listed. -/
def Ctx.setQueue (k : Ctx) (i p : Nat) (q : List Timed) : Ctx :=
  { k with queues := if q.isEmpty then sdel k.queues (4 * i + p) else sput k.queues (4 * i + p) q }

/-- Insert a train behind every train due no later. -/
def insertTimed (t : Timed) : List Timed → List Timed
  | [] => [t]
  | u :: l => if t.due < u.due then t :: u :: l else u :: insertTimed t l

def Ctx.push (k : Ctx) (i p : Nat) (t : Timed) : Ctx := k.setQueue i p (insertTimed t (k.queue i p))

/-- The train at a port whose advance has come. -/
def Ctx.head (k : Ctx) (i p : Nat) : Option Timed :=
  match k.queue i p with
  | t :: _ => if t.due ≤ k.adv then some t else none
  | [] => none

def Ctx.pop (k : Ctx) (i p : Nat) : Ctx := k.setQueue i p ((k.queue i p).drop 1)

def Ctx.elem (k : Ctx) (i : Nat) : Elem := sget Elem.reset k.elems i

/-- A train that an element takes or sends at an advance: its digit beats are held for the element's delay and one advance more
(R143); those long past are forgotten. -/
def Elem.hold (m : Elem) (adv first last inst : Nat) : Elem :=
  let l := m.held.filter (fun h => adv ≤ h.last + 1)
  { m with held := if l.any (fun h => h.first == first && h.inst == inst) then l
      else l ++ [{ first := first, last := last, inst := inst, cut := false }] }

def Ctx.setElem (k : Ctx) (i : Nat) (e : Elem) : Ctx := { k with elems := sput k.elems i e }

def Ctx.inst (k : Ctx) (id : Nat) : Option Inst := k.insts.find? (fun n => n.id == id)

def State.modCtx (s : State) (c x : Nat) (f : Ctx → Ctx) : State := s.setCtx c x (f (s.ctx c x))

def State.modInst (s : State) (c x id : Nat) (f : Inst → Inst) : State := s.modCtx c x (fun k => k.modInst id f)

def State.setElem (s : State) (c x i : Nat) (e : Elem) : State := s.modCtx c x (fun k => k.setElem i e)

def Core.frame (c : Core) (n : Nat) : Option Frame := sfind c.frames n

def State.modFrame (s : State) (c n : Nat) (f : Frame → Frame) : State :=
  match (s.core c).frame n with
  | some fr => s.setCore c { s.core c with frames := sput (s.core c).frames n (f fr) }
  | none => s

/-- The element number that holds instruction `i`. -/
def Ctx.element (k : Ctx) (i : Nat) : Nat :=
  match k.block with
  | some b => nth 0 b.place i
  | none => 0

/-- The LFSR state of an element for a context (R75). -/
def State.lfsr (s : State) (c x i : Nat) : Nat :=
  let k := s.ctx c x
  sget (lfsrSeed c (k.element i) x) k.lfsr (k.element i)

def State.setLfsr (s : State) (c x i st : Nat) : State :=
  s.modCtx c x (fun k => { k with lfsr := sput k.lfsr (k.element i) st })

/-! ## Frame faults (R227, R232) -/

/-- The instance in which an instruction faults on a train of a tag: the element's own, unless another has that very tag. -/
def Ctx.faultInst (k : Ctx) (i tag : Nat) : Option Inst :=
  let own := (k.inst (k.elem i).inst).filter (fun n => frameOf n.tag == frameOf tag)
  match own, k.insts.find? (fun n => n.tag == tag) with
  | some n, some m => if n.tag = tag then some n else some m
  | some n, none => some n
  | none, m => m

/-- The region entries of a fault: those its instance fired under (R357), else the context's. -/
def Ctx.faultStack (k : Ctx) (i tag : Nat) : Nat × Nat :=
  match k.faultInst i tag with
  | some n => (n.rtop, n.rsecond)
  | none => stackTop k.rstack

/-- The fault record of a fault in the frame of a tag (Table 11.1). -/
def faultRec (s : State) (c x i fault detail tag addr : Nat) : FaultRec :=
  let (t, u) := (s.ctx c x).faultStack i tag
  { fault := fault, seq := 0, core := c % 16, ctx := x, instr := i, detail := detail, tag := tag,
    addr := BitVec.ofNat 64 addr, rtop := t, rsecond := u, inst := (((s.ctx c x).faultInst i tag).map (·.id)).getD 0 }

/-- Raise a frame fault: the frame parks in a later beat (FRAME_PARK); its context stalls until then. -/
def State.raiseFrame (s : State) (c : Nat) (r : FaultRec) : State :=
  s.setCore c { s.core c with faults := (s.core c).faults ++ [(frameOf r.tag, r)] }

def State.raise (s : State) (c x i : Nat) (f : FaultCode) (detail tag addr : Nat) : State :=
  s.raiseFrame c (faultRec s c x i f.code detail tag addr)

/-- The detail field of a fault an element raises: an LD or ST gives its LSID (R232). -/
def FWord.detail (w : FWord) : Nat := if w.isMem then w.f.lsid else 0

/-! ## Verdict tokens (R235) -/

/-- Whether an hsel value names a context of a core as the handler (Table 11.2). -/
def hselNames (h c x : Nat) : Bool := bit h 31 && bits h 27 24 == c % 16 && bits h 15 14 == x

/-- Whether a context of a core is the handler of its region (R234, R235): by hsel as it stands, or as it stood when a fault that
awaits its verdict was numbered (R239). -/
def isHandler (s : State) (c x : Nat) : Bool :=
  let g := s.region (regionOf c)
  hselNames g.hsel.toNat c x || g.awaiting.any (fun a => hselNames a.2 c x)

/-- The bytes of patterns of a format; an absent lane leaves zero bytes. -/
def patternBytes (fmt : Nat) : List (Option Nat) → List Nat
  | [] => []
  | [p] => if fmt = 7 then [p.getD 0 % 16] else toBytes (memBits fmt / 8) (p.getD 0)
  | p :: q :: l =>
    if fmt = 7 then (p.getD 0 % 16 + 16 * (q.getD 0 % 16)) :: patternBytes fmt l
    else toBytes (memBits fmt / 8) (p.getD 0) ++ patternBytes fmt (q :: l)

/-- The verdict token of a verdict word and, for a replace, the train of out1. -/
def verdictToken (c v : Nat) (rep : Option Train) : Token :=
  let bytes := match rep with
    | some t => (patternBytes t.fmt (resolveTrain t.fmt false 0 t.lanes 0).1 ++ List.replicate 128 0).take 128
    | none => List.replicate 128 0
  { tag := 2 ^ 56 * bits v 21 14, core := coreOf (regionOf c) (bits v 25 22), slot := 37, port := 0, ctx := bits v 27 26,
    fmt := (match rep with
      | some t => t.fmt
      | none => 0), kind := .data, mark := 0, cls := 0, len := 2, inl := if rep.isSome then 256 else 4,
    payload := toBytes 4 v ++ List.replicate 124 0 ++ bytes }

/-- Whether a verdict word asks for a replacement. -/
def wantsTrain (v : Nat) : Bool := bits v 31 30 == 1 && bits v 29 28 == 1

/-- The verdict word of a train: the pattern of lane 0. -/
def verdictWord (t : Train) : Nat :=
  match t.lane 0 with
  | .absent => 0
  | l => (resolveLane t.fmt true 0 0 l).1 % 2 ^ 32

/-- A data train reached out0 or out1 of the handler context: send the verdict once what it needs has come. -/
def State.noteVerdict (s : State) (c x inst ch : Nat) (t : Train) : State :=
  match (s.ctx c x).inst inst with
  | none => s
  | some n =>
    let chan := n.chan ++ [(ch, t)]
    match chan.find? (fun p => p.1 == 0) with
    | none => s.modInst c x inst (fun n => { n with chan := chan })
    | some v =>
      let word := verdictWord v.2
      if wantsTrain word then
        match chan.find? (fun p => p.1 == 1) with
        | some r => (s.modInst c x inst (fun n => { n with chan := (chan.erase v).erase r })).send c
            (verdictToken c word (some r.2))
        | none => s.modInst c x inst (fun n => { n with chan := chan })
      else (s.modInst c x inst (fun n => { n with chan := chan.erase v })).send c (verdictToken c word none)

/-! ## Sinks and targets -/

/-- A frame's sink received its EOS (R41). -/
def State.closeSink (s : State) (c frame ch : Nat) : State :=
  s.modFrame c frame (fun f =>
    if f.eosCh.contains ch then f else { f with eosCh := insertNat f.eosCh ch, sinks := f.sinks - 1 })

/-- A state under way, with the flags and the fault that sending has raised. -/
structure Em where
  s : State
  flags : Nat
  err : Option (FaultCode × Nat)

/-- An output of an element: `off` advances after its own position, to every target (0), to A alone (1) or to B alone
(2), with the flags each lane's beat 1 would raise on a cancellable arc, none for a lane that is never cancelled. -/
structure Out where
  off : Nat
  which : Nat
  train : Train
  lf : List (Option Nat)
  deriving DecidableEq, Repr, Inhabited

/-- Whether the arc from instruction `i` is cancellable (R144). -/
def cancellable (b : Block) (i : Nat) : Bool :=
  let w := b.word i
  let t := targetOf w.f.ta
  let d := b.word t.idx
  w.f.tb == 0 && !(w.kind == 6 && w.sub == 3) && t.ty == 1 && t.port == 0 && d.kind == 2 &&
    (d.sub == 10 || d.sub == 11) && nth 0 b.ins t.idx == nth 0 b.outs i

/-- The advance at which a train sent in advance `now` reaches a port (R143, R147): balanced arcs keep the distances of
the block, a recurrence arc adds its producer's delay alone. -/
def dueAt (b : Block) (w : FWord) (i now j port : Nat) : Nat :=
  if (b.word j).recurs && port == 3 then now + w.delay else now + nth 0 b.ins j - nth 0 b.ins i

/-- Lane 0 of a train resolved for a register or an exit (R26, R264): the pattern, its flags, the LFSR state after it, which a lane
that is rounded steps (R75). -/
def resolveFirst (w : FWord) (t : Train) (st : Nat) : Nat × Nat × Nat :=
  match t.lane 0 with
  | .absent => (0, 0, st)
  | l =>
    let (p, f) := resolveLane t.fmt w.uns w.f.mode st l
    (p % 2 ^ 32, f, lfsrAfter w.f.mode (isWide t.fmt) st)

/-- A register write target takes lane 0 (R26). -/
def deliverReg (e : Em) (c x i : Nat) (w : FWord) (inst : Nat) (t : Train) (r : Nat) : Em :=
  match t.kind with
  | .eos => e
  | .poison => { e with err := e.err.or (some (.protection, 31)) }
  | .null => { e with s := e.s.modInst c x inst (fun n => { n with regs := n.regs ++ [(r, none)] }) }
  | .data =>
    if t.lane 0 = .absent then
      { e with s := e.s.modInst c x inst (fun n => { n with regs := n.regs ++ [(r, none)] }) }
    else
      let (p, f, st) := resolveFirst w t (e.s.lfsr c x i)
      { e with s := (e.s.modInst c x inst (fun n => { n with regs := n.regs ++ [(r, some p)] })).setLfsr c x i st,
               flags := e.flags ||| f }

/-- The exit token of an instance (R264, R124, R331). -/
def exitToken (c : Nat) (f : Frame) (tag : Nat) (t : Train) (inl : Nat) : Token :=
  match f.exitRoute with
  | some h =>
    plainToken (2 ^ 56 * f.exitFrame + tag % 2 ^ 56) (bits h 31 20) (bits h 19 14) (bits h 13 12) (bits h 11 10) t.fmt
      t.kind (bits h 3 2) inl
  | none => plainToken tag c 36 0 0 t.fmt t.kind 0 inl

/-- The exit of an instance leaves as channel 31 takes it, before the commit (R244, R264; log 52). -/
def sendExit (s : State) (c : Nat) (n : Inst) (t : Train) (inl : Nat) : State :=
  match (s.core c).frame (frameOf n.tag) with
  | some f => s.send c (exitToken c f n.tag t inl)
  | none => s

/-- Channel 31: one data or poison train is the exit token; a null train is noted by its path (R39); the EOS of an end instance is sent
on (R331). -/
def deliverExit (e : Em) (c x i : Nat) (w : FWord) (inst which : Nat) (t : Train) : Em :=
  match t.kind with
  | .eos =>
    let s := e.s.modInst c x inst (fun n => { n with eosCh := insertNat n.eosCh 31 })
    let s := match (e.s.ctx c x).inst inst with
      | some n => if n.isEnd && !n.eosCh.contains 31 then sendExit s c n t 0 else s
      | none => s
    { e with s := s.closeSink c (frameOf t.tag) 31 }
  | .null => { e with s := e.s.modInst c x inst (fun n => { n with exitNulls := insertNat n.exitNulls (8 * i + which) }) }
  | _ =>
    match (e.s.ctx c x).inst inst with
    | none => { e with err := e.err.or (some (.tagCheck, 0)) }
    | some n =>
      if !n.exits.isEmpty then { e with err := e.err.or (some (.tagCheck, 0)) }
      else
        let (p, f, st) := if t.kind = .data then resolveFirst w t (e.s.lfsr c x i) else (0, 0, e.s.lfsr c x i)
        { e with s := sendExit ((e.s.modInst c x inst (fun n => { n with exits := [(t, p)] })).setLfsr c x i st) c n t p,
                 flags := e.flags ||| f }

/-- The flags that a train's lanes carry on an arc: a producer other than a compute word has none to raise on a cancellable one
(R144). -/
def arcFlags (b : Block) (i : Nat) (t : Train) (lf : List (Option Nat)) : List (Option Nat) :=
  if lf.isEmpty && t.kind == .data && cancellable b i then t.lanes.map (fun _ => some 0) else lf

/-- Deliver a train to one target (R26, R39, R50). -/
def deliver (b : Block) (w : FWord) (c x i inst now which : Nat) (t : Train) (lf : List (Option Nat)) (e : Em) (tg : Target) :
    Em :=
  match tg.ty with
  | 0 => e
  | 1 => { e with s := e.s.modCtx c x (fun k => k.push tg.idx tg.port
      { due := dueAt b w i now tg.idx tg.port, inst := inst, src := i, lf := arcFlags b i t lf, train := t }) }
  | 2 => deliverReg e c x i w inst t tg.idx
  | _ =>
    if tg.idx = 31 then deliverExit e c x i w inst which t
    else match t.kind with
      | .eos =>
        let s := e.s.modInst c x inst (fun n => { n with eosCh := insertNat n.eosCh tg.idx })
        { e with s := s.closeSink c (frameOf t.tag) tg.idx }
      | k =>
        let s := e.s.modInst c x inst (fun n => { n with outs := insertNat n.outs tg.idx })
        { e with s := if k = .data && tg.idx < 2 && isHandler s c x then
            s.noteVerdict c x inst tg.idx t else s }

/-- Whether a latch is of a train taken in an advance for an instance. -/
def Latch.isOf (l : Latch) (now inst : Nat) : Bool := l.since == now && l.inst == inst && (l.out.isSome || !l.ins.isEmpty)

/-- The latch once a train has gone out: the first of an advance stays. -/
def Latch.emit (l : Latch) (now inst due : Nat) (t : Train) : Latch :=
  if l.isOf now inst then (if l.out.isSome then l else { l with out := some t, due := due })
  else { since := now, inst := inst, ins := [], out := some t, due := due, cut := false }

/-- The latch once trains have been taken from ports a, b and c. -/
def Latch.take (l : Latch) (now inst due : Nat) (ins : List (Nat × Train)) : Latch :=
  if l.isOf now inst then { l with ins := ins }
  else { since := now, inst := inst, ins := ins, out := none, due := due, cut := false }

/-- Send outputs to their targets. The element holds the digit beats of a data or poison train. -/
def sendOuts (b : Block) (w : FWord) (c x i inst now : Nat) (e : Em) : List Out → Em
  | [] => e
  | o :: os =>
    let tgs := (range 0 (b.targets i).length).zip (b.targets i)
    let tgs := tgs.filter (fun p => o.which == 0 || (p.1 == 1) == (o.which == 2))
    let e := tgs.foldl (fun e p => deliver b w c x i inst (now + o.off) p.1 o.train o.lf e p.2) e
    let e := match o.train.kind with
      | .null => e
      | .eos => e
      | _ => { e with s := e.s.modCtx c x (fun k =>
          let m := k.elem i
          let due := now + o.off + w.delay
          k.setElem i { m.hold k.adv (now + o.off) (due + 1) inst with latch := m.latch.emit now inst due o.train }) }
    sendOuts b w c x i inst now e os

/-- End an element's act: a fault or a trapping flag leaves the state before it, with the fault raised (R81); else the
flags join the instance's. -/
def settle (s0 : State) (e : Em) (c x i : Nat) (w : FWord) (inst tag : Nat) : State :=
  match e.err with
  | some (f, d) => s0.raise c x i f (if d = 0 then w.detail else d) tag 0
  | none =>
    match (s0.ctx c x).trapBit e.flags with
    | some k => s0.raise c x i .arith k tag 0
    | none => e.s.modInst c x inst (fun n => { n with flags := n.flags ||| e.flags })

/-- End the act of a train that a verdict gives (R235): it raises no fault again. -/
def settleFix (e : Em) (c x inst : Nat) : State := e.s.modInst c x inst (fun n => { n with flags := n.flags ||| e.flags })

/-! ## Taking trains -/

/-- The heads of the ports of an instruction, where every one has come. -/
def headsOf (k : Ctx) (i : Nat) : List Nat → Option (List (Nat × Timed))
  | [] => some []
  | p :: ps =>
    match k.head i p, headsOf k i ps with
    | some t, some l => some ((p, t) :: l)
    | _, _ => none

/-- The head of one port among those taken. -/
def headAt (hs : List (Nat × Timed)) (p : Nat) : Option Timed := (hs.find? (fun h => h.1 == p)).map (·.2)

def isEos (t : Timed) : Bool := t.train.kind == .eos

/-- Remove the heads that are no EOS; EOS stays at its port until every port has it. -/
def State.popData (s : State) (c x i : Nat) (hs : List (Nat × Timed)) : State :=
  s.modCtx c x (fun k => hs.foldl (fun k h => if isEos h.2 then k else k.pop i h.1) k)

/-- The mark of a train that a matrix drain sends: no instruction has this number. -/
def drainMark : Nat := 65

/-- The flags that wait with a train: those of its lanes' beat 1, or those that enter with a drain's EOS. -/
def Timed.owed (t : Timed) : Nat := t.lf.foldl (fun f g => f ||| g.getD 0) 0

/-- The EOS of a drain has been sent: the order's flags enter its context's flag word, and an enabled one raises ARITH at the
control core (R81, R322). -/
def State.enterDrain (s : State) (c x i : Nat) (t : Timed) : State :=
  if t.src ≠ drainMark ∨ !isEos t then s
  else
    let s1 := s.modCtx c x (fun k => k.enterFlags t.owed)
    if t.owed &&& (s.ctx c x).trapEnables ≠ 0 then
      s1.raiseAsync (regionOf c) (Trap.engine FaultCode.arith.code c x i 0 0)
    else s1

/-- Remove every head. -/
def State.popAll (s : State) (c x i : Nat) (hs : List (Nat × Timed)) : State :=
  hs.foldl (fun s h => s.enterDrain c x i h.2) (s.modCtx c x (fun k => hs.foldl (fun k h => k.pop i h.1) k))

/-- Remove the head of one port. -/
def State.popPort (s : State) (c x i p : Nat) (t : Timed) : State := s.popAll c x i [(p, t)]

/-- A drain's EOS at a port takes flags that an earlier train of it has raised. -/
def Ctx.owe (k : Ctx) (i p inst f : Nat) : Ctx :=
  k.setQueue i p ((k.queue i p).map (fun t =>
    if t.src = drainMark && isEos t && t.inst == inst then { t with lf := [some (t.owed ||| f)] } else t))

/-- The flags that the producer of a train taken at port `p` raises in beat 1 (R144): an instruction's join the instance's, or
trap at it with the state before; a drain's wait for its EOS. `t` is the state once the train is taken. -/
def State.payFlags (s : State) (c x i p : Nat) (h : Timed) (f : Nat) (t : State) : State :=
  if f = 0 then t
  else if h.src = drainMark then t.modCtx c x (fun k => k.owe i p h.inst f)
  else match (s.ctx c x).trapBit f with
    | some k => s.raise c x h.src .arith k h.train.tag 0
    | none => t.modInst c x h.inst (fun n => { n with flags := n.flags ||| f })

/-- The producer's flags where the train at port a is taken with no lane cancelled. -/
def State.payHead (s : State) (c x i : Nat) (hs : List (Nat × Timed)) (t : State) : State :=
  match headAt hs 0 with
  | some h => if isEos h then t else s.payFlags c x i 0 h h.owed t
  | none => t

/-- An element at rest for an instance: its held beats and its latch remain, and the advance before which it takes no other train
(R138). -/
def Elem.rest (m : Elem) (inst : Nat) : Elem :=
  { Elem.reset with inst := inst, held := m.held, latch := m.latch, next := m.next }

/-- The element is at rest for the context again. -/
def State.restElem (s : State) (c x i : Nat) : State := s.modCtx c x (fun k => k.setElem i ((k.elem i).rest (k.elem i).inst))

/-- What an element carries from train to train is of one instance: a train of another at port a finds it at rest (R185, R189 to
R191, R203; log 93). -/
def State.freshElem (s : State) (c x i : Nat) : State :=
  match (s.ctx c x).head i 0 with
  | some h => if ((s.ctx c x).elem i).inst = h.inst then s
      else s.modCtx c x (fun k => k.setElem i ((k.elem i).rest h.inst))
  | none => s

/-- The tag, instance and format that stand for a set of heads: those of the first. -/
def tagOf (hs : List (Nat × Timed)) : Nat :=
  match hs with
  | h :: _ => h.2.train.tag
  | [] => 0

def instOf (hs : List (Nat × Timed)) : Nat :=
  match hs with
  | h :: _ => h.2.inst
  | [] => 0

/-- The format of the first data train among heads, else of the first train. -/
def fmtOf (hs : List (Nat × Timed)) : Nat :=
  match hs.find? (fun h => h.2.train.kind == .data) with
  | some h => h.2.train.fmt
  | none => match hs with
    | h :: _ => h.2.train.fmt
    | [] => 0

/-- Latch the trains taken from ports a, b and c (R152), whose digit beats the element holds. -/
def latchIns (w : FWord) (c x i now inst : Nat) (hs : List (Nat × Timed)) (e : Em) : Em :=
  let ins := (hs.filter (fun h => decide (h.1 < 3) && !isEos h.2)).map (fun h => (h.1, h.2.train))
  if ins.isEmpty then e
  else { e with s := e.s.modCtx c x (fun k =>
    let m := k.elem i
    let held := if ins.any (fun p => p.2.kind == .data || p.2.kind == .poison) then m.hold k.adv now (now + w.delay + 1) inst else m
    k.setElem i { held with latch := m.latch.take now inst (now + w.delay) ins }) }

/-- Emit one train and take the given heads. -/
def emitOne (s0 s : State) (b : Block) (w : FWord) (c x i : Nat) (hs : List (Nat × Timed)) (flags : Nat)
    (outs : List Out) : State :=
  let now := (s0.ctx c x).adv
  let e := sendOuts b w c x i (instOf hs) now { s := s, flags := flags, err := none } outs
  settle s0 (latchIns w c x i now (instOf hs) hs e) c x i w (instOf hs) (tagOf hs)

/-- An output of a kind alone to every target. -/
def outKind (k : TokenKind) (fmt tag : Nat) : Out := { off := 0, which := 0, train := kindTrain k fmt tag, lf := [] }

/-- EOS has come on every port: it is emitted and the element rests (R41). -/
def passEos (s : State) (b : Block) (w : FWord) (c x i fmt : Nat) (hs : List (Nat × Timed)) : State :=
  emitOne s ((s.popAll c x i hs).restElem c x i) b w c x i hs 0 [outKind .eos fmt (tagOf hs)]

/-! ## Formats (R149, R157, R183) -/

/-- The tags a governing port takes, where the port governs. -/
def governs (w : FWord) (p : Nat) : Option Nat :=
  if p = 3 then (if w.recurs then none else some intCodes)
  else match w.kind, p with
    | 3, 1 => if 4 ≤ w.sub ∧ w.sub ≤ 6 then some intCodes else none
    | 4, 1 => some 0x10
    | 7, 1 => some intCodes
    | 8, 0 => if w.sub = 3 then some intCodes else some 0x01
    | 9, 1 => some intCodes
    | _, _ => none

/-- What a port says to a train. -/
inductive TagVerdict where
  | ok
  | outside
  | fault
  deriving DecidableEq, Repr, Inhabited

/-- Test a train at a port against the mask and against the tag of the firing; null, EOS and poison are never tested, the after port
of LD and ST takes any tag (R192), and the keys of keyred are of the values' width (R191, log 99). -/
def portVerdict (w : FWord) (fmt p : Nat) (t : Train) : TagVerdict :=
  if t.kind ≠ .data ∨ (w.isMem ∧ p = 2) then .ok
  else match governs w p with
    | some m => if bit m t.fmt && (w.kind != 7 || laneBits t.fmt == laneBits fmt) then .ok else .fault
    | none => if w.accepts t.fmt && t.fmt == fmt then .ok else .outside

/-- The first port, lowest first, whose train is not taken. -/
def badPort (w : FWord) (fmt : Nat) (hs : List (Nat × Timed)) : Option (Nat × Timed × TagVerdict) :=
  match hs with
  | [] => none
  | (p, t) :: l => match portVerdict w fmt p t.train with
    | .ok => badPort w fmt l
    | v => some (p, t, v)

/-- The tag of the firing: that of the lowest data port that carries a data train, else of the lowest data port. -/
def firingTag (w : FWord) (hs : List (Nat × Timed)) : Nat :=
  let own (h : Nat × Timed) : Bool := (governs w h.1).isNone && !(w.isMem && h.1 == 2)
  match hs.find? (fun h => h.2.train.kind == .data && own h), hs.find? own with
  | some h, _ => h.2.train.fmt
  | none, some h => h.2.train.fmt
  | none, none => fmtOf hs

/-- The mark of a train that a fallback has returned: no instruction has this number. -/
def returnedMark : Nat := 64

/-- A train outside the mask is steered to the fallback, or faults (R149, R150). -/
def steer (s : State) (w : FWord) (c x i p : Nat) (t : Timed) (v : TagVerdict) : State :=
  if v = .fault ∨ w.isMem ∨ w.f.lsid = 31 ∨ t.src = returnedMark then
    s.raise c x i .formatUnaccepted w.detail t.train.tag 0
  else
    let r : Steer := { idx := i, port := p, fb := w.f.lsid, train := t.train, asked := false }
    let s1 := s.modCtx c x (fun k => { k with steer := some r })
    settle s { s := s1.countEvent c 5 x 1, flags := fSteered, err := none } c x i w t.inst t.train.tag

/-! ## The common start of an element's step -/

/-- What stands before the element's own work: nothing to do, done already, or the heads to work on. -/
inductive Pre where
  | idle
  | done (s : State)
  | go (b : Block) (hs : List (Nat × Timed))

/-- The train that a verdict gives an instruction for an instance (R235). -/
def Ctx.fixOf (k : Ctx) (i inst : Nat) : Option Train :=
  (k.fixes.find? (fun f => f.1 == inst && f.2.1 == i)).map (fun f => f.2.2)

/-- The train of a verdict has been used. -/
def State.unfix (s : State) (c x i inst : Nat) : State :=
  s.modCtx c x (fun k => { k with fixes := k.fixes.filter (fun f => !(f.1 == inst && f.2.1 == i)) })

/-- A replacement or EOS that a verdict asked for is emitted in place of the faulting train (R235). -/
def useFix (s : State) (b : Block) (w : FWord) (c x i : Nat) (hs : List (Nat × Timed)) (t : Train) : State :=
  let s := s.unfix c x i (instOf hs)
  let m := (s.ctx c x).elem i
  let t := { t with tag := tagOf hs }
  let m := if t.kind = .eos then { m with ended := true, busy := true, inst := instOf hs } else m
  let now := (s.ctx c x).adv
  settleFix (sendOuts b w c x i (instOf hs) now { s := (s.popData c x i hs).setElem c x i m, flags := 0, err := none }
    [{ off := 0, which := 0, train := t, lf := [] }]) c x (instOf hs)

/-- An element that has ended consumes its inputs up to their EOS, then emits EOS unless it has (`busy`). -/
def consumeOn (s : State) (b : Block) (w : FWord) (c x i : Nat) (hs : List (Nat × Timed)) : State :=
  if hs.all (fun h => isEos h.2) then
    (if ((s.ctx c x).elem i).busy then (s.popAll c x i hs).restElem c x i
     else passEos s b w c x i (fmtOf hs) hs)
  else s.popData c x i hs

/-- A surplus is dropped and the length flag raised (R41 TRUNC, R81). -/
def truncate (s : State) (w : FWord) (c x i : Nat) (hs : List (Nat × Timed)) : State :=
  settle s { s := s.popData c x i hs, flags := fLength, err := none } c x i w (instOf hs) (tagOf hs)

/-- The start every lock-step, packing and flush element shares. Length policies FAULT and TRUNC are applied here; PAD
goes on with the ports that have ended. -/
def prelude (w : FWord) (s : State) (c x i : Nat) : Pre :=
  let k := s.ctx c x
  match k.block with
  | none => .idle
  | some b =>
    if k.slot ≠ .resident ∨ k.steer.isSome ∨ b.count ≤ i ∨ b.isFallback i then .idle
    else match headsOf k i (b.ports i) with
      | none => .idle
      | some hs =>
        let m := k.elem i
        match k.fixOf i (instOf hs) with
        | some t => .done (s.payHead c x i hs (useFix s b w c x i hs t))
        | none =>
          if m.ended then .done (s.payHead c x i hs (consumeOn s b w c x i hs))
          else match badPort w (firingTag w hs) hs with
            | some (p, t, v) => .done (steer s w c x i p t v)
            | none =>
              let ended := hs.any (fun h => isEos h.2)
              if ended && !hs.all (fun h => isEos h.2) && w.policy == 0 then
                .done (s.raise c x i .streamLength w.detail (tagOf hs) 0)
              else if ended && !hs.all (fun h => isEos h.2) && w.policy == 1 then
                .done (s.payHead c x i hs (truncate s w c x i hs))
              else .go b hs

/-- An element whose late operand has come is no longer waited for, from the next beat on (R35); the event counts (R353). -/
def State.notLate (s : State) (c x i : Nat) : State :=
  if (s.ctx c x).late.any (fun l => l.1 == i) then
    let now := (s.core c).beat
    let operand : Bool := (s.ctx c x).late.any (fun l => l.1 == i && l.2 != 1)
    (if operand then s.countEvent c 9 x 1 else s).modCtx c x (fun k => { k with late := k.late.filter (fun l => l.1 != i), lateBeat := some now })
  else s

/-- An element cannot finish in this advance: its context stalls as a unit (R35). -/
def State.setLate (s : State) (c x i why : Nat) : State :=
  s.modCtx c x (fun k => { k with late := k.late.filter (fun l => l.1 != i) ++ [(i, why)] })

/-- The kind a firing takes from its heads: poison wins over null (R159). -/
def firingKind (hs : List (Nat × Timed)) : TokenKind :=
  if hs.any (fun h => h.2.train.kind == .poison) then .poison
  else if hs.any (fun h => h.2.train.kind == .null) then .null else .data

/-! ## The compute kinds -/

/-- The output tag of a compute word for a firing's tag (Table 8.1). -/
def outTag (w : FWord) (fmt : Nat) : Nat :=
  match w.kind with
  | 2 => if w.sub = 8 ∨ w.sub = 9 ∨ w.sub = 12 then fmt else intTag (laneBits fmt)
  | 3 => if w.sub = 7 ∨ w.sub = 8 then intTag (laneBits fmt) else fmt
  | 4 => if w.sub = 0 ∨ w.sub = 3 ∨ w.sub = 4 then bits w.imm 2 0 else if w.sub = 2 then intTag (laneBits fmt) else fmt
  | _ => fmt

/-- A train that holds one lane throughout. -/
def fullTrain (fmt : Nat) (l : Lane) : Train :=
  { kind := .data, fmt := fmt, lanes := List.replicate (lanesOf fmt) l, tag := 0 }

/-- The value 1 in a format. -/
def oneLane (fmt : Nat) : Lane := if isInt fmt then freshInt (digits fmt) 1 else freshFlt (digits fmt) (Dy.ofInt 1)

/-- What length policy PAD supplies for a port (Table 8.1): none where it has no value; an absent side, or a train. -/
def padOf (w : FWord) (fmt p : Nat) : Option (Option Train) :=
  if p = 3 then some (some (fullTrain 0 (predLane true)))
  else match w.kind, w.sub with
    | 0, 2 => none
    | 0, 3 => none
    | 0, _ => some (some (fullTrain fmt (zeroLane fmt)))
    | 1, 5 => none
    | 1, _ => some (some (fullTrain fmt (if p = 2 then zeroLane fmt else oneLane fmt)))
    | 2, 8 => some none
    | 2, 9 => some none
    | 2, 12 => if p = 0 then none else some none
    | 3, 0 => some none
    | 3, 1 => some (some (fullTrain fmt (zeroLane fmt)))
    | 3, 2 => some (some (fullTrain fmt (zeroLane fmt)))
    | 3, 4 => if p = 1 then some none else none
    | 3, 5 => if p = 1 then some none else none
    | 3, 6 => if p = 1 then some none else none
    | 5, 5 => some (some (fullTrain fmt (oneLane fmt)))
    | _, _ => none

/-- The side of a port: its train, or what PAD supplies. -/
def sideOf (w : FWord) (fmt : Nat) (hs : List (Nat × Timed)) (p : Nat) : Option Train :=
  match headAt hs p with
  | some t => if isEos t then (padOf w fmt p).getD none else some t.train
  | none => none

/-- What cancellation does to the lanes of the arc into a thr or sign element (R144): the flags still raised, how many
lanes are cancelled, and whether all are. A lane that either predicate shuts out is never cancelled (R158). -/
def cancelFlags (x : FArg) (lf : List (Option Nat)) : Nat × Nat × Bool :=
  let T := threshold x.w x.b x.fmt
  let lanes := (range 0 lf.length).filter (fun j => x.la j != .absent)
  let cut := lanes.filter (fun j => (nth none lf j).isSome && earlyThr x.fmt (x.la j) T && x.gate (laneBits x.fmt) j == some true)
  ((lanes.filter (fun j => !cut.contains j)).foldl (fun f j => f ||| (nth none lf j).getD 0) 0, cut.length,
    cut.length == lanes.length && !lanes.isEmpty)

/-- The producer's beats of a wholly cancelled train count as cancelled (R144, R351). -/
def Ctx.cancelHeld (k : Ctx) (src due : Nat) : Ctx :=
  let m := k.elem src
  k.setElem src { m with held := m.held.map (fun h => if h.last = due + 1 then { h with cut := true } else h),
                         latch := if m.latch.due = due then { m.latch with cut := true } else m.latch }

/-- What a compute word's result sends: the train, or for qblk two. -/
def FOut.outs (o : FOut) (tag : Nat) (lf : List (Option Nat)) : List Out :=
  let t : Train := { kind := .data, fmt := o.fmt, lanes := o.lanes, tag := tag }
  match o.second with
  | none => [{ off := 0, which := 0, train := t, lf := lf }]
  | some (f2, l2) => [{ off := 0, which := 1, train := t, lf := lf },
      { off := 0, which := 2, train := { kind := .data, fmt := f2, lanes := l2, tag := tag }, lf := [] }]

/-- The data firing of a compute word: on a cancellable arc beat 1's flags go with the train, and a thr or sign word settles
those of the train it takes (R144). -/
def fireData (w : FWord) (body : FArg → FOut) (s : State) (b : Block) (c x i : Nat) (hs : List (Nat × Timed)) : State :=
  let fmt := firingTag w hs
  let tag := tagOf hs
  let a : FArg := { w := w, b := b, fmt := fmt, a := sideOf w fmt hs 0, pb := sideOf w fmt hs 1,
                    c := sideOf w fmt hs 2, p := sideOf w fmt hs 3, st := s.lfsr c x i }
  let o := body a
  match o.err with
  | some f => s.raise c x i f 0 tag 0
  | none =>
    let s1 := s.popData c x i hs
    let s1 := if w.f.mode = 5 then s1.setLfsr c x i o.st else s1
    let cut := cancellable b i
    let flags := o.flags.foldl (fun f g => f ||| (if cut then g &&& 3 else g)) 0
    let lf (p : Nat × Nat) : Option Nat := if a.gate (laneBits o.fmt) p.1 = some true then some (p.2 &&& 28) else none
    let lfs := if cut then ((range 0 o.flags.length).zip o.flags).map lf else []
    match headAt hs 0 with
    | some h =>
      if h.lf.isEmpty || isEos h then emitOne s s1 b w c x i hs flags (o.outs tag lfs)
      else
        let (df, n, all) := cancelFlags a h.lf
        let s1 := if n = 0 then s1 else s1.countEvent c 4 x n
        let s1 := if all && h.src < b.count then s1.modCtx c x (fun k => k.cancelHeld h.src h.due) else s1
        s.payFlags c x i 0 h df
          (emitOne s s1 b w c x i hs (flags ||| (if n = 0 then 0 else fCancelled)) (o.outs tag lfs))
    | none => emitOne s s1 b w c x i hs flags (o.outs tag lfs)

/-- One firing of a compute word with all its heads (R155-R182). -/
def fireCompute (w : FWord) (body : FArg → FOut) (s : State) (b : Block) (c x i : Nat) (hs : List (Nat × Timed)) :
    State :=
  let fmt := firingTag w hs
  let tag := tagOf hs
  if hs.all (fun h => isEos h.2) then passEos s b w c x i (outTag w fmt) hs
  else if hs.any (fun h => isEos h.2 && (padOf w fmt h.1).isNone) then
    -- a side with no PAD value has ended: the rest is consumed without output (R155)
    s.payHead c x i hs ((s.setElem c x i { (s.ctx c x).elem i with ended := true, inst := instOf hs }).popData c x i hs)
  else match firingKind hs with
    | .poison => s.payHead c x i hs (emitOne s (s.popData c x i hs) b w c x i hs 0 [outKind .poison (outTag w fmt) tag])
    | .null => s.payHead c x i hs (emitOne s (s.popData c x i hs) b w c x i hs 0 [outKind .null (outTag w fmt) tag])
    | _ => fireData w body s b c x i hs

/-! ## Fallback instructions (R150) -/

/-- An absent train of a format: the other ports of a fallback instruction. -/
def absentTrain (fmt : Nat) : Train := fullTrain fmt .absent

/-- What a fallback instruction makes of a steered train: nothing yet, a fault of its own, or a train that goes back (none
where it gives none a port could take), with the state its act leaves, its flags and its LFSR state. -/
inductive Fallback where
  | wait (s : State)
  | fault (f : FaultCode)
  | back (s : State) (t : Option Train) (flags st : Nat)

/-- The steered train's place takes what the fallback returned; a fallback that returns nothing leaves a train outside the mask
(R150). -/
def returnTrain (s0 s : State) (w : FWord) (c x i : Nat) (t : Steer) (r : Option Train) (flags st : Nat) : State :=
  match (s.ctx c x).head t.idx t.port with
  | none => s
  | some h => match r with
    | none => s.raise c x t.idx .formatUnaccepted 0 t.train.tag 0
    | some r =>
      let back := { h with train := { r with tag := t.train.tag }, src := returnedMark, lf := [] }
      let s1 := s.modCtx c x (fun k => k.setQueue t.idx t.port (back :: (k.queue t.idx t.port).drop 1))
      let s1 := if w.f.mode = 5 then s1.setLfsr c x i st else s1
      let s2 := settle s0 { s := s1, flags := flags, err := none } c x i w h.inst t.train.tag
      if isEos h then s2 else s0.payFlags c x t.idx t.port h h.owed s2

/-- A steered train goes through the fallback: `body` gives its result, which goes back to the port it left. A fallback
that refuses the train's tag faults at itself. -/
def runFallback (w : FWord) (body : State → Steer → Timed → Fallback) (s : State) (c x i : Nat) : State :=
  match (s.ctx c x).steer with
  | none => s
  | some t =>
    if t.fb ≠ i ∨ t.asked then s
    else
      let s0 := s.modCtx c x (fun k => { k with steer := none })
      match (s.ctx c x).head t.idx t.port with
      | none => s0
      | some h =>
        match (s.ctx c x).fixOf i h.inst with
        | some r => returnTrain s0 (s0.unfix c x i h.inst) w c x i t (some r) 0 (s.lfsr c x i)
        | none =>
          if !w.accepts t.train.fmt then s0.raise c x i .formatUnaccepted w.detail t.train.tag 0
          else match body s t h with
            | .wait s' => s'
            | .fault f => s0.raise c x i f w.detail t.train.tag 0
            | .back s' r f st => returnTrain s0 (s'.modCtx c x (fun k => { k with steer := none })) w c x i t r f st

/-- The result of a compute body on a steered train: the word's other ports are absent. -/
def fallbackBody (w : FWord) (c x i : Nat) (b : Block) (body : FArg → FOut) (s : State) (r : Steer) (_h : Timed) : Fallback :=
  let t := r.train
  let others (p : Nat) : Option Train := if (wordPorts w).contains p then some (absentTrain t.fmt) else none
  let o := body { w := w, b := b, fmt := t.fmt, a := some t, pb := others 1, c := others 2,
                  p := if w.predicated then some (absentTrain 0) else none, st := s.lfsr c x i }
  match o.err with
  | some f => .fault f
  | none => .back s (some { kind := .data, fmt := o.fmt, lanes := o.lanes, tag := t.tag })
      (o.flags.foldl (fun f g => f ||| g) 0) o.st

/-- One step of an element with a compute word: the element of State.cur. -/
def computeElement (kind sub : Nat) (f : Fab) (body : FArg → FOut) (s : State) : Host.Outcome State Fault Refusal :=
  let w : FWord := { kind := kind, sub := sub, f := f }
  let c := s.cur.core
  let x := s.cur.ctx
  let i := s.cur.idx
  let s := s.freshElem c x i
  let s' := match prelude w s c x i with
    | .done s' => s'
    | .go b hs => fireCompute w body s b c x i hs
    | .idle =>
      match (s.ctx c x).block with
      | some b => if b.isFallback i then runFallback w (fallbackBody w c x i b body) s c x i else s
      | none => s
  .next s'.tick

end Sys2Proof.Machine
end

