-- ==== Sys2Proof/Machine/Operands.lean ====
section
/-! DEFINITION. The operand forms of control-core words (R45, R87, R88, R100) and of commands (R111, R112). -/
namespace Sys2Proof.Machine

/-! ## Word operands -/

/-- sext of a 16-bit field to 64 bits (R87). -/
def sext16 (i : Nat) : Word := BitVec.ofInt 64 (sextNat 16 i)

/-- zext of a 16-bit field (R87). -/
def zext16 (i : Nat) : Word := BitVec.ofNat 64 (i % 65536)

/-- The value `lui` writes (R87). -/
def luiValue (i : Nat) : Word := BitVec.ofInt 64 (sextNat 32 (i % 65536 * 65536))

/-- The shift amount sh = xb[5:0] (R86). -/
def shiftOf (b : Word) : Nat := b.toNat % 64

/-- The effective address of a load or store (R88). -/
def effAddr (s : State) (r a i : Nat) : Nat := (s.getX r a + sext16 i).toNat

/-- A branch target: the word's address plus 4 times the sign-extended offset of `n` bits (R45). -/
def branchTarget (pc : Word) (n o : Nat) : Word := pc + BitVec.ofInt 64 (4 * sextNat n o)

/-- Number of leading zero bits of a 64-bit word, 64 for zero (R86). -/
def clz64 (v : Word) : Nat := 64 - (maskList v.toNat 64).foldl (fun _ i => i + 1) 0

/-- Number of one bits (R86). -/
def popc64 (v : Word) : Nat := (maskList v.toNat 64).length

/-- The wider product of two integers, bits [127:64] (R86). -/
def highHalf (p : Int) : Word := BitVec.ofInt 64 (p / 2 ^ 64)

/-! ## Shapes of integer words -/

/-- A register form of Table 5.1. -/
def aluR (f : Word → Word → Word) (d a b : Nat) (s : State) : Host.Outcome State Fault Refusal :=
  .next ((s.setX s.turn d (f (s.getX s.turn a) (s.getX s.turn b))).complete s.turn)

/-- An immediate form of Table 5.2: `f` on the register and the extended immediate. -/
def aluI (f : Word → Word) (d a : Nat) (s : State) : Host.Outcome State Fault Refusal :=
  .next ((s.setX s.turn d (f (s.getX s.turn a))).complete s.turn)

/-! ## Command operands (R111, R112) -/

/-- Whether a context slot of a core is switched out: from the switch-out point of a save until an image is back
(Table 21.1, R336). -/
def switchedOut (s : State) (core ctx : Nat) : Bool :=
  (s.ctx core ctx).slot == .vacant || (sfind (s.core core).saves ctx).isSome

/-- A core mask operand: bits [63:16] zero and not all zero, else ILLEGAL; within the launch's mask, else PROTECTION. The command acts on
a core behind every token that its control core has sent there (R112). -/
def maskOperand (s : State) (r a : Nat) : Res (List Nat) := do
  let m := (s.getX r a).toNat
  need (m < 65536 && m != 0) .illegal
  need ((maskList m 16).all (fun i => bit (s.region r).mask i)) .protection
  await ((maskCores r m).all (fun c => !s.tokensTo r c))
  .ok (maskCores r m)

/-- A core index operand: within the launch's mask, else PROTECTION; the command acts behind the tokens sent there (R112). -/
def coreOperand (s : State) (r i : Nat) : Res Nat := do
  need (bit (s.region r).mask i) .protection
  await (!s.tokensTo r (coreOf r i))
  .ok (coreOf r i)

/-- A context operand: the command waits while some named core has it switched out (R112). -/
def ctxOperand (s : State) (cores : List Nat) (ctx : Nat) : Res Unit :=
  await (cores.all (fun c => !switchedOut s c ctx))

/-- The flag word that state register `n` names: a core of the launch, and a context that is not switched out (R80, R112). -/
def flagOperand (s : State) (r n : Nat) : Res Unit := do
  let c ← coreOperand s r ((n - 0x100) / 4)
  ctxOperand s [c] (n % 4)

/-- The low bits of a register operand whose upper bits are zero, else ILLEGAL (R111). -/
def lowOperand (v : Word) (n : Nat) : Res Nat := do
  need (v.toNat < 2 ^ n) .illegal
  .ok v.toNat

/-- Whether the control core reads poison at these keys: a poisoned unit that none of its own buffered stores covers
wholly (R92, R95). -/
def ccPoisoned (s : State) (r : Nat) (ks : List Nat) : Bool :=
  ks.any (fun k => s.poison.contains (k / 8) &&
    !((s.region r).stores.any (fun b => (wholeUnits b.keys).contains (k / 8))))

/-- A record, an image or a pattern lies in window 0x2 or 0x8; another window that the control core has not, and one that no
table lists, fault as a load's (R88, R115, R121, R124). -/
def recordWindow (addr : Nat) : Res Unit :=
  let win := addr / 2 ^ 60
  if win = 2 ∨ win = 8 then .ok ()
  else .error (.trap (Trap.access (if win ≤ 3 ∨ win = 15 then .protection else .translation) addr))

/-- The bytes a command reads at a pointer as a load would (R115), windows 0x2 and 0x8 only. -/
def recordRead (s : State) (r addr n : Nat) : Res (List Nat) := do
  recordWindow addr
  await (!walkHeld s (.control r) addr n)
  let ks ← ofAcc addr (resolve s (.control r) addr n .read)
  await (!vaultHeld s ks)
  if ccPoisoned s r ks then .error (.trap (Trap.access .protection addr true)) else .ok (s.ccRead r ks)

/-- The little-endian 64-bit words of a byte string. -/
def wordsOf : Nat → List Nat → List Word
  | 0, _ => []
  | n + 1, bs => BitVec.ofNat 64 (ofBytes (bs.take 8)) :: wordsOf n (bs.drop 8)

end Sys2Proof.Machine
end

