-- ==== Sys2Proof/Machine/Streams.lean ====
section
/-! DEFINITION. Access patterns (R114-R116), stream ports (R117-R120), and the checked accesses of a context (R192, R214,
R267, R273). -/
namespace Sys2Proof.Machine

/-! ## Pattern records (Table 6.2) -/

def patWord (p : List Word) (i : Nat) : Nat := (nth 0 p i).toNat

/-- Count of level `k`, 0 innermost. -/
def patCount (p : List Word) (k : Nat) : Nat := bits (patWord p 1) (16 * k + 15) (16 * k) + 1

/-- Stride of level `k`, in bytes. -/
def patStride (p : List Word) (k : Nat) : Int :=
  sextNat 32 (if k % 2 = 0 then bits (patWord p (2 + k / 2)) 63 32 else bits (patWord p (2 + k / 2)) 31 0)

def patClass (p : List Word) : Nat := bits (patWord p 4) 40 39

def patObject (p : List Word) : Nat := bits (patWord p 4) 63 48

/-- The size code; an element has 2^size bytes. -/
def patSize (p : List Word) : Nat := bits (patWord p 4) 47 45

def patFmt (p : List Word) : Nat := bits (patWord p 4) 44 42

def patWrites (p : List Word) : Bool := bit (patWord p 4) 41

/-- The number of elements of a pattern. -/
def patTotal (p : List Word) : Nat := patCount p 0 * patCount p 1 * patCount p 2 * patCount p 3

/-- Element `j` of the stream order (R116), with the base addend. -/
def patAddr (p : List Word) (addend : Word) (j : Nat) : Word :=
  let j1 := j / patCount p 0
  let j2 := j1 / patCount p 1
  let j3 := j2 / patCount p 2
  nth 0 p 0 + addend + BitVec.ofInt 64 ((j % patCount p 0 : Nat) * patStride p 0 + (j1 % patCount p 1 : Nat) * patStride p 1 +
    (j2 % patCount p 2 : Nat) * patStride p 2 + (j3 % patCount p 3 : Nat) * patStride p 3)

/-- Element `i` of a table: base + b + i * stride0 (R195). -/
def tableAddr (p : List Word) (addend : Word) (i : Int) : Word :=
  nth 0 p 0 + addend + BitVec.ofInt 64 (i * patStride p 0)

/-- The checks of `apset` and `apmod` on a record (R115). -/
def patOk (p : List Word) : Bool :=
  patSize p != 7 && bits (patWord p 4) 38 0 == 0 && patWord p 5 == 0 && patWord p 6 == 0 && patWord p 7 == 0 &&
  patWord p 0 % 2 ^ patSize p == 0 && (range 0 4).all (fun k => patStride p k % (2 ^ patSize p : Int) == 0)

/-- A record of zeros: an ap register at launch start. -/
def zeroPattern : List Word := List.replicate 8 0

/-- Replace bits of a word of a record. -/
def patPut (p : List Word) (i lo n v : Nat) : List Word :=
  let w := patWord p i
  setNth p i (BitVec.ofNat 64 (w - w / 2 ^ lo % 2 ^ n * 2 ^ lo + v % 2 ^ n * 2 ^ lo))

/-- The record with a field replaced (R115); none for a bad code or a value whose upper bits are wrong. -/
def patMod (p : List Word) (code v : Nat) : Option (List Word) :=
  if code = 0 then some (setNth p 0 (BitVec.ofNat 64 v))
  else if code ≤ 4 then (if v < 65536 then some (patPut p 1 (16 * (code - 1)) 16 v) else none)
  else if code ≤ 8 then
    let k := code - 5
    if v = wrapInt 64 (sextNat 32 v) then some (patPut p (2 + k / 2) (if k % 2 = 0 then 32 else 0) 32 v) else none
  else if code = 9 then some (patPut p 4 48 16 v)
  else none

/-! ## Ports -/

def Core.portQ (c : Core) (p : Nat) : List PortEntry := sget [] c.ports p

def Core.setPortQ (c : Core) (p : Nat) (q : List PortEntry) : Core :=
  { c with ports := if q.isEmpty then sdel c.ports p else sput c.ports p q }

def State.setPortQ (s : State) (c p : Nat) (q : List PortEntry) : State := s.setCore c ((s.core c).setPortQ p q)

/-- The stream that is active on a port. -/
def Core.activeEntry (c : Core) (p : Nat) : Option PortEntry :=
  match c.portQ p with
  | e :: _ => if e.active then some e else none
  | [] => none

/-- Replace the entry at the head of a port's queue. -/
def State.setHead (s : State) (c p : Nat) (e : PortEntry) : State :=
  s.setPortQ c p (e :: ((s.core c).portQ p).drop 1)

/-- The entry at the head of a port has finished: the port falls free (R117). -/
def State.freePort (s : State) (c p : Nat) : State :=
  (s.setPortQ c p (((s.core c).portQ p).drop 1)).setEvent (regionOf c) 2

/-- Whether a barrier is at the head of every port that holds it (R118). -/
def Core.barrierReady (c : Core) (n : Nat) : Bool :=
  c.ports.all (fun q => match q.2 with
    | e :: rest => !rest.any (fun f => f.barrier == some n) || e.barrier == some n
    | [] => true)

/-- Whether an entry goes into the image of a context: its own streams, and a barrier that shares a port with one of them
(R379; log 43). -/
def Core.goesWith (c : Core) (x : Nat) (e : PortEntry) : Bool :=
  let own (f : PortEntry) : Bool := f.barrier.isNone && f.ctx == x
  own e || (e.barrier.isSome && c.ports.any (fun q => q.2.any (fun f => f.barrier == e.barrier) && q.2.any own))

/-- Whether it leaves the core with that image: a barrier that orders another context's streams too stays (log 43). -/
def Core.leavesWith (c : Core) (x : Nat) (e : PortEntry) : Bool :=
  c.goesWith x e && (e.barrier.isNone || !(range 0 4).any (fun y => y != x && c.goesWith y e))

/-- A barrier is passed on every port it heads. -/
def Core.passBarrier (c : Core) (n : Nat) : Core :=
  { c with ports := (c.ports.map (fun q => (q.1, match q.2 with
      | e :: rest => if e.barrier = some n then rest else e :: rest
      | [] => []))).filter (fun q => !q.2.isEmpty) }

/-- Whether an entry belongs to a context whose save has not sealed: it stands in place and nothing serves it (R344). -/
def Core.frozen (c : Core) (e : PortEntry) : Bool := e.barrier.isNone && (sfind c.saves e.ctx).isSome

/-- STREAM_START: the dispatcher starts the oldest waiting entry of a free port, or passes a barrier that heads every one
of its ports (R117, R118). -/
def execStreamStart (core port : Nat) (s : State) : Host.Outcome State Fault Refusal :=
  let c := s.core core
  .next (match c.portQ port with
    | [] => s
    | e :: rest =>
      match e.barrier with
      | some n => if c.barrierReady n then s.setCore core (c.passBarrier n) else s
      | none => if e.active || c.frozen e then s else s.setPortQ core port ({ e with active := true } :: rest)).tick

/-! ## One checked access of a context -/

/-- What an access of a context comes to; a wait names the draining tiles it meets (R214), none where its tables or its home are
held (R281, R289); a fault has the poison mark of a table entry (R280). -/
inductive Tried where
  | ok (ks : List Nat)
  | wait (draining : List Nat)
  | fault (f : FaultCode) (poison : Bool)
  deriving DecidableEq, Repr, Inhabited

/-- An access waits on draining tiles. -/
def Waited.on (w : Waited) (ts : List Nat) : Waited := { w with tiles := ts.foldl insertNat w.tiles }

/-- The checks of an access: R267 in order, the tile table with the rights (Table 10.2), the object bounds. An access that has
waited on a draining tile faults TRANSLATION once the tile has become empty. -/
def tryAccess (s : State) (c x addr n : Nat) (w : Want) (obj : Nat) (waited : Waited) : Tried :=
  if walkHeld s (.context c x) addr n || objectHeld s (regionOf c) obj then .wait []
  else match resolve s (.context c x) addr n w with
  | .error (f, p) => .fault f p
  | .ok ks =>
    let off := addr % 2 ^ 60
    let v := if addr / 2 ^ 60 = 0 then tileCheck (s.core c) x off n (w != .read) else .ok
    if waited.lost then .fault .translation false
    else if v = .prot then .fault .protection false
    else match objectOk s (regionOf c) obj addr n w with
      | .error (f, p) => .fault f p
      | .ok _ => match v with
        | .wait ts => .wait ts
        | _ => if vaultHeld s ks then .wait [] else .ok ks

/-- The place in line of an update that waits: the one it has, or behind those that wait at its vault, where that is held (R366). -/
def updatePlace (s : State) (c x addr n : Nat) (own : Option (Nat × Nat)) : Option (Nat × Nat) :=
  if walkHeld s (.context c x) addr n then own
  else match resolve s (.context c x) addr n .atomic with
  | .ok ks => if atomicGoes s own ks then own else heldPlace s own ks
  | .error _ => none

/-- A context's write of bytes, or of poison, at resolved keys (R280, R213). -/
def State.ctxWrite (s : State) (c addr : Nat) (ks bs : List Nat) (poison : Bool) : State :=
  let s1 := if poison then
      let s2 := s.poisonKeys ks
      { s2 with marks := s2.marks.filter (fun m => !(ks.any (fun k => k / 16 == m / 16))) }
    else s.store ks bs
  if addr / 2 ^ 60 = 0 then s1.noteWrite c (addr % 2 ^ 60) ks.length poison else s1

/-- An update of bytes in place at resolved keys, which leaves marks and poison as they are (R199, R282). -/
def State.ctxUpdate (s : State) (c addr : Nat) (ks bs : List Nat) : State :=
  let s1 := s.writeKeys ks bs
  if addr / 2 ^ 60 = 0 then s1.noteWrite c (addr % 2 ^ 60) ks.length false else s1

/-! ## Requests -/

def State.setReq (s : State) (c n : Nat) (r : MemReq) : State :=
  s.setCore c { s.core c with reqs := setNth (s.core c).reqs n r }

def State.postReq (s : State) (c : Nat) (r : MemReq) : State :=
  s.setCore c { s.core c with reqs := (s.core c).reqs ++ [r] }

/-- The stream that a word of a block steps: ld and st (R193, R197). -/
def FWord.steps (w : FWord) : Bool := w.isMem && w.sub == 0

def reqWord (s : State) (c : Nat) (r : MemReq) : FWord :=
  match (s.ctx c r.ctx).block with
  | some b => b.word r.idx
  | none => default

/-- Whether a request takes its accesses from its port. -/
def isStreamReq (s : State) (c : Nat) (r : MemReq) : Bool := (reqWord s c r).steps

/-- Whether any request of a port is outstanding. -/
def Core.portBusy (c : Core) (p : Nat) : Bool := c.reqs.any (fun r => r.port == some p)

/-- An entry whose element has ended falls free once every access made for it is performed (R197, R263). -/
def State.settlePort (s : State) (c : Nat) (p : Option Nat) : State :=
  match p with
  | none => s
  | some q =>
    match (s.core c).activeEntry q with
    | some e => if e.finished && !(s.core c).portBusy q then s.freePort c q else s
    | none => s

/-- A request is done: its answer is on the way. -/
def State.answer (s : State) (c n : Nat) (r : MemReq) (t : Train) (eosAfter : Bool) : State :=
  let a : MemResp := { ctx := r.ctx, idx := r.idx, inst := r.inst, train := t, due := r.due, flags := r.flags,
                       eosAfter := eosAfter, ack := r.kind != .read, lines := r.lines }
  let k := s.core c
  (s.setCore c { k with reqs := dropNth k.reqs n, resps := k.resps ++ [a] }).settlePort c r.port

/-- The acknowledge train: lane 0 the number of elements written, the others 0 (R196). -/
def ackTrain (r : MemReq) : Train :=
  if r.poison then kindTrain .poison 0 r.tag
  else { kind := .data, fmt := 0, tag := r.tag,
         lanes := freshInt 8 r.got.length :: List.replicate (lanesOf 0 - 1) (freshInt 8 0) }

/-- An access of a request failed its checks: its frame faults, its position is kept (R119, R192). -/
def State.reqFault (s : State) (c : Nat) (r : MemReq) (f : FaultCode) (addr : Nat) (poison : Bool := false) : State :=
  let k := s.core c
  let g := faultRec s c r.ctx r.idx f.code (reqWord s c r).detail r.tag addr
  (s.setCore c { k with reqs := k.reqs.map (fun q => if q = r then { q with faulted := true } else q) }).raiseFrame c
    { g with poison := poison }

/-- Whether a frame of a context has a fault raised and not yet parked. -/
def Core.faulted (c : Core) (frame : Nat) : Bool := c.faults.any (fun f => f.1 == frame)

/-! ## The generator (R116, R119) -/

/-- The bytes of a train of a stream of a format: 128, or 64 for e2m1 (R193). -/
def streamBytes (fmt : Nat) : Nat := if fmt = 7 then 64 else 128

/-- Every ld element of the context that took trains of a shared port also ends (R371): EOS for the elements that have
started on the port and wait for a train. -/
def endSharers (s : State) (c p : Nat) (r : MemReq) : State :=
  match (s.ctx c r.ctx).block with
  | none => s
  | some b =>
    (range 0 b.count).foldl (fun s j =>
      let w := b.word j
      let m := (s.ctx c r.ctx).elem j
      if j ≠ r.idx && w.kind == 8 && w.sub == 0 && bits w.imm 3 0 == p && m.active && m.started && !m.ended then
        let k := s.core c
        let mine (q : MemReq) : Bool := q.ctx == r.ctx && q.idx == j
        let due := match k.reqs.find? mine with
          | some q => q.due
          | none => m.next + w.delay
        let a : MemResp := { ctx := r.ctx, idx := j, inst := m.inst, train := kindTrain .eos r.fmt r.tag, due := due,
                             flags := 0, eosAfter := false, ack := false, lines := 0 }
        s.setCore c { k with reqs := k.reqs.filter (fun q => !mine q), resps := k.resps ++ [a] }
      else s) s

/-- A read stream gives request `n` a train, then EOS where the stream, `e` behind the train, has no more. -/
def giveTrainTo (s : State) (c p n : Nat) (r : MemReq) (e : PortEntry) (t : Train) : State :=
  if e.buf.isEmpty && patTotal e.pattern ≤ e.pos then
    let s1 := (s.setHead c p e).answer c n { r with port := none } t true
    let k := s1.core c
    let s2 := s1.setCore c { k with reqs := k.reqs.filter (fun q => !(q.ctx == r.ctx && q.idx == r.idx)) }
    (endSharers s2 c p r).freePort c p
  else (s.setHead c p e).answer c n r t false

/-- A read stream gives request `n` the bytes at hand. -/
def giveTrain (s : State) (c p n : Nat) (r : MemReq) (e : PortEntry) : State :=
  let take := streamBytes (patFmt e.pattern)
  let bs := e.buf.take take
  let t : Train := if bs.any (·.2) then kindTrain .poison (patFmt e.pattern) r.tag
    else { kind := .data, fmt := patFmt e.pattern, lanes := lanesOfBytes (patFmt e.pattern) r.uns (bs.map (·.1)), tag := r.tag }
  giveTrainTo s c p n r { e with buf := e.buf.drop take } t

/-- One access of an active read stream for request `n`. -/
def readAccess (s : State) (c p n : Nat) (r : MemReq) (e : PortEntry) : State :=
  let size := 2 ^ patSize e.pattern
  let addr := (patAddr e.pattern e.addend e.pos).toNat
  if streamBytes (patFmt e.pattern) ≤ e.buf.length ∨ patTotal e.pattern ≤ e.pos then giveTrain s c p n r e
  else match tryAccess s c r.ctx addr size .read (patObject e.pattern) e.waited with
    | .wait d => s.setHead c p { e with waited := e.waited.on d }
    | .fault f z => (s.setHead c p { e with stopped := true, err := some (f.code, addr) }).reqFault c r f addr z
    | .ok ks =>
      let bs := ks.map (fun k => (s.readByte k, s.poison.contains (k / 8)))
      let e := { e with buf := e.buf ++ bs, pos := e.pos + 1, stopped := false, err := none, waited := Waited.reset, tried := false }
      let s := (s.setHead c p e).askElement c (patClass e.pattern) ks false
      if streamBytes (patFmt e.pattern) ≤ e.buf.length ∨ patTotal e.pattern ≤ e.pos then giveTrain s c p n r e else s

/-- The st elements of the context that write to a port have seen its stream end (R197). -/
def markEnded (s : State) (c p x : Nat) : State :=
  match (s.ctx c x).block with
  | none => s
  | some b =>
    (range 0 b.count).foldl (fun s j =>
      let w := b.word j
      let m := (s.ctx c x).elem j
      if w.kind == 9 && w.sub == 0 && bits w.imm 3 0 == p && m.started then s.setElem c x j { m with busy := true } else s) s

/-- A write stream that has made its last access and owes no write any more falls free (R117). -/
def writeEnd (s : State) (c p x : Nat) (e : PortEntry) : State :=
  if patTotal e.pattern ≤ e.pos && !(s.core c).portBusy p && ((s.core c).activeEntry p).isSome then (markEnded s c p x).freePort c p
  else s

/-- One access of an active write stream for request `n`; the lanes of a poison train past its last element are dropped (R196). -/
def writeAccess (s : State) (c p n : Nat) (r : MemReq) (e : PortEntry) : State :=
  match r.accs with
  | [] => s.answer c n r (ackTrain r) false
  | a :: rest =>
    if patTotal e.pattern ≤ e.pos then (if r.poison then writeEnd (s.answer c n { r with accs := [] } (ackTrain r) false) c p r.ctx e
      else s.reqFault c r .streamLength 0)
    else
      let addr := (patAddr e.pattern e.addend e.pos).toNat
      match tryAccess s c r.ctx addr a.size .write (patObject e.pattern) e.waited with
      | .wait d => s.setHead c p { e with waited := e.waited.on d }
      | .fault f z => (s.setHead c p { e with stopped := true, err := some (f.code, addr) }).reqFault c r f addr z
      | .ok ks =>
        let e := { e with pos := e.pos + 1, stopped := false, err := none, waited := Waited.reset }
        let r := { r with accs := rest, got := r.got ++ [(a.lane, 0, a.poison)] }
        let s := ((s.ctxWrite c addr ks (toBytes a.size a.value) a.poison).setHead c p e).setReq c n r
        let s := s.askElement c (patClass e.pattern) ks true
        if rest.isEmpty then writeEnd (s.answer c n r (ackTrain r) false) c p r.ctx e else s

/-- The request that a port's generator serves: the oldest of the port, lower instruction index first where two came in
one advance (R371). -/
def Core.portReq (c : Core) (p : Nat) : Option (Nat × MemReq) := findIdx (fun r => r.port == some p) 0 c.reqs

/-- Whether a read stream has data for a first beat (R32): a train, all that is left of the stream, or an access that is to fault once a
train asks for it. -/
def PortEntry.firstReady (e : PortEntry) : Bool :=
  streamBytes (patFmt e.pattern) ≤ e.buf.length || patTotal e.pattern ≤ e.pos || e.stopped || e.tried

/-- Whether the streams of a port may be read ahead of any request: an `ld` word of the context takes it, and none that waits on an
after port (R32, R192). -/
def Ctx.readsAhead (k : Ctx) (p : Nat) : Bool :=
  match k.block with
  | none => false
  | some b =>
    let on := (range 0 b.count).filter (fun i => (b.word i).kind == 8 && (b.word i).sub == 0 && bits (b.word i).imm 3 0 == p && !b.isFallback i)
    !on.isEmpty && on.all (fun i => !(b.ports i).contains 2)

/-- An access of an active read stream ahead of any request: it fetches what a first beat needs (R32). One that does not pass its
checks is only noted: the fault is the LD's that asks for it (R119; log 96). -/
def prefetch (s : State) (c p : Nat) (e : PortEntry) : State :=
  let addr := (patAddr e.pattern e.addend e.pos).toNat
  if e.firstReady then s
  else match tryAccess s c e.ctx addr (2 ^ patSize e.pattern) .read (patObject e.pattern) e.waited with
    | .wait d => s.setHead c p { e with waited := e.waited.on d }
    | .fault _ _ => s.setHead c p { e with tried := true }
    | .ok ks =>
      let bs := ks.map (fun k => (s.readByte k, s.poison.contains (k / 8)))
      let e1 := { e with buf := e.buf ++ bs, pos := e.pos + 1, waited := Waited.reset }
      (s.setHead c p e1).askElement c (patClass e.pattern) ks false

/-- STREAM_ACCESS: the address generator of a port makes its next checked access (R116): for the train that an LD or ST element has
asked for, or, of a read stream, for a first beat to come (R32). -/
def execStreamAccess (core port : Nat) (s : State) : Host.Outcome State Fault Refusal :=
  let c := s.core core
  .next (match c.activeEntry port, c.portReq port with
    | some e, some (n, r) =>
      if r.ctx != e.ctx || !isStreamReq s core r || c.faulted (frameOf r.tag) then s
      else if r.kind == ReqKind.read then readAccess s core port n r e else writeAccess s core port n r e
    | some e, none => if e.barrier.isSome || c.frozen e || patWrites e.pattern || !(c.ctx e.ctx).readsAhead port then s else prefetch s core port e
    | none, _ => s).tick

/-! ## The stream commands -/

/-- The ap register of a region; zeros where nothing is listed. -/
def Region.ap (g : Region) (n : Nat) : List Word := sget zeroPattern g.aps n

/-- `apset` (R115). -/
def execApset (b ap : Nat) (s : State) : Host.Outcome State Fault Refusal :=
  command s (fun s => do
    let r := s.turn
    let addr := (s.getX r b).toNat
    need (addr % 64 == 0) .illegal
    let bs ← recordRead s r addr 64
    let p := wordsOf 8 bs
    need (patOk p) .illegal
    .ok (s.setRegion r { s.region r with aps := sput (s.region r).aps ap p }))

/-- `apmod` (R115). -/
def execApmod (b f ap : Nat) (s : State) : Host.Outcome State Fault Refusal :=
  command s (fun s => do
    let r := s.turn
    match patMod ((s.region r).ap ap) f (s.getX r b).toNat with
    | none => fail .illegal
    | some p =>
      need (patOk p) .illegal
      .ok (s.setRegion r { s.region r with aps := sput (s.region r).aps ap p }))

/-- A stream entry that waits in a port's queue. -/
def newEntry (ctx : Nat) (p : List Word) (addend : Word) : PortEntry :=
  { ctx := ctx, barrier := none, pattern := p, addend := addend, pos := 0, active := false, stopped := false,
    finished := false, buf := [], err := none, waited := Waited.reset, tried := false }

/-- `sbind` (R117). -/
def execSbind (a b port ctx ap : Nat) (s : State) : Host.Outcome State Fault Refusal :=
  command s (fun s => do
    let r := s.turn
    let cs ← maskOperand s r a
    ctxOperand s cs ctx
    need (cs.all (fun c => (s.ctx c ctx).block.isSome)) .illegal
    await (cs.all (fun c => ((s.core c).portQ port).length < 4))
    let e := newEntry ctx ((s.region r).ap ap) (s.getX r b)
    .ok (cs.foldl (fun s c => s.setPortQ c port ((s.core c).portQ port ++ [e])) s))

/-- Place a barrier in the queues of the ports of a mask on one core. -/
def placeBarrier (ps : List Nat) (s : State) (c : Nat) : State :=
  let k := s.core c
  let e := { newEntry 0 zeroPattern 0 with barrier := some k.nextBar }
  let k := ps.foldl (fun k p => k.setPortQ p (k.portQ p ++ [e])) { k with nextBar := k.nextBar + 1 }
  s.setCore c k

/-- Whether a barrier entry is still in some queue of a core. -/
def Core.hasBarrier (c : Core) (n : Nat) : Bool := c.ports.any (fun q => q.2.any (fun e => e.barrier == some n))

/-- The cores and ports that `sbar` names. -/
def sbarOperands (s : State) (a b : Nat) : Res (List Nat × List Nat) := do
  let cs ← maskOperand s s.turn a
  let pm := bits (s.getX s.turn b).toNat 15 0
  need (pm != 0) .illegal
  .ok (cs, maskList pm 16)

/-- `sbar` (R118). With wait 1 it places its entries once and waits for them to be passed. -/
def execSbar (a b w : Nat) (s : State) : Host.Outcome State Fault Refusal :=
  let ready := s.drains s.turn
  let s := s.drain s.turn
  let r := s.turn
  match (do
      await ready
      sbarOperands s a b : Res (List Nat × List Nat)) with
  | .error e => finish s r (.error e)
  | .ok (cs, ps) =>
    let g := s.region r
    if g.bars.isEmpty then
      if cs.all (fun c => ps.all (fun p => ((s.core c).portQ p).length < 4)) then
        let t := cs.foldl (placeBarrier ps) s
        if w = 0 then finish s r (.ok t)
        else .next ((t.setRegion r { t.region r with bars := cs.map (fun c => (c, (s.core c).nextBar)) }).wait r)
      else finish s r (.error .wait)
    else if g.bars.any (fun p => (s.core p.1).hasBarrier p.2) then finish s r (.error .wait)
    else finish s r (.ok (s.setRegion r { g with bars := [] }))

/-- A bit of every port for which `f` holds. -/
def portMask (c : Core) (f : List PortEntry → Bool) : Nat :=
  (range 0 16).foldl (fun m p => if f (c.portQ p) then m ||| 2 ^ p else m) 0

/-- `sstat` (R120). -/
def execSstat (a core : Nat) (s : State) : Host.Outcome State Fault Refusal :=
  command s (fun s => do
    let r := s.turn
    let n ← coreOperand s r core
    let c := s.core n
    let full := portMask c (fun q => q.length == 4)
    let stopped := portMask c (fun q => q.any (·.stopped))
    let waiting := portMask c (fun q => q.any (fun e => !e.active))
    let active := portMask c (fun q => q.any (·.active))
    .ok (s.setX r a (BitVec.ofNat 64 (2 ^ 48 * full + 2 ^ 32 * stopped + 2 ^ 16 * waiting + active))))

end Sys2Proof.Machine
end

