-- ==== Sys2Proof/Machine/Phase.lean ====
section
/-! DEFINITION. Phase counters (R282-R287). -/
namespace Sys2Proof.Machine

/-! ## Homes -/

/-- A write at these keys has been performed: the tiles it touches take note (R213). -/
def State.noteKeys (s : State) (ks : List Nat) (poisoned : Bool) : State :=
  match ks with
  | [] => s
  | k :: _ => match spadOf k with
    | some c => s.noteWrite c (k - spadKey c 0) ks.length poisoned
    | none => s

/-! ## The counter (Table 16.6a) -/

def counterKeys (k : Nat) : List Nat := range k 16

structure PhaseCtr where
  phase : Nat
  e : Nat
  a : Nat
  trigger : Nat
  deriving DecidableEq, Repr

def State.counter (s : State) (k : Nat) : PhaseCtr :=
  let w := s.readNat (counterKeys k)
  { phase := bits w 31 0, e := bits w 63 32, a := bits w 95 64, trigger := bits w 127 96 }

def PhaseCtr.bytes (p : PhaseCtr) : List Nat := toBytes 4 p.phase ++ toBytes 4 p.e ++ toBytes 4 p.a ++ toBytes 4 p.trigger

/-- Write a counter in place; its mark stays. -/
def State.setCounter (s : State) (k : Nat) (p : PhaseCtr) : State :=
  (s.writeKeys (counterKeys k) p.bytes).noteKeys (counterKeys k) false

def State.marked (s : State) (k : Nat) : Bool := s.marks.contains k

/-- The trigger token of a completion (R285). -/
def triggerToken (p : PhaseCtr) : Token :=
  { plainToken (2 ^ 56 * bits p.trigger 8 1 + p.phase % 256) (bits p.trigger 30 19) (bits p.trigger 18 13)
      (bits p.trigger 12 11) (bits p.trigger 10 9) 0 .data 0 p.phase with mark := 0 }

/-- A trigger is registered at its core by the slot, context and frame it names (R351). -/
def State.register (s : State) (trigger : Nat) : State :=
  if !bit trigger 31 then s
  else
    let c := s.core (bits trigger 30 19)
    let t := (bits trigger 18 13, bits trigger 10 9, bits trigger 8 1)
    s.setCore (bits trigger 30 19) { c with triggers := t :: c.triggers.erase t }

/-- A registration ends when its phase completes. -/
def State.unregister (s : State) (trigger : Nat) : State :=
  let c := s.core (bits trigger 30 19)
  let t := (bits trigger 18 13, bits trigger 10 9, bits trigger 8 1)
  s.setCore (bits trigger 30 19) { c with triggers := c.triggers.erase t }

/-- Whether arrivals fall in the home cycle in which the counter has just completed a phase, which drops them with its surplus
(R284): of two happenings next to each other the model leaves it free (log 87). -/
def State.sameCycle (s : State) (k : Nat) : State × Bool :=
  if s.lastDone = some (k, (s.ticks - 1).toNat) then
    let (v, t) := s.takeFree
    if v % 2 = 1 then ({ t with lastDone := some (k, s.ticks.toNat) }, true) else (t, false)
  else (s, false)

/-- A cycle of a counter's home with these arrivals, and a completion where they reach the expectation. The expectations of a
cycle come after it. The trigger of a counter in another package goes to a core there (R285, R297, log 10). -/
def State.homeCycle (s : State) (k arrivals : Nat) : State :=
  let p := s.counter k
  let a := Nat.min (p.a + arrivals) (2 ^ 32 - 1)
  if p.e ≠ 0 ∧ p.e ≤ a then
    let q := { p with phase := (p.phase + 1) % 2 ^ 32, a := 0, e := 0 }
    let t := ({ s with lastDone := some (k, s.ticks.toNat) } : State).setCounter k q
    if bit p.trigger 31 ∧ s.nodeOf k < 2 ^ 16 then (t.unregister p.trigger).send (homeOf k) (triggerToken q) else t
  else if arrivals = 0 then s
  else s.setCounter k { p with a := a }

/-- Arrivals at a counter (R284): a poisoned one performs nothing. -/
def State.cycle (s : State) (k arrivals : Nat) : State :=
  if s.poisonedAt (counterKeys k) then s
  else if arrivals = 0 then s.homeCycle k 0
  else match s.sameCycle k with
    | (t, true) => t
    | (t, false) => t.homeCycle k arrivals

/-- An expectation; it never completes a phase in its own cycle (R284). -/
def State.expectMore (s : State) (k n : Nat) : State :=
  let p := s.counter k
  s.setCounter k { p with e := Nat.min (p.e + n) (2 ^ 32 - 1) }

/-- PHASE_COMPLETION: a cycle of the counter's home, which no held vault has, in which nothing new arrives (R284, R366). -/
def execPhaseCompletion (key : Nat) (s : State) : Host.Outcome State Fault Refusal :=
  .next (if s.marked key && !vaultHeld s (counterKeys key) then s.cycle key 0 else s).tick

/-! ## The phase commands (R286) -/

/-- The key of the counter a phase command names, with the checks of R286 and R267; a counter lies in no device window
(log 86). -/
def counterOperand (s : State) (r a core ctx : Nat) (reserved : Bool) : Res Nat := do
  let addr := (s.getX r a).toNat
  need (addr % 16 == 0 && !reserved) .illegal
  if addr / 2 ^ 60 ≤ 1 then
    let c ← coreOperand s r core
    if addr / 2 ^ 60 = 0 then
      ctxOperand s [c] ctx
      let ks ← ofAcc addr (resolve s (.context c ctx) addr 16 .atomic)
      match tileCheck (s.core c) ctx (addr % 2 ^ 60) 16 true with
      | .ok => .ok (ks.headD 0)
      | .wait _ => .error .wait
      | .prot => .error (.trap (Trap.access .protection addr))
    else
      let ks ← ofAcc addr (resolve s (.context c ctx) addr 16 .atomic)
      .ok (ks.headD 0)
  else
    need (core == 0 && ctx == 0) .illegal
    if addr / 2 ^ 60 = 15 then .error (.trap (Trap.access .protection addr)) else .ok ()
    await (!walkHeld s (.control r) addr 16)
    let ks ← ofAcc addr (resolve s (.control r) addr 16 .atomic)
    await (atomicGoes s (s.region r).heldAt ks)
    .ok (ks.headD 0)

/-- A marked counter that holds no poison; else the fault of R283 or R284. -/
def counterReady (s : State) (r a k : Nat) : Res Unit :=
  if s.poisonedAt (counterKeys k) then .error (.trap (Trap.access .protection (s.getX r a).toNat true))
  else need (s.marked k) .illegal

/-- A phase command (R98, R286): one that a held vault keeps waiting keeps its place there (R366). -/
def phaseCommand (a : Nat) (s : State) (f : State → Res State) : Host.Outcome State Fault Refusal :=
  let r := s.turn
  let m := s.drain r
  let addr := (s.getX r a).toNat
  match (if s.drains r then f m else .error .wait), resolve m (.control r) addr 16 .atomic with
  | .error .wait, .ok ks =>
    finish (if s.drains r && addr % 16 == 0 && !atomicGoes m (s.region r).heldAt ks then m.holdAtomic r ks else m) r (.error .wait)
  | out, _ => finish m r out

/-- The request of a phase command to the counter's home (R279, R305). -/
def State.askPhase (s : State) (k : Nat) (a : Access0) : State := s.askControl s.turn (s.nodeOf k) a

/-- `pcinit` (R286). -/
def execPcinit (a b core ctx : Nat) (s : State) : Host.Outcome State Fault Refusal :=
  phaseCommand a s (fun s => do
    let r := s.turn
    let v := (s.getX r b).toNat
    let t := v / 2 ^ 32
    need (bits t 18 18 == 0 && !bit t 0) .illegal
    let k ← counterOperand s r a core ctx false
    let p : PhaseCtr := { phase := 0, e := v % 2 ^ 32, a := 0, trigger := t }
    let s := ((s.askPhase k .atomic).store (counterKeys k) p.bytes).noteKeys (counterKeys k) false
    .ok (({ s with marks := insertNat s.marks k } : State).register t))

/-- The count of a phase command: 1 to 2^32 - 1, its upper half zero. -/
def badCount (v : Word) : Bool := v.toNat == 0 || 2 ^ 32 ≤ v.toNat

/-- `pcarrive` (R286, R284). -/
def execPcarrive (a b core ctx : Nat) (s : State) : Host.Outcome State Fault Refusal :=
  phaseCommand a s (fun s => do
    let r := s.turn
    let k ← counterOperand s r a core ctx (badCount (s.getX r b))
    counterReady s r a k
    .ok ((s.askPhase k .atomic).cycle k (s.getX r b).toNat))

/-- `pcexpect` (R286, R284). -/
def execPcexpect (a b core ctx : Nat) (s : State) : Host.Outcome State Fault Refusal :=
  phaseCommand a s (fun s => do
    let r := s.turn
    let k ← counterOperand s r a core ctx (badCount (s.getX r b))
    counterReady s r a k
    .ok ((s.askPhase k .atomic).expectMore k (s.getX r b).toNat))

/-- `pcwait` (R286). -/
def execPcwait (a b core ctx : Nat) (s : State) : Host.Outcome State Fault Refusal :=
  phaseCommand a s (fun s => do
    let r := s.turn
    let v := (s.getX r b).toNat
    let k ← counterOperand s r a core ctx (decide (2 ^ 32 ≤ v))
    counterReady s r a k
    await ((s.counter k).phase != v)
    .ok (s.askPhase k .phase))

end Sys2Proof.Machine
end

