-- ==== Sys2Proof/Machine/Divert.lean ====
section
/-! DEFINITION. Diversion (R339-R341): the entries of a core, the proof log of an absent image, and its records. -/
namespace Sys2Proof.Machine

/-! ## Entries -/

def State.div (s : State) (core e : Nat) : Option Divert := sfind (s.core core).divs e

def State.setDiv (s : State) (core e : Nat) (d : Divert) : State :=
  s.setCore core { s.core core with divs := sput (s.core core).divs e d }

def State.dropDiv (s : State) (core e : Nat) : State :=
  s.setCore core { s.core core with divs := sdel (s.core core).divs e }

/-- The entry of the image last saved from a slot (Table 21.8). -/
def Core.lastImage (k : Core) (x : Nat) : Option Nat :=
  ((k.divs.filter (fun (p : Nat × Divert) => p.2.slot == x)).foldl (fun (best : Option (Nat × Divert)) p =>
    match best with
    | none => some p
    | some b => if b.2.since ≤ p.2.since then some p else some b) none).map (·.1)

/-- Whether a save of a slot has passed its switch-out point and not sealed (R336). -/
def Core.saving (k : Core) (x : Nat) : Bool :=
  (sfind k.saves x).isSome

/-- The entry that takes what arrives for a slot, from the switch-out point until an image is back (R336, R340). -/
def Core.away (k : Core) (x : Nat) : Option Nat :=
  if (k.ctx x).slot = .vacant || k.saving x then k.lastImage x else none

/-- The reserved bits of tcause for absent work (Table 21.10). -/
def State.absentBits (s : State) (core : Nat) (entry : Option Nat) : Nat :=
  match entry with
  | none => 0
  | some e => match s.div core e with
    | some d => 2 ^ 48 * d.cxid + 2 ^ 31 + 2 ^ 17 * e
    | none => 0

/-! ## Records (R341) -/

/-- Whether an append of `n` data bytes waits for its tables or its home (R281). -/
def State.recordHeld (s : State) (core e n : Nat) : Bool :=
  match s.div core e with
  | none => false
  | some d =>
    let size := 32 * (1 + (n + 31) / 32)
    let addr := d.proof.toNat + 32 * d.used
    walkHeld s (.control (regionOf core)) addr size || (match resolve s (.control (regionOf core)) addr size .write with
      | .ok ks => vaultHeld s ks
      | .error _ => false)

/-- Append a record: none where the log has no room or the write fails its checks. -/
def State.appendRecord (s : State) (core e kind off mask r2 : Nat) (data : List Nat) : Option State :=
  match s.div core e with
  | none => none
  | some d =>
    let g := (data.length + 31) / 32
    if d.size < d.used + 1 + g then none
    else match resolve s (.control (regionOf core)) (d.proof.toNat + 32 * d.used) (32 * (1 + g)) .write with
      | .error _ => none
      | .ok ks =>
        let r0 := 2 ^ 32 * (d.seq % 2 ^ 32) + 2 ^ 28 * kind + 2 ^ 23 * g + off
        let bs := toBytes 8 r0 ++ toBytes 8 mask ++ toBytes 8 r2 ++ toBytes 8 0 ++ data ++
          List.replicate (32 * g - data.length) 0
        some (((s.store ks bs).setDiv core e { d with seq := (d.seq + 1) % 2 ^ 32, used := d.used + 1 + g }).countEvent
          core 19 d.slot 1)

/-- PROOF-FULL, once until full is cleared (R341). -/
def State.proofFull (s : State) (core e : Nat) : State :=
  match s.div core e with
  | none => s
  | some d =>
    if d.full then s
    else
      let t := { Trap.engine FaultCode.proofFull.code core d.slot 0 (2 ^ 32 * d.used + d.size) 0 with
        extra := s.absentBits core (some e) }
      (s.setDiv core e { d with full := true }).raiseAsync (regionOf core) t

/-- Whether `dvclr` drops what lands for an image (R339). -/
def State.dropping (s : State) (core e : Nat) : Bool :=
  match s.div core e with
  | some d => d.dropping
  | none => true

/-- Divert one arrival; false where it is held. What lands for an image that `dvclr` discards is dropped. -/
def State.divert (s : State) (core e kind off mask r2 : Nat) (data : List Nat) : State × Bool :=
  if s.dropping core e then (s, true)
  else if s.recordHeld core e data.length then (s, false)
  else match s.appendRecord core e kind off mask r2 data with
    | some t => (t, true)
    | none => (s.proofFull core e, false)

/-- Divert a write or an add of bytes at scratchpad offsets of one 64-byte line (Table 21.9). -/
def State.divertLine (s : State) (core e kind extra : Nat) (offs bytes : List Nat) (poison : List Bool) : State × Bool :=
  let base := offs.headD 0 / 64 * 64
  let here := (offs.map (· - base)).zip bytes
  let bad := (offs.zip poison).foldl (fun m p => if p.2 then m ||| 2 ^ (56 + p.1 % 64 / 8) else m) 0
  s.divert core e kind base (here.foldl (fun m b => m ||| 2 ^ b.1) 0) (bad + extra)
    ((range 0 64).map (fun j => ((here.find? (fun b => b.1 == j)).map (·.2)).getD 0))

/-- Bytes and their poison at memory keys become visible: data first, then the poison of the units poisoned bytes touch
(R253, R280). -/
def State.land (s : State) (ks bs : List Nat) (ps : List Bool) : State :=
  (s.storeMarked ks bs ps).noteKeys ks ((ks.zip ps).any (·.2))

end Sys2Proof.Machine
end

