-- ==== Sys2Proof/Machine/FabricFlow.lean ====
section
/-! DEFINITION. STEER, RED and TAG instructions of the fabric (09): selection, reduction, tag fields, sequencing. -/
namespace Sys2Proof.Machine

/-! ## What TAG words do to a train (R201-R205) -/

/-- Field `k` of a tag (Table 2.4). -/
def tagField (tag k : Nat) : Nat := bits tag (8 * k + 7) (8 * k)

/-- A tag with field `k` replaced. -/
def setField (tag k v : Nat) : Nat := tag - 2 ^ (8 * k) * tagField tag k + 2 ^ (8 * k) * (v % 256)

/-- Whether every field from `k` to f6 is zero. -/
def fieldsZero (tag k : Nat) : Bool := (range k (7 - k)).all (fun j => tagField tag j == 0)

/-- push and pop of R30 on the fields; the frame byte stays. -/
def pushTag (tag : Nat) : Nat := 2 ^ 56 * frameOf tag + (tag % 2 ^ 48) * 256

def popTag (tag : Nat) : Nat := 2 ^ 56 * frameOf tag + tag % 2 ^ 56 / 256

/-- The depth of the frame of a tag. -/
def frameDepth (s : State) (c tag : Nat) : Nat :=
  match (s.core c).frame (frameOf tag) with
  | some f => f.depth
  | none => 0

/-- What push, pop, inc and chk make of a tag, or their fault (Table 9.4). -/
def tagEffect (w : FWord) (b : Block) (depth tag : Nat) : Except FaultCode Nat :=
  let n := bits w.imm 2 0
  match w.sub with
  | 0 => if depth < n then .error .tagDepth else if !fieldsZero tag (n - 1) then .error .tagCheck else .ok (pushTag tag)
  | 1 => if depth < n then .error .tagDepth else if !fieldsZero tag n then .error .tagCheck else .ok (popTag tag)
  | 2 => if depth ≤ n then .error .tagDepth else .ok (setField tag n (tagField tag n + 1))
  | _ =>
    let v := b.param (bits w.imm 7 3)
    if depth ≤ n then .error .tagDepth
    else if (tagField tag n ^^^ bits v 7 0) &&& bits v 15 8 != 0 then .error .tagCheck else .ok tag

/-- A count train: two w32 lanes, the others 0 (log 16). -/
def countTrain (tag g r : Nat) : Train :=
  { kind := .data, fmt := 0, tag := tag,
    lanes := freshInt 8 g :: freshInt 8 r :: List.replicate (lanesOf 0 - 2) (freshInt 8 0) }

/-- The count of a cnt word after a data train, and its N (R203). -/
def cntAfter (w : FWord) (b : Block) (m : Elem) (a : Train) : Nat × Nat :=
  (m.count + (if bit w.imm 8 then (a.lanes.filter (fun l => l != .absent)).length else 1),
    bits (b.param (bits w.imm 7 0)) 31 0)

/-- The token a seq word sends for a data train (R204). -/
def seqToken (w : FWord) (b : Block) (c x i : Nat) (a : Train) : Token :=
  let at' := bits w.imm 7 0
  let h := b.param at'
  let words := (range 1 4).flatMap (fun k => [bits (b.param (at' + k)) 31 0, bits (b.param (at' + k)) 63 32])
  let patch := bits h 13 10
  let words := if patch < 8 then
    setNth words patch ((nth 0 words patch + wrapInt 32 (intOf (a.lane 0)).1) % 2 ^ 32) else words
  { tag := a.tag, core := c, slot := bits h 5 0, port := bits h 7 6, ctx := x, fmt := 0, kind := .data, mark := 0,
    cls := bits h 9 8, len := 1, inl := 32, payload := words.flatMap (toBytes 4) ++ List.replicate 32 0,
    sender := some i }

/-- Whether a seq element may send its token now; else its context stalls as a unit (R204). -/
def State.seqMay (s : State) (c : Nat) (t : Token) : Bool := s.canSend c t.dest

/-- A seq element's token leaves; one that has waited for the network has waited since then (R290). -/
def State.seqSend (s : State) (c x i : Nat) (t : Token) : State :=
  (s.sendSourced ((s.ctx c x).elem i).sendSince (packetOf c t)).modCtx c x
    (fun k => k.setElem i { k.elem i with sendSince := none })

/-- A seq element's token waits, and its context with it (R204, R290). -/
def State.seqWait (s : State) (c x i : Nat) : State :=
  (s.modCtx c x (fun k => k.setElem i { k.elem i with sendSince := some ((k.elem i).sendSince.getD s.ticks.toNat) })).setLate c x i 1

/-- Whether a seq word patches its payload with a lane that is no integer (R204). -/
def seqPatchBad (w : FWord) (b : Block) (a : Train) : Bool := bits (b.param (bits w.imm 7 0)) 13 10 < 8 && !isInt a.fmt

/-- A mark word passes a train of an instance: the event counts, and immediate [0] marks the firing (R205, R355). -/
def State.passMark (s : State) (w : FWord) (c x inst : Nat) : State :=
  let s1 := s.countEvent c 6 x 1
  let marked := match (s.ctx c x).inst inst with
    | some n => n.marked
    | none => true
  if !bit w.imm 0 || marked then s1
  else if (s.core c).following.isNone then
    let s2 := s1.modInst c x inst (fun n => { n with marked := true })
    s2.setCore c { s2.core c with following := some (x, inst) }
  else s1.countEvent c 21 x 1

/-! ## The frame of a flow word -/

/-- What a flow word used as a fallback makes of a steered train (R150): its other ports are absent, so a train decision is
false and a packing or flush word gives the null of its position; a word that keeps the tag gives nothing the mask could
take. -/
def flowFallback (w : FWord) (c x i : Nat) (b : Block) (s : State) (r : Steer) (h : Timed) : Fallback :=
  let t := r.train
  let null := Fallback.back s (some (kindTrain .null t.fmt t.tag)) 0 0
  let kept := Fallback.back s none 0 0
  let tagged := match tagEffect w b (frameDepth s c t.tag) t.tag with
    | .error f => Fallback.fault f
    | .ok _ => kept
  match w.kind, w.sub with
  | 6, 1 => null
  | 6, 4 => null
  | 6, 5 => null
  | 7, 0 => null
  | 7, 1 => null
  | 7, 2 => null
  | 7, 5 => null
  | 10, 0 => tagged
  | 10, 1 => tagged
  | 10, 2 => tagged
  | 10, 4 => tagged
  | 10, 5 =>
    let m := (s.ctx c x).elem i
    let m := if m.inst = h.inst then m else m.rest h.inst
    let (k, n) := cntAfter w b m t
    if n ≤ k then .back (s.setElem c x i { m with count := k % n }) (some (countTrain t.tag (k / n) 0)) 0 0
    else .back (s.setElem c x i { m with count := k }) (some (kindTrain .null 0 t.tag)) 0 0
  | 10, 6 =>
    let tok := seqToken w b c x i t
    if seqPatchBad w b t then .fault .formatUnaccepted
    else if s.seqMay c tok then .back (s.seqSend c x i tok) none 0 0 else .wait s
  | 10, 7 => .back (s.passMark w c x h.inst) none 0 0
  | _, _ => kept

/-- A body of a flow word: it takes the heads of every port. -/
abbrev FlowBody := FWord → State → Block → Nat → Nat → Nat → List (Nat × Timed) → State

/-- What a word does with a train steered to it. -/
abbrev FallbackBody := FWord → Nat → Nat → Nat → Block → State → Steer → Timed → Fallback

/-- One step of an element with a flow word: the element of State.cur. -/
def flowStep (kind sub : Nat) (f : Fab) (fallback : FallbackBody) (body : FlowBody) (s : State) :
    Host.Outcome State Fault Refusal :=
  let w : FWord := { kind := kind, sub := sub, f := f }
  let c := s.cur.core
  let x := s.cur.ctx
  let i := s.cur.idx
  let s := s.freshElem c x i
  let s' := match prelude w s c x i with
    | .done s' => s'
    | .go b hs => body w s b c x i hs
    | .idle =>
      match (s.ctx c x).block with
      | some b => if b.isFallback i then runFallback w (fallback w c x i b) s c x i else s
      | none => s
  .next s'.tick

/-- One step of an element with a STEER, RED or TAG word. -/
def flowElement (kind sub : Nat) (f : Fab) (body : FlowBody) (s : State) : Host.Outcome State Fault Refusal :=
  flowStep kind sub f flowFallback body s

def allEos (hs : List (Nat × Timed)) : Bool := hs.all (fun h => isEos h.2)

/-- The train at a port of the firing; an absent one where the port is not taken. -/
def trainAt (hs : List (Nat × Timed)) (p : Nat) : Train :=
  match headAt hs p with
  | some t => t.train
  | none => kindTrain .null 0 0

/-- A train to every target, in the position of its input. -/
def toAll (t : Train) : Out := { off := 0, which := 0, train := t, lf := [] }

/-- A train to target A or target B alone. -/
def toOne (which : Nat) (t : Train) : Out := { off := 0, which := which, train := t, lf := [] }

/-- EOS in the train position after this one (R184). -/
def eosNext (fmt tag : Nat) : Out := { off := 2, which := 0, train := kindTrain .eos fmt tag, lf := [] }

/-- Take the heads, set the element's state, and send. -/
def stepElem (s : State) (b : Block) (w : FWord) (c x i : Nat) (hs : List (Nat × Timed)) (m : Elem) (flags : Nat)
    (outs : List Out) : State :=
  emitOne s ((s.popData c x i hs).setElem c x i { m with inst := instOf hs }) b w c x i hs flags outs

/-- Take EOS from every port, rest, and send. -/
def endElem (s : State) (b : Block) (w : FWord) (c x i : Nat) (hs : List (Nat × Timed)) (flags : Nat)
    (outs : List Out) : State :=
  emitOne s ((s.popAll c x i hs).restElem c x i) b w c x i hs flags outs

/-- A train decision: lane 0 of the p train is nonzero (R186). -/
def decision (p : Train) : Bool := (intOf (p.lane 0)).1 != 0

/-- A flow word with no state: EOS passes; else `outs` on the kind of the firing. -/
def lockStep (outs : TokenKind → List (Nat × Timed) → List Out) : FlowBody := fun w s b c x i hs =>
  if allEos hs then passEos s b w c x i (fmtOf hs) hs
  else emitOne s (s.popData c x i hs) b w c x i hs 0 (outs (firingKind hs) hs)

/-- A train of one kind alone to every target. -/
def kindOut (k : TokenKind) (hs : List (Nat × Timed)) : List Out := [toAll (kindTrain k (fmtOf hs) (tagOf hs))]

/-! ## STEER (R186-R188) -/

/-- sel: the governing p lane chooses the lane; an absent one gives an absent lane. -/
def selOuts (k : TokenKind) (hs : List (Nat × Timed)) : List Out :=
  if k ≠ .data then kindOut k hs
  else
    let a := trainAt hs 0
    let b := trainAt hs 1
    let p := trainAt hs 3
    let lane (j : Nat) : Lane := match govLane p (laneBits a.fmt) j with
      | .absent => .absent
      | l => if a.lane j = .absent ∨ b.lane j = .absent then .absent else if (intOf l).1 != 0 then a.lane j else b.lane j
    [toAll { kind := .data, fmt := a.fmt, lanes := (range 0 (lanesOf a.fmt)).map lane, tag := a.tag }]

/-- route: the train to the chosen target, null to the other; a null or poison train at either port gives one on both
(R159, R185, R187). -/
def routeOuts (k : TokenKind) (hs : List (Nat × Timed)) : List Out :=
  let a := trainAt hs 0
  let null := kindTrain .null a.fmt a.tag
  if k ≠ .data then kindOut k hs
  else if decision (trainAt hs 3) then [toOne 1 a, toOne 2 null] else [toOne 1 null, toOne 2 a]

/-- merge: the chosen input passes, whatever its kind. -/
def mergeOuts (k : TokenKind) (hs : List (Nat × Timed)) : List Out :=
  let p := trainAt hs 3
  if p.kind = .data then [toAll (if decision p then trainAt hs 0 else trainAt hs 1)] else kindOut k hs

/-- fan: copies, unchanged. -/
def fanOuts (_k : TokenKind) (hs : List (Nat × Timed)) : List Out := [toAll (trainAt hs 0)]

/-- gate: a on true, null on false; poison at either port gives poison (R159, R185). -/
def gateOuts (k : TokenKind) (hs : List (Nat × Timed)) : List Out :=
  if k ≠ .data then kindOut k hs
  else if decision (trainAt hs 3) then [toAll (trainAt hs 0)] else kindOut .null hs

/-- A full train of packed lanes, the rest absent. -/
def packTrain (fmt tag : Nat) (ls : List Lane) : Train :=
  let n := lanesOf fmt
  { kind := .data, fmt := fmt, lanes := ls.take n ++ List.replicate (n - ls.length) .absent, tag := tag }

/-- filt: the kept lanes are packed (R184). -/
def filtBody : FlowBody := fun w s b c x i hs =>
  let m := (s.ctx c x).elem i
  let fmt := fmtOf hs
  let tag := tagOf hs
  if allEos hs then
    -- a partly filled output takes the position of EOS; its format is that of its lanes
    if m.acc.isEmpty then passEos s b w c x i fmt hs
    else endElem s b w c x i hs 0 [toAll (packTrain m.limit tag m.acc), eosNext fmt tag]
  else match firingKind hs with
    | .poison => stepElem s b w c x i hs m 0 (kindOut .poison hs)
    | .null => stepElem s b w c x i hs m 0 (kindOut .null hs)
    | _ =>
      let a := trainAt hs 0
      let p := trainAt hs 3
      let kept := (range 0 (lanesOf a.fmt)).filter (fun j =>
        a.lane j != .absent && (intOf (govLane p (laneBits a.fmt) j)).1 != 0)
      let acc := m.acc ++ kept.map a.lane
      let n := lanesOf a.fmt
      if n ≤ acc.length then
        stepElem s b w c x i hs { m with acc := acc.drop n, limit := a.fmt } 0 [toAll (packTrain a.fmt tag acc)]
      else stepElem s b w c x i hs { m with acc := acc, limit := a.fmt } 0 (kindOut .null hs)

/-- sel (R187). -/
def execFSel (w : Fab) (s : State) : Host.Outcome State Fault Refusal := flowElement 6 0 w (lockStep selOuts) s

/-- route (R187). -/
def execFRoute (w : Fab) (s : State) : Host.Outcome State Fault Refusal := flowElement 6 1 w (lockStep routeOuts) s

/-- merge (R187). -/
def execFMerge (w : Fab) (s : State) : Host.Outcome State Fault Refusal := flowElement 6 2 w (lockStep mergeOuts) s

/-- fan (R188). -/
def execFFan (w : Fab) (s : State) : Host.Outcome State Fault Refusal := flowElement 6 3 w (lockStep fanOuts) s

/-- filt (R187). -/
def execFFilt (w : Fab) (s : State) : Host.Outcome State Fault Refusal := flowElement 6 4 w filtBody s

/-- gate (R187). -/
def execFGate (w : Fab) (s : State) : Host.Outcome State Fault Refusal := flowElement 6 5 w (lockStep gateOuts) s

/-! ## RED (R189-R191) -/

/-- An exact float addition rounded to odd at 4n bits, as a fresh lane (R189); specials and zeros as R139 gives. -/
def oddSum (fmt : Nat) (a b : Lane) : Lane × Nat :=
  let n := digits fmt
  let ts := [termOf n a, termOf n b]
  if ts.any (fun t => t.isNan || t.isInf) || ts.all Term.isZero then sumLane fmt false ts false
  else
    let v := (termOf n a).v.add (termOf n b).v
    (if v.isZero then .flt (-511) 0 0 else freshFlt n v, 0)

/-- One combining step: 0 sum, 1 max, 2 min (R189). -/
def redStep (op fmt : Nat) (a b : Lane) : Lane × Nat :=
  if op = 0 then
    if isInt fmt then addLanes fmt false [(a, false), (b, false)] else oddSum fmt a b
  else (minMax fmt (op == 2) a b, 0)

/-- A lane as RED takes it: max and min follow the signedness bit (R167, R189). -/
def redLane (w : FWord) (op fmt : Nat) (l : Lane) : Lane := readLane fmt (w.uns && op != 0) l

/-- The identity of an operation (R189). -/
def identity (op fmt : Nat) (uns : Bool) : Lane :=
  if isInt fmt then
    freshInt (digits fmt) (if op = 0 then 0 else if op = 1 then intMin (memBits fmt) uns else intMax (memBits fmt) uns)
  else if op = 0 then .spec (.zero false) else .spec (.inf (op == 1))

/-- A lane as an element of delay 2 emits it: fresh (R141). -/
def refresh (fmt : Nat) (l : Lane) : Lane :=
  match l with
  | .int v _ => freshInt (digits fmt) v
  | .flt _ _ _ =>
    let v := (termOf (digits fmt) l).v
    if v.isZero then l else freshFlt (digits fmt) v
  | l => l

/-- A lane that starts a running value: a NaN is canonical, and a signalling one is invalid in a sum (R65, R160, R167). -/
def startLane (op fmt : Nat) (l : Lane) : Lane × Nat :=
  match l with
  | .spec (.nan signalling _) => (nanLane fmt, if op = 0 && signalling then fInvalid else 0)
  | l => (l, 0)

/-- Combine present lanes with running lanes, index by index. -/
def foldLanes (op fmt : Nat) : List Lane → List Lane → List Lane × Nat
  | [], ls => ((ls.map (startLane op fmt)).map (·.1), ls.foldl (fun f l => f ||| (startLane op fmt l).2) 0)
  | as, [] => (as, 0)
  | a :: as, l :: ls =>
    let (r, f) := if a = .absent then startLane op fmt l else if l = .absent then (a, 0) else redStep op fmt a l
    let (rs, g) := foldLanes op fmt as ls
    (r :: rs, f ||| g)

/-- Combine present lanes into one, in ascending order. -/
def acrossLanes (op fmt : Nat) (ls : List Lane) : Lane × Nat :=
  ls.foldl (fun r l => if l = .absent then r
    else
      let (v, f) := if r.1 = .absent then startLane op fmt l else redStep op fmt r.1 l
      (v, r.2 ||| f)) (.absent, 0)

/-- The format of the identity train: EOS's where the word accepts it, else the lowest accepted tag. -/
def identityFmt (w : FWord) (fmt : Nat) : Nat :=
  if w.accepts fmt then fmt else ((range 0 8).find? (fun t => w.accepts t)).getD fmt

/-- sum, max and min: a flush (R189). The running lanes of trains of two tags are free lanes: the spec combines one
format only (log 6). -/
def redBody (op : Nat) : FlowBody := fun w s b c x i hs =>
  let m := (s.ctx c x).elem i
  let a := trainAt hs 0
  let tag := a.tag
  if allEos hs then
    let fmt := if m.started then m.limit else identityFmt w a.fmt
    if m.poisoned then endElem s b w c x i hs 0 [outKind .poison fmt tag, eosNext fmt tag]
    else
      let across := bit w.imm 8
      let id := identity op fmt w.uns
      let (ls, f) := if !m.started then (if across then [id] else List.replicate (lanesOf fmt) id, 0)
        else if across then
          let (l, f) := acrossLanes op fmt m.acc
          ([l], f)
        else (m.acc, 0)
      endElem s b w c x i hs f [toAll (packTrain fmt tag (ls.map (refresh fmt))), eosNext fmt tag]
  else match a.kind with
    | .poison => stepElem s b w c x i hs { m with poisoned := true } 0 [outKind .poison a.fmt tag]
    | .data =>
      let out := [outKind (if m.poisoned then .poison else .null) a.fmt tag]
      if a.lanes.all (fun l => l == .absent) then stepElem s b w c x i hs m 0 out
      else if m.started && m.limit != a.fmt then
        let (v, s1) := s.takeFree
        let ls := List.replicate (lanesOf a.fmt) (ofPattern a.fmt w.uns v)
        stepElem s1 b w c x i hs { m with acc := ls, limit := a.fmt } 0 out
      else
        let (ls, f) := foldLanes op a.fmt m.acc (a.lanes.map (redLane w op a.fmt))
        stepElem s b w c x i hs { m with started := true, acc := ls, limit := a.fmt } f out
    | _ => stepElem s b w c x i hs m 0 [outKind (if m.poisoned then .poison else .null) a.fmt tag]

/-- sum (R189). -/
def execFRedSum (w : Fab) (s : State) : Host.Outcome State Fault Refusal := flowElement 7 0 w (redBody 0) s

/-- max (R189). -/
def execFRedMax (w : Fab) (s : State) : Host.Outcome State Fault Refusal := flowElement 7 1 w (redBody 1) s

/-- min (R189). -/
def execFRedMin (w : Fab) (s : State) : Host.Outcome State Fault Refusal := flowElement 7 2 w (redBody 2) s

/-- The initial value of a recurrence (R190): the identity, or a parameter word read as R168 reads a threshold. -/
def initialLane (w : FWord) (b : Block) (fmt : Nat) : Lane :=
  if !bit w.imm 8 then identity (bits w.imm 1 0) fmt w.uns
  else
    let v := bits (b.param (bits w.imm 4 2)) 31 0
    if isInt fmt then freshInt (digits fmt) (if w.uns then v else sextNat 32 v)
    else match decodeNum 1 false v with
      | .fin d => freshFlt (digits fmt) d
      | .zero n => .spec (.zero n)
      | .inf n => .spec (.inf n)
      | .nan _ => nanLane fmt

/-- recur: q ⊕ a lane-wise (R190). -/
def recurLanes (op fmt : Nat) (q a : Nat → Lane) : List Lane × Nat :=
  (range 0 (lanesOf fmt)).foldl (fun (r : List Lane × Nat) j =>
    if a j = .absent then (r.1 ++ [.absent], r.2)
    else
      let (l, f) := if op = 0 then addLanes fmt false [(q j, false), (a j, false)] else (minMax fmt (op == 2) (q j) (a j), 0)
      (r.1 ++ [l], r.2 ||| f)) ([], 0)

/-- scan: the inclusive prefix from a carry (R190). -/
def scanLanes (op fmt : Nat) (carry : Lane) (a : Nat → Lane) : List Lane × Nat :=
  let r := (range 0 (lanesOf fmt)).foldl (fun (r : List Lane × Nat × Lane) j =>
    if a j = .absent then (r.1 ++ [.absent], r.2.1, r.2.2)
    else
      let (l, f) := redStep op fmt r.2.2 (a j)
      (r.1 ++ [l], r.2.1 ||| f, l)) ([], 0, carry)
  (r.1, r.2.1)

/-- The train q_k of a recurrence: none where port p is not used. -/
def recurTrain (w : FWord) (b : Block) (i : Nat) (k fmt : Nat) (p : Option Timed) : Option Train :=
  if !b.fed i 3 then none
  else if k < bits w.imm 7 5 + 1 then some (fullTrain fmt (initialLane w b fmt))
  else p.map (·.train)

/-- Drain what the recurrence port still receives for an instance whose EOS has passed (R242). -/
def drainRecur (s : State) (c x i : Nat) : State :=
  match (s.ctx c x).head i 3 with
  | none => s
  | some t =>
    match (s.ctx c x).inst t.inst with
    | none => s.popPort c x i 3 t
    | some n =>
      if !n.owedEos.contains i then s
      else
        let s := s.popPort c x i 3 t
        if isEos t then
          s.modInst c x t.inst (fun n => { n with owedEos := removeNat n.owedEos i, loops := removeNat n.loops i })
        else s

/-- One train of a recur or scan: `a` with the recurrence train where the position takes one (R190). -/
def recurFire (scan : Bool) (w : FWord) (s : State) (b : Block) (c x i : Nat) (hs : List (Nat × Timed)) : State :=
  let m := (s.ctx c x).elem i
  let a := trainAt hs 0
  let fmt := firingTag w [(0, (headAt hs 0).getD default)]
  let q := recurTrain w b i m.count fmt (headAt hs 3)
  let poison := a.kind == .poison || m.poisoned || (match q with
    | some t => t.kind == .poison
    | none => false)
  let m' := { m with count := m.count + 1, poisoned := poison }
  let go (f : Nat) (t : Train) : State := stepElem s b w c x i hs m' f [toAll { t with tag := a.tag }]
  if poison then go 0 (kindTrain .poison fmt a.tag)
  else if a.kind = .null then
    (match q with
      | some t => if t.kind = .data then go 0 t else go 0 (kindTrain .null fmt a.tag)
      | none => go 0 (kindTrain .null fmt a.tag))
  else
    let op := bits w.imm 1 0
    let id := identity op fmt w.uns
    let lane (j : Nat) : Lane := match q with
      | some t => if t.kind = .data && t.lane j != .absent then redLane w op fmt (t.lane j) else id
      | none => id
    let al (j : Nat) : Lane := redLane w op fmt (a.lane j)
    let (ls, f) := if scan then scanLanes op fmt (lane (lanesOf fmt - 1)) al else recurLanes op fmt lane al
    go f { kind := .data, fmt := fmt, lanes := ls, tag := a.tag }

/-- One step of a recur or scan element. Port p is drained first; it is taken from position d on. -/
def recurElement (sub : Nat) (f : Fab) (s : State) : Host.Outcome State Fault Refusal :=
  let w : FWord := { kind := 7, sub := sub, f := f }
  let c := s.cur.core
  let x := s.cur.ctx
  let i := s.cur.idx
  let k0 := s.ctx c x
  match k0.block with
  | none => .next s.tick
  | some b =>
    if k0.slot ≠ .resident ∨ k0.steer.isSome ∧ !b.isFallback i ∨ b.count ≤ i then .next s.tick
    else if b.isFallback i then .next (runFallback w (flowFallback w c x i b) s c x i).tick
    else
      let s := (drainRecur s c x i).freshElem c x i
      let k := s.ctx c x
      let m := k.elem i
      match k.head i 0 with
      | none => .next s.tick
      | some a =>
        let hs0 : List (Nat × Timed) := [(0, a)]
        match k.fixOf i a.inst with
        | some t => .next (useFix s b w c x i hs0 t).tick
        | none =>
          if isEos a then
            let s1 := if b.fed i 3 then
              s.modInst c x a.inst (fun n => { n with owedEos := insertNat n.owedEos i }) else s
            .next (if m.ended then consumeOn s1 b w c x i hs0 else passEos s1 b w c x i a.train.fmt hs0).tick
          else if m.ended then .next (s.popData c x i hs0).tick
          else match badPort w (firingTag w hs0) hs0 with
            | some (p, t, v) => .next (steer s w c x i p t v).tick
            | none =>
              if b.fed i 3 && bits w.imm 7 5 + 1 ≤ m.count then
                match k.head i 3 with
                | some q =>
                  let hs := [(0, a), (3, q)]
                  match badPort w (firingTag w hs0) hs with
                  | some (p, t, v) => .next (steer s w c x i p t v).tick
                  | none => .next (recurFire (sub == 3) w s b c x i hs).tick
                | none => .next s.tick
              else .next (recurFire (sub == 3) w s b c x i hs0).tick

/-- scan (R190). -/
def execFScan (w : Fab) (s : State) : Host.Outcome State Fault Refusal := recurElement 3 w s

/-- recur (R190). -/
def execFRecur (w : Fab) (s : State) : Host.Outcome State Fault Refusal := recurElement 4 w s

/-- Add one present lane to a run, or end the run and begin another (R191). -/
def runStep (op fmt : Nat) (r : Elem × Nat) (v key : Lane) : Elem × Nat :=
  let m := r.1
  let (v0, f0) := startLane op fmt v
  match m.runVal, m.runKey with
  | some u, some k =>
    if (intOf k).1 = (intOf key).1 then
      let (l, f) := redStep op fmt u v
      ({ m with runVal := some l }, r.2 ||| f)
    else ({ m with acc := m.acc ++ [u], keys := m.keys ++ [k], runVal := some v0, runKey := some key }, r.2 ||| f0)
  | _, _ => ({ m with runVal := some v0, runKey := some key }, r.2 ||| f0)

/-- keyred: completed runs are packed, values to A and keys, as bit [9] has them read, to B (R191). -/
def keyredBody : FlowBody := fun w s b c x i hs =>
  let m := (s.ctx c x).elem i
  let a := trainAt hs 0
  let kt := trainAt hs 1
  let tag := tagOf hs
  let both (k : TokenKind) : List Out := [toOne 1 (kindTrain k a.fmt tag), toOne 2 (kindTrain k kt.fmt tag)]
  let full (fmt kf : Nat) (m : Elem) : List Out :=
    [toOne 1 (packTrain fmt tag (m.acc.map (refresh fmt))), toOne 2 (packTrain kf tag ((m.keys.take (lanesOf fmt)).map (refresh kf)))]
  if allEos hs then
    let m := match m.runVal, m.runKey with
      | some u, some k => { m with acc := m.acc ++ [u], keys := m.keys ++ [k], runVal := none, runKey := none }
      | _, _ => m
    if m.acc.isEmpty then passEos s b w c x i a.fmt hs
    else if m.poisoned then endElem s b w c x i hs 0 (both .poison ++ [eosNext a.fmt tag])
    else endElem s b w c x i hs 0 (full m.limit m.version m ++ [eosNext a.fmt tag])
  else match firingKind hs with
    | .poison => stepElem s b w c x i hs { m with poisoned := true } 0 (both .poison)
    | .null => stepElem s b w c x i hs m 0 (both (if m.poisoned then .poison else .null))
    | _ =>
      let op := bits w.imm 1 0
      let (m', f) := (range 0 (lanesOf a.fmt)).foldl (fun r j =>
        let k := readLane kt.fmt w.uns (kt.lane j)
        if a.lane j = .absent ∨ k = .absent then r else runStep op a.fmt r (redLane w op a.fmt (a.lane j)) k) (m, 0)
      let m' := { m' with limit := a.fmt, version := kt.fmt }
      let n := lanesOf a.fmt
      if n ≤ m'.acc.length then
        stepElem s b w c x i hs { m' with acc := m'.acc.drop n, keys := m'.keys.drop n } f
          (if m'.poisoned then both .poison else full a.fmt kt.fmt m')
      else stepElem s b w c x i hs m' f (both (if m'.poisoned then .poison else .null))

/-- keyred (R191). -/
def execFKeyred (w : Fab) (s : State) : Host.Outcome State Fault Refusal := flowElement 7 5 w keyredBody s

/-! ## TAG (R201-R206) -/

/-- push, pop, inc and chk: trains of every kind pass with their tag changed or checked (R185, R201). -/
def tagBody : FlowBody := fun w s b c x i hs =>
  let a := trainAt hs 0
  match tagEffect w b (frameDepth s c a.tag) a.tag with
  | .error f => s.raise c x i f 0 a.tag 0
  | .ok tag =>
    let out := [toAll { a with tag := tag }]
    if allEos hs then endElem s b w c x i hs 0 out else emitOne s (s.popData c x i hs) b w c x i hs 0 out

/-- push (R201). -/
def execFPush (w : Fab) (s : State) : Host.Outcome State Fault Refusal := flowElement 10 0 w tagBody s

/-- pop (R201). -/
def execFPop (w : Fab) (s : State) : Host.Outcome State Fault Refusal := flowElement 10 1 w tagBody s

/-- inc (R201). -/
def execFInc (w : Fab) (s : State) : Host.Outcome State Fault Refusal := flowElement 10 2 w tagBody s

/-- chk (R201). -/
def execFChk (w : Fab) (s : State) : Host.Outcome State Fault Refusal := flowElement 10 4 w tagBody s

/-- eos: the train at which p is true is the last; EOS follows it, and the rest is consumed (R202). -/
def eosBody : FlowBody := fun w s b c x i hs =>
  let m := (s.ctx c x).elem i
  let a := trainAt hs 0
  let p := trainAt hs 3
  if allEos hs then passEos s b w c x i a.fmt hs
  else if p.kind ≠ .data then stepElem s b w c x i hs m 0 (kindOut (firingKind hs) hs)
  else if decision p then
    stepElem s b w c x i hs { m with ended := true, busy := true } 0 [toAll a, eosNext a.fmt a.tag]
  else stepElem s b w c x i hs m 0 [toAll a]

/-- eos (R202). -/
def execFEos (w : Fab) (s : State) : Host.Outcome State Fault Refusal := flowElement 10 3 w eosBody s

/-- cnt: groups of N (R203). -/
def cntBody : FlowBody := fun w s b c x i hs =>
  let m := (s.ctx c x).elem i
  let a := trainAt hs 0
  if allEos hs then
    if m.count = 0 then passEos s b w c x i 0 hs
    else endElem s b w c x i hs 0 [toAll (countTrain a.tag 0 m.count), eosNext 0 a.tag]
  else match a.kind with
    | .poison => stepElem s b w c x i hs m 0 [outKind .poison 0 a.tag]
    | .data =>
      let (k, n) := cntAfter w b m a
      if n ≤ k then stepElem s b w c x i hs { m with count := k % n } 0 [toAll (countTrain a.tag (k / n) 0)]
      else stepElem s b w c x i hs { m with count := k } 0 [outKind .null 0 a.tag]
    | _ => stepElem s b w c x i hs m 0 [outKind .null 0 a.tag]

/-- cnt (R203). -/
def execFCnt (w : Fab) (s : State) : Host.Outcome State Fault Refusal := flowElement 10 5 w cntBody s

/-- seq: one token a data train, and the train unchanged (R204). -/
def seqBody : FlowBody := fun w s b c x i hs =>
  let a := trainAt hs 0
  if allEos hs then passEos s b w c x i a.fmt hs
  else if a.kind ≠ .data then emitOne s (s.popData c x i hs) b w c x i hs 0 [toAll a]
  else if seqPatchBad w b a then s.raise c x i .formatUnaccepted 0 a.tag 0
  else
    let t := seqToken w b c x i a
    if s.seqMay c t then
      emitOne s (((s.popData c x i hs).notLate c x i).seqSend c x i t) b w c x i hs 0 [toAll a]
    else s.seqWait c x i

/-- seq (R204). -/
def execFSeq (w : Fab) (s : State) : Host.Outcome State Fault Refusal := flowElement 10 6 w seqBody s

/-- mark: trains of every kind pass, each counted (R205). -/
def markBody : FlowBody := fun w s b c x i hs =>
  let a := trainAt hs 0
  let s1 := s.passMark w c x (instOf hs)
  if allEos hs then passEos s1 b w c x i a.fmt hs
  else emitOne s (s1.popData c x i hs) b w c x i hs 0 [toAll a]

/-- mark (R205). -/
def execFMark (w : Fab) (s : State) : Host.Outcome State Fault Refusal := flowElement 10 7 w markBody s

/-- bget: the register's value in the shape of each train (R206). -/
def bgetBody : FlowBody := fun w s b c x i hs =>
  let a := trainAt hs 0
  if allEos hs then passEos s b w c x i a.fmt hs
  else if a.kind ≠ .data then emitOne s (s.popData c x i hs) b w c x i hs 0 [toAll a]
  else
    let v := match (s.ctx c x).inst (instOf hs) with
      | some n => sget 0 n.bank (bits w.imm 5 0)
      | none => 0
    let l := ofPattern a.fmt w.uns v
    emitOne s (s.popData c x i hs) b w c x i hs 0
      [toAll { a with lanes := a.lanes.map (fun q => if q = .absent then .absent else l) }]

/-- bget (R206). -/
def execFBget (w : Fab) (s : State) : Host.Outcome State Fault Refusal := flowElement 10 8 w bgetBody s

end Sys2Proof.Machine
end

