-- ==== Sys2Proof/Machine/FabricMem.lean ====
section
/-! DEFINITION. LD and ST instructions of the fabric (R192-R200), their requests at memory (R281), and late operands
(R35). -/
namespace Sys2Proof.Machine

/-! ## The element of a memory word -/

/-- What a memory element works on. -/
structure MemElem where
  w : FWord
  c : Nat
  x : Nat
  i : Nat
  b : Block
  deriving DecidableEq, Repr, Inhabited

/-- What a memory word does with a train steered to it. -/
abbrev MemFallback := MemElem → State → Steer → Timed → Fallback

/-- A word that reads a stream or a tile gives no one train for the steered one (log 17). -/
def noFallback : MemFallback := fun _ s _ _ => .back s none 0 0

/-- One step of an element with an LD or ST word: the element of State.cur. -/
def memStep (kind sub : Nat) (f : Fab) (fallback : MemFallback) (body : MemElem → State → State) (s : State) :
    Host.Outcome State Fault Refusal :=
  let w : FWord := { kind := kind, sub := sub, f := f }
  let c := s.cur.core
  let x := s.cur.ctx
  let i := s.cur.idx
  let k := s.ctx c x
  .next (match k.block with
    | none => s
    | some b =>
      let e : MemElem := { w := w, c := c, x := x, i := i, b := b }
      if b.count ≤ i ∨ k.slot ≠ Slot.resident then s
      else if b.isFallback i then runFallback w (fallback e) s c x i
      else if k.steer.isSome then s
      else body e s).tick

/-- One step of an element whose word works by itself. -/
def memElement (kind sub : Nat) (f : Fab) (body : MemElem → State → State) (s : State) : Host.Outcome State Fault Refusal :=
  memStep kind sub f noFallback body s

def MemElem.elem (e : MemElem) (s : State) : Elem := (s.ctx e.c e.x).elem e.i

def MemElem.fault (e : MemElem) (s : State) (f : FaultCode) (tag : Nat) : State :=
  s.raise e.c e.x e.i f e.w.detail tag 0

/-- The stream or table of a word's port: immediate [3:0]. -/
def MemElem.port (e : MemElem) : Nat := bits e.w.imm 3 0

/-- Send trains from the element at an advance of its own; those that a verdict gives (`fixed`) raise no fault. -/
def MemElem.emit (e : MemElem) (s0 s : State) (now inst tag flags : Nat) (outs : List Out) (fixed : Bool := false) : State :=
  let m := sendOuts e.b e.w e.c e.x e.i inst now { s := s, flags := flags, err := none } outs
  if fixed then settleFix m e.c e.x inst else settle s0 m e.c e.x e.i e.w inst tag

/-- The tag of an instance. -/
def MemElem.tagIn (e : MemElem) (s : State) (inst : Nat) : Nat :=
  match (s.ctx e.c e.x).inst inst with
  | some n => n.tag
  | none => 0

/-! ## The after port of a source (R192) -/

/-- Whether a train at a port of an LD word is of no use: its instance has read all it reads, or is gone (R192, R194; log 95). -/
def Ctx.stale (k : Ctx) (i : Nat) (t : Timed) : Bool :=
  match k.inst t.inst with
  | some n => n.done.contains i
  | none => true

/-- Consume the trains at the head of a port that are of no use any more. -/
def MemElem.dropStale (e : MemElem) (p : Nat) : Nat → State → State
  | 0, s => s
  | n + 1, s => match (s.ctx e.c e.x).head e.i p with
    | some t => if (s.ctx e.c e.x).stale e.i t then e.dropStale p n (s.popPort e.c e.x e.i p t) else s
    | none => s

/-- The after port, and the descriptor port, of an LD word without such trains. -/
def MemElem.clean (e : MemElem) (s : State) : State :=
  [2, 0].foldl (fun s p => e.dropStale p ((s.ctx e.c e.x).queue e.i p).length s) s

/-- What the after port lets a source do for its next train: go on (with the port's train taken), or wait. Once EOS has
come (`busy`), nothing is waited for. -/
def MemElem.after (e : MemElem) (s : State) : Option State :=
  if !(e.b.ports e.i).contains 2 || (e.elem s).busy then some s
  else match (s.ctx e.c e.x).head e.i 2 with
    | none => none
    | some t => if t.inst ≠ (e.elem s).inst then none
      else if isEos t then some ((s.popPort e.c e.x e.i 2 t).setElem e.c e.x e.i { e.elem s with busy := true })
      else some (s.modCtx e.c e.x (fun k => k.pop e.i 2))

/-- An LD element has sent its output's EOS: it rests, and takes no more of its ports' trains for the instance. -/
def MemElem.endSource (e : MemElem) (s : State) : State :=
  (s.modInst e.c e.x (e.elem s).inst (fun n => { n with done := insertNat n.done e.i })).restElem e.c e.x e.i

/-! ## ld (R193) -/

/-- The checks of `ld` when its stream starts. -/
def ldFmtOk (w : FWord) (p : List Word) : Bool :=
  w.accepts (patFmt p) && (patFmt p == 7 || 2 ^ patSize p % (laneBits (patFmt p) / 8) == 0)

def ldBody (e : MemElem) (s : State) : State :=
  let s := e.clean s
  let m := e.elem s
  let k := s.ctx e.c e.x
  if !m.active then s
  else if k.adv < m.next then s
  else
    let tag := e.tagIn s m.inst
    match k.fixOf e.i m.inst with
    | some t =>
      let s1 := (s.unfix e.c e.x e.i m.inst).setElem e.c e.x e.i { m with next := k.adv + 2 }
      if t.kind = .eos then
        e.endSource (e.emit s s1 k.adv m.inst tag 0 [toAll { t with tag := tag }] true)
      else e.emit s s1 k.adv m.inst tag 0 [toAll { t with tag := tag }] true
    | none =>
      match (s.core e.c).activeEntry e.port with
      | none => s.setLate e.c e.x e.i 0
      | some q =>
        if q.ctx ≠ e.x then e.fault s .illegal tag
        else if patWrites q.pattern ∨ (!m.started && !ldFmtOk e.w q.pattern) then e.fault s .formatUnaccepted tag
        else match e.after s with
          | none => s
          | some s1 =>
            let m1 := e.elem s1
            let r : MemReq := { kind := .read, ctx := e.x, idx := e.i, inst := m.inst, fmt := patFmt q.pattern, mode := 0,
                                uns := e.w.uns, accs := [], tag := tag, due := k.adv + e.w.delay, last := false, lines := 0,
                                entry := none, port := some e.port, got := [], flags := 0, poison := false, waited := Waited.reset }
            ((s1.notLate e.c e.x e.i).setElem e.c e.x e.i { m1 with started := true, next := k.adv + 2 }).postReq e.c r

/-! ## ldt, ldring, ldver (R194) -/

/-- The bytes of one train of a tile's read: fewer at the tile's end (R243). -/
def tileKeys (e : MemElem) (m : Elem) : List Nat :=
  range (spadKey e.c m.pos) (min (trainBytes (bits e.w.imm 7 5)) (m.limit - m.pos))

/-- The train of bytes with their poison. -/
def byteTrain (fmt tag : Nat) (uns : Bool) (bs : List (Nat × Bool)) : Train :=
  if bs.any (·.2) then kindTrain .poison fmt tag
  else { kind := .data, fmt := fmt, lanes := lanesOfBytes fmt uns (bs.map (·.1)), tag := tag }

/-- What the release at the end of a tile's read faults on (R194, R216). -/
def MemElem.endFault (e : MemElem) (s : State) : Option FaultCode :=
  let m := e.elem s
  let t := s.tile e.c m.tile
  if !bit e.w.imm 8 then none
  else if m.lost.isSome || t.readers = 0 || t.state ≠ .ready then some .illegal
  else if t.owner ≠ e.x then some .protection
  else none

/-- The element has emitted a tile's last train: release at end, and the read ends (R194, R216, R262). -/
def MemElem.endTile (e : MemElem) (s : State) : State :=
  let m := e.elem s
  let s1 := if bit e.w.imm 8 && (e.endFault s).isNone then s.releaseTile e.c m.tile else s
  if m.lost.isSome then s1 else s1.endRead e.c m.tile

/-- Whether the descriptor port is an entry slot: the instance then holds one descriptor. -/
def MemElem.oneTile (e : MemElem) : Bool := e.w.sub == 2 || !e.b.fed e.i 0

/-- Emit one train of a tile read; past the last, end the tile and, for an instance of one tile, the stream. -/
def MemElem.tileOut (e : MemElem) (s : State) (t : Train) (more : Bool) (fixed : Bool := false) : State :=
  let m := e.elem s
  let k := s.ctx e.c e.x
  let fmt := bits e.w.imm 7 5
  let tag := e.tagIn s m.inst
  let m1 := { m with next := k.adv + 2, started := more, active := true }
  if more then e.emit s (s.setElem e.c e.x e.i m1) k.adv m.inst tag 0 [toAll t] fixed
  else
    let next := if e.oneTile then k.adv + 4 else k.adv + 2
    let s1 := e.endTile (s.setElem e.c e.x e.i { m1 with buf := [], tries := 0, next := next })
    if e.oneTile then e.endSource (e.emit s s1 k.adv m.inst tag 0 [toAll t, eosNext fmt tag] fixed)
    else e.emit s s1 k.adv m.inst tag 0 [toAll t] fixed

/-- Emit the train of bytes that have been read. -/
def MemElem.tileTrain (e : MemElem) (s : State) (bs : List (Nat × Bool)) (more : Bool) : State :=
  e.tileOut s (byteTrain (bits e.w.imm 7 5) (e.tagIn s (e.elem s).inst) e.w.uns bs) more

/-- What keeps the next bytes of a tile read from being read (R214): the state that waits or faults; none where they may be
read. `last` says that their train is the tile's last, whose release must not fault. -/
def MemElem.readGate (e : MemElem) (s : State) (n : Nat) (last : Bool) : Option State :=
  let m := e.elem s
  let tag := e.tagIn s m.inst
  match m.lost with
  | some waiting => some (e.fault s (if waiting then .translation else .protection) tag)
  | none => match tileCheck (s.core e.c) e.x m.pos n false with
    | .ok => (if last then e.endFault s else none).map (fun f => e.fault s f tag)
    | .wait _ => some (s.setLate e.c e.x e.i 3)
    | .prot => some (e.fault s .protection tag)

/-- The next train of a running tile read. -/
def MemElem.readOn (e : MemElem) (s : State) : State :=
  let m := e.elem s
  let ks := tileKeys e m
  let bs := ks.map (fun k => (s.readByte k, s.poison.contains (k / 8)))
  let pos := m.pos + ks.length
  e.tileTrain (s.setElem e.c e.x e.i { m with pos := pos }) bs (decide (pos < m.limit))

/-- A verdict's train in place of the next train of a running read, or its EOS (R235). -/
def MemElem.fixOn (e : MemElem) (s : State) (t : Train) : State :=
  let m := e.elem s
  let s := s.unfix e.c e.x e.i m.inst
  let n := min (trainBytes (bits e.w.imm 7 5)) (m.limit - m.pos)
  let t := { t with tag := e.tagIn s m.inst }
  if t.kind = .eos then
    let s1 := if m.lost.isSome then s else s.endRead e.c m.tile
    let s2 := s1.setElem e.c e.x e.i { m with started := false, active := true, buf := [], count := 0 }
    e.endSource (e.emit s s2 (s.ctx e.c e.x).adv m.inst t.tag 0 [toAll t] true)
  else
    e.tileOut (s.setElem e.c e.x e.i { m with pos := m.pos + n, buf := m.buf.drop n }) t (decide (m.pos + n < m.limit)) true

/-- The next train of a running read, once its granules may be read and its after port lets it go on. -/
def MemElem.readNext (e : MemElem) (s : State) : State :=
  let m := e.elem s
  let ks := tileKeys e m
  match (s.ctx e.c e.x).fixOf e.i m.inst with
  | some t => e.fixOn s t
  | none => match e.readGate s ks.length (decide (m.limit ≤ m.pos + ks.length)) with
    | some s1 => s1
    | none => match e.after s with
      | none => s
      | some s1 => e.readOn (s1.notLate e.c e.x e.i)

/-- ldver: deliver the next train of a read that matched. -/
def MemElem.verOut (e : MemElem) (s : State) : State :=
  let m := e.elem s
  let n := trainBytes (bits e.w.imm 7 5)
  let rest := m.buf.drop n
  match (if rest.isEmpty then e.endFault s else none) with
  | some f => e.fault s f (e.tagIn s m.inst)
  | none => e.tileTrain (s.setElem e.c e.x e.i { m with buf := rest, count := if rest.isEmpty then 0 else 1 }) (m.buf.take n)
      (!rest.isEmpty)

/-- ldver: read 128 bytes at a time while the context waits; the first read waits for the after port train by train. At
the end compare the version words, and read again up to 8 times more. -/
def MemElem.verRead (e : MemElem) (s : State) : State :=
  let m := e.elem s
  let again (tries : Nat) : Elem :=
    { m with buf := [], pos := m.pos - m.buf.length, tries := tries, version := (s.tile e.c m.tile).version }
  if m.pos < m.limit then
    match e.readGate s (min 128 (m.limit - m.pos)) false, (if m.tries = 0 then e.after s else some s) with
    | some s1, _ => s1
    | none, none => s
    | none, some s =>
      let ks := range (spadKey e.c m.pos) (min 128 (m.limit - m.pos))
      let bs := ks.map (fun k => (s.readByte k, s.poison.contains (k / 8)))
      (s.setElem e.c e.x e.i { e.elem s with pos := m.pos + ks.length, buf := m.buf ++ bs }).setLate e.c e.x e.i 0
  else if (s.tile e.c m.tile).version = m.version then
    e.verOut ((s.setElem e.c e.x e.i { m with count := 1 }).notLate e.c e.x e.i)
  else if m.tries = 8 then
    e.fault ((s.setElem e.c e.x e.i (again 0)).notLate e.c e.x e.i) .versionRetry (e.tagIn s m.inst)
  else (s.setElem e.c e.x e.i (again (m.tries + 1))).setLate e.c e.x e.i 0

/-- A train in the position of a null or poison descriptor, or of a verdict (R192, R194). -/
def MemElem.kindTrainOut (e : MemElem) (s : State) (inst : Nat) (t : Train) (fixed : Bool := false) : State :=
  let k := s.ctx e.c e.x
  let tag := e.tagIn s inst
  let next := if t.kind ≠ .eos ∧ e.oneTile then k.adv + 4 else k.adv + 2
  let s1 := (s.unfix e.c e.x e.i inst).setElem e.c e.x e.i { e.elem s with inst := inst, active := true, next := next }
  if t.kind = .eos then e.endSource (e.emit s s1 k.adv inst tag 0 [toAll { t with tag := tag }] fixed)
  else if e.oneTile then
    e.endSource (e.emit s s1 k.adv inst tag 0 [toAll { t with tag := tag }, eosNext (bits e.w.imm 7 5) tag] fixed)
  else e.emit s s1 k.adv inst tag 0 [toAll { t with tag := tag }] fixed

/-- Begin the read of a tile from a granule: it must be ready, owned by the context, and hold the granule. -/
def MemElem.beginTile (e : MemElem) (s : State) (inst tile g : Nat) : Except State State :=
  let t := s.tile e.c tile
  let tag := e.tagIn s inst
  if t.state ≠ .ready then .error (s.setLate e.c e.x e.i 3)
  else if t.owner ≠ e.x then .error (e.fault s .protection tag)
  else if t.size ≤ g ∨ (e.w.sub = 4 ∧ 64 < t.size - g) then .error (e.fault s .illegal tag)
  else
    let m := e.elem s
    let s1 := (s.notLate e.c e.x e.i).beginRead e.c tile
    .ok (s1.setElem e.c e.x e.i { m with inst := inst, active := true, started := true, tile := tile, pos := 32 * (t.base + g),
                                         limit := 32 * (t.base + t.size), version := t.version, tries := 0, count := 0,
                                         lost := none, buf := [], next := (s.ctx e.c e.x).adv })

/-- ldt and ldver: the running read, or the next descriptor of port a; a descriptor whose read has faulted gives a verdict's train. -/
def tileBody (e : MemElem) (s : State) : State :=
  let s := e.clean s
  let s := if (e.elem s).started then s else s.freshElem e.c e.x e.i
  let k := s.ctx e.c e.x
  let m := e.elem s
  let fmt := bits e.w.imm 7 5
  if k.adv < m.next then s
  else if m.started then
    if e.w.sub ≠ 4 then e.readNext s
    else match k.fixOf e.i m.inst with
      | some t => e.fixOn s t
      | none => if m.count = 1 then e.verOut s else e.verRead s
  else match k.head e.i 0 with
    | none => s
    | some d =>
      let tag := d.train.tag
      let pop (s : State) : State := s.modCtx e.c e.x (fun k => k.pop e.i 0)
      match k.fixOf e.i d.inst, d.train.kind with
      | some t, _ => e.kindTrainOut (if isEos d then s else pop s) d.inst t true
      | none, .eos =>
        let s1 := (s.popPort e.c e.x e.i 0 d).setElem e.c e.x e.i { m with inst := d.inst, active := true, next := k.adv + 2 }
        e.endSource (e.emit s s1 k.adv d.inst tag 0 [toAll (kindTrain .eos fmt tag)])
      | none, .data =>
        if portVerdict e.w fmt 0 d.train ≠ .ok ∨ !e.w.accepts fmt then e.fault s .formatUnaccepted tag
        else
          let l := d.train.lane 0
          let v := wrapInt 32 (intOf l).1
          if l = .absent ∨ !descOk v then e.fault s .illegal tag
          else match e.beginTile s d.inst (descTile v) (descGranule v) with
            | .error s1 => s1
            | .ok s1 => if e.w.sub = 4 then e.verRead (pop s1) else e.readNext (pop s1)
      | none, kd => match e.after s with
        | none => s
        | some s1 => e.kindTrainOut (pop s1) d.inst (kindTrain kd fmt tag)

/-- ldring: the tile of the slot taken at firing (R194, R131). -/
def ringBody (e : MemElem) (s : State) : State :=
  let s := e.clean s
  let k := s.ctx e.c e.x
  let m := e.elem s
  if !m.active then s
  else if k.adv < m.next then s
  else if m.started then e.readNext s
  else match k.fixOf e.i m.inst with
    | some t => e.kindTrainOut s m.inst t true
    | none =>
      if !e.w.accepts (bits e.w.imm 7 5) then e.fault s .formatUnaccepted (e.tagIn s m.inst)
      else match e.beginTile s m.inst m.tile 0 with
        | .error s1 => s1
        | .ok s1 => e.readNext s1

/-! ## Indexed accesses (R195, R198, R200) -/

/-- The heads of a lock-step memory word without its after port. -/
def dataHeads (hs : List (Nat × Timed)) : List (Nat × Timed) := hs.filter (fun h => h.1 != 2)

/-- The index of lane `j` (of a width) from an index train, read by the signedness bit (R195); none where absent. -/
def indexAt (uns : Bool) (t : Train) (width j : Nat) : Option Int :=
  match govLane t width j with
  | .absent => none
  | l => some (intOf (readLane t.fmt uns l)).1

/-- The lanes of port a that an ST writes: present, enabled by the predicate (R196). A poison p train enables all. -/
def enabledLanes (w : FWord) (fmt : Nat) (a p : Option Train) : List Nat :=
  (range 0 (lanesOf fmt)).filter (fun j =>
    (match a with
      | some t => t.kind == .poison || t.lane j != .absent
      | none => false) &&
    (match p with
      | some t => if w.predicated && t.kind == .data then
          (match govLane t (laneBits fmt) j with
            | .absent => false
            | l => ((intOf l).1 != 0) == (w.f.pred == 1)) else true
      | none => true))

/-- Other words of the block that name an st's port share its stream (R371). -/
def MemElem.shares (e : MemElem) : Bool :=
  (range 0 e.b.count).any (fun j => j != e.i && (e.b.word j).kind == 9 && (e.b.word j).sub == 0 && bits (e.b.word j).imm 3 0 == e.port)

/-- The first train of an instance at a word that uses its port as a table, and an EOS that ends a stream not yet begun, need
the port's entry (R263): the state that waits or faults, none where the element goes on. -/
def MemElem.entryGate (e : MemElem) (s : State) (h : Timed) : Option State :=
  let m := e.elem s
  let table := e.w.sub != 0
  if m.started || m.poisoned || m.ended || (!table && (!isEos h || m.busy || e.shares)) then none
  else match (s.core e.c).activeEntry e.port with
    | none => some (s.setLate e.c e.x e.i 0)
    | some q =>
      if q.ctx ≠ e.x then some (e.fault s .illegal h.train.tag)
      else if q.finished then some (s.setLate e.c e.x e.i 0)
      else none

/-- Whether every other `st` word that shares an `st` word's port has received EOS for the instance (R371). -/
def MemElem.lastSharer (e : MemElem) (s : State) (inst : Nat) : Bool :=
  match (s.ctx e.c e.x).inst inst with
  | none => true
  | some n => e.w.sub != 0 || (range 0 e.b.count).all (fun j =>
      let w := e.b.word j
      j == e.i || w.kind != 9 || w.sub != 0 || bits w.imm 3 0 != e.port || n.lsids.contains w.f.lsid)

/-- EOS has come at port a of a lock-step memory word: its port's entry is done with, once every word that shares it has its EOS, and
its LSID is acknowledged once every access is (R196, R197, R263, R371); `poisoned` marks it. -/
def MemElem.finishPort (e : MemElem) (s : State) (inst : Nat) : State :=
  let m := e.elem s
  if m.poisoned then s
  else
    let s1 := s.setElem e.c e.x e.i { m with poisoned := true, inst := inst }
    let s1 := match (s.core e.c).activeEntry e.port with
      | some q => if q.ctx == e.x && !(e.w.sub == 0 && m.busy) && e.lastSharer s inst then
          (s1.setHead e.c e.port { q with finished := true }).settlePort e.c (some e.port) else s1
      | none => s1
    if e.w.kind = 9 then s1.modInst e.c e.x inst (fun n => { n with lsids := insertNat n.lsids e.w.f.lsid }) else s1

/-- EOS has come on every port: it passes and the element rests. -/
def memEos (e : MemElem) (s : State) (hs : List (Nat × Timed)) (fmt : Nat) : State :=
  let s1 := e.finishPort s (instOf hs)
  emitOne s ((s1.popAll e.c e.x e.i hs).restElem e.c e.x e.i) e.b e.w e.c e.x e.i hs 0 [outKind .eos fmt (tagOf hs)]

/-- An output of a kind alone, with the heads taken; the instance has begun. -/
def memPass (e : MemElem) (s : State) (hs : List (Nat × Timed)) (k : TokenKind) (fmt : Nat) : State :=
  emitOne s (((s.popData e.c e.x e.i hs).notLate e.c e.x e.i).setElem e.c e.x e.i { e.elem s with started := e.w.sub != 0 || (e.elem s).started, inst := instOf hs })
    e.b e.w e.c e.x e.i hs 0 [outKind k fmt (tagOf hs)]

/-- The lanes of an index train that are present, with their indices (R195). -/
def indexLanes (uns : Bool) (a : Train) : List (Nat × Int) :=
  (range 0 (lanesOf a.fmt)).filterMap (fun j => (indexAt uns a (laneBits a.fmt) j).map (fun v => (j, v)))

/-- ldg: one request for the present index lanes (R195). -/
def ldgFire (e : MemElem) (s : State) (hs : List (Nat × Timed)) : State :=
  let ds := dataHeads hs
  let a := trainAt ds 0
  let tag := a.tag
  if allEos hs then memEos e s hs a.fmt
  else if a.kind ≠ .data then memPass e s hs a.kind a.fmt
  else match (s.core e.c).activeEntry e.port with
    | none => s.setLate e.c e.x e.i 0
    | some q =>
      let fmt := patFmt q.pattern
      if q.ctx ≠ e.x then e.fault s .illegal tag
      else if !e.w.accepts fmt ∨ laneBits fmt ≠ laneBits a.fmt ∨ 2 ^ patSize q.pattern ≠ laneBits fmt / 8 then
        e.fault s .formatUnaccepted tag
      else
        let ix := indexLanes e.w.uns a
        if ix.any (fun p => p.2 < 0 || (patCount q.pattern 0 : Int) ≤ p.2) then e.fault s .gatherIndex tag
        else
          let accs : List Access := ix.map (fun p =>
            { addr := tableAddr q.pattern q.addend p.2, size := laneBits fmt / 8, value := 0, poison := false, lane := p.1,
              item := .absent })
          let r : MemReq := { kind := .read, ctx := e.x, idx := e.i, inst := instOf hs, fmt := fmt, mode := 0,
                              uns := e.w.uns, accs := accs, tag := tag, due := (s.ctx e.c e.x).adv + e.w.delay, last := false,
                              lines := 0, entry := none, port := some e.port, got := [], flags := 0, poison := false,
                              waited := Waited.reset }
          let now := (s.ctx e.c e.x).adv
          (((s.popData e.c e.x e.i hs).notLate e.c e.x e.i).setElem e.c e.x e.i
            ({ e.elem s with started := true, inst := instOf hs }.hold now now (now + 1) (instOf hs))).postReq e.c r

/-- The 64-byte lines that pointers touch (R196). -/
def lineCount (addrs : List Word) : Nat :=
  (addrs.foldl (fun l a => insertNat l (a.toNat / 64)) []).length

/-- Pair e2m1 codes into bytes (R197). -/
def pairUp : List (Nat × Nat × Bool) → List (Nat × Nat × Bool)
  | (j, v, p) :: (_, u, q) :: l => (j, v % 16 + 16 * (u % 16), p || q) :: pairUp l
  | [(j, v, p)] => [(j, v % 16, p)]
  | [] => []

/-- The patterns an ST writes for lanes, in ascending order, with the flags and the LFSR state after them (R196). -/
def stPatterns (w : FWord) (fmt : Nat) (a : Train) (poison : Bool) : List Nat → Nat → List (Nat × Nat × Bool) × Nat × Nat
  | [], st => ([], 0, st)
  | j :: js, st =>
    let (v, f) := if poison then (0, 0) else resolveLane fmt w.uns w.f.mode st (a.lane j)
    let (l, g, st') := stPatterns w fmt a poison js (lfsrAfter w.f.mode (isWide fmt && !poison) st)
    ((j, v, poison) :: l, f ||| g, st')

/-- The format and size an ST needs of its entry (R196-R198, R200). -/
def stFmtOk (w : FWord) (fmt : Nat) (p : List Word) : Bool :=
  patFmt p == fmt && 2 ^ patSize p == (if w.sub = 4 then 4 else max (memBits fmt / 8) 1) &&
  (w.sub != 4 || fmt == 0 || fmt == 1)

/-- The accesses of an ST's train, of the size of its pattern's elements: for stbin the address is the bin's count and `lane`
keeps the lane. -/
def stAccesses (w : FWord) (a : Train) (q : PortEntry) (ix : Nat → Int) (items : List (Nat × Nat × Bool)) :
    List Access :=
  items.map (fun t =>
    let i := ix t.1
    let addr : Word := if w.sub = 4 then nth 0 q.pattern 0 + q.addend + BitVec.ofInt 64 (i * patStride q.pattern 1)
      else if w.sub = 0 then 0 else tableAddr q.pattern q.addend i
    { addr := addr, size := 2 ^ patSize q.pattern, value := t.2.1, poison := t.2.2, lane := t.1,
      item := a.lane t.1 })

/-- The pointers of an ST's train, for the count of its requests: a stream's come from its generator. -/
def stPointers (s : State) (c p : Nat) (w : FWord) (q : PortEntry) (accs : List Access) : List Word :=
  if w.sub = 0 then
    let pending := ((s.core c).reqs.filter (fun r => r.port == some p)).foldl (fun n r => n + r.accs.length) 0
    (range (q.pos + pending) accs.length).map (patAddr q.pattern q.addend)
  else accs.map (·.addr)

def reqKindOf (sub : Nat) : ReqKind :=
  match sub with
  | 2 => .add
  | 3 => .max
  | 4 => .append
  | _ => .write

/-- The acknowledge train of `n` elements written. -/
def countAck (tag n : Nat) : Train :=
  { kind := .data, fmt := 0, tag := tag, lanes := freshInt 8 n :: List.replicate (lanesOf 0 - 1) (freshInt 8 0) }

/-- A train of an st whose stream has ended (R196, R197): poison passes with no fault, no present lane writes nothing, any other
is past the last element. -/
def stPastEnd (e : MemElem) (s : State) (hs : List (Nat × Timed)) (poison : Bool) (js : List Nat) : State :=
  if poison then memPass e s hs .poison 0
  else if js.isEmpty then
    emitOne s (s.popData e.c e.x e.i hs) e.b e.w e.c e.x e.i hs 0 [toAll (countAck (tagOf hs) 0)]
  else e.fault s .streamLength (tagOf hs)

/-- The lanes an ST word writes: present at port a, enabled by p and, where the word takes indices, with an index (R196, R198). -/
def storeLanes (w : FWord) (ds : List (Nat × Timed)) : List Nat :=
  let a := trainAt ds 0
  (enabledLanes w a.fmt (some a) ((headAt ds 3).map (·.train))).filter (fun j =>
    w.sub == 0 || (indexAt w.uns (trainAt ds 1) (laneBits a.fmt) j).isSome)

/-- The index that an ST word takes for a lane. -/
def storeIndex (w : FWord) (ds : List (Nat × Timed)) (j : Nat) : Int := (indexAt w.uns (trainAt ds 1) (laneBits (trainAt ds 0).fmt) j).getD 0

/-- The patterns that an ST word writes for lanes `js` in ascending order, with the flags they raise and the LFSR state after them:
none of its own for stadd, and e2m1 codes of st in pairs (R196 to R198). -/
def storeItems (w : FWord) (ds : List (Nat × Timed)) (js : List Nat) (st : Nat) : List (Nat × Nat × Bool) × Nat × Nat :=
  let a := trainAt ds 0
  let poison := firingKind ds == .poison
  if w.sub = 2 then (js.map (fun j => (j, 0, poison)), 0, st)
  else
    let r := stPatterns w a.fmt a poison js st
    (if w.sub = 0 && a.fmt = 7 then pairUp r.1 else r.1, r.2)

/-- The request that an ST word posts. -/
def storeReq (s : State) (e : MemElem) (hs : List (Nat × Timed)) (accs : List Access) (lines : Nat) : MemReq :=
  { kind := reqKindOf e.w.sub, ctx := e.x, idx := e.i, inst := instOf hs, fmt := (trainAt (dataHeads hs) 0).fmt, mode := e.w.f.mode,
    uns := e.w.uns, accs := accs, tag := tagOf hs, due := (s.ctx e.c e.x).adv + e.w.delay, last := false, lines := lines,
    entry := none, port := some e.port, got := [], flags := 0, poison := firingKind (dataHeads hs) == .poison,
    waited := Waited.reset }

/-- An ST word's use of its port's entry that faults: a table or stream of another context, of another format than the train, or a
stream that reads; a poison firing faults on none (R196, R198). -/
def storeEntryBad (w : FWord) (x fmt : Nat) (q : PortEntry) : Option FaultCode :=
  if q.ctx ≠ x then some .illegal
  else if !stFmtOk w fmt q.pattern ∨ (w.sub = 0 && !patWrites q.pattern) then some .formatUnaccepted
  else none

/-- Whether the index of a lane lies in its table, or in its bins (R195, R198). -/
def indexIn (w : FWord) (ds : List (Nat × Timed)) (q : PortEntry) (j : Nat) : Bool :=
  w.sub == 0 || (decide (0 ≤ storeIndex w ds j) && decide (storeIndex w ds j < (patCount q.pattern (if w.sub = 4 then 1 else 0) : Int)))

/-- An ST word takes a train and posts its request for lanes `js` (R196): it waits while the frame's count of open stores has no room
(R25). -/
def storeNow (e : MemElem) (s : State) (hs : List (Nat × Timed)) (q : PortEntry) (js : List Nat) : State :=
  let ds := dataHeads hs
  let tag := tagOf hs
  let w := e.w
  let (items, flags, st) := storeItems w ds js (s.lfsr e.c e.x e.i)
  let accs := stAccesses w (trainAt ds 0) q (storeIndex w ds) items
  let lines := if w.sub ≤ 1 then lineCount (stPointers s e.c e.port w q accs) else accs.length
  let open' := match (s.core e.c).frame (frameOf tag) with
    | some f => f.stores
    | none => 0
  if 1023 < open' + lines then s.setLate e.c e.x e.i 0
  else
    let now := (s.ctx e.c e.x).adv
    let s1 := ((s.popData e.c e.x e.i hs).notLate e.c e.x e.i).setElem e.c e.x e.i
      ({ e.elem s with started := true, inst := instOf hs }.hold now now (now + w.delay + 1) (instOf hs))
    let s1 := if w.f.mode = 5 then s1.setLfsr e.c e.x e.i st else s1
    let s1 := (s1.modFrame e.c (frameOf tag) (fun f => { f with stores := f.stores + lines })).postReq e.c
      (storeReq s e hs accs lines)
    settle s { s := s1, flags := flags, err := none } e.c e.x e.i w (instOf hs) tag

/-- One firing of an ST word (R196-R200). -/
def stFire (e : MemElem) (s : State) (hs : List (Nat × Timed)) : State :=
  let ds := dataHeads hs
  let tag := tagOf hs
  let w := e.w
  let m := e.elem s
  let fmt := (trainAt ds 0).fmt
  let js := storeLanes w ds
  if allEos hs then memEos e s hs 0
  else if ds.any (fun h => h.2.train.kind == .null) then memPass e s hs (firingKind ds) 0
  else if w.sub ≠ 0 && (trainAt ds 1).kind == .poison then memPass e (s.countEvent e.c 12 e.x 1) hs .poison 0
  else if w.sub = 0 && m.busy then stPastEnd e s hs (firingKind ds == .poison) js
  else match (s.core e.c).activeEntry e.port with
    | none => s.setLate e.c e.x e.i 0
    | some q =>
      let poison : Bool := firingKind ds == .poison
      match storeEntryBad w e.x fmt q with
      | some f => if poison && (f == .illegal || (w.sub == 0 && !patWrites q.pattern)) then memPass e s hs .poison 0
        else if poison then storeNow e s hs q (js.filter (indexIn w ds q)) else e.fault s f tag
      | none =>
        if !poison && !js.all (indexIn w ds q) then e.fault s .gatherIndex tag
        else storeNow e s hs q (js.filter (indexIn w ds q))

/-- A firing of ldg or an ST word. -/
abbrev MemFire := MemElem → State → List (Nat × Timed) → State

/-- The common start of ldg and the ST words: the port's entry for the first train, its end once port a has EOS. -/
def lockStepMem (fire : MemFire) (e : MemElem) (s : State) : State :=
  let s := s.freshElem e.c e.x e.i
  match (s.ctx e.c e.x).head e.i 0 with
  | none => s
  | some h => match e.entryGate s h with
    | some s1 => s1
    | none =>
      let s1 := if isEos h then (e.finishPort s h.inst).notLate e.c e.x e.i else s
      match prelude e.w s1 e.c e.x e.i with
      | .done s' => s'
      | .go _ hs => fire e s1 hs
      | .idle => s1

/-- ldg or an ST word as a fallback (R150): it fires on the steered train, its other ports absent; a request's answer is what
goes back. -/
def fireFallback (fire : MemFire) : MemFallback := fun e s r h =>
  let absent (p : Nat) : Nat × Timed := (p, { h with train := absentTrain (if p = 3 then 0 else r.train.fmt), lf := [] })
  let ports := (wordPorts e.w).filter (fun p => p == 1 || p == 3)
  let s1 := fire e s ((0, { h with train := r.train, lf := [] }) :: ports.map absent)
  if (s.core e.c).reqs.length < (s1.core e.c).reqs.length then
    .wait (s1.modCtx e.c e.x (fun k => { k with steer := some { r with asked := true } }))
  else if (s.core e.c).faults.length < (s1.core e.c).faults.length then .wait (s1.modCtx e.c e.x (fun k => { k with steer := none }))
  else if e.w.kind = 9 && e.w.sub = 0 && (e.elem s).busy then .back s (some (countAck r.train.tag 0)) 0 (s.lfsr e.c e.x e.i)
  else .wait s1

/-- One step of ldg or an ST word. -/
def lockStepElement (kind sub : Nat) (f : Fab) (fire : MemFire) (s : State) : Host.Outcome State Fault Refusal :=
  memStep kind sub f (fireFallback fire) (lockStepMem fire) s

/-- ld (R193). -/
def execFLd (w : Fab) (s : State) : Host.Outcome State Fault Refusal := memElement 8 0 w ldBody s

/-- ldt (R194). -/
def execFLdt (w : Fab) (s : State) : Host.Outcome State Fault Refusal := memElement 8 1 w tileBody s

/-- ldring (R194). -/
def execFLdring (w : Fab) (s : State) : Host.Outcome State Fault Refusal := memElement 8 2 w ringBody s

/-- ldg (R195). -/
def execFLdg (w : Fab) (s : State) : Host.Outcome State Fault Refusal := lockStepElement 8 3 w ldgFire s

/-- ldver (R194). -/
def execFLdver (w : Fab) (s : State) : Host.Outcome State Fault Refusal := memElement 8 4 w tileBody s

/-- st (R197). -/
def execFSt (w : Fab) (s : State) : Host.Outcome State Fault Refusal := lockStepElement 9 0 w stFire s

/-- sta (R198). -/
def execFSta (w : Fab) (s : State) : Host.Outcome State Fault Refusal := lockStepElement 9 1 w stFire s

/-- stadd (R198). -/
def execFStadd (w : Fab) (s : State) : Host.Outcome State Fault Refusal := lockStepElement 9 2 w stFire s

/-- stmax (R198). -/
def execFStmax (w : Fab) (s : State) : Host.Outcome State Fault Refusal := lockStepElement 9 3 w stFire s

/-- stbin (R200). -/
def execFStbin (w : Fab) (s : State) : Host.Outcome State Fault Refusal := lockStepElement 9 4 w stFire s

/-! ## Updates at the home (R198, R199) -/

/-- The exact sum of two numbers, and whether it is invalid; an exact zero sum of unlike signs is -0 in mode 011. -/
def addNum (mode : Nat) : Num → Num → Num × Nat
  | .nan a, .nan b => (.nan (a || b), 0)
  | .nan a, _ => (.nan a, 0)
  | _, .nan b => (.nan b, 0)
  | .inf a, .inf b => if a = b then (.inf a, 0) else (.nan false, fInvalid)
  | .inf a, _ => (.inf a, 0)
  | _, .inf b => (.inf b, 0)
  | .zero a, .zero b => (.zero (if a = b then a else mode == 3), 0)
  | .zero _, v => (v, 0)
  | v, .zero _ => (v, 0)
  | .fin u, .fin v =>
    let w := u.add v
    (if w.isZero then .zero (mode == 3) else .fin w, 0)

/-- m plus the lane's value, rounded once into m's format (Table 9.3). -/
def addInto (fmt mode : Nat) (uns : Bool) (m st : Nat) (l : Lane) : Nat × Nat :=
  if isInt fmt then
    let o := intOf l
    let v : Int := if uns then m else sextNat (memBits fmt) m
    match o.2 with
    | some up => if mode = 1 then resolveInt fmt uns 1 (.beyond up o.1) else intToInt (memBits fmt) uns mode (v + o.1)
    | none => intToInt (memBits fmt) uns mode (v + o.1)
  else
    let (n, f) := addNum mode (decodeNum fmt uns m) (numOf fmt mode l)
    let (p, g) := convert fmt uns mode n st false
    (p, f ||| g)

/-- The larger of m and a resolved lane (Table 9.3, R167). -/
def maxInto (fmt : Nat) (uns : Bool) (m v : Nat) : Nat :=
  let a := ofPattern fmt uns m
  let b := ofPattern fmt uns v
  (patternLane fmt uns 0 0 (minMax fmt false a b)).1

/-- Whether a stadd lane is an arrival: tag 000, signedness 1, at a marked counter's arrived word (R283). -/
def arrivalAt (s : State) (r : MemReq) (ks : List Nat) : Option Nat :=
  match ks with
  | k :: _ => if r.fmt = 0 ∧ r.uns ∧ k % 16 = 8 ∧ s.marked (k - 8) then some (k - 8) else none
  | [] => none

/-- The next access of a table's request has passed its checks: perform it. -/
def performAcc (s : State) (c n : Nat) (r : MemReq) (q : PortEntry) (a : Access) (ks : List Nat) : State :=
  let rest := r.accs.drop 1
  let bad := s.poisonedAt ks
  let got (p : Bool) (v : Nat) : MemReq := { r with accs := rest, got := r.got ++ [(a.lane, v, p)], waited := Waited.reset }
  match r.kind with
  | .read => s.setReq c n (got bad (s.readNat ks))
  | .write => (s.ctxWrite c a.addr.toNat ks (toBytes a.size a.value) a.poison).setReq c n (got a.poison 0)
  | .add =>
    if a.poison then (s.ctxWrite c a.addr.toNat ks [] true).setReq c n (got true 0)
    else if bad then s.setReq c n (got true 0)
    else match arrivalAt s r ks with
      | some k => (s.cycle k (wrapInt 32 (intOf a.item).1)).setReq c n (got false 0)
      | none =>
        let st := s.lfsr c r.ctx r.idx
        let (v, f) := addInto r.fmt r.mode r.uns (s.readNat ks) st a.item
        let s := if r.mode = 5 then s.setLfsr c r.ctx r.idx (lfsrAfter r.mode (isWide r.fmt) st) else s
        let r' := { got false 0 with flags := r.flags ||| f }
        (s.ctxUpdate c a.addr.toNat ks (toBytes a.size v)).setReq c n r'
  | .max =>
    if a.poison then (s.ctxWrite c a.addr.toNat ks [] true).setReq c n (got true 0)
    else if bad then s.setReq c n (got true 0)
    else (s.ctxUpdate c a.addr.toNat ks (toBytes a.size (maxInto r.fmt r.uns (s.readNat ks) a.value))).setReq c n (got false 0)
  | .append =>
    -- the bin's count; its record is the next access (R200)
    if bad then s.setReq c n { r with accs := rest, waited := Waited.reset }
    else
      let k := s.readNat ks
      let s := s.ctxUpdate c a.addr.toNat ks (toBytes 4 (Nat.min (k + 1) (2 ^ 32 - 1)))
      if k + 1 < patCount q.pattern 0 then
        let rec' : Access := { a with addr := a.addr + BitVec.ofInt 64 ((k + 1 : Nat) * patStride q.pattern 0), size := 0 }
        s.setReq c n { r with accs := rec' :: rest, waited := Waited.reset }
      else s.setReq c n { r with accs := rest, flags := r.flags ||| fOverflow, waited := Waited.reset }

/-- A record of a bin is written (R200): the access after its count, which carries size 0. -/
def performRecord (s : State) (c n : Nat) (r : MemReq) (a : Access) (ks : List Nat) : State :=
  (s.ctxWrite c a.addr.toNat ks (toBytes 4 a.value) a.poison).setReq c n
    { r with accs := r.accs.drop 1, got := r.got ++ [(a.lane, 0, a.poison)], waited := Waited.reset }

/-- The answer of a request all of whose accesses are made: the gathered train or the acknowledge. -/
def reqTrain (r : MemReq) : Train :=
  if r.kind ≠ .read then ackTrain r
  else if r.got.any (·.2.2) then kindTrain .poison r.fmt r.tag
  else
    { kind := .data, fmt := r.fmt, tag := r.tag,
      lanes := (range 0 (lanesOf r.fmt)).map (fun j =>
        match r.got.find? (fun g => g.1 == j) with
        | some g => ofPattern r.fmt r.uns g.2.1
        | none => .absent) }

/-- Answer a request that has no access left. -/
def answerIfDone (s : State) (c n : Nat) : State :=
  match (s.core c).reqs[n]? with
  | some r => if r.accs.isEmpty then s.answer c n r (reqTrain r) false else s
  | none => s

/-- What an access needs, and its size. -/
def Access.want (a : Access) (k : ReqKind) : Want :=
  match k with
  | .read => .read
  | .write => .write
  | _ => if a.size = 0 then .write else .atomic

def Access.bytes (a : Access) : Nat := if a.size = 0 then 4 else a.size

/-- The next access of request `n` of a core, at its home (R281), an update in its turn among those that a vault has held (R366).
Requests of one element are performed in order; the requests of streams are their generator's. -/
def ownRequest (s : State) (core n : Nat) (r : MemReq) : State :=
  let k := s.core core
  if isStreamReq s core r || k.faulted (frameOf r.tag) ||
      (k.reqs.take n).any (fun q => q.ctx == r.ctx && q.idx == r.idx) then s
  else match r.accs, (r.port.bind k.activeEntry) with
    | [], _ => answerIfDone s core n
    | a :: _, some q =>
      match tryAccess s core r.ctx a.addr.toNat a.bytes (a.want r.kind) (patObject q.pattern) r.waited with
      | .wait d =>
        let place := if a.want r.kind = .atomic then updatePlace s core r.ctx a.addr.toNat a.bytes r.heldAt else none
        s.setReq core n { r with waited := r.waited.on d, heldAt := place }
      | .fault f z => (s.setReq core n { r with heldAt := none }).reqFault core { r with heldAt := none } f a.addr.toNat z
      | .ok ks =>
        if a.want r.kind = .atomic && !atomicGoes s r.heldAt ks then s.setReq core n { r with heldAt := heldPlace s r.heldAt ks }
        else
          let r := { r with heldAt := none }
          let s := s.askElement core (patClass q.pattern) ks (r.kind != .read)
          answerIfDone (if a.size = 0 then performRecord s core n r a ks else performAcc s core n r q a ks) core n
    | _ :: _, none => s

/-! ## Requests of absent images (R340) -/

/-- The table entry of a port of an absent image. -/
def Divert.activeEntry (d : Divert) (p : Nat) : Option PortEntry :=
  (d.entries.find? (fun (q : Nat × List PortEntry) => q.1 == p)).bind (fun q => q.2.find? (·.active))

def State.setAwayReq (s : State) (c n : Nat) (r : MemReq) : State :=
  s.setCore c { s.core c with awayReqs := setNth (s.core c).awayReqs n r }

/-- Perform an access with the image's pipeline in the slot and the request alone, and put both back. -/
def State.asImage (s : State) (c e n : Nat) (d : Divert) (r : MemReq) (f : State → State) : State :=
  let k := s.core c
  let t := f (s.setCore c (({ k with reqs := [r] } : Core).setCtx r.ctx d.pipe))
  let u := t.core c
  let back := ({ u with reqs := k.reqs, awayReqs := setNth u.awayReqs n (u.reqs.headD r) } : Core).setCtx r.ctx (k.ctx r.ctx)
  (t.setCore c back).setDiv c e { d with pipe := u.ctx r.ctx }

/-- A write into window 0x0 is diverted (R340). -/
def awayWrite (s : State) (c e n : Nat) (r : MemReq) (q : PortEntry) (a : Access) : State :=
  let addr := a.addr.toNat
  match resolve s (.context c r.ctx) addr a.bytes .write, objectOk s (regionOf c) (patObject q.pattern) addr a.bytes .write with
  | .ok _, .ok _ =>
    match s.divertLine c e 1 0 (range (addr % 2 ^ 60) a.bytes) (toBytes a.bytes a.value) (List.replicate a.bytes a.poison) with
    | (t, true) => t.setAwayReq c n { r with accs := r.accs.drop 1, got := r.got ++ [(a.lane, 0, a.poison)] }
    | (t, false) => t
  | _, _ => s

/-- The pattern of a lane that its format holds exactly, as a record of kind 2 takes it; none for another, and for one that may be an
arrival at a marked counter (R283). -/
def exactPattern (r : MemReq) (a : Access) : Option Nat :=
  let (p, f) := resolveLane r.fmt r.uns 0 0 a.item
  if f ≠ 0 ∨ (r.fmt = 0 ∧ r.uns ∧ a.addr.toNat % 16 = 8) then none else some (p % 2 ^ memBits r.fmt)

/-- An update of `stadd` in window 0x0 is diverted as an add, where a record can hold it (R340, log 35). -/
def awayAdd (s : State) (c e n : Nat) (r : MemReq) (q : PortEntry) (a : Access) : State :=
  let addr := a.addr.toNat
  match resolve s (.context c r.ctx) addr a.bytes .atomic, objectOk s (regionOf c) (patObject q.pattern) addr a.bytes .atomic,
      (if a.poison then some 0 else exactPattern r a) with
  | .ok _, .ok _, some p =>
    match s.divertLine c e 2 (2 ^ 53 * r.fmt + 2 ^ 50 * r.mode + 2 ^ 49 * b2n r.uns) (range (addr % 2 ^ 60) a.bytes) (toBytes a.bytes p)
        (List.replicate a.bytes a.poison) with
    | (t, true) => t.setAwayReq c n { r with accs := r.accs.drop 1, got := r.got ++ [(a.lane, 0, a.poison)] }
    | (t, false) => t
  | _, _, _ => s

/-- The next access of a request of an absent image: a write into window 0x0 is diverted, and so is the update of a `stadd`; a read or
another update there, an access that faults or waits, and an update with stochastic rounding wait for the restore (log 35); every other
access is made in place. Its answer is on the way once all are made. Under `dvclr` what would land in window 0x0 is dropped, and so is an
access that cannot be made (R339). -/
def awayRequest (s : State) (c n : Nat) (r : MemReq) : State :=
  let k := s.core c
  match r.entry with
  | none => s
  | some e => match s.div c e with
    | none => s
    | some d =>
      let skip : State := if d.dropping then s.setAwayReq c n { r with accs := r.accs.drop 1 } else s
      match r.accs, (r.port.bind d.activeEntry) with
        | [], _ =>
          let a : MemResp := { ctx := r.ctx, idx := r.idx, inst := r.inst, train := reqTrain r, due := r.due, flags := r.flags,
                               eosAfter := false, ack := r.kind != .read, lines := r.lines }
          s.setCore c { k with awayReqs := dropNth k.awayReqs n,
                               awayResps := if d.dropping then k.awayResps else k.awayResps ++ [(e, a)] }
        | a :: _, some q =>
          if a.addr.toNat / 2 ^ 60 = 0 then
            (if d.dropping then skip else if r.kind = .write then awayWrite s c e n r q a
              else if r.kind = .add ∧ r.mode ≠ 5 then awayAdd s c e n r q a else s)
          else if r.kind = .add ∧ r.mode = 5 then skip
          else match tryAccess s c r.ctx a.addr.toNat a.bytes (a.want r.kind) (patObject q.pattern) Waited.reset with
            | .ok ks => (s.askElement c (patClass q.pattern) ks (r.kind != .read)).asImage c e n d r (fun t =>
                if a.size = 0 then performRecord t c 0 r a ks else performAcc t c 0 r q a ks)
            | .fault _ _ => skip
            | .wait _ => s
        | _ :: _, none => skip

/-- MEMORY_REQUEST: the next access of request `n` is performed at its home (R281); the requests of absent images are
numbered after the core's own. -/
def execMemoryRequest (core n : Nat) (s : State) : Host.Outcome State Fault Refusal :=
  let k := s.core core
  .next (State.tick (match k.reqs[n]? with
    | some r => ownRequest s core n r
    | none =>
      let m := n - k.reqs.length
      match k.awayReqs[m]? with
      | some r => if (k.awayReqs.take m).any (fun q => q.ctx == r.ctx && q.idx == r.idx && q.entry == r.entry) then s
        else awayRequest s core m r
      | none => s))

/-! ## Late operands (R35) -/

/-- A response reaches its element: the train it carries is emitted where the static schedule put it, its flags join the
instance's, its requests no longer count in stores open (R196, R198); what it faults on stays, and is delivered again. That of
a fallback goes back to the port the train was steered from (R150). -/
def deliverResp (s : State) (c n : Nat) (r : MemResp) : State :=
  let k := s.core c
  let s0 := s.setCore c { k with resps := dropNth k.resps n }
  let s0 := if r.ack then s0.modFrame c (frameOf r.train.tag) (fun f => { f with stores := f.stores - r.lines }) else s0
  match (s.ctx c r.ctx).block with
  | none => s0
  | some b =>
    let e : MemElem := { w := b.word r.idx, c := c, x := r.ctx, i := r.idx, b := b }
    match (s.ctx c r.ctx).steer with
    | some t =>
      if b.isFallback r.idx && t.fb = r.idx && t.asked then
        let s1 := s0.modCtx c r.ctx (fun k => { k with steer := none })
        { returnTrain s1 s1 e.w c r.ctx r.idx t (some r.train) r.flags (s.lfsr c r.ctx r.idx) with
          agenda := (range t.idx (b.count - t.idx)).map (fun i => Happening.element c r.ctx i) ++ s.agenda }
      else s0
    | none =>
      let ends := r.eosAfter || r.train.kind == .eos
      let outs := if r.eosAfter then [toAll r.train, eosNext r.train.fmt r.train.tag] else [toAll r.train]
      let s1 := e.emit s s0 (r.due - e.w.delay) r.inst r.train.tag r.flags outs
      if !ends || e.w.kind != 8 || (s1.core c).faulted (frameOf r.train.tag) then s1
      else if e.w.sub = 0 then
        let next := r.due - e.w.delay + (if r.eosAfter then 4 else 2)
        e.endSource (s1.setElem c r.ctx r.idx { e.elem s1 with next := next })
      else if r.train.kind = .eos then s1.setElem c r.ctx r.idx { e.elem s1 with ended := true, busy := true, inst := r.inst }
      else s1

/-- An answer that a fault has kept is marked, for a verdict to find it (R235). -/
def State.keepFaulted (s t : State) (c n : Nat) (r : MemResp) : State :=
  let k := t.core c
  if (s.core c).faults.length < k.faults.length then t.setCore c { k with resps := setNth k.resps n { r with faulted := true } } else t

/-- The agenda gives each element of a list another step. -/
def State.retry (s : State) (c x : Nat) (is : List Nat) : State :=
  { s with agenda := is.map (fun i => Happening.element c x i) ++ s.agenda }

/-- The bytes of a response record (R341): a header of its element and its train, then the train's patterns. -/
def respBytes (c : Nat) (a : MemResp) : List Nat :=
  let t := a.train
  let h := plainToken t.tag c a.idx 0 a.ctx t.fmt t.kind 0 0
  toBytes 8 h.low ++ toBytes 8 t.tag ++
    (if t.kind = .data then (patternBytes t.fmt (resolveTrain t.fmt false 0 t.lanes 0).1 ++ List.replicate 128 0).take 128 else [])

/-- A response to an absent image is diverted (R340, kind 5), or waits. -/
def divertResp (s : State) (c n e : Nat) (a : MemResp) : State :=
  match s.divert c e 5 0 0 0 (respBytes c a) with
  | (t, false) => t
  | (t, true) =>
    let t1 := t.setCore c { t.core c with awayResps := dropNth (t.core c).awayResps n }
    match t1.div c e with
    | some d => t1.setDiv c e { d with resps := d.resps ++ [.resp a] }
    | none => t1

/-- The bytes of the record of a grant to an `alloc` word: its element and the tile's number. -/
def grantBytes (c x key tile : Nat) : List Nat :=
  let h := plainToken 0 c (key % 32) 0 x 0 .data 0 tile
  toBytes 8 h.low ++ toBytes 8 h.tag

/-- A grant that an `alloc` of an absent image has not collected is the allocator's response: it is diverted (R340, kind 5), or waits. -/
def divertGrant (s : State) (c x : Nat) : State :=
  match (s.core c).away x with
  | none => s
  | some e => match s.div c e with
    | none => s
    | some d => match d.grants.find? (fun g => 4096 ≤ g.1) with
      | none => s
      | some g =>
        match s.divert c e 5 0 0 0 (grantBytes c x g.1 g.2) with
        | (t, false) => t
        | (t, true) => match t.div c e with
          | some d => t.setDiv c e { d with grants := d.grants.erase g, resps := d.resps ++ [.grant g.1 g.2] }
          | none => t

/-- LATE_OPERAND_ARRIVAL: the oldest response of a context arrives, or one to an absent image of its slot; elements that
wait on something else look again. -/
def execLateOperandArrival (core ctx : Nat) (s : State) : Host.Outcome State Fault Refusal :=
  let open' (r : MemResp) : Bool := r.ctx == ctx && !(s.core core).faulted (frameOf r.train.tag)
  let s1 := match findIdx open' 0 (s.core core).resps with
    | some (n, r) =>
      let now := (s.core core).beat
      let s0 := if r.due ≤ (s.ctx core ctx).adv + 1 then
          (s.countEvent core 9 ctx 1).modCtx core ctx (fun k => { k with lateBeat := some now }) else s
      s0.keepFaulted (deliverResp s0 core n r) core n r
    | none => match findIdx (fun (a : Nat × MemResp) => a.2.ctx == ctx) 0 (s.core core).awayResps with
      | some (n, e, a) => divertResp s core n e a
      | none => divertGrant s core ctx
  .next (s1.retry core ctx ((s1.ctx core ctx).late.map (·.1))).tick

/-! ## ALLOC (R215, R216) -/

/-- A descriptor train (Table 10.3). -/
def descTrain (tag tile : Nat) : Train :=
  { kind := .data, fmt := 0, tag := tag, lanes := freshInt 8 tile :: List.replicate (lanesOf 0 - 1) (freshInt 8 0) }

/-- The waiting-list entry of an `alloc` (Table 10.4). -/
def allocWait (b : Block) (w : FWord) (x i inst tag : Nat) : Wait :=
  let p := b.param (bits w.imm 7 0)
  { pool := if bit p 19 then bits p 18 17 else x, rank := b.rank, size := bits p 11 0 + 1, readers := bits p 15 12,
    aon := bit p 16, owner := x, who := .alloc i inst, age := 0, frame := frameOf tag }

/-- alloc: place the request, which is looked at again as the beat ends, and emit the descriptor once it is served (R215,
R219). -/
def allocBody : FlowBody := fun w s b c x i hs =>
  let a := trainAt hs 0
  if allEos hs then passEos s b w c x i 0 hs
  else if a.kind ≠ .data then emitOne s (s.popData c x i hs) b w c x i hs 0 [outKind a.kind 0 a.tag]
  else
    let r := allocWait b w x i (instOf hs) a.tag
    let collect (s : State) : State :=
      match (s.core c).takeGrant r.key with
      | some (tile, k) =>
        let s1 := ((s.setCore c k).popData c x i hs).notLate c x i
        emitOne s s1 b w c x i hs 0 [toAll (descTrain a.tag tile)]
      | none => s.setLate c x i 2
    if ((s.core c).takeGrant r.key).isSome then collect s
    else if (s.core c).waits.any (fun v => v.key == r.key) then s.setLate c x i 2
    else match s.request c r with
      | none => s.setLate c x i 2
      | some s1 => s1

/-- release and handoff: the train passes; the act waits for the commit (R216). -/
def tileActBody (handoff : Bool) : FlowBody := fun w s b c x i hs =>
  let a := trainAt hs 0
  if allEos hs then passEos s b w c x i a.fmt hs
  else if a.kind ≠ .data then emitOne s (s.popData c x i hs) b w c x i hs 0 [toAll a]
  else if a.lane 0 = .absent then s.raise c x i .illegal 0 a.tag 0
  else
    let act : TileAct := { idx := i, handoff := handoff, desc := wrapInt 32 (intOf (a.lane 0)).1, owner := bits w.imm 1 0 }
    let s1 := (s.popData c x i hs).modInst c x (instOf hs) (fun n => { n with acts := n.acts ++ [act] })
    emitOne s s1 b w c x i hs 0 [toAll a]

/-- alloc as a fallback (R150): a steered train asks for a tile, its context waits, and the descriptor goes back; the
elements from the steering one on then take their step. -/
def allocFallback : FallbackBody := fun w c x i b s r h =>
  let q := allocWait b w x i h.inst r.train.tag
  match (s.core c).takeGrant q.key with
  | some (tile, k) =>
    let s1 := (s.setCore c k).notLate c x i
    .back { s1 with agenda := (range r.idx (b.count - r.idx)).map (Happening.element c x) ++ s1.agenda }
      (some (descTrain r.train.tag tile)) 0 0
  | none =>
    if (s.core c).waits.any (fun v => v.key == q.key) then .wait (s.setLate c x i 2)
    else match s.request c q with
      | none => .wait (s.setLate c x i 2)
      | some s1 => .wait s1

/-- release and handoff as a fallback (R150): the act is the steered train's instance's, and the train keeps its tag. -/
def tileActFallback (handoff : Bool) : FallbackBody := fun w c x i _ s r h =>
  if r.train.lane 0 = .absent then .fault .illegal
  else
    let act : TileAct := { idx := i, handoff := handoff, desc := wrapInt 32 (intOf (r.train.lane 0)).1, owner := bits w.imm 1 0 }
    .back (s.modInst c x h.inst (fun n => { n with acts := n.acts ++ [act] })) none 0 0

/-- alloc (R215). -/
def execFAlloc (w : Fab) (s : State) : Host.Outcome State Fault Refusal := flowStep 11 0 w allocFallback allocBody s

/-- release (R216). -/
def execFRelease (w : Fab) (s : State) : Host.Outcome State Fault Refusal :=
  flowStep 11 1 w (tileActFallback false) (tileActBody false) s

/-- handoff (R216). -/
def execFHandoff (w : Fab) (s : State) : Host.Outcome State Fault Refusal :=
  flowStep 11 2 w (tileActFallback true) (tileActBody true) s

end Sys2Proof.Machine
end

