-- ==== Sys2Proof/Machine/Device.lean ====
section
/-! DEFINITION. Device registers of window 0xF (R266, R364): tvec and the translation registers of each region, reached
by application cores and by privileged control-core code. -/
namespace Sys2Proof.Machine

/-- A translation register value that `mvts` accepts (R268): no reserved bit, aligned to 2^k. -/
def translationValueOk (k v : Nat) : Bool := bits v 62 45 == 0 && bits v 44 0 % 2 ^ k == 0

/-- The alignment of translation register `n` (Table 16.2). -/
def translationAlign (n : Nat) : Nat := if n < 0x054 then 10 else if n < 0x058 then 16 else 12

/-- The value of translation register `n`, 0x050 to 0x058. -/
def Region.translationReg (g : Region) (n : Nat) : Word :=
  if n < 0x054 then sget 0 g.rtab (n - 0x050) else if n < 0x058 then sget 0 g.ptroot (n - 0x054) else g.otab

/-- A write of translation register `n`. -/
def Region.setTranslationReg (g : Region) (n : Nat) (v : Word) : Region :=
  if n < 0x054 then { g with rtab := sput g.rtab (n - 0x050) v }
  else if n < 0x058 then { g with ptroot := sput g.ptroot (n - 0x054) v }
  else { g with otab := v }

/-- The region and register number a device-space offset names, for an aligned 8-byte access whose other bits are
zero and whose package is this one. -/
def deviceReg (s : State) (off n : Nat) : Option (Nat × Nat) :=
  if n = 8 ∧ bits off 2 0 = 0 ∧ bits off 38 20 = 0 ∧ bits off 58 45 = 0 ∧ bits off 44 39 = s.packageNo then
    some (bits off 19 12, bits off 11 3)
  else none

/-- A device-register read: zero for what is not listed (R364). -/
def deviceRead (s : State) (off n : Nat) : Nat :=
  match deviceReg s off n with
  | some (r, k) =>
    if k = 0 then (s.region r).tvec.toNat
    else if 0x050 ≤ k ∧ k ≤ 0x058 then ((s.region r).translationReg k).toNat else 0
  | none => 0

/-- A device-register write: ignored while a launch runs on the region, for a value `mvts` would refuse, and for what is
not listed (R364, R348). -/
def deviceWrite (s : State) (off n v : Nat) : State :=
  match deviceReg s off n with
  | some (r, k) =>
    let g := s.region r
    if g.launch.isSome then s
    else if k = 0 then (if v % 4 = 0 then s.setRegion r { g with tvec := BitVec.ofNat 64 v } else s)
    else if 0x050 ≤ k ∧ k ≤ 0x058 then
      (if translationValueOk (translationAlign k) v then
        s.setRegion r (g.setTranslationReg k (BitVec.ofNat 64 v)) else s)
    else s
  | none => s

/-- DEVICE_REGISTER_WRITE: an application core writes all 64 bits of the register at a device-space offset (R364), in a package
whose runtime is up. -/
def execDeviceRegisterWrite (off v : Nat) (s : State) : Host.Outcome State Fault Refusal :=
  .next (if bit off 59 && s.die.boot == .running then deviceWrite s off 8 v else s).tick

end Sys2Proof.Machine
end

