-- ==== Sys2Proof/Machine/LoadStore.lean ====
section
/-! DEFINITION. Loads, stores and fences of the control core (R88-R99). -/
namespace Sys2Proof.Machine

/-- An access to window 0xF waits for every earlier access to be performed first (R99). -/
def orderDevice (s : State) (r ea : Nat) : State := if ea / 2 ^ 60 = 15 then s.drain r else s

/-- Whether such an access may go: every buffered store can be performed. -/
def deviceReady (s : State) (r ea : Nat) : Bool := ea / 2 ^ 60 != 15 || s.drains r

/-- The value a load of `n` bytes at `ea` reads (R88, R89, R92). -/
def loadBytes (s : State) (r ea n : Nat) : Res Nat := do
  await (!walkHeld s (.control r) ea n)
  let ks ← ofAcc ea (resolve s (.control r) ea n .read)
  if ea / 2 ^ 60 = 15 ∧ bit ea 59 then .ok (deviceRead s (ea % 2 ^ 60) n)
  else
    await (!vaultHeld s ks)
    if ccPoisoned s r ks then .error (.trap (Trap.access .protection ea true)) else .ok (ofBytes (s.ccRead r ks))

/-- A loaded value extended to 64 bits (R89). -/
def extendLoad (signed : Bool) (n v : Nat) : Word :=
  if signed then BitVec.ofInt 64 (sextNat (8 * n) v) else BitVec.ofNat 64 v

/-- The request of a control core's access goes to the home of its bytes, unless it waits or does not pass its checks (R305). -/
def State.askAccess (s : State) (r ea n : Nat) (w : Want) (a : Access0) : State :=
  match resolve s (.control r) ea n w with
  | .ok ks => if walkHeld s (.control r) ea n || vaultHeld s ks then s else s.askControl r (s.homeAt ks) a
  | .error _ => s

/-- A load (R89): the address uses the old xa. Its request travels in class 0, whatever it reads (R305). -/
def load (signed : Bool) (n d a i : Nat) (s : State) : Host.Outcome State Fault Refusal :=
  let r := s.turn
  let ea := effAddr s r a i
  let u := if deviceReady s r ea then (orderDevice s r ea).askAccess r ea n .read .load else s
  finish u r (do
    await (deviceReady s r ea)
    let v ← loadBytes u r ea n
    .ok (u.setX r d (extendLoad signed n v)))

/-- A store (R90): checked and translated at issue, then into the store buffer; window 0xF is never buffered (R99).
Its packet travels in class 0 (R305). -/
def store (n x a i : Nat) (s : State) : Host.Outcome State Fault Refusal :=
  let r := s.turn
  let ea := effAddr s r a i
  let v := (s.getX r x).toNat
  finish s r (do
    let m := orderDevice s r ea
    await (deviceReady s r ea && !walkHeld m (.control r) ea n)
    let ks ← ofAcc ea (resolve m (.control r) ea n .write)
    let u := m.askControl r (m.homeAt ks) .store
    if ea / 2 ^ 60 = 15 then
      if bit ea 59 then .ok (deviceWrite u (ea % 2 ^ 60) n v)
      else
        await (!vaultHeld m ks)
        .ok (u.store ks (toBytes n v))
    else
      await (s.bufferRoom r)
      .ok (u.buffer r { keys := ks, bytes := toBytes n v }))

def execLdB (d a i : Nat) (s : State) : Host.Outcome State Fault Refusal := load true 1 d a i s

def execLdH (d a i : Nat) (s : State) : Host.Outcome State Fault Refusal := load true 2 d a i s

def execLdW (d a i : Nat) (s : State) : Host.Outcome State Fault Refusal := load true 4 d a i s

def execLdD (d a i : Nat) (s : State) : Host.Outcome State Fault Refusal := load false 8 d a i s

def execLdnB (d a i : Nat) (s : State) : Host.Outcome State Fault Refusal := load false 1 d a i s

def execLdnH (d a i : Nat) (s : State) : Host.Outcome State Fault Refusal := load false 2 d a i s

def execLdnW (d a i : Nat) (s : State) : Host.Outcome State Fault Refusal := load false 4 d a i s

def execStB (x a i : Nat) (s : State) : Host.Outcome State Fault Refusal := store 1 x a i s

def execStH (x a i : Nat) (s : State) : Host.Outcome State Fault Refusal := store 2 x a i s

def execStW (x a i : Nat) (s : State) : Host.Outcome State Fault Refusal := store 4 x a i s

def execStD (x a i : Nat) (s : State) : Host.Outcome State Fault Refusal := store 8 x a i s

/-- `fence` (R96): scopes core and quad order nothing beyond R95; the wider ones perform every earlier store, and wait for one
whose home is held. -/
def execFence (sc : Nat) (s : State) : Host.Outcome State Fault Refusal :=
  if sc < 2 then .next (s.complete s.turn)
  else finish (s.drain s.turn) s.turn (if s.drains s.turn then .ok (s.drain s.turn) else .error .wait)

/-- What a control core owes to memory moves on: its oldest buffered store, else the oldest status word (R22), else the oldest record
(R356), each where its home answers. -/
def State.payOne (s : State) (r : Nat) : State :=
  let g := s.region r
  if (g.stores.head?).any (fun b => !vaultHeld s b.keys) then s.drainOne r
  else if (g.owed.head?).any (fun p => s.statusReady r p.1.toNat) then s.payStatus r
  else s.payRecord r

/-- STORE_BUFFER_DRAIN: the oldest buffered store of region `r` becomes visible (R95); with none, an owed status word is
written (R22), and with neither a record (log 13). -/
def execStoreBufferDrain (r : Nat) (s : State) : Host.Outcome State Fault Refusal := .next (s.payOne r).tick

end Sys2Proof.Machine
end

