-- ==== Sys2Proof/Machine/Frames.lean ====
section
/-! DEFINITION. Frames and blocks: `fopen`, `fwait`, `tsend`, `trecv`, `bload`, `bdrop` (R25, R121-R127), register banks and
their spill (R26, R224, R225, R245), firing (R32), the beat's selection (R35-R38) with the scorecard (R351), commit (R39,
R216, R264) and retirement (R41). -/
namespace Sys2Proof.Machine

/-! ## Register banks (R224) -/

/-- Whether a save that has not sealed still holds a register bank of its context (R336). -/
def Core.savingBank (c : Core) (x b : Nat) : Bool :=
  match sfind c.saves x with
  | some v => match sfind c.divs v.entry with
    | some d => d.frames.any (fun f => f.2.bank == b)
    | none => false
  | none => false

/-- Whether a register bank of a context is taken, by a live frame, by another context's spilled bank, by a save under way,
or by a bank of a saved image (R336). -/
def Core.bankUsed (c : Core) (x b : Nat) : Bool :=
  c.savingBank x b ||
  c.frames.any (fun f => f.2.ctx == x && f.2.bank == b) || c.spill.any (fun e => e.2.inBank && e.2.place == 4 * x + b) ||
    c.divs.any (fun (d : Nat × Divert) => d.2.banks.any (fun (h : Nat × Nat × List Nat) => h.1 == x && h.2.1 == b))

/-- Whether a half of an accumulator column can take a bank. -/
def Core.halfFree (c : Core) (col h : Nat) : Bool :=
  !(sget Column.reset c.mx.cols col).written && !c.spill.any (fun e => !e.2.inBank && e.2.place == col && e.2.half == h)

/-- The first place for a bank of context `x`, in the order of R224, with columns `avoid` left out. -/
def Core.spillPlace (c : Core) (x : Nat) (avoid : Nat → Bool) : Option Spill :=
  match (range 0 512).find? (fun k => !avoid (k / 2) && c.halfFree (k / 2) (k % 2)) with
  | some k => some { ctx := x, frame := 0, inBank := false, place := k / 2, half := k % 2 }
  | none =>
    match (range 0 16).find? (fun k => k / 4 != x && !c.bankUsed (k / 4) (k % 4)) with
    | some k => some { ctx := x, frame := 0, inBank := true, place := k, half := 0 }
    | none => none

/-- A free entry of the spill map. -/
def Core.freeSpill (c : Core) : Option Nat := (range 0 32).find? (fun e => (sfind c.spill e).isNone)

/-- Where the bank of a new frame of context `x` lies: a free register bank, unless frames of the context are spilled, or a
spilled place with its map entry. -/
def Core.placeBank (c : Core) (x : Nat) : Option (Nat × Option (Nat × Spill)) :=
  match (if c.frames.any (fun f => f.2.ctx == x && f.2.bank == 4) then none
      else (range 0 4).find? (fun b => !c.bankUsed x b)) with
  | some b => some (b, none)
  | none =>
    match c.freeSpill, c.spillPlace x (fun _ => false) with
    | some e, some p => some (4, some (e, p))
    | _, _ => none

/-- The spill-map entry of a frame, removed. -/
def Core.dropSpill (c : Core) (frame : Nat) : Core := { c with spill := c.spill.filter (fun e => e.2.frame != frame) }

/-- SPILL_BANK_MOVE: the bank of spill entry `e` leaves a column that a queued order names; the
column is in its way for the 8 beats of the move, and the frame neither fires nor swaps (R224, R226). -/
def execSpillBankMove (core e : Nat) (s : State) : Host.Outcome State Fault Refusal :=
  let c := s.core core
  let wants (col : Nat) : Bool := c.mx.queue.any (fun q =>
    let o := orderFields q.word
    128 * o.bank + o.base ≤ col && col ≤ 128 * o.bank + o.base + o.n1)
  .next (State.tick (match sfind c.spill e with
    | none => s
    | some p =>
      if p.inBank || !wants p.place then s
      else match c.spillPlace p.ctx wants with
        | none => s
        | some q =>
          let v := { q with frame := p.frame }
          let frames := match sfind c.frames p.frame with
            | some f => sput c.frames p.frame { f with rests := c.beat + 8 }
            | none => c.frames
          s.setCore core { c with spill := sput c.spill e v, frames := frames, clearing := (p.place, c.beat + 8) :: c.clearing }))

/-- A bank that falls free passes to the context's spilled frame opened earliest, which does not fire for the 8 beats of the move; its
spill-map entry stays until then (R245). -/
def Core.passBank (c : Core) (x b : Nat) : Core :=
  if 4 ≤ b then c
  else
    match pickFirst (fun (a b : Nat × Frame) => a.2.opened < b.2.opened || (a.2.opened == b.2.opened && a.1 < b.1))
        (c.frames.filter (fun f => f.2.ctx == x && f.2.bank == 4)) with
    | some (n, f) => { c with frames := sput c.frames n { f with bank := b, rests := c.beat + 8 } }
    | none => c

/-- The spill-map entries of a context's frames whose bank has moved in fall free (R245). -/
def Core.freeMoved (c : Core) (x : Nat) : Core :=
  let moved (n : Nat) : Bool := (sfind c.frames n).any (fun f => f.ctx == x && f.bank < 4 && f.rests ≤ c.beat)
  { c with spill := c.spill.filter (fun e => !moved e.2.frame) }

/-- BANK_HANDOVER: the entries of frames whose move has ended fall free; a bank of the context that is free without a retirement
passes to a spilled frame in the same way (R245, log 70). -/
def execBankHandover (core ctx : Nat) (s : State) : Host.Outcome State Fault Refusal :=
  let c := (s.core core).freeMoved ctx
  .next (State.tick (s.setCore core (match (range 0 4).find? (fun b => !c.bankUsed ctx b) with
    | some b => c.passBank ctx b
    | none => c)))

/-! ## Opening a frame (R25, R124) -/

/-- The lowest free frame number. -/
def Core.freeFrame (c : Core) : Option Nat := (range 0 256).find? (fun n => (sfind c.frames n).isNone && !c.retired.contains n)

/-- The open record at an address: exit route, exit frame and arguments (Table 6.3). -/
def openRecord (s : State) (r addr : Nat) : Res (Option Nat × Nat × Sparse Nat) :=
  if addr = 0 then .ok (none, 0, [])
  else do
    need (addr % 8 == 0) .illegal
    let q ← recordRead s r addr 8
    let q0 := ofBytes q
    let n := bits q0 5 0
    need (n ≤ 32 && bits q0 23 6 == 0 && bits q0 33 32 == 0 && bits q0 51 46 < 38) .illegal
    let bs ← recordRead s r addr (8 + 4 * n)
    let args := (range 0 n).map (fun i => (32 + i, ofBytes (((bs.drop (8 + 4 * i))).take 4)))
    .ok (some (bits q0 63 32), bits q0 31 24, args)

/-- A frame just opened (R25, R41): its sinks are the block's output channels and channel 31. -/
def Frame.fresh (x depth bank : Nat) (b : Block) (route : Option Nat) (exitFrame : Nat) (regs : Sparse Nat) (now : Nat) :
    Frame :=
  { state := .opened, ctx := x, depth := depth, bank := bank, div := 0, sinks := b.nout + 1, stores := 0, blockId := b.id,
    inflight := 0, regs := regs, exitRoute := route, exitFrame := exitFrame, closed := false, fired := false, eosCh := [],
    fault := none, opened := now, lastFire := 0, rests := 0 }

/-- `fopen` (R124): it waits while all 256 numbers are live or no bank can be placed. -/
def execFopen (a b core depth ctx : Nat) (s : State) : Host.Outcome State Fault Refusal :=
  command s (fun s => do
    let r := s.turn
    let c ← coreOperand s r core
    ctxOperand s [c] ctx
    match (s.ctx c ctx).block with
    | none => fail .illegal
    | some blk =>
      let (route, xf, regs) ← openRecord s r (s.getX r b).toNat
      match (s.core c).freeFrame, (s.core c).placeBank ctx with
      | some n, some (bank, sp) =>
        let f := Frame.fresh ctx depth bank blk route xf regs s.ticks.toNat
        let k := s.core c
        let spill := match sp with
          | some (e, p) => sput k.spill e { p with frame := n }
          | none => k.spill
        let s := s.setCore c { k with frames := sput k.frames n f, spill := spill }
        .ok (s.setX r a (BitVec.ofNat 64 n))
      | _, _ => .error .wait)

/-- `fwait` (R125): it returns in the tick in which the frame retires, before the number is free (R137). -/
def execFwait (a core : Nat) (s : State) : Host.Outcome State Fault Refusal :=
  command s (fun s => do
    let r := s.turn
    let c ← coreOperand s r core
    let n := bits (s.getX r a).toNat 7 0
    await ((s.core c).frame n).isNone
    .ok s)

/-! ## Tokens of the control core (R126, R127) -/

/-- The faults of a `tsend` header (R126). -/
def tsendFault (priv : Bool) (t : Token) (p : Nat) : Option FaultCode :=
  if 38 ≤ t.slot ∨ t.slot = 34 then some .illegal
  else if t.len = 0 ∧ p ≠ 0 then some .illegal
  else if t.len ≠ 0 ∧ (t.inl = 0 ∨ lenBytes t.len < t.inl) then some .illegal
  else if t.slot = 36 ∧ t.port = 3 then some .protection
  else if t.slot = 37 ∧ !priv then some .protection
  else none

/-- The packet that a `tsend` sends, with its checks (R126); one to another package goes over the link its route names (R296, R297),
and the other end is not modelled (log 10). -/
def tsendPacket (s : State) (r a b p : Nat) : Res Packet := do
  let h := 2 ^ 64 * (s.getX r a).toNat + (s.getX r b).toNat
  let t := { tokenOf h [] with mark := 0 }
  match tsendFault ((s.region r).mode == .privileged) t p with
  | some f => fail f
  | none =>
    let n := lenBytes t.len
    let addr := (s.getX r p).toNat
    need (n == 0 || addr % 16 == 0) .illegal
    let v ← if n = 0 then .ok 0 else loadBytes s r addr n
    let q := packetOf (mailbox r) { t with payload := (toBytes t.inl v ++ List.replicate n 0).take n }
    let dest := (s.region r).tdest.toNat
    let pkg := bits dest 5 0
    if !bit dest 6 then .ok q
    else match s.route (mailbox r) pkg with
      | none => fail .translation
      | some l => .ok { q with pkg := pkg, dst := 2 ^ 16 * (pkg + 1) + q.dst, path := pathToLink (mailbox r) l }

/-- `tsend` (R126, R297): it waits while the pair has sixteen packets undelivered, and that wait counts at the first hop (R290). Its
payload is read as a load reads it (R305). -/
def execTsend (a b p : Nat) (s : State) : Host.Outcome State Fault Refusal :=
  let r := s.turn
  let m := s.drain r
  match (if s.drains r then tsendPacket m r a b p else .error .wait) with
  | .error e => finish m r (.error e)
  | .ok q =>
    if m.canSend q.src q.dst then
      let u := if p = 0 then m else m.askAccess r (m.getX r p).toNat (lenBytes q.tok.len) .read .load
      finish u r (.ok (u.sendSourced (m.region r).sendSince q))
    else finish (m.setRegion r { m.region r with sendSince := some ((m.region r).sendSince.getD m.ticks.toNat) }) r (.error .wait)

/-- The word `trecv` returns. -/
def messageWord (t : Token) : Word :=
  BitVec.ofNat 64 (2 ^ 56 * frameOf t.tag + 2 ^ 48 * bits t.tag 7 0 + 2 ^ 46 * t.kind.code + 2 ^ 44 * t.port +
    2 ^ 41 * t.fmt + t.inl)

/-- Store the valid bytes of a message, checked as a store would be (R127). -/
def storePayload (s : State) (r addr : Nat) (bs : List Nat) : Res State :=
  if bs.isEmpty then .ok s
  else do
    need (addr % 16 == 0) .illegal
    await (!walkHeld s (.control r) addr bs.length)
    let ks ← ofAcc addr (resolve s (.control r) addr bs.length .write)
    await (!vaultHeld s ks)
    .ok (((s.askControl r (s.homeAt ks) .store).store ks bs).noteKeys ks false)

/-- `trecv` (R127): the oldest message is taken; its payload is that of a data token (R28). -/
def execTrecv (a b : Nat) (s : State) : Host.Outcome State Fault Refusal :=
  command s (fun s => do
    let r := s.turn
    match (s.region r).msgs with
    | [] => .error .wait
    | t :: rest =>
      let addr := (s.getX r b).toNat
      let s ← if t.len ≠ 0 ∧ addr ≠ 0 ∧ t.kind = .data then storePayload s r addr (t.payload.take t.inl) else .ok s
      .ok ((s.setRegion r { s.region r with msgs := rest }).setX r a (messageWord t)))

/-! ## Loading and dropping a block (R121, R122) -/

/-- The image at an address, as words (R53), for a context of the lowest core named. -/
def readImage (s : State) (r addr core ctx : Nat) : Res (List Nat) := do
  if addr / 2 ^ 60 = 2 ∨ addr / 2 ^ 60 = 8 then .ok () else .error (.trap (Trap.access .protection addr))
  if addr % 8 ≠ 0 then .error (.trap { Trap.word .blockFormat with core := core % 16, ctx := ctx, instr := 31 })
  else
    let hs ← recordRead s r addr 16
    let h := (wordsOf 2 hs).map (·.toNat)
    let n := imageWords (nth 0 h 0) (nth 0 h 1)
    let bs ← recordRead s r addr (8 * n)
    .ok ((wordsOf n bs).map (·.toNat))

/-- The blocks a core's other contexts hold. -/
def Core.blocks (c : Core) (x : Nat) : List (Nat × Block) :=
  (range 0 4).filterMap (fun y => if y = x then none else (c.ctx y).block.map (fun b => (y, b)))

/-- The rings of a core's contexts. -/
def Core.allRings (c : Core) : List (Nat × Ring) :=
  (range 0 4).flatMap (fun y => (c.ctx y).rings.map (fun g => (y, g.2)))

/-- Load an image on one core: the context with its block, or the refusal. -/
def loadOn (s : State) (b : Block) (x c : Nat) : Except Refused Block :=
  let k := s.core c
  loadBlock b x ((k.blocks x).map (fun p => p.2.place)) (k.blocks x) k.allRings (k.pools.map (·.2))

/-- A context that has just been given a block (R121, R24, R80, R75, R357): its rings stay as `ringinit` has set them, and a
package that a debugger holds stops it at its first region edge (R302). -/
def Ctx.withBlock (k : Ctx) (b : Block) (hold : Bool) : Ctx :=
  { Ctx.reset with slot := .resident, block := some b, prio := b.prio, rstack := [b.dbg], score := k.score, last := k.last,
                   bkpt := k.bkpt, rings := k.rings, stopWanted := hold }

/-- Give every core of a list its laid-out block; the first refusal names its core (R121). -/
def loadAll (b : Block) (x : Nat) : List Nat → State → Res State
  | [], s => .ok s
  | c :: cs, s =>
    match loadOn s b x c with
    | .error (f, i) => .error (.trap { Trap.word f with core := c % 16, ctx := x, instr := i })
    | .ok b' => loadAll b x cs (s.setCtx c x ((s.ctx c x).withBlock b' s.die.debugHold))

/-- `bload` (R121). -/
def execBload (a b ctx : Nat) (s : State) : Host.Outcome State Fault Refusal :=
  command s (fun s => do
    let r := s.turn
    let cs ← maskOperand s r a
    ctxOperand s cs ctx
    need (cs.all (fun c => (s.ctx c ctx).block.isNone)) .illegal
    let ws ← readImage s r (s.getX r b).toNat (cs.headD 0) ctx
    loadAll (blockOf (s.getX r b) ws) ctx cs s)

/-- Whether a context of a core has a live frame; those of an absent image (bank 5) are not its own (R333). -/
def Core.hasFrames (c : Core) (x : Nat) : Bool := c.frames.any (fun f => f.2.ctx == x && f.2.bank != 5)

/-- What `bdrop` removes on one core (R122, R23): the flag word stays (R80). -/
def dropOn (x : Nat) (s : State) (c : Nat) : State :=
  let k := s.core c
  if (k.ctx x).block.isNone then s
  else
    let waits := k.waits.filter (fun w => w.owner != x || w.who == .talloc)
    let k1 := { k with ports := k.dropStreams x, waits := waits, reqs := k.reqs.filter (fun q => q.ctx != x),
                       resps := k.resps.filter (fun q => q.ctx != x) }
    let old := k1.ctx x
    let k2 := k1.setCtx x { Ctx.reset with score := old.score, last := old.last, bkpt := old.bkpt, flags := old.flags,
                                           fresh := old.fresh, enables := old.enables, prio := old.prio }
    (s.setCore c k2).touch c (range 0 4)

/-- `bdrop` (R122): it waits for the context's last live frame. -/
def execBdrop (a ctx : Nat) (s : State) : Host.Outcome State Fault Refusal :=
  command s (fun s => do
    let cs ← maskOperand s s.turn a
    ctxOperand s cs ctx
    await (cs.all (fun c => !(s.core c).hasFrames ctx))
    .ok (cs.foldl (dropOn ctx) s))

/-! ## Firing (R32) -/

/-- The train a token presents at its port (R29, R241). -/
def tokenTrain (t : Token) (uns : Bool) : Train :=
  match t.kind with
  | .data =>
    let ls := if t.len = 0 then
        ofPattern t.fmt uns (t.inl % 2 ^ memBits t.fmt) :: List.replicate (lanesOf t.fmt - 1) .absent
      else lanesOfBytes t.fmt uns (t.payload.take t.inl)
    { kind := .data, fmt := t.fmt, lanes := ls, tag := t.tag }
  | k => kindTrain k t.fmt t.tag

/-- The token that the matching store holds for a key and does not hold back. -/
def Core.storedToken (c : Core) (x tag : Nat) (e : Nat × Nat) : Option Stored :=
  c.store.find? (fun t => !t.held && t.tok.ctx == x && t.tok.tag == tag && t.tok.slot == e.1 && t.tok.port == e.2)

/-- The token of a key that counts towards readiness: from the beat after its arrival (R32). -/
def Core.entryToken (c : Core) (x tag : Nat) (e : Nat × Nat) : Option Stored :=
  c.store.find? (fun t => !t.held && t.beat < c.beat && t.tok.ctx == x && t.tok.tag == tag && t.tok.slot == e.1 && t.tok.port == e.2)

/-- The tokens of every entry slot, where all are there. -/
def Core.entryTokens (c : Core) (x tag : Nat) : List (Nat × Nat) → Option (List Stored)
  | [] => some []
  | e :: es =>
    match c.entryToken x tag e, c.entryTokens x tag es with
    | some t, some l => some (t :: l)
    | _, _ => none

/-- What an LD of the block needs at firing (R32, R194): a stream with data for a first beat on the port of an `ld`, or a stream alone
where the word waits on its after port, a filled slot for an `ldring`, a ready tile for a descriptor that comes with the instance. -/
def ldReady (c : Core) (x : Nat) (b : Block) (ts : List Stored) (i : Nat) : Bool :=
  let w := b.word i
  if w.kind ≠ 8 ∨ b.isFallback i then true
  else match w.sub with
    | 0 => (c.activeEntry (bits w.imm 3 0)).any (fun e => (b.ports i).contains 2 || e.firstReady)
    | 2 => 0 < ((c.ctx x).ring (bits w.imm 3 0)).filled
    | 3 => true
    | _ =>
      match ts.find? (fun t => t.tok.slot == i && t.tok.port == 0) with
      | some t =>
        let v := (tokenTrain t.tok false).lane 0
        t.tok.kind != .data || v == .absent || (c.tile (descTile (wrapInt 32 (intOf v).1))).state == .ready
      | none => true

/-- Whether the frame of a tag can fire (R25, R42, R225): open, of the context, not at 255 instances, not already fired
once where it fires once only. -/
def Frame.mayFire (f : Frame) (x : Nat) (b : Block) : Bool :=
  f.state == .opened && f.ctx == x && f.inflight < 255 && !(f.fired && (f.depth == 0 || b.entries.isEmpty))

/-- Whether an instance of a tag has matched: all its entry slots hold tokens and its LD words can begin. -/
def matched (c : Core) (x tag : Nat) : Bool :=
  match (c.ctx x).block, c.frame (frameOf tag) with
  | some b, some f =>
    f.mayFire x b && (!b.entries.isEmpty || tag == 2 ^ 56 * frameOf tag) &&
    (match c.entryTokens x tag b.entries with
      | some ts => (range 0 b.count).all (ldReady c x b ts)
      | none => false)
  | _, _ => false

/-- Whether a word sends EOS one train position behind its result: the packing and flush words (R184). -/
def FWord.lags (w : FWord) : Bool :=
  (w.kind == 6 && w.sub == 4) || (w.kind == 7 && (w.sub ≤ 2 || w.sub == 5)) || (w.kind == 10 && w.sub == 5)

/-- How many train positions the EOS of each instruction's output may lie behind that of the block's inputs (R184): one for each
packing or flush word on the way; a round follows every arc once. -/
def Block.lags (b : Block) : Nat → List Nat
  | 0 => List.replicate b.count 0
  | n + 1 =>
    let l := b.lags n
    (range 0 b.count).map (fun i => b2n (b.word i).lags +
      ((b.balanced.filter (fun a => a.dst == i)).map (fun a => nth 0 l a.src)).foldl Nat.max 0)

/-- The most of a block: the positions that stay free behind an instance that ends (R138). -/
def Block.lag (b : Block) : Nat := if (range 0 b.count).any (fun i => (b.word i).lags) then (b.lags b.count).foldl Nat.max 0 else 0

/-- Whether an instance is ready to fire (R32): it has matched, its bank is resident and not moving, and the context may fire; a
source takes one train in two advances, its EOS among them, with the positions behind it that the block's flush words take (R138,
R184). -/
def canFire (c : Core) (x tag : Nat) : Bool :=
  let k := c.ctx x
  matched c x tag && k.slot == .resident && !k.holdFire && !k.stopWanted && k.steer.isNone && k.fireAt ≤ k.adv + 1 &&
  !c.faulted (frameOf tag) &&
  (match c.frame (frameOf tag) with
    | some f => f.bank < 4 && f.rests ≤ c.beat
    | none => false) &&
  (match k.block with
    | some b => (range 0 b.count).all (fun i => !(b.word i).source ||
        (!(k.elem i).active && ((k.elem i).next = 0 || (k.elem i).next + 2 * b.lag ≤ k.adv + 1 + nth 0 b.ins i)))
    | none => false)

/-- The sampling decision at a firing (R355): the LFSR after it, and whether the firing is chosen. -/
def sampleStep (c : Core) (core x : Nat) : Option Nat × Bool :=
  let w := c.sampling.toNat
  if !bit w 31 || !(bits w 15 12 == 0 || bit (bits w 15 12) x) then (c.sampler, false)
  else
    let st := lfsrStep (c.sampler.getD (lfsrSeed core 0x1FF 0))
    (some st, st % 2 ^ bits w 20 16 == 0)

/-- Trains at a port, one position after another. -/
def Ctx.pushAll (k : Ctx) (i port due : Nat) : List Timed → Ctx
  | [] => k
  | t :: ts => (k.push i port { t with due := due }).pushAll i port (due + 2) ts

/-- The trains of a drain as they stand at their port: the flags of beat 1 go with the lanes on a cancellable arc into a `thr`
or `sign` word, and those that are raised for certain with the EOS (R322, R144). -/
def drainTrains (b : Block) (id : Nat) (d : Drain) : List Timed :=
  let w := b.word d.idx
  let cut := w.kind == 2 && (w.sub == 10 || w.sub == 11) && d.port == 0 && nth 0 b.ins d.idx == 0
  let sure := d.lfs.flatten.foldl (fun f g => f ||| (if cut then g &&& 3 else g)) 0
  (d.trains.zip d.lfs).map (fun p =>
    let lf := if p.1.kind = .eos then [some sure] else if cut then p.2.map (fun g => some (g &&& 28)) else []
    { due := 0, inst := id, src := drainMark, lf := lf, train := p.1 })

/-- Whether a token is the first of a drain's trains. -/
def Drain.sends (d : Drain) (t : Token) : Bool :=
  d.ctx == t.ctx && d.idx == t.slot && d.port == t.port && d.tag == t.tag && t.len == 0 && t.inl == 0 &&
    d.trains.head?.any (fun a => a.kind == t.kind && a.fmt == t.fmt)

/-- The trains an entry token stands for: those of a drain (R322), or its own, followed by EOS in a frame of depth 0
(R42). -/
def entryTrains (drains : List Drain) (b : Block) (id depth : Nat) (t : Token) : List Timed :=
  match drains.find? (fun d => d.sends t) with
  | some d => drainTrains b id d
  | none =>
    let tr := tokenTrain t (b.word t.slot).uns
    let own (tr : Train) : Timed := { due := 0, inst := id, src := 63, lf := [], train := tr }
    if depth = 0 ∧ tr.kind ≠ .eos then [own tr, own (kindTrain .eos tr.fmt tr.tag)] else [own tr]

/-- The train positions that the entry trains of a firing take, and those that an EOS among them takes further on. -/
def positionsTaken (drains : List Drain) (b : Block) (depth : Nat) (ts : List Stored) : Nat :=
  let trains := ts.map (fun t => entryTrains drains b 0 depth t.tok)
  trains.foldl (fun m l => Nat.max m l.length) (if depth = 0 then 2 else 1) +
    (if depth = 0 || trains.any (fun l => l.any isEos) then b.lag else 0)

/-- The entry slots whose trains of a firing end in EOS (R42, R322, R331). -/
def closedSlots (drains : List Drain) (b : Block) (depth : Nat) (ts : List Stored) : List (Nat × Nat) :=
  (ts.filter (fun t => (entryTrains drains b 0 depth t.tok).any (fun m => m.train.kind == .eos))).map
    (fun t => (t.tok.slot, t.tok.port))

/-- Whether the output of instruction `i` ends within the instance that fires with these slots closed: a source of its own does, and a
tile read whose descriptor comes with the instance; another word once every port it takes does, but for the after port of a tile read
(R41, R184, R192, R194). -/
def Block.endsWith (b : Block) (closed : List (Nat × Nat)) : Nat → Nat → Bool
  | 0, _ => true
  | n + 1, i =>
    let w := b.word i
    let tiles := w.isMem && w.kind == 8 && (w.sub == 1 || w.sub == 4)
    w.source || (tiles && !b.fed i 0) ||
      (b.ports i).all (fun q => (w.recurs && q == 3) || (tiles && q == 2) || (match b.arcs.find? (fun a => a.dst == i && a.port == q) with
        | some a => b.endsWith closed n a.src
        | none => closed.contains (i, q)))

/-- The recurrences of an instance whose path is to bring an EOS (R242). -/
def loopsOf (b : Block) (closed : List (Nat × Nat)) : List Nat :=
  (range 0 b.count).filter (fun i => (b.word i).recurs && b.fed i 3 && !b.isFallback i && b.endsWith closed (b.count + 1) i)

/-- The new instance of a firing. -/
def newInst (c : Core) (x tag : Nat) (b : Block) (f : Frame) (ts : List Stored) (marked : Bool) : Inst :=
  let k := c.ctx x
  let (t, u) := stackTop k.rstack
  let first := ts.foldl (fun m t => Nat.min m t.beat) c.beat
  { id := k.nextInst, tag := tag, done := [], regs := [], outs := [], exits := [], chan := [], exitNulls := [], eosCh := [], lsids := [],
    flags := 0, unacked := 0, isEnd := !ts.isEmpty && ts.all (fun t => t.tok.kind == .eos), tiles := [], acts := [],
    owedEos := [], loops := loopsOf b (closedSlots c.drains b f.depth ts), marked := marked, rtop := t, rsecond := u, bank := f.regs, stages := [c.beat - first, 0, 0, 0, 0] }

/-- The entry trains of a firing enter their ports. -/
def Ctx.enterTokens (k : Ctx) (drains : List Drain) (b : Block) (id : Nat) (depth : Nat) : List Stored → Ctx
  | [] => k
  | t :: ts =>
    (k.pushAll t.tok.slot t.tok.port (k.adv + 1 + nth 0 b.ins t.tok.slot) (entryTrains drains b id depth t.tok)).enterTokens
      drains b id depth ts

/-- The source elements of a firing begin (R184, R194): an `ldring` takes the slot at kp. -/
def Ctx.startSources (k : Ctx) (b : Block) (id : Nat) : List Nat → Ctx
  | [] => k
  | i :: is =>
    let w := b.word i
    if !w.source || b.isFallback i then k.startSources b id is
    else
      let m := { (k.elem i).rest id with active := true, next := k.adv + 1 + nth 0 b.ins i }
      if w.sub = 0 then (k.setElem i m).startSources b id is
      else
        let n := bits w.imm 3 0
        let g := k.ring n
        let k1 := (k.setRing n { g with kp := (g.kp + 1) % 65536 }).setElem i { m with tile := g.tileOf g.kp }
        k1.startSources b id is

/-- A breakpoint hit at the firing of an instance (R358). -/
def Ctx.checkBkpt (k : Ctx) (b : Block) (n : Inst) : Ctx :=
  match k.bkpt with
  | none => k
  | some p =>
    if p.block = b.id ∧ (p.region = 0xFFFF ∨ p.region = (stackTop k.rstack).1) then
      { k with bkpt := none, stopWanted := true, hit := some (n.tag, n.rtop, n.rsecond) } else k

/-- The core after an instance fires as one unit. -/
def fireInst (c : Core) (core x tag : Nat) (b : Block) (f : Frame) (ts : List Stored) : Core :=
  let (sampler, chosen) := sampleStep c core x
  let marked := chosen && c.following.isNone
  let n := newInst c x tag b f ts marked
  let k := c.ctx x
  let k1 := { k with insts := k.insts ++ [n], nextInst := k.nextInst + 1,
                     fireAt := k.adv + 1 + 2 * positionsTaken c.drains b f.depth ts }
  let k2 := ((k1.enterTokens c.drains b n.id f.depth ts).startSources b n.id (range 0 b.count)).checkBkpt b n
  let f1 := { f with inflight := f.inflight + 1, fired := true, closed := f.closed || f.depth == 0, lastFire := c.beat }
  let drained := ts.filterMap (fun t => c.drains.find? (fun d => d.sends t.tok))
  let c1 := { c with store := ts.foldl (fun l t => l.erase t) c.store, drains := drained.foldl (fun l d => l.erase d) c.drains, frames := sput c.frames (frameOf tag) f1,
                     sampler := sampler, following := if marked then some (x, n.id) else c.following }
  let c2 := (c1.setCtx x k2).countEvent 2 x 1
  if chosen && !marked then c2.countEvent 21 x 1 else c2

/-- FIRE: the instance of a tag fires (R32). -/
def execFire (core ctx tag : Nat) (s : State) : Host.Outcome State Fault Refusal :=
  let c := s.core core
  .next (State.tick (if !canFire c ctx tag then s
    else match (c.ctx ctx).block, c.frame (frameOf tag) with
      | some b, some f => match c.entryTokens ctx tag b.entries with
        | some ts => s.setCore core (fireInst c core ctx tag b f ts)
        | none => s
      | _, _ => s))

/-- REGISTER_BANK_SWAP: a matched spilled frame takes the bank of the resident frame of its context that has nothing in
flight and fired least recently; neither fires for 8 beats (R225). -/
def execRegisterBankSwap (core frame : Nat) (s : State) : Host.Outcome State Fault Refusal :=
  let c := s.core core
  .next (State.tick (match c.frame frame with
    | none => s
    | some f =>
      let mine : List Stored := c.store.filter (fun t => frameOf t.tok.tag == frame)
      let tags := (2 ^ 56 * frame) :: mine.map (fun t => t.tok.tag)
      if f.bank ≠ 4 ∨ c.beat < f.rests ∨ !tags.any (matched c f.ctx) then s
      else
        let rs : List (Nat × Frame) := c.frames.filter (fun g => g.2.ctx == f.ctx && g.2.bank < 4 && g.2.inflight == 0 && g.2.rests ≤ c.beat)
        match pickFirst (fun (a b : Nat × Frame) => a.2.lastFire < b.2.lastFire || (a.2.lastFire == b.2.lastFire && a.1 < b.1)) rs with
        | none => s
        | some (n, g) =>
          let frames := sput (sput c.frames frame { f with bank := g.bank, rests := c.beat + 8 }) n { g with bank := 4, rests := c.beat + 8 }
          let spill := c.spill.map (fun e => (e.1, if e.2.frame = frame then { e.2 with frame := n } else e.2))
          s.setCore core { c with frames := frames, spill := spill }))

/-! ## The beat (R35-R38) -/

/-- The tags of instances of a context that may be complete: those of its tokens, and of its frames where the block takes
no token. -/
def candidateTags (c : Core) (x : Nat) : List Nat :=
  ((c.store.filter (fun t => t.tok.ctx == x)).map (·.tok.tag)).foldl insertNat
    ((c.frames.filter (fun f => f.2.ctx == x)).map (fun f => 2 ^ 56 * f.1))

/-- Whether a context has an instance ready to fire. -/
def hasReady (c : Core) (x : Nat) : Bool := (candidateTags c x).any (canFire c x)

/-- Whether a context has a train in its pipeline. -/
def Ctx.busy (k : Ctx) : Bool := !k.queues.isEmpty || k.elems.any (fun e => e.2.active)

/-- Whether a response that the schedule expects in the next advance is still outstanding (R35). -/
def awaitsMemory (c : Core) (x : Nat) : Bool :=
  let adv := (c.ctx x).adv
  c.reqs.any (fun r => r.ctx == x && r.due ≤ adv + 1) || c.resps.any (fun r => r.ctx == x && r.due ≤ adv + 1)

/-- Whether a frame of the context has faulted and is not parked yet. -/
def awaitsPark (c : Core) (x : Nat) : Bool :=
  c.faults.any (fun f => match c.frame f.1 with
    | some fr => fr.ctx == x
    | none => false)

/-- Whether a context is stalled as a unit on a reason: 0 memory, 1 network, 2 allocation, 3 a tile. -/
def lateFor (c : Core) (x why : Nat) : Bool :=
  (c.ctx x).late.any (fun l => l.2 == why) || (why == 0 && awaitsMemory c x)

/-- Whether a park image of the context is still being captured (R229). -/
def Core.capturing (c : Core) (x : Nat) : Bool := c.parks.any (fun p => p.2.before.ctx == x && c.beat < p.2.captured)

/-- A ready context (R35). -/
def ready (c : Core) (x : Nat) : Bool :=
  let k := c.ctx x
  k.slot == .resident && !c.capturing x && k.late.isEmpty && k.lateBeat != some c.beat && k.steer.isNone && !awaitsMemory c x && !awaitsPark c x && (k.busy || hasReady c x)

/-- The order of R36: aged first, then priority, last advance, number. -/
def selBefore (c : Core) (a b : Nat) : Bool :=
  let x := c.ctx a
  let y := c.ctx b
  let p : Bool := 4096 ≤ x.age
  let q : Bool := 4096 ≤ y.age
  if p != q then p
  else if p && x.age != y.age then y.age < x.age
  else if x.prio != y.prio then y.prio < x.prio
  else if x.last != y.last then x.last < y.last
  else a < b

/-- Insert into a list kept in an order. -/
def insertBy (before : Nat → Nat → Bool) (a : Nat) : List Nat → List Nat
  | [] => [a]
  | b :: l => if before a b then a :: b :: l else b :: insertBy before a l

/-- The element set of a context (R24). -/
def Ctx.elemSet (k : Ctx) : List Nat :=
  match k.block with
  | some b => b.place
  | none => []

/-- Take contexts in order while their element sets are free. -/
def selectFrom (c : Core) : List Nat → List Nat → List Nat
  | [], _ => []
  | x :: xs, taken =>
    let es := (c.ctx x).elemSet
    if es.any (fun e => taken.contains e) then selectFrom c xs taken else x :: selectFrom c xs (es ++ taken)

/-- The contexts that advance in this beat (R36). -/
def selected (c : Core) : List Nat :=
  selectFrom c (((range 0 4).filter (ready c)).foldl (fun l x => insertBy (selBefore c) x l) []) []

/-! ### The scorecard (R351, R352) -/

/-- The instruction that sits on an element. -/
def Ctx.onElement (k : Ctx) (e : Nat) : Option Nat :=
  match k.block with
  | some b => (range 0 b.count).find? (fun i => nth 0 b.place i == e)
  | none => none

/-- The digit beats an instruction's element holds at an advance. -/
def Ctx.beatsAt (k : Ctx) (adv i : Nat) : List Hold := (k.elem i).held.filter (fun h => h.first ≤ adv && adv ≤ h.last)

/-- Whether a frame of a context misses only entry tokens that registered triggers name (R351). -/
def phaseStarved (c : Core) (x : Nat) : Bool :=
  match (c.ctx x).block with
  | none => false
  | some b => c.frames.any (fun f =>
      let missing := b.entries.filter (fun e =>
        !c.store.any (fun t => frameOf t.tok.tag == f.1 && t.tok.ctx == x && t.tok.slot == e.1 && t.tok.port == e.2))
      f.2.ctx == x && f.2.state == .opened && !missing.isEmpty &&
        missing.all (fun e => c.triggers.contains (e.1, x, f.1)))

/-- Whether an LD of a context waits on a tile or a ring slot. -/
def tileStarved (c : Core) (x : Nat) : Bool :=
  lateFor c x 3 ||
  (match (c.ctx x).block with
    | none => false
    | some b => (candidateTags c x).any (fun tag => match c.entryTokens x tag b.entries with
        | some ts => (range 0 b.count).any (fun i => (b.word i).sub != 0 && !ldReady c x b ts i)
        | none => false))

/-- The class of an element for a context in a beat (Table 23.2), as an index of R352's order: `adv` says that the context
advances, `passed` that it is ready and passed over. -/
def beatClass (c : Core) (x : Nat) (advances passed : Bool) (e : Nat) : Nat :=
  let k := c.ctx x
  match k.onElement e with
  | none => 9
  | some i =>
    let held := k.beatsAt (k.adv + b2n advances) i
    if k.slot == .stopped || passed then 9
    else if advances && held.any (·.cut) then 2
    else if advances && !held.isEmpty then 1
    else if lateFor c x 0 then 3
    else if lateFor c x 1 then 4
    else if !held.isEmpty then 9
    else if c.waits.any (fun w => w.owner == x && (match w.who with
      | .alloc _ _ => true
      | _ => false)) then 6
    else if tileStarved c x then 7
    else if phaseStarved c x then 8
    else if c.hasFrames x && !hasReady c x then 5
    else 9

/-- Count one beat of a context in service. -/
def scoreBeat (c : Core) (x : Nat) (advances passed : Bool) : List Nat :=
  let sc := if (c.ctx x).score.isEmpty then List.replicate 10 0 else (c.ctx x).score
  let add (l : List Nat) (i : Nat) : List Nat := setNth l i ((nth 0 l i + 1) % 2 ^ 48)
  (range 0 32).foldl (fun l e => add l (beatClass c x advances passed e)) (add sc 0)

/-! ### Sampled instances (R355) -/

/-- Whether everything but the store acknowledges of an instance is there (R39); of an end instance, the EOS of each of its frame's
sinks, of which `sinks` are open (R331). -/
def commitShape (b : Block) (sinks : Nat) (n : Inst) : Bool :=
  let regs := (range 0 b.count).flatMap (fun i => ((b.targets i).filter (fun t => t.ty == 2)).map (·.idx))
  n.owedEos.isEmpty && n.loops.isEmpty &&
  (if n.isEnd then sinks == 0
   else n.exits.length == 1 && (range 0 b.nout).all (fun ch => n.outs.contains ch) &&
    regs.all (fun r => (regs.filter (fun q => q == r)).length ≤ (n.regs.filter (fun w => w.1 == r)).length))

/-- Whether every LSID of the store mask has been acknowledged (R39). -/
def acked (b : Block) (n : Inst) : Bool := (maskList b.storeMask 32).all (fun l => n.lsids.contains l)

/-- The sinks of an instance's frame that are open. -/
def Core.sinksOf (c : Core) (n : Inst) : Nat := ((c.frame (frameOf n.tag)).map (·.sinks)).getD 1

/-- The stage of an instance in this beat: 1 buffer, 2 element, 3 commit, 4 acknowledge. -/
def sampleStage (c : Core) (k : Ctx) (b : Block) (n : Inst) : Option Nat :=
  if k.elems.any (fun e => e.2.held.any (fun h => h.inst == n.id && h.first ≤ k.adv && k.adv ≤ h.last)) then some 2
  else if k.queues.any (fun q => q.2.any (fun t => t.inst == n.id)) then some 1
  else if commitShape b (c.sinksOf n) n then (if acked b n then some 3 else some 4) else none

/-- Count a beat of every instance in flight: one may be marked only later (R355). -/
def Core.followBeat (c : Core) : Core :=
  let count (k : Ctx) (b : Block) (n : Inst) : Inst := match sampleStage c k b n with
    | some i => { n with stages := setNth n.stages i (nth 0 n.stages i + 1) }
    | none => n
  { c with ctxs := c.ctxs.map (fun (x : Nat × Ctx) => match x.2.block with
    | some b => (x.1, { x.2 with insts := x.2.insts.map (count x.2 b) })
    | none => x) }

/-- What one beat does to a context: it advances, is passed over, or rests; the scorecard and the beat's events count. -/
def beatCtx (c0 : Core) (sel : List Nat) (c : Core) (x : Nat) : Core :=
  let k := c.ctx x
  let advances := sel.contains x
  let passed := ready c0 x && !advances
  if k.slot != .resident && k.slot != .stopped then c
  else
    let k1 := { k with score := scoreBeat c0 x advances passed }
    let k2 := if advances then { k1 with adv := k.adv + 1, age := 0, last := c0.beat }
      else if passed then { k1 with age := k.age + 1 } else k1
    let c1 := (c.setCtx x k2).countEvent 1 x 1
    let c2 := if passed then c1.countEvent 7 x 1 else c1
    if advances && 4096 ≤ k.age then c2.countEvent 8 x 1 else c2

/-! ### The deadlock watch (R222) -/

/-- Whether a context with live frames holds the watch: it waits on allocation, or has nothing ready and no train. -/
def heldForAlloc (c : Core) (x : Nat) : Bool :=
  !c.hasFrames x || lateFor c x 2 || awaitsPark c x || (!(c.ctx x).busy && !hasReady c x)

/-- Whether a copy of a core's unit counts as outstanding: one that waits for a ring slot does not. -/
def copiesOutstanding (c : Core) : Bool :=
  !c.copy.chunks.isEmpty ||
    c.copy.queues.any (fun q => q.2.any (fun k => !(k.started && bit (nth 0 k.words 0).toNat 47 && k.slotTile.isNone)))

/-- The keys a write touches. -/
def ChunkOp.keys : ChunkOp → List Nat
  | .write ks _ _ => ks
  | .add ks _ _ _ _ _ => ks
  | .append kc slots _ _ => kc ++ slots.flatten

/-- Whether a copy unit has a cpm that writes into the scratchpad of a core of its region, queued or issued (R222). -/
def CopyUnit.castsTo (u : CopyUnit) (core : Nat) : Bool :=
  u.queues.any (fun q => q.2.any (fun k => bits (nth 0 k.words 0).toNat 63 60 == 4 && bit (nth 0 k.words 3).toNat (32 + core % 16))) ||
  u.chunks.any (fun h => h.ops.any (fun o => o.keys.any (fun k => spadOff core k |>.isSome)))

/-- Whether a packet is a token for a core. -/
def Packet.tokenFor (p : Packet) (core : Nat) : Bool := p.dst == core && !p.reply && p.ask.isNone

/-- Whether a token on its way, or waiting to leave, is addressed to a core. -/
def tokenComing (s : State) (core : Nat) : Bool :=
  s.arrivals.any (fun a => a.2.any (fun p => p.tokenFor core)) || s.waitingSend.any (fun p => p.tokenFor core) ||
  s.queues.any (fun q => q.2.any (fun p => p.tokenFor core))

/-- Whether a request is one that a memory node has still to answer (R222): its next access lies outside window 0x0, and its frame has
not faulted. -/
def MemReq.atNode (c : Core) (q : Option PortEntry) (r : MemReq) : Bool :=
  let addr : Option Word := match r.accs, q with
    | a :: _, some e => some (if a.addr = 0 && patWrites e.pattern && r.kind == .write then patAddr e.pattern e.addend e.pos else a.addr)
    | [], some e => if r.kind = .read then some (patAddr e.pattern e.addend e.pos) else none
    | _, none => none
  !r.faulted && !c.faulted (frameOf r.tag) && addr.any (fun a => a.toNat / 2 ^ 60 != 0)

/-- Whether a memory-node response to a core is outstanding (R222): a request that its node has still to answer, or an answer on its way
to a frame that has not faulted. -/
def Core.awaitsNode (c : Core) : Bool :=
  c.reqs.any (fun r => r.atNode c (r.port.bind c.activeEntry)) || c.resps.any (fun a => !a.faulted && !c.faulted (frameOf a.train.tag)) ||
  c.awayReqs.any (fun r => r.atNode c (((r.entry.bind (sfind c.divs)).bind (fun d => r.port.bind (fun p =>
    (d.entries.find? (fun (q : Nat × List PortEntry) => q.1 == p)).bind (fun q => q.2.find? (·.active))))))) || !c.awayResps.isEmpty

/-- The condition under which a core's deadlock watch counts (R222). -/
def deadlocked (s : State) (core : Nat) : Bool :=
  let c := s.core core
  !c.frames.isEmpty && (range 0 4).all (heldForAlloc c) && !copiesOutstanding c && !c.awaitsNode &&
  !s.cores.any (fun k => k.1 != core && k.1 / 16 == core / 16 && k.2.copy.castsTo core) && !tokenComing s core

/-- The element steps of a beat: those of each advancing context, by index (R150). -/
def beatSteps (c : Core) (core : Nat) : List Happening :=
  (selected c).flatMap (fun x => match (c.ctx x).block with
    | some b => (range 0 b.count).map (Happening.element core x)
    | none => [])

/-- The `alloc` words of a core that wait on the allocator: each looks again once the beat's requests are served (R215). -/
def allocSteps (c : Core) (core : Nat) : List Happening :=
  (range 0 4).flatMap (fun x => match (c.ctx x).block with
    | some b => ((range 0 b.count).filter (fun i => isAlloc (b.word i) &&
        ((c.ctx x).late.contains (i, 2) || c.waits.any (fun w => w.owner == x && (match w.who with
          | .alloc j _ => j == i
          | _ => false))))).map (Happening.element core x)
    | none => [])

/-- The writes of a beat to its core's counts hold from the next (R353, R359). -/
def Core.takeCounts (c : Core) : Core :=
  { c with counters := c.countersNew.foldl (fun l p => sput l p.1 p.2) c.counters, countersNew := [], scoreClears := [],
           ctxs := c.ctxs.map (fun (x : Nat × Ctx) => (x.1, if c.scoreClears.contains x.1 then { x.2 with score := [] } else x.2)) }

/-- The end of a beat whose requests or releases touch a pool (R219): the pools are served, and the `alloc` words that wait look again;
the selection follows. -/
def endBeat (s : State) (core : Nat) : State :=
  let s1 := s.serveTouched core
  { s1 with agenda := allocSteps (s.core core) core ++ (.event (.beatSelect core) :: s.agenda) }

/-- The selection of a beat: every element of an advancing context then takes its step. -/
def selectBeat (s : State) (core : Nat) : State :=
  let c := s.core core
  let sel := selected c
  let dead := if deadlocked s core then c.dead + 1 else 0
  let ctxs := c.ctxs.map (fun (x : Nat × Ctx) => (x.1, x.2.nextBeat))
  let c1 := ((range 0 4).foldl (beatCtx c sel)
    { c with ctxs := ctxs, beat := c.beat + 1, dead := dead, retired := [], dropped := [] }).followBeat.takeCounts
  ({ s.setCore core c1 with agenda := beatSteps c core ++ s.agenda } : State).softErrors core

/-- BEAT_SELECT: one beat of a core ends (R219) and the next is selected (R36); its soft errors are met (R280, R353). -/
def execBeatSelect (core : Nat) (s : State) : Host.Outcome State Fault Refusal :=
  .next (if (s.core core).touched.isEmpty then selectBeat s core else endBeat s core).tick

/-- CONTEXT_AGED: a context is aged while its age is 4,096 or more (R36, R38); nothing else changes. -/
def execContextAged (_core _ctx : Nat) (s : State) : Host.Outcome State Fault Refusal := .next s.tick

/-- FALLBACK_RETURN: the fallback instruction works on the steered train, the steering instruction fires with what it returns,
and the elements after it take the step of the advance that the stall kept from them (R150). -/
def execFallbackReturn (core ctx : Nat) (s : State) : Host.Outcome State Fault Refusal :=
  .next (State.tick (match (s.ctx core ctx).steer, (s.ctx core ctx).block with
    | some t, some b => { s with agenda := .element core ctx t.fb :: ((range t.idx (b.count - t.idx)).map (Happening.element core ctx)
        ++ s.agenda) }
    | _, _ => s))

/-! ## Commit (R39, R40, R216) -/

/-- Whether anything of an instance is still under way: trains, elements, requests, answers. -/
def underWay (c : Core) (x : Nat) (n : Inst) : Bool :=
  let k := c.ctx x
  k.queues.any (fun q => q.2.any (fun t => t.inst == n.id)) || k.elems.any (fun e => e.2.active && e.2.inst == n.id) ||
  c.reqs.any (fun r => r.ctx == x && r.inst == n.id) || c.resps.any (fun r => r.ctx == x && r.inst == n.id)

/-- Whether every access made for an instance has been answered. -/
def answered (c : Core) (x : Nat) (n : Inst) : Bool :=
  !(c.reqs.any (fun r => r.ctx == x && r.inst == n.id) || c.resps.any (fun r => r.ctx == x && r.inst == n.id))

/-- Whether an instance commits (R39, R242). -/
def commits (c : Core) (x : Nat) (b : Block) (n : Inst) : Bool := commitShape b (c.sinksOf n) n && acked b n && answered c x n

/-- One `handoff` or `release` at a commit: the checks in the order of R216's table; a tile that fills or drains has no release
(log 69). -/
def actOn (c x : Nat) (a : TileAct) (s : State) : Except FaultCode State :=
  let t := s.tile c (descTile a.desc)
  if !descOk a.desc || t.state == .empty || (a.handoff && t.state != .ready) then .error .illegal
  else if t.owner ≠ x then .error .protection
  else if a.handoff then .ok (s.setTile c (descTile a.desc) { t with owner := a.owner })
  else if t.state ≠ .ready ∨ t.readers = 0 then .error .illegal
  else .ok (s.releaseTile c (descTile a.desc))

/-- All acts in instruction index order; the first fault with its instruction. -/
def actAll (c x : Nat) : List TileAct → State → Except (FaultCode × Nat) State
  | [], s => .ok s
  | a :: as, s => match actOn c x a s with
    | .error f => .error (f, a.idx)
    | .ok s => actAll c x as s

/-- Acts in instruction index order. -/
def insertAct (a : TileAct) : List TileAct → List TileAct
  | [] => [a]
  | b :: l => if a.idx < b.idx then a :: b :: l else b :: insertAct a l

/-- The registers after an instance's writes, in order. -/
def writeRegs (regs : Sparse Nat) : List (Nat × Option Nat) → Sparse Nat
  | [] => regs
  | (r, some v) :: l => writeRegs (sput regs r v) l
  | (_, none) :: l => writeRegs regs l

/-- The state after an instance commits; its exit token has left as channel 31 took it (R244). -/
def commitInst (s : State) (c x : Nat) (n : Inst) : State :=
  let s1 := s.modCtx c x (fun k => { k.enterFlags n.flags with insts := k.insts.filter (fun m => m.id != n.id) })
  let s2 := s1.modFrame c (frameOf n.tag) (fun f => { f with inflight := f.inflight - 1, regs := writeRegs f.regs n.regs })
  (s2.countEvent c 3 x 1).sample c x n false

/-- INSTANCE_COMMIT: the instance of a context that fired first commits, if it can (R39, R40). An instance whose paths to
channel 31 have all delivered null, with nothing under way, raises TAG-CHECK. -/
def execInstanceCommit (core ctx : Nat) (s : State) : Host.Outcome State Fault Refusal :=
  let c := s.core core
  .next (State.tick (match (c.ctx ctx).block, (c.ctx ctx).insts with
    | some b, n :: _ =>
      match c.frame (frameOf n.tag) with
      | none => s
      | some _ =>
        if c.faulted (frameOf n.tag) then s
        else if commits c ctx b n then
          let s1 := n.tiles.foldl (fun s t => s.commitTile core t) s
          match actAll core ctx (n.acts.foldl (fun l a => insertAct a l) []) s1 with
          | .error (e, i) => s.raise core ctx i e 0 n.tag 0
          | .ok s2 => commitInst s2 core ctx n
        else if !n.isEnd && n.exits.isEmpty && !n.exitNulls.isEmpty && !underWay c ctx n then
          s.raise core ctx 31 .tagCheck 0 n.tag 0
        else s
    | _, _ => s))

/-! ## Retirement (R41) -/

/-- A frame's entry, bank and spill-map entry become free, and the trains it has left in the pipeline are dropped. -/
def Core.freeFrameEntry (c : Core) (n : Nat) : Core :=
  let c := c.dropSpill n
  let drop (k : Ctx) : Ctx :=
    let qs := k.queues.map (fun q => (q.1, q.2.filter (fun t => frameOf t.train.tag != n)))
    { k with queues := qs.filter (fun q => !q.2.isEmpty) }
  { c with frames := sdel c.frames n, retired := n :: c.retired, ctxs := c.ctxs.map (fun k => (k.1, drop k.2)),
           offends := c.offends.filter (fun t => frameOf t.tok.tag != n) }

/-- A token is discarded. Where it is the first train of a drain the trains behind it go with it: they have been sent, and the order's
flags enter as they do with the EOS (R322). -/
def State.lostDrain (s : State) (c : Nat) (t : Token) : State :=
  let k := s.core c
  match k.drains.reverse.find? (fun d => d.sends t) with
  | none => s
  | some d =>
    let f := d.lfs.flatten.foldl (fun f g => f ||| g) 0
    let s1 := (s.setCore c { k with drains := (k.drains.reverse.erase d).reverse }).modCtx c t.ctx (fun k => k.enterFlags f)
    if f &&& (s.ctx c t.ctx).trapEnables ≠ 0 then
      s1.raiseAsync (regionOf c) (Trap.engine FaultCode.arith.code c t.ctx d.idx 0 0)
    else s1

/-- A token with no frame to park: discarded, and TAG-CHECK goes to the control core (R34, R227). -/
def State.strayToken (s : State) (c : Nat) (t : Token) : State :=
  (s.lostDrain c t).raiseAsync (regionOf c) (Trap.engine FaultCode.tagCheck.code c t.ctx 0 0 0)

/-- The tokens of a frame that have met it in this beat and are in no store: offending ones, whose faults are the frame's only ones, and
EOS tokens that a closed slot has discarded; none where the frame has a fault of another beat or of an instruction. -/
def Core.lateTokens (c : Core) (frame : Nat) : Option (List Token) :=
  let mine (t : Stored) : Bool := frameOf t.tok.tag == frame
  let off := c.offends.filter mine
  if (c.faults.filter (fun g => g.1 == frame)).length = off.length ∧ off.all (fun t => t.beat == c.beat) then
    some ((off ++ c.dropped.filter mine).map (·.tok))
  else none

/-- FRAME_RETIRE: a frame with no open sink, no store and no instance retires; tokens left of it raise TAG-CHECK (R41), and
those that arrive in the beat of its retirement meet a retired frame, whatever else they offend (R25, R34, R43). Its bank passes to a
spilled frame (R245). -/
def execFrameRetire (core frame : Nat) (s : State) : Host.Outcome State Fault Refusal :=
  let c := s.core core
  .next (State.tick (match c.frame frame, c.lateTokens frame with
    | some f, some late =>
      if f.state ≠ .opened ∨ f.sinks ≠ 0 ∨ f.stores ≠ 0 ∨ f.inflight ≠ 0 then s
      else match c.store.find? (fun t => frameOf t.tok.tag == frame && t.beat != c.beat) with
        | some t => if c.faulted frame then s else s.raise core f.ctx t.tok.slot .tagCheck 0 t.tok.tag 0
        | none =>
          let strays := (c.store.filter (fun t => frameOf t.tok.tag == frame)).map (·.tok) ++ late
          let c1 := { c with store := c.store.filter (fun t => frameOf t.tok.tag != frame),
                             dropped := c.dropped.filter (fun t => frameOf t.tok.tag != frame),
                             faults := c.faults.filter (fun g => g.1 != frame) }
          strays.foldl (fun s t => s.strayToken core t) ((s.setCore core ((c1.freeFrameEntry frame).passBank f.ctx f.bank)).setEvent (regionOf core) 1)
    | _, _ => s))

end Sys2Proof.Machine
end

