-- ==== Sys2Proof/Machine/Alloc.lean ====
section
/-! DEFINITION. The tile and ring commands of the control core (R128-R131) and the allocation deadlock (R223). -/
namespace Sys2Proof.Machine

/-! ## Tiles -/

/-- The waiting-list entry of a `talloc` request word (R128); none where a field is refused. -/
def tallocWait (ctx v : Nat) : Option Wait :=
  if bits v 63 32 ≠ 0 ∨ bits v 23 17 ≠ 0 ∨ bits v 15 12 = 0 then none
  else some { pool := ctx, rank := bits v 31 24, size := bits v 11 0 + 1, readers := bits v 15 12, aon := bit v 16,
              owner := ctx, who := .talloc, age := 0, frame := 0 }

/-- The checks of a `talloc`: its core, its request, and the size of its pool (R218). -/
def tallocOperands (s : State) (b core ctx : Nat) : Res (Nat × Wait) := do
  let c ← coreOperand s s.turn core
  ctxOperand s [c] ctx
  match tallocWait ctx (s.getX s.turn b).toNat with
  | some w => do
    need (w.size ≤ (nth (0, 0) (s.core c).pools ctx).2) .poolFloor
    .ok (c, w)
  | none => fail .illegal

/-- Take the grant of a `talloc`, or wait with the entry on the list. -/
def collectTalloc (s : State) (r a c : Nat) (w : Wait) : Host.Outcome State Fault Refusal :=
  match (s.core c).takeGrant w.key with
  | some (n, k) => finish s r (.ok ((s.setCore c k).setX r a (BitVec.ofNat 64 n)))
  | none => finish s r (.error .wait)

/-- `talloc` (R128): the request joins the waiting list once and is collected when it is served. -/
def execTalloc (a b core ctx : Nat) (s : State) : Host.Outcome State Fault Refusal :=
  let r := s.turn
  let ready := s.drains r
  let s := s.drain r
  match (do
      await ready
      tallocOperands s b core ctx : Res (Nat × Wait)) with
  | .error e => finish s r (.error e)
  | .ok (c, w) =>
    if ((s.core c).takeGrant w.key).isSome || (s.core c).waits.any (fun v => v.key == w.key) then collectTalloc s r a c w
    else match s.request c w with
      | none => finish s r (.error .wait)
      | some s1 => collectTalloc s1 r a c w

/-- `trel` (R129): one reader's release, or the publishing of a `talloc` tile. -/
def execTrel (a core pub ctx : Nat) (s : State) : Host.Outcome State Fault Refusal :=
  command s (fun s => do
    let r := s.turn
    let c ← coreOperand s r core
    ctxOperand s [c] ctx
    let n := bits (s.getX r a).toNat 6 0
    let t := s.tile c n
    need (t.state != .empty) .illegal
    need (t.owner == ctx) .protection
    if pub = 0 then do
      need (t.state == .ready && t.readers != 0) .illegal
      .ok (s.releaseTile c n)
    else do
      need (t.state == .filling && t.producer == .talloc) .illegal
      .ok (s.commitTile c n))

/-- `tstate` (R130). -/
def execTstate (a b core sel : Nat) (s : State) : Host.Outcome State Fault Refusal :=
  command s (fun s => do
    let r := s.turn
    let c ← coreOperand s r core
    let t := s.tile c (bits (s.getX r b).toNat 6 0)
    .ok (s.setX r a (BitVec.ofNat 64 (if sel = 0 then t.word0 else t.word1))))

/-! ## Rings -/

/-- A ring from its request word (R131); none where a field is refused. -/
def ringOf (v : Nat) : Option Ring :=
  if bits v 63 30 ≠ 0 ∨ bits v 21 18 = 0 then none
  else some { Ring.reset with setup := true, rank := bits v 29 22, readers := bits v 21 18, size := bits v 17 6 + 1,
                              slots := bits v 5 0 + 1 }

/-- The floor test of a context's pool with a new ring (R220). -/
def ringFloorOk (c : Core) (ctx n : Nat) (g : Ring) : Bool :=
  floorOk (c.blocks 4) ((c.setCtx ctx ((c.ctx ctx).setRing n g)).allRings) ctx (nth (0, 0) c.pools ctx).2

/-- `ringinit` (R131). -/
def execRinginit (a core ring ctx : Nat) (s : State) : Host.Outcome State Fault Refusal :=
  command s (fun s => do
    let r := s.turn
    let c ← coreOperand s r core
    ctxOperand s [c] ctx
    match ringOf (s.getX r a).toNat with
    | none => fail .illegal
    | some g =>
      need (((s.ctx c ctx).ring ring).held == 0) .illegal
      need (ringFloorOk (s.core c) ctx ring g) .poolFloor
      .ok (s.modCtx c ctx (fun k => k.setRing ring g)))

/-- Whether an `ldring` of a context takes the slot at kp in this beat: an instance of its block is ready to fire (R209). -/
def Core.ringFires (c : Core) (x n : Nat) : Bool :=
  match (c.ctx x).block with
  | none => false
  | some b => (range 0 b.count).any (fun i => (b.word i).source && (b.word i).sub == 2 && bits (b.word i).imm 3 0 == n && !b.isFallback i) &&
      hasReady c x

/-- `ringwait` (R131): in a beat in which the fabric takes the slot, the fabric is served first (R209). -/
def execRingwait (a core ring ctx : Nat) (s : State) : Host.Outcome State Fault Refusal :=
  command s (fun s => do
    let r := s.turn
    let c ← coreOperand s r core
    ctxOperand s [c] ctx
    let g := (s.ctx c ctx).ring ring
    await (g.filled != 0 && !(s.core c).ringFires ctx ring)
    let s1 := s.modCtx c ctx (fun k => k.setRing ring { g with kp := (g.kp + 1) % 65536 })
    .ok (s1.setX r a (BitVec.ofNat 64 (g.tileOf g.kp))))

/-- `ringrel` (R131). -/
def execRingrel (core ring ctx : Nat) (s : State) : Host.Outcome State Fault Refusal :=
  command s (fun s => do
    let r := s.turn
    let c ← coreOperand s r core
    ctxOperand s [c] ctx
    let g := (s.ctx c ctx).ring ring
    need (g.fp != g.kp) .illegal
    let n := g.tileOf g.fp
    need ((s.tile c n).state == .ready && (s.tile c n).readers != 0) .illegal
    .ok (s.releaseTile c n))

/-! ## The deadlock watch (R223) -/

/-- The oldest entry of a waiting list. -/
def oldestWait (ws : List Wait) : Option Wait := pickFirst (fun a b => a.age < b.age) ws

/-- Raise ALLOC-DEADLOCK on behalf of an entry, or of the lowest context with a live frame. -/
def raiseDeadlock (s : State) (core : Nat) : State :=
  let c := s.core core
  let escalated (x : Nat) : State := s.raiseAsync (regionOf core) (Trap.engine FaultCode.allocDeadlock.code core x 0 0 0)
  match oldestWait c.waits with
  | some w =>
    match w.who with
    | .alloc idx inst =>
      let tag := match (c.ctx w.owner).inst inst with
        | some n => n.tag
        | none => 2 ^ 56 * w.frame
      s.raise core w.owner idx .allocDeadlock 0 tag 0
    | _ => escalated w.owner
  | none =>
    match (range 0 4).find? c.hasFrames with
    | some x => escalated x
    | none => s

/-- ALLOC_DEADLOCK: the watch has counted 65,536 beats; the fault is raised and the count starts again (R223). -/
def execAllocDeadlock (core : Nat) (s : State) : Host.Outcome State Fault Refusal :=
  let c := s.core core
  .next (State.tick (if c.dead < 65536 then s else raiseDeadlock (s.setCore core { c with dead := 0 }) core))

end Sys2Proof.Machine
end

