-- ==== Sys2Proof/Machine/Atomic.lean ====
section
/-! DEFINITION. Atomics of the control core (R93, R94, R97). -/
namespace Sys2Proof.Machine

/-- The register read as cas's expected value and the operand, cut to the width. -/
structure AmoIn where
  old : Nat
  operand : Nat
  expected : Nat
  deriving DecidableEq, Repr

/-- `amo.op` on the word at xa (R93, R94). Every earlier store is performed first, as by the fence that stands before it,
and the address is checked after them: the atomic is performed at its home at once and stores become visible in program order
(R95, R97; log 8). An address both misaligned and in window 0xF is ILLEGAL: R94 gives both faults and no order (log 94). Its
request travels whatever it meets there (R305), and one that a held vault keeps waiting keeps its place (R366). -/
def amo (f : Nat → AmoIn → Nat) (d a b w : Nat) (s : State) : Host.Outcome State Fault Refusal :=
  let r := s.turn
  let ea := (s.getX r a).toNat
  let n := if w = 0 then 4 else 8
  let m := s.drain r
  if ea % n ≠ 0 then finish s r (.error (.trap (Trap.access .illegal ea)))
  else if ea / 2 ^ 60 = 15 then finish s r (.error (.trap (Trap.access .protection ea)))
  else if !s.drains r || walkHeld m (.control r) ea n then finish s r (.error .wait)
  else match resolve m (.control r) ea n .atomic with
    | .error e => finish s r (ofAcc ea (.error e))
    | .ok ks =>
      if !atomicGoes m (s.region r).heldAt ks then finish (s.holdAtomic r ks) r (.error .wait)
      else
        let u := m.askControl r (m.homeAt ks) .atomic
        if m.poisonedAt ks then finish u r (.error (.trap (Trap.access .protection ea true)))
        else
          let old := m.readNat ks
          let new := f (8 * n) { old := old, operand := (s.getX r b).toNat % 2 ^ (8 * n),
                                 expected := (s.getX r d).toNat % 2 ^ (8 * n) }
          finish u r (.ok ((u.rmw ks (toBytes n new)).setX r d
            (if w = 0 then BitVec.ofInt 64 (sextNat 32 old) else BitVec.ofNat 64 old)))

def execAmoSwap (d a b w _sc : Nat) (s : State) : Host.Outcome State Fault Refusal := amo (fun _ i => i.operand) d a b w s

def execAmoAdd (d a b w _sc : Nat) (s : State) : Host.Outcome State Fault Refusal :=
  amo (fun n i => (i.old + i.operand) % 2 ^ n) d a b w s

def execAmoAnd (d a b w _sc : Nat) (s : State) : Host.Outcome State Fault Refusal :=
  amo (fun _ i => i.old &&& i.operand) d a b w s

def execAmoOr (d a b w _sc : Nat) (s : State) : Host.Outcome State Fault Refusal :=
  amo (fun _ i => i.old ||| i.operand) d a b w s

def execAmoXor (d a b w _sc : Nat) (s : State) : Host.Outcome State Fault Refusal :=
  amo (fun _ i => i.old ^^^ i.operand) d a b w s

def execAmoMax (d a b w _sc : Nat) (s : State) : Host.Outcome State Fault Refusal :=
  amo (fun n i => if sextNat n i.old < sextNat n i.operand then i.operand else i.old) d a b w s

def execAmoMin (d a b w _sc : Nat) (s : State) : Host.Outcome State Fault Refusal :=
  amo (fun n i => if sextNat n i.operand < sextNat n i.old then i.operand else i.old) d a b w s

def execAmoMaxn (d a b w _sc : Nat) (s : State) : Host.Outcome State Fault Refusal :=
  amo (fun _ i => Nat.max i.old i.operand) d a b w s

def execAmoMinn (d a b w _sc : Nat) (s : State) : Host.Outcome State Fault Refusal :=
  amo (fun _ i => Nat.min i.old i.operand) d a b w s

def execAmoCas (d a b w _sc : Nat) (s : State) : Host.Outcome State Fault Refusal :=
  amo (fun _ i => if i.old = i.expected then i.operand else i.old) d a b w s

end Sys2Proof.Machine
end

