-- ==== Sys2Proof/Machine/Branch.lean ====
section
/-! DEFINITION. Branches, jumps and the loop stack (R100-R108). -/
namespace Sys2Proof.Machine

/-- A conditional branch (R100): a taken branch unwinds the loop stack (R108). -/
def branch (c : Word → Word → Bool) (a b o : Nat) (s : State) : Host.Outcome State Fault Refusal :=
  let r := s.turn
  let g := s.region r
  if c (s.getX r a) (s.getX r b) then .next (s.setRegion r (g.jump (branchTarget g.pc 16 o) true)).tick
  else .next (s.complete r)

def execBeq (a b o : Nat) (s : State) : Host.Outcome State Fault Refusal := branch (fun x y => x == y) a b o s

def execBne (a b o : Nat) (s : State) : Host.Outcome State Fault Refusal := branch (fun x y => x != y) a b o s

def execBlt (a b o : Nat) (s : State) : Host.Outcome State Fault Refusal :=
  branch (fun x y => x.toInt < y.toInt) a b o s

def execBge (a b o : Nat) (s : State) : Host.Outcome State Fault Refusal :=
  branch (fun x y => y.toInt ≤ x.toInt) a b o s

def execBltn (a b o : Nat) (s : State) : Host.Outcome State Fault Refusal :=
  branch (fun x y => x.toNat < y.toNat) a b o s

def execBgen (a b o : Nat) (s : State) : Host.Outcome State Fault Refusal :=
  branch (fun x y => y.toNat ≤ x.toNat) a b o s

/-- `jal` (R101): a call, which never unwinds (R108). -/
def execJal (o : Nat) (s : State) : Host.Outcome State Fault Refusal :=
  let r := s.turn
  let g := s.region r
  .next (s.setRegion r ((g.setX 1 (g.pc + 4)).jump (branchTarget g.pc 26 o) false)).tick

/-- `jalr` (R101, R108): it unwinds when xd is x0. -/
def execJalr (d a i : Nat) (s : State) : Host.Outcome State Fault Refusal :=
  let r := s.turn
  let g := s.region r
  let t := s.getX r a + sext16 i
  finishJump s r (do
    need (t.toNat % 4 == 0) .illegal
    .ok (s.setRegion r ((g.setX d (g.pc + 4)).jump t (d == 0))))

/-- `loop` (R104). -/
def execLoop (l c n : Nat) (s : State) : Host.Outcome State Fault Refusal :=
  let r := s.turn
  let g := s.region r
  let k := (s.getX r c).toNat
  finishJump s r (do
    need (l == g.depth) .illegal
    need (l < 4) .illegal
    need (k < 2 ^ 48) .illegal
    need (g.depth == 0 || g.pc.toNat + 4 * n ≤ (g.loopAt (g.depth - 1)).last.toNat) .illegal
    if k = 0 then .ok (s.setRegion r { g with pc := g.pc + BitVec.ofNat 64 (4 * n + 4), waiting := false, heldAt := none, sendSince := none })
    else .ok (s.setRegion r { g with loops := sput g.loops l { start := g.pc + 4, len := n, count := k }
                                     depth := l + 1, pc := g.pc + 4, waiting := false, heldAt := none, sendSince := none }))

/-- `lbrk` (R106). -/
def execLbrk (l : Nat) (s : State) : Host.Outcome State Fault Refusal :=
  let r := s.turn
  let g := s.region r
  finishJump s r (do
    need (l < g.depth) .illegal
    .ok (s.setRegion r { g with pc := (g.loopAt l).last + 4, depth := l, waiting := false, heldAt := none, sendSince := none }))

/-- `lcnt` (R107). -/
def execLcnt (d l : Nat) (s : State) : Host.Outcome State Fault Refusal :=
  let r := s.turn
  let g := s.region r
  finish s r (do
    need (l < g.depth) .illegal
    .ok (s.setX r d (BitVec.ofNat 64 (g.loopAt l).count)))

end Sys2Proof.Machine
end

