-- ==== Sys2Proof/Machine/Collective.lean ====
section
/-! DEFINITION. Collectives (R298-R303). -/
namespace Sys2Proof.Machine

/-! ## The record (Table 17.3) -/

def Coll.c0 (k : Coll) : Nat := (nth 0 k.words 0).toNat

def collOp (w : Nat) : Nat := bits w 63 62

def collFn (w : Nat) : Nat := bits w 61 60

def collFmt (w : Nat) : Nat := bits w 59 57

def collScope (w : Nat) : Nat := bits w 56 54

def collId (w : Nat) : Nat := bits w 53 46

def collRootPkg (w : Nat) : Nat := bits w 45 40

def collRoot (w : Nat) : Nat := bits w 39 32

def collCount (w : Nat) : Nat := bits w 31 0

/-- The regions under the scope's node of a region (R9). -/
def scopeRegions (scope r : Nat) : List Nat :=
  let n := if scope = 3 then 4 else if scope = 4 then 16 else if scope = 5 then 64 else 256
  range (r / n * n) n

/-- The checks of R299 on a record at a region's control core. -/
def collRecordOk (s : State) (r : Nat) (ws : List Word) : Bool :=
  let w := (nth 0 ws 0).toNat
  let mask := (nth 0 ws 3).toNat
  let size := memBits (collFmt w) / 8
  collOp w != 3 && (collOp w == 2 || collFn w != 3) && collFmt w ≤ 2 && 3 ≤ collScope w && 1 ≤ collCount w &&
    collCount w ≤ 65536 && (nth 0 ws 1).toNat % size == 0 && (nth 0 ws 2).toNat % size == 0 &&
    (collScope w != 7 || bit mask s.packageNo) &&
    (collOp w == 0 || ((scopeRegions (collScope w) r).contains (collRoot w) &&
      (if collScope w = 7 then bit mask (collRootPkg w) else collRootPkg w == s.packageNo))) &&
    !(s.region r).colls.any (fun k => !k.freed && collId k.c0 == collId w)

/-- The memory keys of a vector, each line checked on its own (R267); windows 0x2, 0x3 and 0x8 only. -/
def vectorKeys (s : State) (r addr : Nat) (w : Want) : Nat → Nat → Res (List Nat)
  | 0, _ => .ok []
  | f + 1, n =>
    if n = 0 then .ok []
    else if addr / 2 ^ 60 = 15 then .error (.trap (Trap.access .protection addr))
    else do
      let m := Nat.min n (64 - addr % 64)
      await (!walkHeld s (.control r) addr m)
      let ks ← ofAcc addr (resolve s (.control r) addr m w)
      let rest ← vectorKeys s r ((addr + m) % 2 ^ 64) w f (n - m)
      .ok (ks ++ rest)

/-- The elements at keys; none for a poisoned one. -/
def elementsAt (s : State) (size : Nat) : Nat → List Nat → List (Option Nat)
  | 0, _ => []
  | n + 1, ks =>
    (if s.poisonedAt (ks.take size) then none else some (s.readNat (ks.take size))) :: elementsAt s size n (ks.drop size)

/-- `coll` (R299). -/
def execColl (b : Nat) (s : State) : Host.Outcome State Fault Refusal :=
  command s (fun s => do
    let r := s.turn
    let addr := (s.getX r b).toNat
    need (addr % 32 == 0) .illegal
    let bs ← recordRead s r addr 32
    let ws := wordsOf 4 bs
    need (collRecordOk s r ws) .illegal
    let w := (nth 0 ws 0).toNat
    let size := memBits (collFmt w) / 8
    let src ← vectorKeys s r (nth 0 ws 1).toNat .read 8192 (size * collCount w)
    let dst ← vectorKeys s r (nth 0 ws 2).toNat .write 8192 (size * collCount w)
    await (((s.region r).colls.filter (fun k => !k.freed)).length < 4 && !vaultHeld s src)
    let k : Coll := { words := ws, data := elementsAt s size (collCount w) src, dest := dst, start := s.ticks.toNat,
                      paused := 0, freed := false }
    .ok (s.setRegion r { s.region r with colls := (s.region r).colls ++ [k] }))

/-- `collwait` (R299). -/
def execCollwait (a : Nat) (s : State) : Host.Outcome State Fault Refusal :=
  command s (fun s => do
    let r := s.turn
    let id ← lowOperand (s.getX r a) 8
    await (!(s.region r).colls.any (fun k => !k.freed && collId k.c0 == id))
    .ok s)

/-! ## The reducers (R300) -/

/-- One step of a reducer on an element: its inputs in ascending digit order. -/
def combine (fn fmt : Nat) (xs : List (Option Nat)) : Option Nat :=
  if xs.any Option.isNone then none
  else
    let vs := xs.filterMap id
    match vs with
    | [] => none
    | v :: rest =>
      if fn = 0 then
        if isInt fmt then some (vs.foldl (fun a b => (a + b) % 2 ^ 32) 0)
        else
          let total := rest.foldl (fun a b => (addNum 0 a (decodeNum fmt false b)).1) (decodeNum fmt false v)
          some (convert fmt false 0 total 0 false).1
      else
        some (rest.foldl (fun a b =>
          (patternLane fmt false 0 0 (minMax fmt (fn == 2) (ofPattern fmt false a) (ofPattern fmt false b))).1) v)

/-- Combine vectors element by element. -/
def combineVecs (fn fmt : Nat) : Nat → List (List (Option Nat)) → List (Option Nat)
  | 0, _ => []
  | n + 1, vs => combine fn fmt (vs.map (fun v => v.headD none)) :: combineVecs fn fmt n (vs.map (fun v => v.drop 1))

/-- The partial vectors of a level from those of the level below, four children a reducer. -/
def reduceLevel (fn fmt n : Nat) : Nat → List (List (Option Nat)) → List (List (Option Nat))
  | 0, _ => []
  | f + 1, vs => if vs.isEmpty then [] else combineVecs fn fmt n (vs.take 4) :: reduceLevel fn fmt n f (vs.drop 4)

/-- The result up the tree from the regions' contributions in ascending order. -/
def reduceTree (fn fmt n : Nat) : Nat → List (List (Option Nat)) → List (Option Nat)
  | 0, vs => vs.headD []
  | f + 1, vs => if vs.length ≤ 1 then vs.headD [] else reduceTree fn fmt n f (reduceLevel fn fmt n 256 vs)

/-- The first record of an id that a participant has at the reducers (R301). -/
def State.collOf (s : State) (r id : Nat) : Option Coll := (s.region r).colls.find? (fun k => collId k.c0 == id)

def State.dropColl (s : State) (r : Nat) (k : Coll) : State :=
  s.setRegion r { s.region r with colls := (s.region r).colls.erase k }

/-- What the reducer compares (R301): op, function (which broadcast ignores), format, count and root. -/
def collKey (w : Nat) : Nat × Nat × Nat × Nat × Nat × Nat :=
  (collOp w, if collOp w = 2 then 0 else collFn w, collFmt w, collCount w, collRootPkg w, collRoot w)

/-- Write a result at a participant's destination: poisoned elements as poison (R300). -/
def State.deliverColl (s : State) (k : Coll) (res : List (Option Nat)) : State :=
  if k.freed then s
  else
    let size := memBits (collFmt k.c0) / 8
    s.land k.dest (res.flatMap (fun v => toBytes size (v.getD 0))) (res.flatMap (fun v => List.replicate size v.isNone))

/-- COLLECTIVE_COMPLETE: once every participant's record is at the reducers, the result is delivered or, on a mismatch, every
collective ends with ILLEGAL (R300, R301); a destination in a vault that holds requests keeps it waiting (R281). A domain group of
more packages does not complete here (log 10). -/
def execCollectiveComplete (r cid : Nat) (s : State) : Host.Outcome State Fault Refusal :=
  .next (State.tick (match s.collOf r cid with
    | none => s
    | some k =>
      let w := k.c0
      let rs := scopeRegions (collScope w) r
      let all := rs.filterMap (fun q => (s.collOf q cid).map (fun c => (q, c)))
      let away := collScope w == 7 && (nth 0 k.words 3).toNat != 2 ^ s.packageNo
      let root (q : Nat) : Bool := q == collRoot w
      let takes (q : Nat) : Bool := collOp w == 0 || (collOp w == 1 && root q) || (collOp w == 2 && !root q)
      if away || all.any (fun p => takes p.1 && vaultHeld s p.2.dest) || all.length != rs.length || all.any (fun p => collScope p.2.c0 != collScope w ||
          (collScope w == 7 && nth 0 p.2.words 3 != nth 0 k.words 3)) then s
      else
        let s1 := all.foldl (fun s p => s.dropColl p.1 p.2) s
        if all.any (fun p => collKey p.2.c0 != collKey w) then
          all.foldl (fun s p => if p.2.freed then s else s.raiseAsync p.1 (Trap.engine FaultCode.illegal.code 0 0 0 0 0)) s1
        else
          let res := if collOp w = 2 then (match all.find? (fun p => root p.1) with
              | some p => p.2.data
              | none => [])
            else reduceTree (collFn w) (collFmt w) (collCount w) 5 (all.map (fun p => p.2.data))
          all.foldl (fun s p => if takes p.1 then s.deliverColl p.2 res else s) s1))

/-! ## The watch (R303) -/

/-- The ticks a collective has been timed. -/
def Coll.elapsed (k : Coll) (now : Nat) : Nat := now - k.start - k.paused

/-- COLL_TIMEOUT: the watch of a collective has reached collwd; its id is freed and its contribution stays (R303). -/
def execCollTimeout (r cid : Nat) (s : State) : Host.Outcome State Fault Refusal :=
  let g := s.region r
  .next (State.tick (match g.colls.find? (fun k => !k.freed && collId k.c0 == cid) with
    | none => s
    | some k =>
      let limit := bits g.collwd.toNat 47 0
      if s.die.debugHold || limit == 0 || k.elapsed s.ticks.toNat < limit then s
      else
        let cs := g.colls.map (fun c => if c = k then { c with freed := true } else c)
        (s.setRegion r { g with colls := cs }).raiseAsync r (Trap.engine FaultCode.collTimeout.code 0 0 0 0 0)))

end Sys2Proof.Machine
end

