-- ==== Sys2Proof/Machine/Copy.lean ====
section
/-! DEFINITION. The copy unit (R246-R262, R378): records, queues and rounds, the moves of each operation, landing and
diversion, cancel and retry, congestion windows. -/
namespace Sys2Proof.Machine

/-! ## The record (Tables 14.1 and 14.2) -/

def Copy.o (c : Copy) (i : Nat) : Nat := (nth 0 c.words i).toNat

def Copy.op (c : Copy) : Nat := bits (c.o 0) 63 60

def Copy.cls (c : Copy) : Nat := bits (c.o 0) 59 58

def Copy.moves (c : Copy) : Bool := bit (c.o 0) 57

def Copy.patterned (c : Copy) : Bool := bit (c.o 0) 56

def Copy.id (c : Copy) : Nat := bits (c.o 0) 55 48

/-- The ring whose next slot is the destination (R254). -/
def Copy.ring (c : Copy) : Option Nat := if bit (c.o 0) 47 then some (bits (c.o 0) 46 43) else none

/-- The window and byte offset of the signal counter (R252). -/
def Copy.signal (c : Copy) : Option (Nat × Nat) :=
  if bit (c.o 0) 42 then some (bits (c.o 0) 41 40, 16 * bits (c.o 0) 39 21) else none

/-- The core mask of cpm. -/
def Copy.mask (c : Copy) : Nat := bits (c.o 3) 47 32

/-- Whether a record keeps the rules of R247 that its words alone decide, for an operation and a launch mask. -/
def copyRecordOk (ws : List Word) (op mask : Nat) : Bool :=
  let o (i : Nat) : Nat := (nth 0 ws i).toNat
  let ring := bit (o 0) 47
  let sig := bit (o 0) 42
  let pat := bit (o 0) 56
  bits (o 0) 63 60 == op && op ≤ 5 &&
  !((bit (o 0) 57 || pat) && op != 0) && !(ring && 1 < op) && !(bit (o 0) 57 && pat) &&
  (ring || bits (o 0) 46 43 == 0) && (sig || bits (o 0) 41 21 == 0) &&
  (!sig || bits (o 0) 41 40 != 0 || bits (o 0) 39 21 ≤ 0x7FFF) &&
  (if op = 3 then bits (o 0) 20 5 == 0 && !bit (o 0) 0 && bits (o 0) 4 2 ≤ 4
    else op == 5 || bits (o 0) 20 0 == 0) &&
  (!ring || o 2 == 0) &&
  (match op with
    | 0 => if pat then o 3 == 0 else o 3 != 0 && o 3 < 2 ^ 32
    | 4 => bits (o 3) 63 48 == 0 && bits (o 3) 47 32 != 0 && bits (o 3) 31 0 != 0 && bits (o 3) 31 0 ≤ 524288 &&
        (maskList (bits (o 3) 47 32) 16).all (fun i => bit mask i)
    | 5 => o 2 == 0
    | _ => true)

/-! ## Sizes (R248) -/

/-- The bytes of a row, of a record, or of one byte of a plain copy. -/
def Copy.unitBytes (c : Copy) : Nat :=
  match c.op with
  | 0 => 1
  | 4 => 1
  | 5 => 2 ^ patSize c.src
  | _ => patCount c.table 1 * 2 ^ patSize c.table

/-- How many units the copy moves. -/
def Copy.units (c : Copy) : Nat :=
  match c.op with
  | 0 => if c.patterned then patTotal c.src * 2 ^ patSize c.src else c.o 3
  | 4 => bits (c.o 3) 31 0
  | _ => patTotal c.src

/-- The counted bytes of the next chunk. -/
def Copy.nextBytes (c : Copy) : Nat :=
  if 2048 < c.unitBytes then Nat.min 2048 (c.unitBytes - c.roff)
  else Nat.min (2048 / c.unitBytes) (c.units - c.pos) * c.unitBytes

/-! ## The unit's queues -/

def Core.copyQ (k : Core) (cls : Nat) : List Copy := sget [] k.copy.queues cls

def State.modCopy (s : State) (core : Nat) (f : CopyUnit → CopyUnit) : State :=
  s.setCore core { s.core core with copy := f (s.core core).copy }

def State.setCopyQ (s : State) (core cls : Nat) (q : List Copy) : State :=
  s.modCopy core (fun u => { u with queues := sput u.queues cls q })

def State.setHeadCopy (s : State) (core cls : Nat) (c : Copy) : State :=
  s.setCopyQ core cls (c :: ((s.core core).copyQ cls).drop 1)

/-- An asynchronous trap on behalf of a copy (R255, R378, R343). -/
def State.copyTrap (s : State) (core at' : Nat) (c : Copy) (f : FaultCode) (poison : Bool) (info infoH : Nat) : State :=
  let t := Trap.engine f.code at' c.ctx c.seqIdx info infoH
  s.raiseAsync (regionOf core) { t with poison := poison, extra := s.absentBits core c.entry }

/-- A new copy joins its class queue. -/
def State.enqueueCopy (s : State) (core ctx seqIdx : Nat) (ws : List Word) : State :=
  let c : Copy := { uid := (s.core core).copy.nextUid, words := ws, ctx := ctx, seqIdx := seqIdx, started := false,
                    stopped := false, asked := false, slotTile := none, slotOff := 0, moveTile := none, pos := 0,
                    roff := 0, src := [], dst := [], table := [], flags := 0, allIssued := false, cancelled := false,
                    entry := none, waited := Waited.reset }
  (s.setCopyQ core c.cls ((s.core core).copyQ c.cls ++ [c])).modCopy core (fun u => { u with nextUid := u.nextUid + 1 })

/-! ## Accesses of a copy (R252) -/

/-- What a piece of work comes to: done, waiting (with the draining tiles it meets, 128 core + tile), or a fault with its poison
mark and the value for tinfo. -/
inductive Got (α : Type) where
  | ok (a : α)
  | wait (draining : List Nat)
  | fault (f : FaultCode) (poison : Bool) (info : Nat)
  deriving Repr

def Got.bind {α β : Type} (g : Got α) (f : α → Got β) : Got β :=
  match g with
  | .ok a => f a
  | .wait d => .wait d
  | .fault f p i => .fault f p i

def Got.all {α : Type} : List (Got α) → Got (List α)
  | [] => .ok []
  | g :: gs => g.bind (fun a => (Got.all gs).bind (fun as => .ok (a :: as)))

/-- Whether bytes lie in the copy's own draining source tile (R253). -/
def Copy.inSource (c : Copy) (s : State) (core off n : Nat) : Bool :=
  match c.moveTile with
  | none => false
  | some m =>
    let t := s.tile core m
    32 * t.base ≤ off && off + n ≤ 32 * (t.base + t.size)

/-- One checked access of a copy: the memory keys. For an absent image a window 0x0 read or update is held and a write is
checked but for the tile table, which the merge consults (R340, R342). -/
def Copy.access (c : Copy) (s : State) (core addr n : Nat) (w : Want) (obj : Nat) (held : Bool) : Got (List Nat) :=
  let win0 := addr / 2 ^ 60 == 0
  let plain : Got (List Nat) :=
    if walkHeld s (.context core c.ctx) addr n || objectHeld s (regionOf core) obj then .wait [] else match resolve s (.context core c.ctx) addr n w with
    | .error (f, p) => .fault f p addr
    | .ok ks => match objectOk s (regionOf core) obj addr n w with
      | .error (f, p) => .fault f p addr
      | .ok _ => .ok ks
  if win0 && c.entry.isSome then if held || w == .read then .wait [] else plain
  else if win0 && w == .read && c.inSource s core (addr % 2 ^ 60) n then plain
  else match tryAccess s core c.ctx addr n w obj { c.waited with lost := c.lostAt.contains core } with
    | .ok ks => .ok ks
    | .wait d => .wait (d.map (128 * core + ·))
    | .fault f p => .fault f p addr

/-- A read of a copy that must be data: poison raises PROTECTION (R92). -/
def Copy.readData (c : Copy) (s : State) (core addr n : Nat) (obj : Nat) : Got (List Nat) :=
  (c.access s core addr n .read obj true).bind (fun ks =>
    if s.poisonedAt ks then .fault .protection true addr else .ok (s.readKeys ks))

/-! ## Pieces -/

/-- Contiguous bytes cut so that each piece lies in one 64-byte line at both ends: source, destination, length. -/
def linePieces : Nat → Nat → Nat → Nat → List (Nat × Nat × Nat)
  | 0, _, _, _ => []
  | f + 1, a, b, n =>
    if n = 0 then []
    else
      let m := Nat.min n (Nat.min (64 - a % 64) (64 - b % 64))
      (a % 2 ^ 64, b % 2 ^ 64, m) :: linePieces f (a + m) (b + m) (n - m)

/-- The pieces of `n` bytes from byte `o` of two streams that run in step (R253). -/
def patPieces (src dst : List Word) (o n : Nat) : List (Nat × Nat × Nat) :=
  let es := 2 ^ patSize src
  let ed := 2 ^ patSize dst
  let m := Nat.min es ed
  (range (o / m) (n / m)).flatMap (fun k =>
    linePieces (m + 1) ((patAddr src 0 (m * k / es)).toNat + m * k % es) ((patAddr dst 0 (m * k / ed)).toNat + m * k % ed) m)

/-- The pieces of `n` bytes from byte `o` of a stream that fills a ring slot (R254). -/
def slotPieces (src : List Word) (dst o n : Nat) : List (Nat × Nat × Nat) :=
  let e := 2 ^ patSize src
  (range (o / e) (n / e)).flatMap (fun k => linePieces (e + 1) (patAddr src 0 k).toNat (dst + e * k) e)

/-- What has been read, by its keys, and the write that comes of it. -/
structure Moved where
  reads : List Nat
  op : ChunkOp
  deriving DecidableEq, Repr

/-- Where the bytes of a write are read as the chunk's reads are made; those of an append have been read with its key (R257). -/
def Moved.src (m : Moved) : List Nat :=
  match m.op with
  | .append _ _ _ _ => []
  | _ => m.reads

/-- Read a piece and make its write: both ends are checked (R253). -/
def Copy.movePiece (c : Copy) (s : State) (core obS obD : Nat) (p : Nat × Nat × Nat) : Got Moved :=
  (c.access s core p.1 p.2.2 .read obS true).bind (fun ks =>
    (c.access s core p.2.1 p.2.2 .write obD false).bind (fun kd =>
      .ok ⟨ks, .write kd (s.readKeys ks) (ks.map (fun k => s.poison.contains (k / 8)))⟩))

def Copy.movePieces (c : Copy) (s : State) (core obS obD : Nat) (ps : List (Nat × Nat × Nat)) : Got (List Moved) :=
  Got.all (ps.map (c.movePiece s core obS obD))

/-- The destination pointer: the slot's first byte with ring set (R254). -/
def Copy.dest (c : Copy) : Nat := if c.ring.isSome then c.slotOff else c.o 2

/-! ## One row or record -/

/-- Fault points 1 and 2 of a row: its index (R255). -/
def Copy.index (c : Copy) (s : State) (core q : Nat) : Got Nat :=
  (c.readData s core (patAddr c.src 0 q).toNat 4 (patObject c.src)).bind (fun bs =>
    let i := ofBytes bs
    if patCount c.table 0 ≤ i then .fault .gatherIndex false i else .ok i)

/-- One element of a scatter-add (R256). -/
def Copy.addElem (c : Copy) (s : State) (core src dst e : Nat) : Got Moved :=
  if 1 < dst / 2 ^ 60 then .fault .protection false dst
  else (c.access s core src e .read 0xFFFF true).bind (fun ks =>
    (c.access s core dst e .atomic (patObject c.table) false).bind (fun kd =>
      .ok ⟨ks, .add kd (patFmt c.table) (bits (c.o 0) 4 2) (b2n (bit (c.o 0) 1)) (s.readNat ks) (s.poisonedAt ks)⟩))

/-- `n` bytes of row `q` from byte `r`: the row's index and the writes. The index of a row longer than a chunk is fetched once
(`rowAt`), and the whole of the row is checked before its first part (R255). -/
def Copy.row (c : Copy) (s : State) (core q r n : Nat) (rowAt : Option Nat) : Got (Nat × List Moved) :=
  (match rowAt with
    | some i => Got.ok i
    | none => c.index s core q).bind (fun i =>
    let row := (tableAddr c.table 0 i).toNat
    let buf := (if c.op = 1 then c.dest else c.o 2) + q * c.unitBytes
    let ob := patObject c.table
    let e := 2 ^ patSize c.table
    let part (r n : Nat) : Got (List Moved) :=
      match c.op with
      | 1 => c.movePieces s core ob 0xFFFF (linePieces n (row + r) (buf + r) n)
      | 2 => c.movePieces s core 0xFFFF ob (linePieces n (buf + r) (row + r) n)
      | _ => Got.all ((range (r / e) (n / e)).map (fun k => c.addElem s core ((buf + e * k) % 2 ^ 64) ((row + e * k) % 2 ^ 64) e))
    (if r = 0 ∧ n < c.unitBytes then (part 0 c.unitBytes).bind (fun _ => part r n) else part r n).bind (fun ops => .ok (i, ops)))

/-- Record `q` of a binning (R257): its read, the key's poison, and the whole of its bin. -/
def Copy.record (c : Copy) (s : State) (core q : Nat) : Got (List Moved) :=
  let size := c.unitBytes
  let addr := (patAddr c.src 0 q).toNat
  let ob := patObject c.table
  (c.access s core addr size .read (patObject c.src) true).bind (fun ks =>
    let kw := (ks.drop (4 * bits (c.o 0) 10 5)).take 4
    if s.poisonedAt kw then .fault .protection true ((addr + 4 * bits (c.o 0) 10 5) % 2 ^ 64)
    else
      let b := bits (s.readNat kw / 2 ^ bits (c.o 0) 4 0) 9 0 &&& bits (c.o 0) 20 11
      let bin := tableAddr c.table 0 b
      (c.access s core bin.toNat 4 .atomic ob true).bind (fun kc =>
        (Got.all ((range 1 (patCount c.table 1 - 1)).map (fun j =>
          c.access s core (bin + BitVec.ofInt 64 ((j : Nat) * patStride c.table 1)).toNat size .write ob true))).bind (fun slots =>
            .ok [⟨ks, .append kc slots (s.readKeys ks) (ks.map (fun k => s.poison.contains (k / 8)))⟩])))

/-! ## Chunks -/

/-- What the next chunk of a copy comes to: its writes with where their bytes are read, the keys it reads and counted bytes, the
new position, whether the copy waits, and the fault that stops it with tinfo, tinfo_h and the core index named. -/
structure Issue where
  ops : List ChunkOp
  srcs : List (List Nat)
  reads : List Nat
  bytes : Nat
  pos : Nat
  roff : Nat
  wait : Option (List Nat)
  stop : Option (FaultCode × Bool × Nat × Nat × Nat)
  targets : List Nat
  rowAt : Option Nat

/-- Rows or records one after another until `want` bytes are counted. -/
def Copy.issueUnits (c : Copy) (s : State) (core want : Nat) : Nat → Issue → Issue
  | 0, i => i
  | f + 1, i =>
    if want ≤ i.bytes then i
    else
      let n := Nat.min (c.unitBytes - i.roff) 2048
      match (if c.op = 5 then (c.record s core i.pos).bind (fun ops => .ok (0, ops)) else c.row s core i.pos i.roff n i.rowAt) with
      | .wait d => { i with wait := some d }
      | .fault f p v => { i with stop := some (f, p, v, i.pos, core) }
      | .ok (ix, ops) =>
        let more := i.roff + n < c.unitBytes
        c.issueUnits s core want f
          { i with ops := i.ops ++ ops.map Moved.op, srcs := i.srcs ++ ops.map Moved.src, reads := i.reads ++ ops.flatMap Moved.reads, bytes := i.bytes + n, pos := if more then i.pos else i.pos + 1,
                   roff := if more then i.roff + n else 0, rowAt := if more then some ix else none }

/-- The write of one piece at one target of a multicast (R258). -/
def Copy.targetPiece (c : Copy) (s : State) (d : Nat) (own : Bool) (p : Nat × Nat × Nat) : Got (List Nat) :=
  let entry := if own && c.entry.isSome then c.entry else (s.core d).away c.ctx
  ({ c with entry := entry } : Copy).access s d p.2.1 p.2.2 .write 0xFFFF false

/-- The next chunk of a multicast: it is fetched once and written to every target that takes it. -/
def Copy.issueCast (c : Copy) (s : State) (core : Nat) (i : Issue) : Issue :=
  let n := c.nextBytes
  let dst := c.o 2 % 2 ^ 19 + c.pos
  let ps := linePieces n (c.o 1 + c.pos) dst n
  match Got.all (ps.map (fun p => (c.access s core p.1 p.2.2 .read 0xFFFF true).bind (fun ks => Got.ok (ks, p)))) with
  | .wait d => { i with wait := some d }
  | .fault f p v => { i with stop := some (f, p, v, c.pos, core) }
  | .ok reads =>
    let tries := (maskCores (regionOf core) c.mask).map (fun d => (d, Got.all (ps.map (c.targetPiece s d (d == core)))))
    match tries.find? (fun t => match t.2 with
        | .wait _ => true
        | _ => false) with
    | some (_, .wait d) => { i with wait := some d }
    | _ =>
      let good := tries.filterMap (fun t => match t.2 with
        | .ok kss => some (t.1, kss)
        | _ => none)
      let ops := good.flatMap (fun g => (reads.zip g.2).map (fun r =>
        ChunkOp.write r.2 (s.readKeys r.1.1) (r.1.1.map (fun k => s.poison.contains (k / 8)))))
      let bad := tries.findSome? (fun t => match t.2 with
        | .fault f p v => some (f, p, v, c.pos, t.1)
        | _ => none)
      { i with ops := ops, srcs := good.flatMap (fun _ => reads.map (·.1)), reads := reads.flatMap (·.1), bytes := if good.isEmpty then 0 else n, pos := if bad.isNone then c.pos + n else c.pos, stop := bad,
               targets := if (c.signal.getD (0, 0)).1 = 0 then good.map (·.1) else [core] }

/-- The next chunk of a started copy (R252-R258). -/
def Copy.issue (c : Copy) (s : State) (core : Nat) : Issue :=
  let i : Issue := { ops := [], srcs := [], reads := [], bytes := 0, pos := c.pos, roff := c.roff, wait := none, stop := none, targets := [core],
                     rowAt := c.rowAt }
  let n := c.nextBytes
  match c.op with
  | 0 =>
    let ps := if !c.patterned then linePieces n (c.o 1 + c.pos) (c.dest + c.pos) n
      else if c.ring.isSome then slotPieces c.src c.dest c.pos n else patPieces c.src c.dst c.pos n
    let obS := if c.patterned then patObject c.src else 0xFFFF
    let obD := if c.patterned && c.ring.isNone then patObject c.dst else 0xFFFF
    match c.movePieces s core obS obD ps with
    | .wait d => { i with wait := some d }
    | .fault f p v => { i with stop := some (f, p, v, c.pos, core) }
    | .ok ms => { i with ops := ms.map Moved.op, srcs := ms.map Moved.src, reads := ms.flatMap Moved.reads, bytes := n, pos := c.pos + n }
  | 4 => c.issueCast s core i
  | _ => c.issueUnits s core n 2048 i

/-! ## Starting (R378) -/

/-- A 64-byte record that a copy reads as it starts. -/
def Copy.readPattern (c : Copy) (s : State) (core addr : Nat) : Got (List Word) :=
  (c.readData s core addr 64 0xFFFF).bind (fun bs => .ok (wordsOf 8 bs))

/-- Whether the size field of a record a copy reads is not refused (Table 6.2); the checks of `apset` are not made of it (R115,
R253-R257). -/
def sizeOk (p : List Word) : Bool := patSize p != 7

/-- The rules of a table record and its index record (R255, R256). -/
def tableOk (op : Nat) (ix t : List Word) : Bool :=
  sizeOk t && patSize ix == 2 && patFmt ix == 0 && patCount t 2 == 1 && patCount t 3 == 1 &&
    patStride t 1 == (2 ^ patSize t : Int) &&
    (op != 3 || (patFmt t ≤ 4 && 2 ^ patSize t == memBits (patFmt t) / 8))

/-- The rules of a bin table record and its record pattern (R257). -/
def binsOk (o0 : Nat) (p t : List Word) : Bool :=
  !patWrites p && 2 ≤ patSize p && patSize p ≤ 6 && 4 * bits o0 10 5 + 4 ≤ 2 ^ patSize p &&
    bits o0 20 11 < patCount t 0 && 2 ≤ patCount t 1 && (2 ^ patSize p : Int) ≤ patStride t 1 && patSize t == patSize p &&
    patFmt t == 0

/-- The records of a copy, read and checked: the copy with them. -/
def Copy.loadRecords (c : Copy) (s : State) (core : Nat) : Got Copy :=
  if c.op = 4 then .ok c
  else if c.op = 0 then
    if !c.patterned then .ok c
    else if c.ring.isSome then (c.readPattern s core (c.o 1)).bind (fun p =>
      if sizeOk p && !patWrites p then .ok { c with src := p } else .fault .illegal false 0)
    else (c.readPattern s core (c.o 1)).bind (fun p => (c.readPattern s core (c.o 2)).bind (fun q =>
      if sizeOk p && sizeOk q && !patWrites p && patWrites q &&
          patTotal p * 2 ^ patSize p == patTotal q * 2 ^ patSize q then .ok { c with src := p, dst := q }
      else .fault .illegal false 0))
  else (c.readPattern s core (c.o 1)).bind (fun p => (c.readPattern s core (c.o 3)).bind (fun t =>
    if (if c.op = 5 then binsOk (c.o 0) p t else tableOk c.op p t) then .ok { c with src := p, table := t }
    else .fault .illegal false 0))

/-- The ring is set up and its slots hold the copy (R254). -/
def Copy.ringOk (c : Copy) (s : State) (core : Nat) : Bool :=
  match c.ring with
  | none => true
  | some n =>
    let g := (s.ctx core c.ctx).ring n
    g.setup && c.unitBytes * c.units ≤ 32 * g.size

/-- The whole ready tile that a move consumes (R253). -/
def Copy.sourceTile (c : Copy) (s : State) (core : Nat) : Option Nat :=
  if c.o 1 / 2 ^ 60 ≠ 0 then none
  else (range 0 128).find? (fun n =>
    let t := s.tile core n
    t.state == .ready && t.owner == c.ctx && 32 * t.base == c.o 1 % 2 ^ 60 && 32 * t.size == c.o 3)

/-- What a start comes to: the copy started, held, or refused with its fault and poison mark. -/
inductive Start where
  | go (s : State) (c : Copy)
  | held
  | refuse (f : FaultCode) (poison : Bool)

/-- The checks of a start. -/
def Copy.start (c : Copy) (s : State) (core : Nat) : Start :=
  match c.loadRecords s core with
  | .wait _ => .held
  | .fault f p _ => .refuse f p
  | .ok c =>
    if c.entry.isSome && (c.ring.isSome || c.moves) then .held
    else if !c.ringOk s core then .refuse .illegal false
    else if c.moves then
      match c.sourceTile s core with
      | none => .refuse .illegal false
      | some n =>
        .go (s.setTile core n { s.tile core n with state := .draining }) { c with started := true, moveTile := some n }
    else .go s { c with started := true }

/-- The heads of a class queue start, refused ones leaving it (R378). -/
def State.startHeads (s : State) (core cls : Nat) : Nat → State
  | 0 => s
  | f + 1 =>
    match (s.core core).copyQ cls with
    | [] => s
    | c :: rest =>
      if c.started then s
      else match c.start s core with
        | .held => s
        | .go s1 c1 => s1.setHeadCopy core cls c1
        | .refuse f' p =>
          ((s.setCopyQ core cls rest).copyTrap core core c f' p (c.id + 2 ^ 8 * c.op) 0).startHeads core cls f

/-- Slots of a ring that other copies have asked for and not filled. -/
def slotsAsked (k : Core) (c : Copy) (n : Nat) : Nat :=
  ((k.copy.queues.flatMap (·.2) ++ k.copy.flying).filter (fun d =>
    d.uid != c.uid && d.asked && d.ctx == c.ctx && d.ring == some n && d.entry == c.entry)).length

/-- The waiting-list entry of a ring slot (R254, R219). -/
def slotWait (g : Ring) (ctx n cls : Nat) : Wait :=
  { pool := ctx, rank := g.rank, size := g.size, readers := g.readers, aon := false, owner := ctx, who := .ring n cls,
    age := 0, frame := 0 }

/-- A started head takes its slot, or asks for it once the ring has one free (R254). -/
def State.seekSlot (s : State) (core cls : Nat) : State :=
  match (s.core core).copyQ cls with
  | [] => s
  | c :: _ =>
    match c.ring with
    | none => s
    | some n =>
      if !c.started || c.slotTile.isSome || c.entry.isSome then s
      else
        let g := (s.ctx core c.ctx).ring n
        let w := slotWait g c.ctx n cls
        let s1 : State := if c.asked then s
          else if g.slots ≤ g.held + slotsAsked (s.core core) c n then s
          else match s.request core w with
            | some s1 => s1.setHeadCopy core cls { c with asked := true }
            | none => s
        match (s1.core core).takeGrant w.key with
        | some (t, k) =>
          (s1.setCore core k).setHeadCopy core cls { c with asked := true, slotTile := some t, slotOff := 32 * (s1.tile core t).base }
        | none => s1

/-- COPY_START: the head of a class queue starts (R378). -/
def execCopyStart (core cls : Nat) (s : State) : Host.Outcome State Fault Refusal :=
  .next ((s.startHeads core cls 17).seekSlot core cls).tick

/-! ## Rounds (R249, R250, R260) -/

/-- Whether a head's next chunk is held for its switched-out context (R340). -/
def Copy.heldAway (c : Copy) (s : State) (core : Nat) : Bool :=
  c.entry.isSome && c.started && (let i := c.issue s core
    i.wait.isSome && i.bytes == 0)

/-- Whether the head waits (R250): stopped, without its slot, held by a full proof or for an absent context, or out of window. -/
def headWaits (s : State) (core cls : Nat) (c : Copy) : Bool :=
  let k := s.core core
  c.heldAway s core || !c.started || c.stopped || (c.ring.isSome && c.slotTile.isNone) || k.copy.chunks.any (fun h => h.held && h.cls == cls) ||
    nth 0 k.copy.windows cls < nth 0 k.copy.outstanding cls + c.nextBytes

/-- The keys for which a write travels: for an append those of its count, one for each byte of the record. -/
def ChunkOp.sent : ChunkOp → List Nat
  | .write ks _ _ => ks
  | .add ks _ _ _ _ _ => ks
  | .append kc _ bs _ => (range 0 bs.length).map (fun _ => kc.headD 0)

/-- Issue the head's next chunk, with the requests for what it reads (R306). -/
def State.issueChunk (s : State) (core cls : Nat) (c : Copy) : State × Nat :=
  let i := c.issue s core
  let c1 := { c with pos := i.pos, roff := i.roff, rowAt := i.rowAt, waited := (i.wait.map c.waited.on).getD Waited.reset,
                     lostAt := if i.wait.isSome then c.lostAt else [], stopped := i.stop.isSome,
                     allIssued := i.stop.isNone && c.units ≤ i.pos }
  let s1 := s.setHeadCopy core cls c1
  let s2 := if i.bytes = 0 then s1
    else
      let id := (s1.core core).copy.nextChunk
      let reads := cutRequests core false i.reads
      let h : Chunk := { copy := c.uid, cls := cls, bytes := i.bytes, ops := i.ops, targets := i.targets, held := false,
                         id := id, writes := cutRequests core true (i.ops.flatMap ChunkOp.sent), srcs := i.srcs, fetched := false,
                         pos := c.pos, roff := c.roff, rowAt := c.rowAt, waits := [], lostAt := [] }
      let out (u : CopyUnit) : CopyUnit :=
        { u with chunks := u.chunks ++ [h], outstanding := setNth u.outstanding cls (nth 0 u.outstanding cls + i.bytes),
                 nextChunk := id + 1, owing := sput u.owing id (cls, i.bytes, reads.length) }
      ((s1.modCopy core out).askCopy core cls id false reads).countEvent core 16 c.ctx 1
  let s3 := match i.stop with
    | some (f, p, v, h, d) => s2.copyTrap core d c f p v h
    | none => s2
  let s4 := if c1.allIssued then
      (s3.setCopyQ core cls (((s3.core core).copyQ cls).drop 1)).modCopy core (fun u => { u with flying := u.flying ++ [c1] })
    else s3
  (s4, i.bytes)

/-- One class in a round: chunks issue while the deficit holds them. -/
def State.serveClass (s : State) (core cls : Nat) : Nat → State
  | 0 => s
  | f + 1 =>
    let s1 := (s.startHeads core cls 17).seekSlot core cls
    let k := s1.core core
    match k.copyQ cls with
    | [] => s1.modCopy core (fun u => { u with deficits := setNth u.deficits cls 0 })
    | c :: _ =>
      if headWaits s1 core cls c || nth 0 k.copy.deficits cls < c.nextBytes then s1
      else
        let (s2, n) := s1.issueChunk core cls c
        if n = 0 then s2
        else (s2.modCopy core (fun u => { u with deficits := setNth u.deficits cls (nth 0 u.deficits cls - n) })).serveClass
          core cls f

/-- A class's turn in a round (R249). -/
def State.classTurn (core : Nat) (s : State) (cls : Nat) : State :=
  let s1 := (s.startHeads core cls 17).seekSlot core cls
  let k := s1.core core
  match k.copyQ cls with
  | [] => s1.modCopy core (fun u => { u with deficits := setNth u.deficits cls 0 })
  | c :: _ =>
    if headWaits s1 core cls c then s1
    else
      let grow (u : CopyUnit) : CopyUnit :=
        { u with deficits := setNth u.deficits cls (nth 0 u.deficits cls + 1024 * nth 0 u.quanta cls) }
      (s1.modCopy core grow).serveClass core cls 4096

/-- The context and ring of a class's head, as one number; large where it asks for no ring slot. -/
def ringOrder (s : State) (core cls : Nat) : Nat :=
  match ((s.core core).copyQ cls).head? with
  | some c => match c.ring with
    | some n => 16 * c.ctx + n
    | none => 64
  | none => 64

/-- The heads of a core's queues start, and ask for their ring slots in ascending context and ring (R219, R254). -/
def State.askSlots (s : State) (core : Nat) : State :=
  let s1 := (range 0 4).foldl (fun s cls => s.startHeads core cls 17) s
  let order := (range 0 4).foldl (fun l cls => insertBy (fun a b => ringOrder s1 core a < ringOrder s1 core b) cls l) []
  order.foldl (fun s cls => s.seekSlot core cls) s1

/-- COPY_ROUND: one deficit round-robin round of a copy unit (R249). -/
def execCopyRound (core : Nat) (s : State) : Host.Outcome State Fault Refusal :=
  .next ((range 0 4).foldl (State.classTurn core) (s.askSlots core)).tick

/-! ## Landing (R252-R257, R340) -/

/-- The entry that diverts what a copy lands at a core's scratchpad. -/
def Copy.entryAt (c : Copy) (s : State) (core d : Nat) : Option Nat :=
  if d = core && c.op ≠ 4 then c.entry
  else if d = core && c.entry.isSome then c.entry else (s.core d).away c.ctx

/-- One element update (R256): the flags it raises. -/
def State.addOne (s : State) (ks : List Nat) (fmt mode uns value : Nat) (poison : Bool) : State × Nat :=
  if poison || s.poisonedAt ks then ((s.poisonKeys ks).noteKeys ks true, 0)
  else
    let (v, f) := addInto fmt mode (uns == 1) (s.readNat ks) 0 (ofPattern fmt (uns == 1) value)
    ((s.writeKeys ks (toBytes ks.length v)).noteKeys ks false, f)

/-- One append to a bin (R257): a poisoned count stays as it is. -/
def State.appendOne (s : State) (count : List Nat) (slots : List (List Nat)) (bytes : List Nat) (poison : List Bool) :
    State × Nat :=
  if s.poisonedAt count then (s, 0)
  else
    let n := s.readNat count
    let s1 := (s.writeKeys count (toBytes 4 (Nat.min (n + 1) (2 ^ 32 - 1)))).noteKeys count false
    match slots[n]? with
    | some ks => (s1.land ks bytes poison, 0)
    | none => (s1, fOverflow)

/-- Make one write of a chunk: none where it is held. -/
def Copy.landOp (c : Copy) (s : State) (core : Nat) (op : ChunkOp) : State × Option Nat :=
  let at' (ks : List Nat) : Option (Nat × Nat × Nat) := match ks with
    | k :: _ => (spadOf k).bind (fun d => (c.entryAt s core d).map (fun e => (d, e, k - spadKey d 0)))
    | [] => none
  match op with
  | .write ks bs ps => match at' ks with
    | some (d, e, off) =>
      let (t, done) := s.divertLine d e 1 0 (ks.map (fun k => off + k - ks.headD 0)) bs ps
      (t, if done then some 0 else none)
    | none => (s.land ks bs ps, some 0)
  | .add ks fmt mode uns v p => match at' ks with
    | some (d, e, off) =>
      let (t, done) := s.divertLine d e 2 (2 ^ 53 * fmt + 2 ^ 50 * mode + 2 ^ 49 * uns) (range off ks.length) (toBytes ks.length v)
        (ks.map (fun _ => p))
      (t, if done then some 0 else none)
    | none => let (t, f) := s.addOne ks fmt mode uns v p; (t, some f)
  | .append kc slots bs ps => match at' kc with
    | some (d, e, _) => (s, if s.dropping d e then some 0 else none)
    | none => let (t, f) := s.appendOne kc slots bs ps; (t, some f)

/-- Make the writes of a chunk in order: what is left, and the flags raised. -/
def Copy.landOps (c : Copy) (core : Nat) : State → List ChunkOp → State × List ChunkOp × Nat
  | s, [] => (s, [], 0)
  | s, op :: rest =>
    match c.landOp s core op with
    | (s1, none) => (s1, op :: rest, 0)
    | (s1, some f) =>
      let (s2, left, g) := c.landOps core s1 rest
      (s2, left, f ||| g)

/-- Two writes of bytes of one line that do not overlap, as one. -/
def ChunkOp.joins (a b : ChunkOp) : Option ChunkOp :=
  match a, b with
  | .write ks bs ps, .write js cs qs =>
    if (ks ++ js).all (fun k => k / 64 == ks.headD 0 / 64) && ks.all (fun k => !js.contains k) then
      some (.write (ks ++ js) (bs ++ cs) (ps ++ qs)) else none
  | _, _ => none

/-- Writes that follow one another into one line of an absent image are one record (R340). -/
def Copy.joinLines (c : Copy) (s : State) (core : Nat) : List ChunkOp → List ChunkOp
  | [] => []
  | a :: l =>
    let r := c.joinLines s core l
    match ((a.keys.head?.bind spadOf).bind (c.entryAt s core)).bind (fun _ => r.head?.bind a.joins) with
    | some b => b :: r.drop 1
    | none => a :: r

/-- The keys of each access an op makes. -/
def ChunkOp.spans : ChunkOp → List (List Nat)
  | .write ks _ _ => [ks]
  | .add ks _ _ _ _ _ => [ks]
  | .append kc slots _ _ => kc :: slots

/-- What the tile table answers to an access as it is performed (R214, Table 10.2): the merge consults it for what is diverted. -/
def Copy.spanNow (c : Copy) (s : State) (core : Nat) (ks : List Nat) : TileVerdict :=
  match ks.head?.bind spadOf with
  | none => .ok
  | some d =>
    if (c.entryAt s core d).isSome then .ok
    else match tileCheck (s.core d) c.ctx (ks.headD 0 - spadKey d 0) ks.length true with
      | .wait ts => .wait (ts.map (128 * d + ·))
      | v => v

/-- The accesses of a chunk's writes before the first is made: all may be performed, some wait, or one has been lost or is refused:
its fault, its core and its address. -/
inductive LandVerdict where
  | ok
  | wait (draining : List Nat)
  | fault (f : FaultCode) (core addr : Nat)
  deriving DecidableEq, Repr, Inhabited

def Copy.landCheck (c : Copy) (s : State) (core : Nat) (h : Chunk) : LandVerdict :=
  let spans := h.ops.flatMap ChunkOp.spans
  let at' (ks : List Nat) (f : FaultCode) : LandVerdict :=
    let d := (ks.head?.bind spadOf).getD core
    .fault f d (ks.headD 0 - spadKey d 0)
  match spans.find? (fun ks => (ks.head?.bind spadOf).any h.lostAt.contains) with
  | some ks => at' ks .translation
  | none => match spans.find? (fun ks => c.spanNow s core ks == .prot) with
    | some ks => at' ks .protection
    | none =>
      let ws := spans.flatMap (fun ks => match c.spanNow s core ks with
        | .wait ts => ts
        | _ => [])
      if spans.any (fun ks => match c.spanNow s core ks with
        | .wait _ => true
        | _ => false) then .wait (ws.foldl insertNat []) else .ok

/-- An arrival of a copy at a counter of a core (R252, R283, R284): none where it is made or refused; else it waits, on these draining
tiles or because the proof or its home holds it. `lost` says that it has lost a tile it waited on (R214). -/
def Copy.arriveAt (c : Copy) (s : State) (core d win off bytes : Nat) (lost : Bool) : State × Option (List Nat) :=
  match (if win = 0 then c.entryAt s core d else none) with
  | some e =>
    let (t, done) := s.divert d e 3 off 0 bytes []
    (t, if done then none else some [])
  | none =>
    let addr := 2 ^ 60 * win + off
    let refuse (f : FaultCode) (poison : Bool) (info : Nat) : State × Option (List Nat) := (s.copyTrap core d c f poison info 0, none)
    if walkHeld s (.context d c.ctx) addr 16 then (s, some [])
    else match resolve s (.context d c.ctx) addr 16 .atomic with
    | .error (f, p) => refuse f p addr
    | .ok ks =>
      let k := ks.headD 0
      if win = 0 && lost then refuse .translation false addr
      else match (if win = 0 then tileCheck (s.core d) c.ctx off 16 true else .ok) with
        | .prot => refuse .protection false addr
        | .wait ts => (s, some (ts.map (128 * d + ·)))
        | .ok =>
          if vaultHeld s ks then (s, some [])
          else if s.poisonedAt ks then refuse .protection true addr
          else if s.marked k then (s.cycle k bytes, none)
          else refuse .illegal false 0

/-- The arrivals of a performed chunk: at the copying core, or at each target of a multicast. Those still to make, and the draining
tiles the first of them waits on. -/
def Copy.arrivals (c : Copy) (core : Nat) (h : Chunk) : State → List Nat → State × List Nat × List Nat
  | s, [] => (s, [], [])
  | s, d :: ds =>
    match c.signal with
    | none => (s, [], [])
    | some (win, off) =>
      let d' := if win = 0 then d else core
      match c.arriveAt s core d' win off h.bytes (h.lostAt.contains d') with
      | (s1, none) => c.arrivals core h s1 ds
      | (s1, some ts) => (s1, d :: ds, ts)

/-- The filled slot of a ring (R254); false where the proof holds it. -/
def Copy.fillSlot (c : Copy) (s : State) (core : Nat) : State × Bool :=
  match c.ring, c.slotTile with
  | some n, some t =>
    match c.entry with
    | some e => s.divert core e 6 (c.slotOff / 64 * 64) 0 n []
    | none =>
      let s1 := s.readyTile core t
      let x := s1.ctx core c.ctx
      let g := x.ring n
      ((s1.setCtx core c.ctx (x.setRing n { g with wp := (g.wp + 1) % 65536, tiles := g.tiles ++ [(g.wp, t)] })).setEvent
        (regionOf core) 4, true)
  | _, _ => (s, true)

/-- Flags enter the flag word of the copy's context, with its image where it is away (R256). -/
def Copy.enterFlags (c : Copy) (s : State) (core flags : Nat) : State :=
  match c.entry with
  | some e => match s.div core e with
    | some d => s.setDiv core e { d with pipe := d.pipe.enterFlags flags }
    | none => s
  | none => s.setCtx core c.ctx ((s.ctx core c.ctx).enterFlags flags)

/-- What a copy leaves as its last chunk is performed, or as its cancel completes (R253, R254, R259): false where it is
held. -/
def Copy.wrapUp (c : Copy) (s : State) (core : Nat) : State × Bool :=
  if c.entry.any (s.dropping core) then (s, true)
  else if c.entry.isSome && (c.moveTile.isSome || (c.cancelled && c.slotTile.isSome)) then (s, false)
  else if c.cancelled then
    let s1 := match c.moveTile with
      | some m => s.setTile core m { s.tile core m with state := .ready }
      | none => s
    let s2 := match c.slotTile with
      | some t => s1.vacateTile core t
      | none => s1
    (c.enterFlags s2 core c.flags, true)
  else
    let (s1, done) := c.fillSlot s core
    if !done then (s1, false)
    else
      let s2 := match c.moveTile with
        | some m => s1.vacateTile core m
        | none => s1
      (c.enterFlags s2 core c.flags, true)

/-- The copy a chunk belongs to. -/
def CopyUnit.find (u : CopyUnit) (uid : Nat) : Option Copy :=
  (u.flying ++ u.queues.flatMap (·.2)).find? (fun c => c.uid == uid)

/-- Change a copy wherever it stands. -/
def CopyUnit.modify (u : CopyUnit) (uid : Nat) (f : Copy → Copy) : CopyUnit :=
  let g (c : Copy) : Copy := if c.uid = uid then f c else c
  { u with flying := u.flying.map g, queues := u.queues.map (fun (q : Nat × List Copy) => (q.1, q.2.map g)) }

/-- Whether an earlier chunk of the same copy still has to write a byte of this one (R253). -/
def mustFollow (hs : List Chunk) (n : Nat) (h : Chunk) : Bool :=
  (hs.take n).any (fun e => e.copy == h.copy &&
    e.ops.any (fun a => h.ops.any (fun b => a.keys.any (fun k => b.keys.contains k))))

/-- A vault that holds requests keeps the chunk from being performed (R281). -/
def Chunk.vaultHeld (h : Chunk) (s : State) : Bool := h.ops.any (fun o => Sys2Proof.Machine.vaultHeld s o.keys)

/-- The keys of a chunk's updates: its adds and the counts of its appends. -/
def Chunk.updateKeys (h : Chunk) : List Nat :=
  h.ops.flatMap (fun o => match o with
    | .write _ _ _ => []
    | .add ks _ _ _ _ _ => ks
    | .append kc _ _ _ => kc)

/-- What is left of a chunk that a full proof or an absent image's counts hold. -/
def State.holdChunk (s : State) (core n : Nat) (h : Chunk) : State :=
  s.modCopy core (fun u => { u with chunks := setNth u.chunks n { h with held := true } })

/-- A chunk that has been performed and has no reply to come is outstanding no longer. -/
def State.settleChunk (s : State) (core id : Nat) : State :=
  let u := (s.core core).copy
  match sfind u.owing id with
  | some (cls, n, left) =>
    if left = 0 && !u.chunks.any (fun h => h.id == id) then
      s.modCopy core (fun u => { u with owing := sdel u.owing id, outstanding := setNth u.outstanding cls (nth 0 u.outstanding cls - n) })
    else s
  | none => s

/-- Whether replies to the reads of a chunk are still to come. -/
def CopyUnit.readsLeft (u : CopyUnit) (h : Chunk) : Bool :=
  match sfind u.owing h.id with
  | some (_, _, left) => left != 0
  | none => false

/-- A chunk that has been performed leaves the unit: its write requests travel, and their acknowledges are still to come (R260). -/
def State.dropChunk (s : State) (core n : Nat) (h : Chunk) : State :=
  let owe (u : CopyUnit) : Sparse (Nat × Nat × Nat) := match sfind u.owing h.id with
    | some (cls, bytes, left) => sput u.owing h.id (cls, bytes, left + h.writes.length)
    | none => u.owing
  let s1 := s.modCopy core (fun u => { u with chunks := dropNth u.chunks n, owing := owe u })
  (s1.askCopy core h.cls h.id true h.writes).settleChunk core h.id

/-- A write with the bytes and the poison that its source holds now (R253, R280). -/
def ChunkOp.fetch (s : State) (op : ChunkOp) (src : List Nat) : ChunkOp :=
  if src.isEmpty then op
  else match op with
    | .write ks _ _ => .write ks (s.readKeys src) (src.map (fun k => s.poison.contains (k / 8)))
    | .add ks fmt mode uns _ _ => .add ks fmt mode uns (s.readNat src) (s.poisonedAt src)
    | .append _ _ _ _ => op

/-- Whether the reads of a chunk wait: replies are still to come, a home holds them, or an absent context's window 0x0 is read (R281,
R340). -/
def Copy.readsWait (c : Copy) (s : State) (core : Nat) (h : Chunk) : Bool :=
  (s.core core).copy.readsLeft h || vaultHeld s h.srcs.flatten ||
    (c.entry.isSome && h.srcs.any (fun ks => ks.any (fun k => spadOf k == some core)))

/-- Change chunk `n`. -/
def State.setChunk (s : State) (core n : Nat) (h : Chunk) : State :=
  s.modCopy core (fun u => { u with chunks := setNth u.chunks n h })

/-- The copy of a chunk that has failed is stopped at the chunk (R253, R255): a retry issues it again. One that has left its queue
stands at the head of it again. -/
def State.stopAt (s : State) (core : Nat) (c : Copy) (h : Chunk) : State :=
  let back (e : Copy) : Copy := { e with stopped := true, pos := h.pos, roff := h.roff, rowAt := h.rowAt, allIssued := false,
                                          waited := Waited.reset, lostAt := [] }
  let u := (s.core core).copy
  if c.cancelled then s
  else if u.flying.any (fun e => e.uid == c.uid) then
    (s.modCopy core (fun u => { u with flying := u.flying.filter (fun e => e.uid != c.uid) })).setCopyQ core c.cls
      (back c :: (s.core core).copyQ c.cls)
  else s.modCopy core (fun u => u.modify c.uid back)

/-- The write of a chunk meets a fault as it is performed (R214, R253): no byte of it or of the copy's later chunks is written. Of a
multicast the other targets are written (R258). -/
def State.failChunk (s : State) (core n : Nat) (c : Copy) (h : Chunk) (f : FaultCode) (d addr : Nat) : State :=
  let s1 := (s.copyTrap core d c f false addr h.pos).stopAt core c h
  if c.op = 4 then
    let keep := (h.ops.zip h.srcs).filter (fun p => (p.1.keys.head?.bind spadOf) != some d)
    s1.setChunk core n { h with ops := keep.map (·.1), srcs := keep.map (·.2), targets := h.targets.filter (· != d),
                                lostAt := h.lostAt.filter (· != d) }
  else
    let mine := ((s.core core).copy.chunks.drop n).filter (fun e => e.copy == c.uid)
    mine.foldl (fun s e => (s.modCopy core (fun u => { u with chunks := u.chunks.filter (fun g => g.id != e.id) })).settleChunk core e.id) s1

/-- A chunk whose reads have been made writes: its writes in order, then its arrivals; the last chunk ends the copy. -/
def State.writeChunk (s : State) (core n : Nat) (c : Copy) (h : Chunk) : State :=
  let (s1, left, flags) := c.landOps core s (c.joinLines s core h.ops)
  let c1 := { c with flags := c.flags ||| flags }
  let s1 := s1.modCopy core (fun u => u.modify c.uid (fun c => { c with flags := c.flags ||| flags }))
  if !left.isEmpty then s1.holdChunk core n { h with ops := left, srcs := [] }
  else
    let (s2, more, ts) := c1.arrivals core h s1 h.targets
    if !more.isEmpty then
      let h1 := { h with ops := [], srcs := [], targets := more, waits := ts.foldl insertNat h.waits }
      if ts.isEmpty then s2.holdChunk core n h1 else s2.setChunk core n h1
    else
      let others := (dropNth (s.core core).copy.chunks n).any (fun e => e.copy == c.uid)
      if others || !(c1.allIssued || c1.cancelled) then s2.dropChunk core n h
      else match c1.wrapUp s2 core with
        | (s3, false) => s3.holdChunk core n { h with ops := [], srcs := [], targets := [] }
        | (s3, true) =>
          (s3.dropChunk core n h).modCopy core (fun u => { u with flying := u.flying.filter (fun d => d.uid != c.uid) })

/-- CHUNK_PERFORMED: once the replies to chunk `n` have come its reads are made, and then its writes, as Table 10.2 stands at that
time (R214, R252, R253); updates that a vault has held follow in the order in which they came (R366). -/
def execChunkPerformed (core n : Nat) (s : State) : Host.Outcome State Fault Refusal :=
  let u := (s.core core).copy
  .next (State.tick (match u.chunks[n]? with
    | none => s
    | some h => match u.find h.copy with
      | none => s
      | some c =>
        if !h.fetched then
          if c.readsWait s core h then s
          else s.setChunk core n { h with fetched := true, ops := (h.ops.zip h.srcs).map (fun p => p.1.fetch s p.2) }
        else if mustFollow u.chunks n h then s
        else if h.vaultHeld s || !atomicGoes s h.heldAt h.updateKeys then
          s.setChunk core n { h with heldAt := heldPlace s h.heldAt h.updateKeys }
        else if h.held then s.writeChunk core n c { h with heldAt := none }
        else match c.landCheck s core h with
          | .wait ts => s.setChunk core n { h with waits := ts.foldl insertNat h.waits }
          | .fault f d addr => s.failChunk core n c h f d addr
          | .ok => s.writeChunk core n c { h with heldAt := none }))

/-! ## Replies (R260) -/

/-- A reply to the copy unit: it returns `n` bytes to the window of its class, with or without a congestion mark, and the chunk has one
less to come (R260). -/
def State.copyReply (s : State) (core id cls n : Nat) (marked : Bool) : State :=
  let u := (s.core core).copy
  match sfind u.owing id with
  | none => s
  | some (_, bytes, left) =>
    let w := nth 0 u.windows cls
    let half := nth 0 u.sinceHalf cls + n
    let plain := nth 0 u.sinceMark cls + n
    let put (w half plain : Nat) (s : State) : State := s.modCopy core (fun u =>
      { u with windows := setNth u.windows cls w, owing := sput u.owing id (cls, bytes, left - 1),
               sinceHalf := setNth u.sinceHalf cls half, sinceMark := setNth u.sinceMark cls plain })
    (if marked then
      if w ≤ half then put (Nat.max 2048 (w / 2)) 0 0 (s.countEvent core 17 0 1) else put w half 0 s
    else if w ≤ plain then put (Nat.min 32768 (w + 2048)) half (plain - w) s
    else put w half plain s).settleChunk core id

/-! ## The copy commands (R247) -/

/-- A copy record lies in window 0x2 or 0x8; any other window is PROTECTION (R247). -/
def copyWindow (addr : Nat) : Res Unit :=
  if addr / 2 ^ 60 = 2 ∨ addr / 2 ^ 60 = 8 then .ok () else .error (.trap (Trap.access .protection addr))

/-- A copy command: its checks in the order of R247's table, then its place in the class queue. -/
def copyCommand (op b core ctx : Nat) (s : State) : Host.Outcome State Fault Refusal :=
  command s (fun s => do
    let r := s.turn
    let addr := (s.getX r b).toNat
    need (addr % 32 == 0) .illegal
    copyWindow addr
    let bs ← recordRead s r addr 32
    let ws := wordsOf 4 bs
    need (copyRecordOk ws op (s.region r).mask) .illegal
    let c ← coreOperand s r core
    ctxOperand s [c] ctx
    need (s.ctx c ctx).block.isSome .illegal
    await (((s.core c).copyQ (bits (nth 0 ws 0).toNat 59 58)).length < 16)
    .ok (s.enqueueCopy c ctx 31 ws))

/-- `cp` (R253). -/
def execCp (b core ctx : Nat) (s : State) : Host.Outcome State Fault Refusal := copyCommand 0 b core ctx s

/-- `cpg` (R255). -/
def execCpg (b core ctx : Nat) (s : State) : Host.Outcome State Fault Refusal := copyCommand 1 b core ctx s

/-- `cps` (R255). -/
def execCps (b core ctx : Nat) (s : State) : Host.Outcome State Fault Refusal := copyCommand 2 b core ctx s

/-- `cpsa` (R256). -/
def execCpsa (b core ctx : Nat) (s : State) : Host.Outcome State Fault Refusal := copyCommand 3 b core ctx s

/-- `cpm` (R258). -/
def execCpm (b core ctx : Nat) (s : State) : Host.Outcome State Fault Refusal := copyCommand 4 b core ctx s

/-- `cpbin` (R257). -/
def execCpbin (b core ctx : Nat) (s : State) : Host.Outcome State Fault Refusal := copyCommand 5 b core ctx s

/-- The oldest copy of an id and context in the queues of a core. -/
def Core.findCopy (k : Core) (id ctx : Nat) : Option Copy :=
  ((range 0 4).flatMap k.copyQ).foldl (fun (best : Option Copy) c =>
    if c.id ≠ id ∨ c.ctx ≠ ctx ∨ c.entry.isSome then best
    else match best with
      | none => some c
      | some d => if c.uid < d.uid then some c else some d) none

/-- Take a copy out of its queue, cancelled (R259): a slot asked for and not granted is asked for no more. -/
def State.cancelCopy (s : State) (core : Nat) (c : Copy) : State :=
  let k := s.core core
  let w := 1024 + 64 * c.ctx + 4 * (c.ring.getD 0) + c.cls
  let waits := if c.asked && c.slotTile.isNone && c.entry.isNone then k.waits.filter (fun v => Wait.key v != w) else k.waits
  let s1 := (s.setCore core { k with waits := waits }).setCopyQ core c.cls ((k.copyQ c.cls).filter (fun d => d.uid != c.uid))
  let s2 := match (if c.asked && c.slotTile.isNone && c.entry.isNone then (s1.core core).takeGrant w else none) with
    | some (t, k2) => (s1.setCore core k2).vacateTile core t
    | none => s1
  let c1 := { c with cancelled := true, started := true }
  if (s2.core core).copy.chunks.any (fun h => h.copy == c.uid) then
    s2.modCopy core (fun u => { u with flying := u.flying ++ [c1] })
  else (c1.wrapUp s2 core).1

/-- `cpcancel` (R259): with retry 1 a stopped copy goes on; else it is taken out, and the command waits for the chunks
already issued. -/
def execCpcancel (a core retry ctx : Nat) (s : State) : Host.Outcome State Fault Refusal :=
  let r := s.turn
  let ready := s.drains r
  let s := s.drain r
  match (do
      await ready
      let id ← lowOperand (s.getX r a) 8
      let c ← coreOperand s r core
      ctxOperand s [c] ctx
      .ok (id, c) : Res (Nat × Nat)) with
  | .error e => finish s r (.error e)
  | .ok (id, c) =>
    let flies (s : State) (c uid : Nat) : Bool := (s.core c).copy.flying.any (fun e => e.uid == uid)
    match (s.region r).cancelling with
    | some (d, uid) =>
      if flies s d uid then finish s r (.error .wait)
      else finish s r (.ok (s.setRegion r { s.region r with cancelling := none }))
    | none =>
      match (s.core c).findCopy id ctx with
      | none => finish s r (.ok s)
      | some d =>
        if retry = 1 then
          let go (e : Copy) : Copy := { e with stopped := false }
          finish s r (.ok (if d.stopped then s.modCopy c (fun u => u.modify d.uid go) else s))
        else
          let t := s.cancelCopy c d
          if flies t c d.uid then .next ((t.setRegion r { t.region r with cancelling := some (c, d.uid) }).wait r)
          else finish t r (.ok t)

/-- `cpq` (R251). -/
def execCpq (b core : Nat) (s : State) : Host.Outcome State Fault Refusal :=
  command s (fun s => do
    let r := s.turn
    let v := (s.getX r b).toNat
    let qs := (range 0 4).map (fun i => bits v (8 * i + 7) (8 * i))
    let c ← coreOperand s r core
    need (v < 2 ^ 32 && qs.all (fun q => 2 ≤ q)) .illegal
    .ok (s.modCopy c (fun u => { u with quanta := qs })))

end Sys2Proof.Machine
end

