-- ==== Sys2Proof/Machine/Fetch.lean ====
section
/-! DEFINITION. Where the three kinds of word come from: a control core fetches at its pc (R102), an element holds the
word of its block, a matrix bank the orders of its queue; and the placing of a word there. -/
namespace Sys2Proof.Machine

/-- The keys a control core fetches from (R102): windows 0x2 and 0x8 only, at the pc as it stands,
aligned or not (log 84). -/
def fetchKeys (s : State) (r : Nat) : Acc (List Nat) :=
  let pc := (s.region r).pc.toNat
  if pc / 2 ^ 60 = 2 ∨ pc / 2 ^ 60 = 8 then resolve s (.control r) pc 4 .read else .error (.protection, false)

/-- The word at a control core's pc, through its own stores; poison read by a fetch is a load's (R92, log 14). -/
def fetchWord (s : State) (r : Nat) : Acc Nat :=
  match fetchKeys s r with
  | .error e => .error e
  | .ok ks => if ccPoisoned s r ks then .error (.protection, true) else .ok (ofBytes (s.ccRead r ks))

/-- The instruction a control core issues next, or the trap its fetch or its word raises (R45, R102). -/
def controlInstr (s : State) (r : Nat) : Except Trap Instr :=
  match fetchWord s r with
  | .error (f, p) => .error (Trap.access f (s.region r).pc.toNat p)
  | .ok w => match decodeWord .control w with
    | .ok i => .ok i
    | .error _ => .error (Trap.word .illegal)

/-- The fetch of the word at pc travels as a load does (R305). -/
def State.askFetch (s : State) (r : Nat) : State :=
  match fetchKeys s r with
  | .ok ks => s.askControl r (s.homeAt ks) .load
  | .error _ => s

/-- Whether a fetch waits for its tables or its home (R281). -/
def fetchHeld (s : State) (r : Nat) : Bool :=
  walkHeld s (.control r) (s.region r).pc.toNat 4 || (match fetchKeys s r with
    | .ok ks => vaultHeld s ks
    | .error _ => false)

/-- What a command of chapter 06 names by R112: cores and a context; none for another word and for the waiting commands that R113
lists. -/
def heldNames (s : State) (r : Nat) (i : Instr) : Option (List Nat × Option Nat) :=
  let flagNames (n : Nat) : List Nat × Option Nat :=
    if 0x100 ≤ n then ([coreOf r ((n - 0x100) / 4)], some (n % 4)) else ([], none)
  let mask (a : Nat) : List Nat := maskCores r ((s.getX r a).toNat % 65536)
  match i with
  | .tsend _ _ _ | .apset _ _ | .apmod _ _ _ | .trap _ | .tret | .mvts _ _ | .eventsClear _ | .dselScorecardClear _
  | .scorecardLatch _ | .layerClockLatch _ | .translationRegisterWrite _ _ => some ([], none)
  | .fopen _ _ core _ ctx => some ([coreOf r core], some ctx)
  | .sstat _ core => some ([coreOf r core], none)
  | .bload a _ ctx => some (mask a, some ctx)
  | .bdrop a ctx => some (mask a, some ctx)
  | .trel _ core _ ctx => some ([coreOf r core], some ctx)
  | .tstate _ _ core _ => some ([coreOf r core], none)
  | .ringinit _ core _ ctx => some ([coreOf r core], some ctx)
  | .ringrel core _ ctx => some ([coreOf r core], some ctx)
  | .mvfs _ n => some (flagNames n)
  | .flagWordWrite _ n => some (flagNames n)
  | _ => none

/-- Whether the waiting word at pc completes before a trap is taken (R113): a command of chapter 06 that is no waiting command, unless
R112 holds it, for a context that is switched out or behind a token. -/
def State.mustComplete (s : State) (r : Nat) : Bool :=
  match controlInstr s r with
  | .ok i => match heldNames s r i with
    | some (cs, x) => cs.all (fun c => !s.tokensTo r c && x.all (fun x => !switchedOut s c x))
    | none => false
  | .error _ => false

/-- The instruction of an element: word `i` of the context's block. -/
def elementInstr (s : State) (c x i : Nat) : Option Instr :=
  match (s.ctx c x).block with
  | none => none
  | some b => match b.words[i]? with
    | none => none
    | some w => match decodeWord .fabric w with
      | .ok i => some i
      | .error _ => none

/-- The line of a queued order: the bank it names, or 2 for msc.ld, which names none (R311, R325). -/
def QOrder.bank (q : QOrder) : Nat := if q.word / 2 ^ 60 % 16 = 7 then 2 else (orderFields q.word).bank

/-- The order a matrix bank runs next: the oldest of the queue in its line (R311). -/
def Matrix.headOrder (m : Matrix) (bank : Nat) : Option QOrder := m.queue.find? (fun q => q.bank == bank)

/-- The instruction of a matrix bank's next order. -/
def orderInstr (s : State) (c bank : Nat) : Option Instr :=
  match (s.core c).mx.headOrder bank with
  | none => none
  | some q => match decodeWord .order q.word with
    | .ok i => some i
    | .error _ => none

/-- A barrier entry leaves every queue of a core. -/
def Core.dropBarrier (c : Core) (n : Nat) : Core :=
  let ports := c.ports.map (fun q => (q.1, q.2.filter (fun e => e.barrier != some n)))
  { c with ports := ports.filter (fun q => !q.2.isEmpty) }

/-- A core of an abandoned command: the entry of a `talloc` leaves the list, a tile granted to it and not yet collected
becomes empty, later entries are looked at again (R113, R226); the merge of a `cxrest` is asked for no more. -/
def abandonOn (r : Nat) (s : State) (i : Nat) : State :=
  let k := coreOf r i
  let c := s.core k
  let got := c.grants.filter (fun g => g.1 == 2048)
  let s1 := s.setCore k { c with waits := c.waits.filter (fun w => w.who != .talloc), restore := none,
                                 grants := c.grants.filter (fun g => g.1 != 2048) }
  let s2 := got.foldl (fun s g => s.vacateTile k g.2) s1
  s2.touch k (range 0 4)

/-- A waiting command is abandoned (R113): a `talloc` loses its waiting-list entry, an `sbar` its barrier entries, a `cxrest`
the merge it has asked for. -/
def abandonWaiting (s : State) (r : Nat) : State :=
  let s := (range 0 16).foldl (abandonOn r) s
  let s := (s.region r).bars.foldl (fun s b => s.setCore b.1 ((s.core b.1).dropBarrier b.2)) s
  s.setRegion r { s.region r with bars := [], cancelling := none }

/-- Whether a control core has an asynchronous cause to take now: a `cpcancel` under way and a waiting word that R113 does not
list complete first. -/
def State.takes (s : State) (r : Nat) : Bool :=
  let g := s.region r
  g.mode == .unprivileged && !g.held.isEmpty && g.cancelling.isNone && !(g.waiting && s.mustComplete r)

/-- Take the oldest held cause with a resume address of the next word (R132). -/
def State.takeHeld (s : State) (r : Nat) : State :=
  match (s.region r).held with
  | [] => s
  | c :: rest =>
    let s1 := if (s.region r).waiting then abandonWaiting s r else s
    let g := { s1.region r with held := rest }
    if g.tvec == 0 then (s1.setRegion r g).escalate r (bits c.tcause.toNat 7 0)
    else s1.setRegion r (g.enterTrap g.pc c)

/-! ## Placing a word -/

/-- A launch that covers the whole region, for a word placed from outside the machine (log 4). -/
def placedLaunch : Launch := { words := [BitVec.ofNat 64 (0xFFFF * 2 ^ 32), 0, 0, 0, 0, 0, 0, 0] }

/-- A control-core word at the start of the region's window, its program running (log 4). -/
def State.placeControl (s : State) (w : Nat) : State :=
  let r := s.turn
  let s := s.drain r
  let g := s.region r
  let s := s.setRegion r { g with pc := 0x2000000000000000, waiting := false, atLwait := false, held := [],
                                  regionSplit := 8, launch := some (g.launch.getD placedLaunch) }
  let s := s.store (range (regionKey r 0) 8) (toBytes 8 w)
  { s with agenda := [.issue r], die := { s.die with boot := .running, debugHold := false } }

/-- A block of one fabric word, resident in context 0 of core 0 (log 4). -/
def State.placeFabric (s : State) (w : Nat) : State :=
  let b : Block := { id := 0, storeMask := 0, prio := 0, rank := 0, dbg := 0, nout := 0, after := 0, words := [w],
                     params := List.replicate 32 0, addr := 0, place := [0], ins := [0], outs := [0] }
  let s := s.setCtx 0 0 { s.ctx 0 0 with slot := .resident, block := some b }
  { s with agenda := [.element 0 0 0], die := { s.die with boot := .running, debugHold := false } }

/-- An order at the head of its bank's queue on core 0 (log 4). -/
def State.placeOrder (s : State) (w : Nat) : State :=
  let c := s.core 0
  let q : QOrder := { word := w, ctx := 0, bad := false, entry := none }
  let s := s.setCore 0 { c with mx := { c.mx with queue := [q] } }
  { s with agenda := [.order 0 q.bank], die := { s.die with boot := .running, debugHold := false } }

end Sys2Proof.Machine
end

