-- ==== Sys2Proof/Machine/Matrix.lean ====
section
/-! DEFINITION. The matrix engine (R308-R330): operands and coded blocks, products in the order of R315, drains and
loads, the checks of Table 19.4, and completion. -/
namespace Sys2Proof

/-! ## The fields of an order -/

/-- M. -/
def MxOrder.rows (o : MxOrder) : Nat := o.m1 + 1

/-- N. -/
def MxOrder.colsN (o : MxOrder) : Nat := o.n1 + 1

/-- K rounded up to 32, and its blocks (R309). -/
def MxOrder.nb (o : MxOrder) : Nat := (o.k + 31) / 32

/-- N rounded up to 32 (R321). -/
def MxOrder.np (o : MxOrder) : Nat := (o.colsN + 31) / 32 * 32

/-- The columns an order names (R310). -/
def MxOrder.cols (o : MxOrder) : List Nat := Machine.range (128 * o.bank + o.base) o.colsN

/-- The bytes of a plain row of K elements. -/
def MxOrder.rowBytes (o : MxOrder) (fmt : Nat) : Nat := 32 * o.nb * Machine.memBits fmt / 8

end Sys2Proof

namespace Sys2Proof.Machine

/-! ## Numbers -/

def Num.neg? : Num → Bool
  | .fin v => v.m < 0
  | .zero n => n
  | .inf n => n
  | .nan _ => false

/-- The exact product of two numbers; 0 times an infinity is invalid (R315). -/
def numMul : Num → Num → Num × Nat
  | .nan _, _ => (.nan false, 0)
  | _, .nan _ => (.nan false, 0)
  | .inf a, b => match b with
    | .zero _ => (.nan false, fInvalid)
    | b => (.inf (a != b.neg?), 0)
  | a, .inf b => match a with
    | .zero _ => (.nan false, fInvalid)
    | a => (.inf (a.neg? != b), 0)
  | .fin u, .fin v => (.fin (u.mul v), 0)
  | a, b => (.zero (a.neg? != b.neg?), 0)

/-- The exact sum of the products of a dot group; an empty group is +0. -/
def groupSum : List (Num × Num) → Num × Nat
  | [] => (.zero false, 0)
  | [(a, b)] => numMul a b
  | (a, b) :: l =>
    let (p, f) := numMul a b
    let (t, g) := groupSum l
    let (v, h) := addNum 0 p t
    (v, f ||| g ||| h)

/-- A binary32 word as a number; a signalling NaN reads as a NaN (R315). -/
def wordNum (w : Nat) : Num :=
  match decodeNum 1 false w with
  | .nan _ => .nan false
  | n => n

/-- One accumulation: acc + s rounded to binary32, invalid the only flag (R315). -/
def accStep (acc : Nat) (ps : List (Num × Num)) : Nat × Nat :=
  let (t, f) := groupSum ps
  let (v, g) := addNum 0 (wordNum acc) t
  ((convert 1 false 0 v 0 false).1, (f ||| g) &&& fInvalid)

/-- A float word by its groups in order. -/
def accGroups : Nat → List (List (Num × Num)) → Nat × Nat
  | acc, [] => (acc, 0)
  | acc, g :: gs =>
    let (a, f) := accStep acc g
    let (w, h) := accGroups a gs
    (w, f ||| h)

/-- An integer operand's value. -/
def numInt : Num → Int
  | .fin v => v.m * 2 ^ v.e.toNat
  | _ => 0

/-- An integer word: sums modulo 2^32. -/
def accInt (acc : Nat) (ps : List (Num × Num)) : Nat :=
  wrapInt 32 (ps.foldl (fun a p => a + numInt p.1 * numInt p.2) (acc : Int))

/-- A list in runs of `n`. -/
def chunksOf {α : Type} (n : Nat) : Nat → List α → List (List α)
  | 0, _ => []
  | f + 1, l => if l.isEmpty then [] else l.take n :: chunksOf n f (l.drop n)

/-! ## Coded-exponent blocks (R70-R72) -/

/-- Bit `i` of a byte string, each byte from bit 7 down. -/
def streamBit (bs : List Nat) (i : Nat) : Bool := bit (nth 0 bs (i / 8)) (7 - i % 8)

/-- A Rice code of parameter `k` at bit `i`: the residue and the bit after it; none past `stop`. -/
def riceOne (bs : List Nat) (k stop : Nat) : Nat → Nat → Nat → Option (Nat × Nat)
  | 0, _, _ => none
  | f + 1, q, i =>
    if stop ≤ i then none
    else if streamBit bs i then riceOne bs k stop f (q + 1) (i + 1)
    else if stop < i + 1 + k then none
    else
      let low := (range (i + 1) k).foldl (fun v j => 2 * v + b2n (streamBit bs j)) 0
      some (q * 2 ^ k + low, i + 1 + k)

/-- `n` Rice codes: the residues and the bits used. -/
def riceAll (bs : List Nat) (k stop : Nat) : Nat → Nat → Option (List Nat × Nat)
  | 0, i => some ([], i)
  | n + 1, i =>
    match riceOne bs k stop 129 0 i with
    | none => none
    | some (r, j) => match riceAll bs k stop n j with
      | none => none
      | some (rs, e) => some (r :: rs, e)

/-- The residues of a block, none where they are malformed, and the length of its section, none where no rule gives one
(R70, R72). -/
def cebResidues (b1 : Nat) (bs : List Nat) : Option (List Nat) × Option Nat :=
  let k := bits b1 7 5
  if bit b1 4 then
    (if k = 0 then some ((range 0 32).map (fun i => nth 0 bs (i / 2) / 16 ^ (i % 2) % 16)) else none, some 16)
  else if k = 7 then (if nth 1 bs 0 = 0 then some (List.replicate 32 0) else none, some 1)
  else if 3 < k then (none, none)
  else match riceAll bs k 128 32 0 with
    | some (rs, e) => (some rs, some ((e + 7) / 8))
    | none => (none, none)

/-- A CEB block from its first byte: its scale and e4m3 codes, none where it is malformed; and its length, none where the
section has none (log 75). -/
def cebBlock (bs : List Nat) : Option (Nat × List Nat) × Option Nat :=
  let b1 := nth 0 bs 1
  let (res, n) := cebResidues b1 (bs.drop 18)
  let code (es : List Nat) (i : Nat) : Nat :=
    let nib := nth 0 bs (2 + i / 2) / 16 ^ (i % 2) % 16
    128 * (nib / 8) + 8 * nth 0 es i + nib % 8
  let codes := res.bind (fun rs =>
    let es := rs.map (· + b1 % 16)
    if es.any (fun e => 15 < e) then none else some (nth 0 bs 0, (range 0 32).map (code es)))
  (codes, n.map (18 + ·))

/-! ## Operand rows -/

/-- A row of an operand as the engine reads it: its values, and the scratchpad offset of the first poison it met. -/
structure Vec where
  vals : List Num
  bad : Option Nat
  deriving Repr, Inhabited

/-- The lower of two offsets. -/
def firstOf (a b : Option Nat) : Option Nat :=
  match a, b with
  | some x, some y => some (Nat.min x y)
  | some x, none => some x
  | none, y => y

def spadByte (s : State) (c off : Nat) : Nat := s.readByte (spadKey c off)

/-- The first poisoned unit among the bytes at scratchpad offsets. -/
def firstPoison (s : State) (c : Nat) (offs : List Nat) : Option Nat :=
  (offs.find? (fun o => s.poison.contains (spadKey c o / 8))).map (fun o => o - o % 8)

/-- The first poisoned unit of bytes at a scratchpad offset. -/
def spadPoison (s : State) (c off n : Nat) : Option Nat := firstPoison s c (range off n)

/-- An element times its block scale; 0xFF is NaN (R315, R316). -/
def scaled (sc : Nat) (n : Num) : Num :=
  match scaleExp sc with
  | none => .nan false
  | some k => n.scale k

/-- The code of element `i` of elements at an offset (R309). -/
def elemCode (s : State) (c off fmt i : Nat) : Nat :=
  match memBits fmt with
  | 4 => spadByte s c (off + i / 2) / 16 ^ (i % 2) % 16
  | 16 => spadByte s c (off + 2 * i) + 256 * spadByte s c (off + 2 * i + 1)
  | _ => spadByte s c (off + i)

/-- The value of a code; a signalling NaN reads as a NaN. -/
def codeNum (fmt code : Nat) : Num :=
  match decodeNum fmt false code with
  | .nan _ => .nan false
  | n => n

/-- `n` elements at an offset whose scales lie at `soff`; element `i` belongs to block `blk i`. -/
def plainVec (s : State) (c off soff fmt n : Nat) (blk : Nat → Nat) (nb : Nat) : Vec :=
  let sc (i : Nat) : Nat := spadByte s c (soff + blk i)
  let one (i : Nat) : Num :=
    let v := codeNum fmt (elemCode s c off fmt i)
    if isNarrow fmt then scaled (sc i) v else v
  { vals := (range 0 n).map one,
    bad := firstOf (spadPoison s c off ((n * memBits fmt + 7) / 8)) (if isNarrow fmt then spadPoison s c soff nb else none) }

/-- Whether an offset of a stripe equals the one before it and the length of the block before it (R71); a block whose length
no rule gives leaves the next offset unchecked. -/
def offsetFollows (prev next : Nat) (len : Option Nat) : Bool :=
  match len with
  | some n => next == prev + n
  | none => true

/-- One stripe of a coded row from `p`: `n` blocks that hold `k` elements. Its values, its first poison, bytes of padding
elements left out (R326), and the bytes it takes (R71, R72). -/
def cebStripe (s : State) (c p n k : Nat) : List Num × Option Nat × Nat :=
  let off (j : Nat) : Nat := spadByte s c (p + 2 * j) + 256 * spadByte s c (p + 2 * j + 1)
  let block (j : Nat) : Option (Nat × List Nat) × Option Nat := cebBlock ((range (p + off j) 34).map (spadByte s c))
  let total := if n < 16 then off n else off 15 + (block 15).2.getD 34
  let sound := off 0 == 32 && (range 1 (n - 1)).all (fun j => offsetFollows (off (j - 1)) (off j) (block (j - 1)).2) &&
    (n == 16 || (offsetFollows (off (n - 1)) (off n) (block (n - 1)).2 && (range n (16 - n)).all (fun j => off j == off n)))
  let vals := (range 0 n).flatMap (fun j => match (block j).1 with
    | some (sc, cs) => cs.map (fun k => scaled sc (codeNum 5 k))
    | none => List.replicate 32 (.zero false))
  let ill := if !sound then some p else ((range 0 n).find? (fun j => (block j).1.isNone)).map (fun j => p + off j)
  -- the nibble bytes of the last block, and the fields of a raw residue section, that hold padding alone
  let used := k - 32 * (n - 1)
  let last := p + off (n - 1)
  let past (a b o : Nat) : Bool := last + a + (used + 1) / 2 ≤ o && o < last + b
  let raw : Bool := spadByte s c (last + 1) / 16 % 2 == 1
  let read := (range p total).filter (fun o => !past 2 18 o && !(raw && past 18 34 o))
  (vals, firstOf (firstPoison s c read) (ill.map (fun o => o - o % 8)), total)

/-- A coded row from `p`, and the offset after it. -/
def cebRow (s : State) (c : Nat) : Nat → Nat → Nat → Vec × Nat
  | 0, p, _ => ({ vals := [], bad := none }, p)
  | f + 1, p, k =>
    if k = 0 then ({ vals := [], bad := none }, p)
    else
      let n := if 512 ≤ k then 16 else (k + 31) / 32
      let (vs, bad, total) := cebStripe s c p n (Nat.min k 512)
      let (rest, e) := cebRow s c f (p + (total + 31) / 32 * 32) (k - Nat.min k 512)
      ({ vals := vs.take k ++ rest.vals, bad := firstOf bad rest.bad }, e)

/-- Coded rows one after another, and the offset after the last. -/
def cebRows (s : State) (c k : Nat) : Nat → Nat → List Vec × Nat
  | 0, p => ([], p)
  | n + 1, p =>
    let (v, e) := cebRow s c 128 p k
    let (vs, e') := cebRows s c k n e
    (v :: vs, e')

/-! ## Places of an order -/

/-- The group size of a dense product (Table 19.1). -/
def groupSize (fmt : Nat) : Nat := if fmt = 2 then 1 else if fmt = 7 then 4 else 2

/-- A tile place: tile, granules, bytes, whether it is written. -/
structure MxUse where
  tile : Nat
  off : Nat
  bytes : Nat
  write : Bool
  deriving DecidableEq, Repr

/-- The scratchpad offset of a place. -/
def placeOf (s : State) (c tile off : Nat) : Nat := 32 * ((s.tile c tile).base + off)

/-- The extent of an operand: plain rows, or coded ones as their stripes say. -/
def operandBytes (s : State) (c : Nat) (o : MxOrder) (coded : Nat) (fmt tile off n : Nat) : Nat :=
  if coded = 1 then
    let p := placeOf s c tile off
    (cebRows s c o.k n p).2 - p
  else n * o.rowBytes fmt

/-- The scale tiles of a product. -/
def scaleUses (o : MxOrder) : List MxUse :=
  (if isNarrow o.afmt && o.acoded == 0 then [{ tile := o.astile, off := o.asoff, bytes := o.rows * o.nb, write := false }] else []) ++
  (if isNarrow o.bfmt && o.bcoded == 0 then [{ tile := o.bstile, off := o.bsoff, bytes := o.colsN * o.nb, write := false }] else [])

/-- The tile places an order uses (Tables 19.2 and 19.6). -/
def orderUses (s : State) (c op : Nat) (o : MxOrder) : List MxUse :=
  match op with
  | 0 => [{ tile := o.atile, off := o.aoff, bytes := operandBytes s c o o.acoded o.afmt o.atile o.aoff o.rows, write := false },
      { tile := o.btile, off := o.boff, bytes := operandBytes s c o o.bcoded o.bfmt o.btile o.boff o.colsN, write := false }] ++ scaleUses o
  | 2 => [{ tile := o.atile, off := o.aoff, bytes := operandBytes s c o o.acoded o.afmt o.atile o.aoff o.rows, write := false },
      { tile := o.btile, off := o.boff, bytes := operandBytes s c o o.bcoded o.bfmt o.btile o.boff o.colsN, write := false }] ++ scaleUses o
  | 1 => [{ tile := o.atile, off := o.aoff, bytes := o.rows * (o.rowBytes o.afmt / 2), write := false },
      { tile := o.btile, off := o.boff, bytes := operandBytes s c o o.bcoded o.bfmt o.btile o.boff o.colsN, write := false },
      { tile := o.mtile, off := 8 * o.moff, bytes := o.rows * (4 * o.nb), write := false }] ++ scaleUses o
  | 4 => [{ tile := o.dtile, off := o.doff, bytes := o.rows * (o.np * memBits o.ofmt / 8), write := true }]
  | 5 => [{ tile := o.dtile, off := o.doff, bytes := o.rows * (o.np * memBits o.ofmt / 8), write := true },
      { tile := o.astile, off := o.asoff, bytes := o.rows * ((o.colsN + 31) / 32), write := true }]
  | 6 => [{ tile := o.dtile, off := o.doff, bytes := o.rows * (o.np * 4), write := false }]
  | 7 => scaleUses { o with acoded := 0, bcoded := 0 }
  | _ => []

/-! ## Starting: waits and checks (R311, R312) -/

/-- Whether an operand pair is one of Table 19.1 for an opcode. -/
def pairOk (op a b : Nat) : Bool :=
  (a == 2 && b == 2) || ((a == 5 || a == 6) && (b == 5 || b == 6)) || (op != 1 && ((a == 4 && b == 4) || (a == 7 && b == 7)))

/-- Whether an output format is of the order's row of Table 19.6. -/
def outOk (op fmt : Nat) : Bool :=
  match op with
  | 3 => fmt ≤ 1
  | 4 => fmt ≤ 4
  | 5 => 5 ≤ fmt
  | 6 => fmt ≤ 1
  | _ => true

/-- The checks of Table 19.4 that the order's words decide. -/
def orderWordsOk (op : Nat) (o : MxOrder) : Bool :=
  let product := op ≤ 2
  (!product || ((o.acoded == 0 || o.afmt == 5) && (o.bcoded == 0 || o.bfmt == 5))) &&
  (!(op == 4 || op == 5) || o.mode ≤ 5) && (!(op == 4 && isInt o.ofmt) || o.mode ≤ 1) &&
  (!(product || op == 7) || pairOk op o.afmt o.bfmt) && outOk op o.ofmt &&
  (op == 7 || o.base + o.colsN ≤ 128) && (op != 1 || (o.k % 4 == 0 && o.acoded == 0))

/-- The running product an mmac joins (R319). -/
def Matrix.product (m : Matrix) (o : MxOrder) : Option Product := sfind m.products (128 * o.bank + o.base)

/-- Whether an mmac may join a running product. -/
def joinsOk (p : Product) (o : MxOrder) : Bool :=
  let q := p.order
  q.n1 == o.n1 && q.k == o.k && q.bfmt == o.bfmt && q.btile == o.btile && q.boff == o.boff && q.bstile == o.bstile &&
    q.bsoff == o.bsoff && q.bcoded == o.bcoded && p.rows + o.rows ≤ 128

/-- Whether an order reads or accumulates into its columns. -/
def readsColumns (op : Nat) (o : MxOrder) : Bool := op == 4 || op == 5 || (op ≤ 2 && o.accum == 1)

/-- The kind an order gives or takes: 1 for i32. -/
def orderKind (op : Nat) (o : MxOrder) : Bool := if op ≤ 2 then o.afmt == 4 else op != 5 && isInt o.ofmt

def Matrix.col (m : Matrix) (k : Nat) : Column := sget Column.reset m.cols k

/-- Whether earlier orders on the bank keep an order from starting; an mmac does not wait for its running product, and
msc.ld names no bank (R55, R325). -/
def bankBusy (m : Matrix) (op : Nat) (o : MxOrder) : Bool :=
  op != 7 && m.running.any (fun r => r.bank == o.bank && r.opcode != 7 &&
    !(op == 2 && (r.opcode == 0 || r.opcode == 2) && r.order.base == o.base && (m.product o).isSome))

/-- Whether a spilled register bank lies in a column the order names, or is leaving it (R224). -/
def spillInWay (k : Core) (op : Nat) (o : MxOrder) : Bool :=
  op != 7 && (k.spill.any (fun e => !e.2.inBank && o.cols.contains e.2.place) ||
    k.clearing.any (fun e => o.cols.contains e.1 && k.beat < e.2))

/-- What the start of an order comes to. -/
inductive MxCheck where
  | go
  | wait
  | refuse (f : FaultCode)
  deriving DecidableEq, Repr

/-- The tile checks of Table 19.4, after the waits of R311. -/
def tilesCheck (s : State) (c ctx : Nat) (us : List MxUse) : MxCheck :=
  let st (u : MxUse) : TileState := (s.tile c u.tile).state
  if us.any (fun u => st u == .draining || (!u.write && st u == .filling)) then .wait
  else if us.any (fun u => st u == .empty || (s.tile c u.tile).owner != ctx) then .refuse .protection
  else if us.any (fun u => 32 * (s.tile c u.tile).size < 32 * u.off + u.bytes) then .refuse .illegal
  else .go

/-- The column checks of Table 19.4: the owner of columns that are read or accumulated into (R310), the kind of every written
column the order names (log 76). -/
def columnsCheck (m : Matrix) (ctx op : Nat) (o : MxOrder) : MxCheck :=
  if op == 7 then .go
  else if readsColumns op o && o.cols.any (fun k => (m.col k).written && (m.col k).owner != ctx) then .refuse .protection
  else if o.cols.any (fun k => (m.col k).written && (m.col k).int != orderKind op o) then .refuse .illegal
  else .go

/-- All checks of an order that is next on its bank. -/
def orderCheck (s : State) (c : Nat) (q : QOrder) (op : Nat) (o : MxOrder) (fab : Bool) : MxCheck :=
  let k := s.core c
  if q.entry.isSome || switchedOut s c q.ctx || bankBusy k.mx op o then .wait
  else if q.bad || !orderWordsOk op o then .refuse .illegal
  else if op == 2 && !(match k.mx.product o with
      | some p => joinsOk p o
      | none => false) then .refuse .illegal
  else match tilesCheck s c q.ctx (if fab then [] else orderUses s c op o) with
    | .go => match columnsCheck k.mx q.ctx op o with
      | .go => if spillInWay k op o then .wait else .go
      | r => r
    | r => r

/-! ## The accumulator store -/

def Matrix.word (m : Matrix) (col row : Nat) : Nat := sget 0 m.acc (128 * col + row)

def Matrix.setWord (m : Matrix) (col row v : Nat) : Matrix :=
  { m with acc := if v = 0 then sdel m.acc (128 * col + row) else sput m.acc (128 * col + row) v }

def Matrix.setCol (m : Matrix) (k : Nat) (v : Column) : Matrix := { m with cols := sput m.cols k v }

/-- Running products that an overwrite of columns ends (R319); `keep` is the product an order belongs to. -/
def Matrix.endProducts (m : Matrix) (o : MxOrder) (keep : Option Nat) : Matrix :=
  { m with products := m.products.filter (fun p => some p.1 == keep ||
      !(p.2.order.bank == o.bank && p.2.order.base < o.base + o.colsN && o.base < p.2.order.base + p.2.order.colsN)) }

/-- Words one after another down a column from row `r`, their incomplete bits cleared where they are overwritten. -/
def Matrix.putWords (m : Matrix) (col : Nat) (whole : Bool) : Nat → List Nat → Matrix
  | _, [] => m
  | r, w :: ws =>
    let m1 := m.setWord col r w
    let m2 := if whole then { m1 with incomplete := removeNat m1.incomplete (128 * col + r) } else m1
    m2.putWords col whole (r + 1) ws

/-- Whether any of an order's columns is poisoned, and whether any of its words is incomplete. -/
def Matrix.poisoned (m : Matrix) (o : MxOrder) : Bool := o.cols.any (fun k => (m.col k).poison)

def Matrix.lacking (m : Matrix) (o : MxOrder) (r0 : Nat) : Bool :=
  o.cols.any (fun k => (range r0 o.rows).any (fun r => m.incomplete.contains (128 * k + r)))

/-! ## What an order does once it starts -/

/-- The effect of an order as it starts: the engine after it, the tile writes and trains still to come, the flags of each
train's lanes, and what it raises. -/
structure Effect where
  m : Matrix
  ops : List ChunkOp
  trains : List Train
  lfs : List (List Nat)
  flags : Nat
  mpoison : Option Nat
  sparse : Option Nat
  r0 : Nat

def Effect.plain (m : Matrix) : Effect := { m := m, ops := [], trains := [], lfs := [], flags := 0, mpoison := none, sparse := none, r0 := 0 }

/-- The rows of A and the columns of B as vectors (R309, R317). -/
def operandVecs (s : State) (c : Nat) (o : MxOrder) (coded fmt tile off stile soff n : Nat) : List Vec :=
  let p := placeOf s c tile off
  let sp := placeOf s c stile soff
  if coded = 1 then (cebRows s c o.k n p).1
  else (range 0 n).map (fun i => plainVec s c (p + i * o.rowBytes fmt) (sp + i * o.nb) fmt o.k (· / 32) o.nb)

/-- One column of words of a product: the values down from row `r0` and the flags. -/
def productColumn (m : Matrix) (o : MxOrder) (col r0 : Nat) (groups : List (List Num → List (List (Num × Num)))) (b : Vec) :
    List Nat × Nat :=
  let start (i : Nat) : Nat := if o.accum = 1 then m.word col (r0 + i) else 0
  let one (p : Nat × (List Num → List (List (Num × Num)))) : Nat × Nat :=
    let gs := p.2 b.vals
    if o.afmt = 4 then (accInt (start p.1) gs.flatten, 0) else accGroups (start p.1) gs
  let rs := ((range 0 groups.length).zip groups).map one
  (rs.map (·.1), rs.foldl (fun f r => f ||| r.2) 0)

/-- The columns of a product (R315, R326): `groups` forms the dot groups of each row with a column of B, `rowBad` is the
first poison of the A side. -/
def productCols (o : MxOrder) (ctx r0 : Nat) (groups : List (List Num → List (List (Num × Num)))) (rowBad : Bool) :
    Matrix × Nat → List (Nat × Vec) → Matrix × Nat
  | mf, [] => mf
  | (m, f), (col, b) :: rest =>
    let (ws, g) := productColumn m o col r0 groups b
    let old := m.col col
    let poison := (old.poison && !(o.accum == 0 && o.rows == 128)) || rowBad || b.bad.isSome
    let m1 := (m.putWords col (o.accum == 0) r0 ws).setCol col { written := true, int := o.afmt == 4, poison := poison, owner := ctx }
    productCols o ctx r0 groups rowBad (m1, f ||| g) rest

/-- A product of rows and columns from row `r0` (R315). -/
def product (s : State) (c ctx : Nat) (o : MxOrder) (r0 : Nat) (m : Matrix) (groups : List (List Num → List (List (Num × Num))))
    (aBad : Option Nat) : Effect :=
  let bs := operandVecs s c o o.bcoded o.bfmt o.btile o.boff o.bstile o.bsoff o.colsN
  let (m1, f) := productCols o ctx r0 groups aBad.isSome (m, 0) (o.cols.zip bs)
  { Effect.plain m1 with flags := f, mpoison := bs.foldl (fun p v => firstOf p v.bad) aBad, r0 := r0 }

/-- The dot groups of a dense row. -/
def denseGroups (g : Nat) (a : Vec) (b : List Num) : List (List (Num × Num)) := chunksOf g (a.vals.length + 1) (a.vals.zip b)

/-- mma and mmac share the dense product. -/
def denseProduct (s : State) (c ctx : Nat) (o : MxOrder) (r0 : Nat) (m : Matrix) : Effect :=
  let as := operandVecs s c o o.acoded o.afmt o.atile o.aoff o.astile o.asoff o.rows
  product s c ctx o r0 m (as.map (denseGroups (groupSize o.afmt))) (as.foldl (fun p v => firstOf p v.bad) none)

/-- mma (R315): it opens a running product. -/
def mmaEffect (s : State) (c ctx : Nat) (o : MxOrder) : Effect :=
  let m := (s.core c).mx
  let m1 := if o.accum = 0 then m.endProducts o none else m
  denseProduct s c ctx o 0 { m1 with products := sput m1.products (128 * o.bank + o.base) { order := o, rows := o.rows } }

/-- mmac (R319): the rows after those already joined. -/
def mmacEffect (s : State) (c ctx : Nat) (o : MxOrder) : Effect :=
  let m := (s.core c).mx
  let key := 128 * o.bank + o.base
  match m.product o with
  | none => Effect.plain m
  | some p =>
    let m1 := if o.accum = 0 then m.endProducts o (some key) else m
    denseProduct s c ctx o p.rows { m1 with products := sput m1.products key { p with rows := p.rows + o.rows } }

/-- The two positions of a 2:4 nibble (R309). -/
def nibble (s : State) (c p g : Nat) : Nat × Nat :=
  let v := spadByte s c (p + g / 2) / 16 ^ (g % 2) % 16
  (v % 4, v / 4)

/-- The dot groups of a sparse row: kept values by their nibbles; an illegal nibble gives no product (R318). -/
def sparseGroups (s : State) (c meta' ng : Nat) (a : Vec) (b : List Num) : List (List (Num × Num)) :=
  (range 0 ng).map (fun g =>
    let (p0, p1) := nibble s c meta' g
    if p1 ≤ p0 then []
    else [(nth (.zero false) a.vals (2 * g), nth (.zero false) b (4 * g + p0)),
      (nth (.zero false) a.vals (2 * g + 1), nth (.zero false) b (4 * g + p1))])

/-- A row of sparse A: its kept values, each with the scale of the block its position lies in. -/
def sparseRow (s : State) (c : Nat) (o : MxOrder) (i : Nat) : Vec :=
  let p := placeOf s c o.atile o.aoff + i * (o.rowBytes o.afmt / 2)
  let sp := placeOf s c o.astile o.asoff + i * o.nb
  let mp := placeOf s c o.mtile (8 * o.moff) + i * (4 * o.nb)
  let v := plainVec s c p sp o.afmt (o.k / 2) (fun j => 4 * (j / 2) / 32) o.nb
  { v with bad := firstOf v.bad (spadPoison s c mp ((o.k / 4 + 1) / 2)) }

/-- The illegal nibbles of a row: the lowest group (R318). -/
def illegalGroup (s : State) (c : Nat) (o : MxOrder) (i : Nat) : Option Nat :=
  (range 0 (o.k / 4)).find? (fun g =>
    let (p0, p1) := nibble s c (placeOf s c o.mtile (8 * o.moff) + i * (4 * o.nb)) g
    p1 ≤ p0)

/-- mma.sp (R318). -/
def mmaSpEffect (s : State) (c ctx : Nat) (o : MxOrder) : Effect :=
  let m := (s.core c).mx
  let m1 := if o.accum = 0 then m.endProducts o none else m
  let as := (range 0 o.rows).map (sparseRow s c o)
  let mp (i : Nat) : Nat := placeOf s c o.mtile (8 * o.moff) + i * (4 * o.nb)
  let groups := ((range 0 o.rows).zip as).map (fun p => sparseGroups s c (mp p.1) (o.k / 4) p.2)
  let e := product s c ctx o 0 m1 groups (as.foldl (fun p v => firstOf p v.bad) none)
  let ill := (range 0 o.rows).filterMap (fun i => (illegalGroup s c o i).map (fun g => (i, g)))
  let marks := ill.flatMap (fun p => o.cols.map (fun k => 128 * k + p.1))
  { e with m := { e.m with incomplete := marks.foldl insertNat e.m.incomplete },
           sparse := ill.head?.map (fun p => 2 ^ 32 * p.1 + p.2) }

/-- acc.clr (R320). -/
def accClrEffect (s : State) (c ctx : Nat) (o : MxOrder) : Effect :=
  let m := (s.core c).mx
  let clear (m : Matrix) (k : Nat) : Matrix :=
    (m.putWords k true 0 (List.replicate 128 0)).setCol k { written := false, int := o.ofmt == 0, poison := false, owner := ctx }
  Effect.plain (o.cols.foldl clear (m.endProducts o none))

/-- The LFSR state of a column (R75, Table 4.10). -/
def Matrix.lfsrAt (m : Matrix) (c col : Nat) : Nat := sget (lfsrSeed c (0x100 + col) 0) m.lfsr col

/-- One word of a drain converted to the output format: pattern and flags (R321). -/
def drainWord (o : MxOrder) (w st : Nat) : Nat × Nat :=
  if isInt o.ofmt then intToInt (memBits o.ofmt) false o.mode (sextNat 32 w)
  else convert o.ofmt false o.mode (wordNum w) st false

/-- A column of a drain in ascending rows, stepping its LFSR once a word in the stochastic mode: each word's pattern and
flags, and the LFSR state. -/
def drainColumn (o : MxOrder) : Nat → List Nat → List (Nat × Nat) × Nat
  | st, [] => ([], st)
  | st, w :: ws =>
    let (ps, st') := drainColumn o (if o.mode = 5 then lfsrStep st else st) ws
    (drainWord o w st :: ps, st')

/-- The converted columns of a drain, each with its poison, and the engine after the LFSR steps. A poisoned column's words
raise no flag. -/
def drainCols (c : Nat) (o : MxOrder) : Matrix → List Nat → List (List (Nat × Nat) × Bool) × Matrix
  | m, [] => ([], m)
  | m, k :: ks =>
    let (ps, st) := drainColumn o (m.lfsrAt c k) ((range 0 o.rows).map (m.word k))
    let m1 := if o.mode = 5 then { m with lfsr := sput m.lfsr k st } else m
    let (rest, m2) := drainCols c o m1 ks
    let bad := (m.col k).poison
    ((ps.map (fun p => (p.1, if bad then 0 else p.2)), bad) :: rest, m2)

/-- The flags of all words of a drain. -/
def drainFlags (cols : List (List (Nat × Nat) × Bool)) : Nat := (cols.flatMap (·.1)).foldl (fun f p => f ||| p.2) 0

/-- Bytes at a scratchpad offset as writes, one for each 64-byte line they touch. -/
def lineOps (c : Nat) : Nat → Nat → List Nat → List Bool → List ChunkOp
  | 0, _, _, _ => []
  | f + 1, off, bs, ps =>
    if bs.isEmpty then []
    else
      let n := 64 - off % 64
      .write (range (spadKey c off) (bs.take n).length) (bs.take n) (ps.take n) ::
        lineOps c f (off + n) (bs.drop n) (ps.drop n)

/-- acc.rd to a tile (R321). -/
def accRdEffect (s : State) (c _ctx : Nat) (o : MxOrder) : Effect :=
  let (cols, m) := drainCols c o (s.core c).mx o.cols
  let t := memBits o.ofmt / 8
  let row (i : Nat) : List ChunkOp :=
    let bs := cols.flatMap (fun k => toBytes t (nth (0, 0) k.1 i).1) ++ List.replicate ((o.np - o.colsN) * t) 0
    let ps := cols.flatMap (fun k => List.replicate t k.2) ++ List.replicate ((o.np - o.colsN) * t) false
    lineOps c 512 (placeOf s c o.dtile o.doff + i * o.np * t) bs ps
  { Effect.plain m with ops := (range 0 o.rows).flatMap row, flags := drainFlags cols }

/-- The trains of one column of a drain to the fabric, each with the flags of its lanes (R322). -/
def columnTrains (o : MxOrder) (k : List (Nat × Nat) × Bool) : List (Train × List Nat) :=
  let n := lanesOf o.ofmt
  (chunksOf n 128 k.1).map (fun ws =>
    if k.2 then (kindTrain .poison o.ofmt o.echo, [])
    else
      ({ kind := .data, fmt := o.ofmt, tag := o.echo,
         lanes := ws.map (fun w => ofPattern o.ofmt false w.1) ++ List.replicate (n - ws.length) .absent }, ws.map (·.2)))

/-- acc.rd to the fabric (R322): its flags go with the trains, and enter the flag word as the EOS is sent. -/
def accRdFabEffect (s : State) (c _ctx : Nat) (o : MxOrder) : Effect :=
  let (cols, m) := drainCols c o (s.core c).mx o.cols
  let ts := cols.flatMap (columnTrains o)
  { Effect.plain m with trains := ts.map (·.1) ++ [kindTrain .eos o.ofmt o.echo], lfs := ts.map (·.2) ++ [[]] }

/-- One block of a row quantized (R323, R69, R78): scale, codes and flags, with the LFSR states of its columns. -/
def quantBlock (o : MxOrder) (ws : List (Nat × Nat)) : Nat × List Nat × Nat :=
  let (sc, clamped) := chooseScale o.ofmt (ws.map (fun w => wordNum w.1))
  match scaleExp sc with
  | none => (sc, ws.map (fun _ => 0), 0)
  | some k =>
    let rs := ws.map (fun w => convert o.ofmt false o.mode ((wordNum w.1).scale (-k)) w.2 (!clamped))
    (sc, rs.map (·.1), rs.foldl (fun f r => f ||| r.2) 0)

/-- The bytes of element codes of a format: two e2m1 codes a byte. -/
def codeBytes (fmt : Nat) (cs : List Nat) : List Nat :=
  if fmt = 7 then (range 0 (cs.length / 2)).map (fun j => nth 0 cs (2 * j) + 16 * nth 0 cs (2 * j + 1)) else cs

/-- Step the LFSR of every column of a drain once. -/
def Matrix.stepLfsrs (m : Matrix) (c : Nat) (o : MxOrder) : Matrix :=
  if o.mode ≠ 5 then m
  else { m with lfsr := o.cols.foldl (fun l k => sput l k (lfsrStep (m.lfsrAt c k))) m.lfsr }

/-- Rows of a quantizing drain from row `i` (R323): padding codes are written as 0 (log 42). -/
def quantRows (s : State) (c : Nat) (o : MxOrder) : Nat → Nat → Matrix → List ChunkOp × Nat × Matrix
  | 0, _, m => ([], 0, m)
  | n + 1, i, m =>
    let nb := (o.colsN + 31) / 32
    let blocks := chunksOf 32 5 o.cols
    let qs := blocks.map (fun ks => (quantBlock o (ks.map (fun k => (m.word k i, m.lfsrAt c k))), ks.any (fun k => (m.col k).poison)))
    let codes := qs.flatMap (fun q => q.1.2.1 ++ List.replicate (32 - q.1.2.1.length) 0)
    let half := if o.ofmt = 7 then 16 else 32
    let ops := lineOps c 512 (placeOf s c o.dtile o.doff + i * (o.np * memBits o.ofmt / 8)) (codeBytes o.ofmt codes)
        (qs.flatMap (fun q => List.replicate half q.2)) ++
      lineOps c 512 (placeOf s c o.astile o.asoff + i * nb) (qs.map (fun q => q.1.1)) (qs.map (·.2))
    let (rest, g, m') := quantRows s c o n (i + 1) (m.stepLfsrs c o)
    (ops ++ rest, (qs.filter (fun q => !q.2)).foldl (fun f q => f ||| q.1.2.2) g, m')

/-- acc.rdq (R323). -/
def accRdqEffect (s : State) (c _ctx : Nat) (o : MxOrder) : Effect :=
  let (ops, f, m) := quantRows s c o o.rows 0 (s.core c).mx
  { Effect.plain m with ops := ops, flags := f }

/-- acc.ld (R324). -/
def accLdEffect (s : State) (c ctx : Nat) (o : MxOrder) : Effect :=
  let p := placeOf s c o.dtile o.doff
  let at' (i j : Nat) : Nat := p + i * (4 * o.np) + 4 * j
  let load (m : Matrix) (j : Nat) : Matrix :=
    let k := 128 * o.bank + o.base + j
    let ws := (range 0 o.rows).map (fun i => s.readNat (range (spadKey c (at' i j)) 4))
    let bad := (range 0 o.rows).any (fun i => (spadPoison s c (at' i j) 4).isSome)
    (m.putWords k true 0 (ws ++ List.replicate (128 - o.rows) 0)).setCol k
      { written := true, int := o.ofmt == 0, poison := bad, owner := ctx }
  let bad := (range 0 o.rows).foldl (fun b i => firstOf b (spadPoison s c (at' i 0) (4 * o.colsN))) none
  { Effect.plain ((range 0 o.colsN).foldl load ((s.core c).mx.endProducts o none)) with mpoison := bad }

/-- msc.ld (R325): the scale tiles enter the cache by tile, offset, context and version word; values are the tile's. -/
def mscLdEffect (s : State) (c ctx : Nat) (o : MxOrder) : Effect :=
  let m := (s.core c).mx
  let add (l : List (Nat × Nat × Nat × Nat)) (u : MxUse) : List (Nat × Nat × Nat × Nat) :=
    let e := (u.tile, u.off, ctx, (s.tile c u.tile).version)
    if l.contains e then l else l ++ [e]
  Effect.plain { m with cache := (scaleUses { o with acoded := 0, bcoded := 0 }).foldl add m.cache }

/-! ## Running an order -/

/-- The head order of a bank leaves the queue. -/
def Matrix.take (m : Matrix) (q : QOrder) : Matrix := { m with queue := m.queue.erase q }

def State.setMx (s : State) (c : Nat) (m : Matrix) : State := s.setCore c { s.core c with mx := m }

/-- An asynchronous trap on behalf of an order (R312, R313, R343). -/
def State.orderTrap (s : State) (c ctx cidx : Nat) (entry : Option Nat) (f : FaultCode) (info : Nat) : State :=
  s.raiseAsync (regionOf c) { Trap.engine f.code c ctx cidx info 0 with extra := s.absentBits c entry }

/-- The order is refused: it leaves the queue with its fault (R312). -/
def refuseOrder (s : State) (c : Nat) (q : QOrder) (f : FaultCode) : State :=
  (s.setMx c ((s.core c).mx.take q)).orderTrap c q.ctx (orderFields q.word).cidx q.entry f 0

/-- A head order that the decoder does not know (R55): it waits as any order of its bank would, and is refused. -/
def refuseUnknown (s : State) (c bank : Nat) : State :=
  match (s.core c).mx.headOrder bank with
  | none => s
  | some q =>
    if q.entry.isSome || switchedOut s c q.ctx || bankBusy (s.core c).mx 8 (orderFields q.word) then s
    else refuseOrder s c q .illegal

/-- The state after an order has started with its effect: it reads its operand tiles until it completes (R329). -/
def startOrder (s : State) (c : Nat) (q : QOrder) (op : Nat) (o : MxOrder) (e : Effect) : State :=
  let m := e.m.take q
  let drains := op == 4 || op == 5
  let reads := ((orderUses s c op o).filter (fun u => !u.write)).map (·.tile)
  let r : Running := { bank := q.bank, opcode := op, ctx := q.ctx, order := o, ops := e.ops, trains := e.trains, lfs := e.lfs,
                       reads := reads, poison := op != 7 && m.poisoned o, incomplete := op != 7 && m.lacking o e.r0, flags := e.flags,
                       mpoison := if drains then none else e.mpoison, sparse := e.sparse, entry := q.entry }
  reads.foldl (fun s n => s.beginRead c n) (s.setMx c { m with running := m.running ++ [r] })

/-- One order word at the head of a bank: it waits, is refused, or starts. -/
def matrixOrder (op : Nat) (fab : Bool) (effect : State → Nat → Nat → MxOrder → Effect) (o : MxOrder) (s : State) :
    Host.Outcome State Fault Refusal :=
  let c := s.cur.core
  .next (State.tick (match (s.core c).mx.headOrder s.cur.idx with
    | none => s
    | some q => match orderCheck s c q op o fab with
      | .wait => s
      | .refuse f => refuseOrder s c q f
      | .go => startOrder s c q op o (effect s c q.ctx o)))

/-- mma (R315). -/
def execMMma (o : MxOrder) (s : State) : Host.Outcome State Fault Refusal := matrixOrder 0 false mmaEffect o s

/-- mma.sp (R318). -/
def execMMmaSp (o : MxOrder) (s : State) : Host.Outcome State Fault Refusal := matrixOrder 1 false mmaSpEffect o s

/-- mmac (R319). -/
def execMMmac (o : MxOrder) (s : State) : Host.Outcome State Fault Refusal := matrixOrder 2 false mmacEffect o s

/-- acc.clr (R320). -/
def execMAccClr (o : MxOrder) (s : State) : Host.Outcome State Fault Refusal := matrixOrder 3 false accClrEffect o s

/-- acc.rd to a tile (R321). -/
def execMAccRd (o : MxOrder) (s : State) : Host.Outcome State Fault Refusal := matrixOrder 4 false accRdEffect o s

/-- acc.rd to the fabric (R322). -/
def execMAccRdFabric (o : MxOrder) (s : State) : Host.Outcome State Fault Refusal := matrixOrder 4 true accRdFabEffect o s

/-- acc.rdq (R323). -/
def execMAccRdq (o : MxOrder) (s : State) : Host.Outcome State Fault Refusal := matrixOrder 5 false accRdqEffect o s

/-- acc.ld (R324). -/
def execMAccLd (o : MxOrder) (s : State) : Host.Outcome State Fault Refusal := matrixOrder 6 false accLdEffect o s

/-- msc.ld (R325). -/
def execMMscLd (o : MxOrder) (s : State) : Host.Outcome State Fault Refusal := matrixOrder 7 false mscLdEffect o s

/-! ## Completion (R313, R322) -/

/-- Make an order's tile writes in order, diverted where its image is away (R340): what is left. Each is checked under Table
10.2 as it is made (R321); the first that the table refuses raises PROTECTION, and the order makes no more (log 77). -/
def landOrder (c : Nat) (r : Running) : State → List ChunkOp → State × List ChunkOp
  | s, [] => (s, [])
  | s, op :: rest =>
    match op, r.entry with
    | .write (k :: ks) bs ps, some e =>
      match s.divertLine c e 1 0 (range (k - spadKey c 0) bs.length) bs ps with
      | (t, true) => landOrder c r t rest
      | (t, false) => (t, .write (k :: ks) bs ps :: rest)
    | .write (k :: ks) bs ps, none =>
      match tileCheck (s.core c) r.ctx (k - spadKey c 0) bs.length true with
      | .ok => landOrder c r (s.land (k :: ks) bs ps) rest
      | .wait _ => (s, .write (k :: ks) bs ps :: rest)
      | .prot => (s.orderTrap c r.ctx r.order.cidx r.entry .protection 0, [])
    | _, _ => landOrder c r s rest

/-- The status word of Table 19.5. -/
def Running.status (r : Running) : Nat := 2 ^ 31 * b2n r.poison + 2 ^ 30 * b2n r.incomplete + r.opcode

/-- The trap enables that an order's flags meet: its context's, or its image's. -/
def orderEnables (s : State) (c : Nat) (r : Running) : Nat :=
  match r.entry.bind (s.div c) with
  | some d => d.pipe.trapEnables
  | none => (s.ctx c r.ctx).trapEnables

def enterOrderFlags (s : State) (c : Nat) (r : Running) : State :=
  match r.entry, r.entry.bind (s.div c) with
  | some e, some d => s.setDiv c e { d with pipe := d.pipe.enterFlags r.flags }
  | _, _ => s.setCtx c r.ctx ((s.ctx c r.ctx).enterFlags r.flags)

/-- The faults a completed order raises (R313): once each. -/
def orderFaults (s : State) (c : Nat) (r : Running) : State :=
  let trap (f : FaultCode) (info : Nat) (s : State) : State := s.orderTrap c r.ctx r.order.cidx r.entry f info
  let s1 := match r.mpoison with
    | some p => trap .matrixPoison p s
    | none => s
  let s2 := match r.sparse with
    | some v => trap .sparseMeta v s1
    | none => s1
  if r.flags &&& orderEnables s c r ≠ 0 then trap .arith 0 s2 else s2

/-- What a completed order sends: its completion token, or the first of its trains with the others behind it. -/
def sendCompletion (s : State) (c : Nat) (r : Running) : State :=
  let o := r.order
  match r.trains with
  | t :: _ =>
    let d : Drain := { ctx := r.ctx, idx := o.cidx, port := o.cport, tag := o.echo, trains := r.trains, lfs := r.lfs }
    let k := s.core c
    (s.setCore c { k with drains := k.drains ++ [d] }).send c (plainToken o.echo c o.cidx o.cport r.ctx t.fmt t.kind 0 0)
  | [] => s.send c (plainToken o.echo c o.cidx o.cport r.ctx 0 .data 0 r.status)

/-- ORDER_COMPLETION: the oldest running order of a bank completes: its tile writes, then its flags, its token and its
faults (R313, R329). -/
def execOrderCompletion (core bank : Nat) (s : State) : Host.Outcome State Fault Refusal :=
  let m := (s.core core).mx
  .next (State.tick (match findIdx (fun (r : Running) => r.bank == bank) 0 m.running with
    | none => s
    | some (n, r) =>
      match landOrder core r s r.ops with
      | (s1, []) =>
        let m1 := (s1.core core).mx
        let ended := (nth r m1.running n).reads
        let s2 := ended.foldl (fun s t => s.endRead core t) (s1.setMx core { m1 with running := dropNth m1.running n })
        sendCompletion (orderFaults (enterOrderFlags (s2.countEvent core 18 r.ctx 1) core r) core r) core r
      | (s1, left) =>
        let m1 := (s1.core core).mx
        s1.setMx core { m1 with running := setNth m1.running n { nth r m1.running n with ops := left } }))

end Sys2Proof.Machine
end

