-- ==== Sys2Proof/Machine/Residual.lean ====
section
/-! DEFINITION. The digits, rails and status of an element as park tiles and images hold them (R138, R139, R152, Table
11.1a). -/
namespace Sys2Proof.Machine

/-! ## Digits and rails of a lane -/

/-- The code of no digit (Table 7.1). -/
def nullDigit : Nat := 16

/-- sd(v, m) of R141: the `m` radix-16 digits of |v|, each with the sign of v, most significant first, as codes. -/
def digitCodes (m : Nat) (v : Int) : List Nat :=
  (range 0 m).map (fun i =>
    let d := v.natAbs / 16 ^ (m - 1 - i) % 16
    if v < 0 ∧ d ≠ 0 then 32 - d else d)

/-- The rail of an integer lane: what its beat-0 part holds above the digits (Table 7.2). -/
def intRail (n : Nat) (hi : Int) : Int := hi.tdiv (16 ^ n)

/-- The digits of a float special (Table 7.3): the top digit, then the fraction bits of a NaN. -/
def specialDigits (n : Nat) (s : Special) : Nat :=
  let sg (t : Nat) (neg : Bool) : Nat := (t + b2n neg) * 16 ^ (n - 1)
  match s with
  | .zero neg => sg 0 neg
  | .inf neg => sg 2 neg
  | .nan signalling frac => sg 4 signalling + frac % 16 ^ (n - 1)
  | .high neg => sg 6 neg
  | .low neg => sg 8 neg

/-- The integers of a lane's two digit beats; an absent lane has no digits. -/
def laneBeats (n : Nat) : Lane → Option (Int × Int)
  | .absent => none
  | .int v hi => some ((hi - intRail n hi * 16 ^ n) / 2 ^ (2 * n), v - hi)
  | .beyond _ v => some (v % 16 ^ n / 2 ^ (2 * n), v % 2 ^ (2 * n))
  | .flt _ hi lo => some (hi, lo)
  | .spec s => some ((specialDigits n s / 2 ^ (2 * n) : Nat), (specialDigits n s % 2 ^ (2 * n) : Nat))
  | .code c => some ((c / 16 : Nat), (c % 16 : Nat))

/-- The rail of a lane as its 10 bits; a narrow or an absent lane has none. -/
def railBits (n : Nat) (l : Lane) : Nat :=
  let x : Int := match l with
    | .int _ hi => intRail n hi
    | .beyond up _ => if up then 511 else -512
    | .flt x _ _ => x
    | .spec _ => -512
    | _ => 0
  (x % 1024).toNat

/-! ## Trains over the 128 slices -/

/-- The codes of 128 slices without a digit. -/
def nullSlices : List Nat := List.replicate 128 nullDigit

/-- The codes of one digit beat of a train, slice 0 first: beat 0 or beat 1 (R138). -/
def beatCodes (beat : Nat) (t : Train) : List Nat :=
  if t.kind != .data then nullSlices
  else
    let n := digits t.fmt
    (range 0 (lanesOf t.fmt)).flatMap (fun j => match laneBeats n (t.lane j) with
      | none => List.replicate (n / 2) nullDigit
      | some (d0, d1) => digitCodes (n / 2) (if beat = 0 then d0 else d1))

/-- The rails of a train's lanes. -/
def railsOf (t : Train) : List Nat :=
  if t.kind != .data then [] else (range 0 (lanesOf t.fmt)).map (fun j => railBits (digits t.fmt) (t.lane j))

/-- Fields of one width packed into a number, the first lowest. -/
def packed (width : Nat) (l : List Nat) : Nat := l.foldr (fun e v => e + 2 ^ width * v) 0

/-- A list cut or filled with zeros to a length. -/
def padTo (n : Nat) (l : List Nat) : List Nat := (l ++ List.replicate n 0).take n

/-! ## The element's record (R152) -/

/-- Whether a CMP word gives predicate lanes. -/
def FWord.givesPredicate (w : FWord) : Bool := w.kind == 2 && w.sub != 8 && w.sub != 9 && w.sub != 12

/-- The lanes of a CMP word's trains that beat 0 decides: against the threshold in a thr or sign word (R144), between ports a
and b in a cmp word (R166). -/
def decidedLanes (b : Block) (w : FWord) (ta : Option Train) (tb : Option Train) : List Nat :=
  match ta, tb with
  | some t, _ =>
    if w.kind ≠ 2 then []
    else if w.sub = 10 ∨ w.sub = 11 then
      (range 0 (lanesOf t.fmt)).filter (fun j => t.lane j != .absent && earlyThr t.fmt (t.lane j) (threshold w b t.fmt))
    else if w.sub ≤ 5 then
      let other (j : Nat) : Lane := (tb.map (fun u => u.lane j)).getD (zeroLane t.fmt)
      (range 0 (lanesOf t.fmt)).filter (fun j => t.lane j != .absent && other j != .absent && 
        earlyCmp t.fmt (readLane t.fmt w.uns (t.lane j)) (readLane t.fmt w.uns (other j)))
    else []
  | none, _ => []

/-- The beat-0 codes that an element has emitted: those of its output; of a predicate lane, digit d(n/2) is a copy of an early
decision, else null, and the others are 0 (R156). -/
def emittedCodes (b : Block) (w : FWord) (ta tb : Option Train) (out : Train) : List Nat :=
  if w.givesPredicate then
    let n := digits out.fmt
    let early := decidedLanes b w ta tb
    (range 0 (lanesOf out.fmt)).flatMap (fun j => match laneBeats n (out.lane j) with
      | some (_, d1) => List.replicate (n / 2 - 1) 0 ++ (if early.contains j then digitCodes 1 d1 else [nullDigit])
      | none => List.replicate (n / 2) nullDigit)
  else beatCodes 0 out

/-- Whether the latch's train is still in the element at the end of an advance: its beat 1 leaves in the advance after
`due`. -/
def Latch.live (l : Latch) (adv : Nat) (mine : Nat → Bool) : Bool :=
  mine l.inst && decide (l.since ≤ adv) && decide (adv ≤ l.due) && (l.out.isSome || (!l.ins.isEmpty && l.since == adv))

/-- The train of an instance at the head of a port's queue, due by an advance. -/
def arrivedBy (q : List Timed) (adv : Nat) (mine : Nat → Bool) : Option Train :=
  (q.find? (fun t => decide (t.due ≤ adv) && mine t.inst && t.train.kind != .eos)).map (·.train)

/-- The group of one element (Table 11.1a): residual record, rail latch, status word, element number. -/
def elementGroup (b : Block) (i element adv : Nat) (mine : Nat → Bool) (l : Latch) (queue : Nat → List Timed) : List Nat :=
  let w := b.word i
  let live := l.live adv mine
  let port (p : Nat) : Option Train :=
    if live then (l.ins.find? (fun t => t.1 == p)).map (·.2) else arrivedBy (queue p) adv mine
  let codes (p : Nat) : List Nat := match port p with
    | some t => beatCodes 0 t
    | none => nullSlices
  let out := if live then l.out else none
  let a0 := if w.kind = 8 then (match out with
      | some t => if l.cut then nullSlices else beatCodes 1 t
      | none => codes 0) else codes 0
  let est := match out with
    | some t => if w.delay ≤ 1 ∨ l.due ≤ adv then emittedCodes b w (port 0) (port 1) t else nullSlices
    | none => nullSlices
  let entries := (a0.zip ((codes 1).zip ((codes 2).zip est))).map (fun e =>
    2 ^ 15 * e.1 + 2 ^ 10 * e.2.1 + 2 ^ 5 * e.2.2.1 + e.2.2.2)
  -- the rails of a train come one advance before its beat 0 (R139)
  let rails (p : Nat) : List Nat := match arrivedBy (queue p) (adv + 1) mine with
    | some t => railsOf t
    | none => match port p with
      | some t => railsOf t
      | none => []
  let outRails := match out with
    | some t => railsOf t
    | none => []
  let groups := ((padTo 128 (rails 0)).zip ((padTo 128 (rails 1)).zip ((padTo 128 (rails 2)).zip (padTo 128 outRails)))).map
    (fun e => 2 ^ 30 * e.1 + 2 ^ 20 * e.2.1 + 2 ^ 10 * e.2.2.1 + e.2.2.2)
  let tag (t : Option Train) : Nat := match t with
    | some t => t.fmt
    | none => 0
  let decided := match port 0 with
    | some t =>
      let early := decidedLanes b w (port 0) (port 1)
      live && !early.isEmpty && early.length == ((range 0 (lanesOf t.fmt)).filter (fun j => t.lane j != .absent)).length
    | none => false
  let phase := if live then (if l.since == adv && !l.ins.isEmpty then 2 else 1)
    else if (range 0 3).any (fun p => (port p).isSome) then 2 else 0
  let status := 2 ^ 13 * tag (port 0) + 2 ^ 10 * tag (port 1) + 2 ^ 7 * tag (port 2) + 2 ^ 4 * tag out + 2 ^ 3 * b2n decided +
    2 ^ 2 * b2n (live && l.cut) + phase
  toBytes 320 (packed 20 entries) ++ toBytes 640 (packed 40 groups) ++ toBytes 8 status ++ [element] ++ List.replicate 23 0

end Sys2Proof.Machine
end

