-- ==== Sys2Proof/Machine/Parking.lean ====
section
/-! DEFINITION. The admission of tokens to the matching store (R28-R34), and frame faults: parking, the fault record's delivery,
verdicts, resuming and precise stops (R227-R238, R358). -/
namespace Sys2Proof.Machine

/-! ## Admission (R28-R34) -/

/-- The 128-bit header of a token. -/
def Token.header (t : Token) : Nat := 2 ^ 64 * t.tag + t.low

/-- The bytes of a token as an image holds it: its header, then its payload. -/
def Token.bytes (t : Token) : List Nat := toBytes 16 t.header ++ (t.payload ++ List.replicate (lenBytes t.len) 0).take (lenBytes t.len)

/-- A refused token: discarded and counted (R353), and ILLEGAL goes to the control core with its header (R28, R133). -/
def State.refuse (s : State) (c : Nat) (t : Token) : State :=
  ((s.lostDrain c t).countEvent c 14 t.ctx 1).raiseAsync (regionOf c)
    { Trap.engine FaultCode.illegal.code c t.ctx 0 t.low t.tag with source := 3 }

/-- The valid-byte counts an instruction slot takes (R29). -/
def laneBytesOk (t : Token) : Bool :=
  t.kind != .data || t.len == 0 || (t.inl ≤ (if t.fmt = 7 then 64 else 128) && t.inl % Nat.max (memBits t.fmt / 8) 1 == 0)

/-- Granules that a token takes in the spill pool: its header and its payload. -/
def Token.granules (t : Token) : Nat := (16 + lenBytes t.len + 31) / 32

/-- The granules of the spill pool that no park tile and no token takes. -/
def Core.spillRoom (c : Core) : Nat :=
  let park := (c.tiles.filter (fun t => t.2.pool == 4)).foldl (fun n t => n + t.2.size) 0
  c.spillSize - (park + (c.store.filter (·.spilled)).foldl (fun n t => n + t.tok.granules) 0)

/-- A token takes a place in the store, or in the spill pool (R33); none where both are full. -/
def Core.keep (c : Core) (x : Nat) (t : Token) (held : Bool) : Option Core :=
  let e : Stored := { tok := t, spilled := false, held := held, beat := c.beat }
  if (c.store.filter (fun e => !e.spilled)).length < 512 then some { c with store := c.store ++ [e] }
  else if t.granules ≤ c.spillRoom then
    some (({ c with store := c.store ++ [{ e with spilled := true }] } : Core).countEvent 15 x 1)
  else none

/-- Whether a tag has a nonzero field at fD or above (R30). -/
def aboveDepth (tag depth : Nat) : Bool := !fieldsZero tag depth

/-- A matching-store fault: the frame parks with the offending token as its last (R228). -/
def State.offend (s : State) (c : Nat) (t : Token) : State :=
  let k := s.core c
  let e : Stored := { tok := t, spilled := false, held := false, beat := k.beat }
  let (top, second) := stackTop (k.ctx t.ctx).rstack
  (s.setCore c { k with offends := k.offends ++ [e] }).raiseFrame c
    { faultRec s c t.ctx t.slot FaultCode.tagCheck.code t.port t.tag 0 with rtop := top, rsecond := second }

/-- A token for a live frame of its context enters (R30, R31, R33, R42, R231); none where there is no room. -/
def enterStore (s : State) (c : Nat) (t : Token) (f : Frame) : Option State :=
  let k := s.core c
  if f.state = .parked then
    match sfind k.parks (frameOf t.tag) with
    | some p =>
      let n := 16 + lenBytes t.len
      if n ≤ p.room && !p.resumed then
        let v := k.tile p.tile
        let at' := 32 * (v.base + v.size) - p.room
        let s1 := s.setCore c { k with parks := sput k.parks (frameOf t.tag) { p with tokens := p.tokens ++ [t], room := p.room - n } }
        some (s1.store (range (spadKey c at') n) t.bytes)
      else (k.keep t.ctx t true).map (s.setCore c)
    | none => (k.keep t.ctx t true).map (s.setCore c)
  else if f.closed && t.kind == .eos then
    some (s.setCore c { k with dropped := k.dropped ++ [{ tok := t, spilled := false, held := false, beat := k.beat }] })
  else if f.closed || aboveDepth t.tag f.depth || (k.storedToken t.ctx t.tag (t.slot, t.port)).isSome then some (s.offend c t)
  else (k.keep t.ctx t false).map (s.setCore c)

/-- A token to an instruction slot of a context that is not switched out (R28, R29, R34); none where it is refused for want
of room and waits. Its lane count is tested before its frame (log 81). -/
def admitToken (s : State) (c : Nat) (t : Token) : Option State :=
  if !laneBytesOk t then some (s.refuse c t)
  else match (s.ctx c t.ctx).block with
    | none => some (s.strayToken c t)
    | some b =>
      if !b.entries.contains (t.slot, t.port) then some (s.refuse c t)
      else match (s.core c).frame (frameOf t.tag) with
        | none => some (s.strayToken c t)
        | some f => if f.ctx ≠ t.ctx then some (s.strayToken c t) else enterStore s c t f

/-! ## Parking (R229-R231) -/

/-- Whether an instance belongs to a frame. -/
def Inst.inFrame (n : Inst) (frame : Nat) : Bool := frameOf n.tag == frame

/-- Whether an element carries anything from train to train. -/
def Elem.works (m : Elem) : Bool := { m with held := [], latch := Latch.reset, next := 0 } != Elem.reset

/-- The elements of the context that hold a train of a frame's instances, by instruction. -/
def holders (k : Ctx) (ids : List Nat) : List Nat :=
  match k.block with
  | none => []
  | some b => (range 0 b.count).filter (fun i =>
      (range 0 4).any (fun p => (k.queue i p).any (fun t => ids.contains t.inst)) ||
      (let m := k.elem i
       ids.contains m.inst && m.works) ||
      (k.elem i).held.any (fun h => ids.contains h.inst && k.adv ≤ h.last))

/-- A frame-table entry as a word (Table 2.3). -/
def Frame.word (f : Frame) : Nat :=
  2 ^ 62 * (match f.state with
    | .opened => 1
    | .parked => 2
    | .retiring => 3) + 2 ^ 60 * f.ctx + 2 ^ 57 * f.depth + 2 ^ 54 * f.bank + 2 ^ 48 * f.div + 2 ^ 42 * f.sinks +
    2 ^ 32 * f.stores + 2 ^ 16 * f.blockId + 2 ^ 8 * f.inflight

/-- The six words of a fault record (Table 11.1). -/
def FaultRec.words (r : FaultRec) : List Nat :=
  [2 ^ 24 * r.fault + 2 ^ 16 * r.seq + 2 ^ 12 * r.core + 2 ^ 10 * r.ctx + 2 ^ 5 * r.instr + r.detail, r.tag / 2 ^ 32,
   r.tag % 2 ^ 32, r.addr.toNat % 2 ^ 32, r.addr.toNat / 2 ^ 32, 2 ^ 16 * r.rtop + r.rsecond]

def FaultRec.bytes (r : FaultRec) : List Nat := r.words.flatMap (toBytes 4)

/-- The groups of instructions' elements (Table 11.1a) in a pipeline that stands at advance `adv`, for the instances
`mine`. -/
def elementGroups (k : Ctx) (adv : Nat) (mine : Nat → Bool) (latch : Nat → Latch) (queue : Nat → Nat → List Timed)
    (is : List Nat) : List Nat :=
  match k.block with
  | none => []
  | some b => is.flatMap (fun i => elementGroup b i (k.element i) adv mine (latch i) (queue i))

/-- The instructions of a list in ascending order of their elements. -/
def byElement (k : Ctx) (is : List Nat) : List Nat :=
  (((is.map k.element).foldl insertNat []).filterMap k.onElement)

/-- Where a park tile of a size goes (R231): the spill pool, else the context's pool. -/
def parkPlace (c : Core) (x size : Nat) : Option (Nat × Nat × Nat) :=
  match c.freeTile with
  | none => none
  | some n =>
    match (if size ≤ c.spillRoom then c.bestFit 4 size else none) with
    | some b => some (n, b, 4)
    | none => (c.bestFit x size).map (fun b => (n, b, x))

/-- The pipeline of a context without a frame's instances. -/
def Ctx.lift (k : Ctx) (ids is : List Nat) : Ctx :=
  let keep (t : Timed) : Bool := !ids.contains t.inst
  let qs := k.queues.map (fun q => (q.1, q.2.filter keep))
  let latch (m : Elem) : Latch := if ids.contains m.latch.inst then Latch.reset else m.latch
  let elems := k.elems.map (fun (e : Nat × Elem) =>
    let held := e.2.held.filter (fun h => !ids.contains h.inst)
    (e.1, if ids.contains e.2.inst then { Elem.reset with held := held, latch := latch e.2, next := e.2.next }
      else { e.2 with held := held, latch := latch e.2 }))
  let steer := match k.steer with
    | some t => if is.contains t.idx then none else some t
    | none => none
  { k with queues := qs.filter (fun q => !q.2.isEmpty), elems := elems, insts := k.insts.filter (fun n => !ids.contains n.id),
           steer := steer, late := k.late.filter (fun l => !is.contains l.1), fixes := k.fixes.filter (fun f => !ids.contains f.1) }

/-- The trains and element states that `lift` takes out. -/
def Ctx.lifted (k : Ctx) (ids : List Nat) : Sparse (List Timed) × Sparse Elem :=
  let qs := k.queues.map (fun q => (q.1, q.2.filter (fun t => ids.contains t.inst)))
  (qs.filter (fun q => !q.2.isEmpty), k.elems.filter (fun e => ids.contains e.2.inst && e.2.works))

/-- The latches of a frame's instances, by instruction (R152). -/
def Ctx.latches (k : Ctx) (ids : List Nat) : Sparse Latch :=
  (k.elems.filter (fun (e : Nat × Elem) => ids.contains e.2.latch.inst && e.2.latch != Latch.reset)).map
    (fun (e : Nat × Elem) => (e.1, e.2.latch))

/-- The digit beats that elements hold of a frame's instances, by instruction (R152, R153). -/
def Ctx.holdsOf (k : Ctx) (ids : List Nat) : List (Nat × Hold) :=
  k.elems.flatMap (fun (e : Nat × Elem) => (e.2.held.filter (fun h => ids.contains h.inst)).map (fun h => (e.1, h)))

/-- Give a fault its number and its way: at most 16 of a region await a verdict, a further one goes to the control core
(R233). -/
def State.numberFault (s : State) (r : Nat) (f : FaultRec) : State × FaultRec :=
  let g := s.region r
  let f := { f with seq := g.faultSeq % 256, hsel := g.hsel.toNat }
  let g := { g with faultSeq := (g.faultSeq + 1) % 256 }
  if g.awaiting.length < 16 then
    (s.setRegion r { g with awaiting := g.awaiting ++ [(f.seq, f.hsel)], records := g.records ++ [f] }, f)
  else (s.setRegion r { g with messages := g.messages ++ [f] }, f)

/-- The park image in the tile's bytes (Table 11.1a). -/
def writePark (s : State) (c base : Nat) (k : Ctx) (f : Frame) (r : FaultRec) (p : Park) (is : List Nat) (ts : List Token) :
    State :=
  let gs := elementGroups k p.adv (fun _ => true) (sget Latch.reset p.latches) (fun i j => sget [] p.queues (4 * i + j))
    (byElement k is)
  let bs := toBytes 8 f.word ++ r.bytes ++ gs ++ ts.flatMap Token.bytes
  s.store (range (spadKey c (32 * base)) bs.length) bs

/-- The first park of a context that waits to re-enter. -/
def Core.waitingPark (c : Core) (x : Nat) : Option (Nat × Park) :=
  c.parks.find? (fun p => p.2.resumed && p.2.before.ctx == x)

/-- Park a frame whose reported fault is `r` (R229): none where no park tile fits yet (R231). -/
def parkFrame (s : State) (c frame : Nat) (f : Frame) (r : FaultRec) : Option State :=
  let k0 := s.core c
  let x := f.ctx
  let k := k0.ctx x
  let gone := k.insts.filter (fun n => n.inFrame frame)
  let ids := gone.map (·.id)
  let old := sfind k0.parks frame
  let is := match old with
    | some q => (q.queues.map (fun (e : Nat × List Timed) => e.1 / 4) ++ q.elems.map (fun (e : Nat × Elem) => e.1)).foldl insertNat []
    | none => holders k ids
  let mine := k0.store.filter (fun t => frameOf t.tok.tag == frame && t.tok.ctx == x)
  let offs := (k0.offends.filter (fun t => frameOf t.tok.tag == frame && t.tok.ctx == x)).map (·.tok)
  let off := if r.fault = FaultCode.tagCheck.code then
      offs.find? (fun t => t.slot == r.instr && t.port == r.detail && t.tag == r.tag) else none
  -- another offending token, be it the same again, is tested anew as the frame resumes (R229)
  let rest := match off with
    | some t => offs.erase t
    | none => offs
  let left := match old with
    | some q => q.tokens
    | none => []
  let toks := mine.map (·.tok) ++ left ++ rest
  let all := toks ++ off.toList
  let size := 1 + 31 * is.length + ((all.map (fun t => 16 + lenBytes t.len)).foldl (· + ·) 0 + 31) / 32
  -- a hosted piece leaves the pool where its granules are wanted (R337)
  let s := if (parkPlace k0 x size).isSome then s else s.makeRoom c x size 128
  match parkPlace (s.core c) x size with
  | none => none
  | some (n, base, pool) =>
    let (s1, r) := s.numberFault (regionOf c) r
    let s2 := gone.foldl (fun s n => s.sample c x n true) s1
    let (qs, es) := k.lifted ids
    let p : Park := { before := f, insts := gone.map (fun n => { n with marked := false }), queues := qs, elems := es,
                      latches := k.latches ids, holds := k.holdsOf ids,
                      tokens := toks, offend := off, tile := n,
                      room := 32 * size - (32 + 992 * is.length + (all.map (fun t => 16 + lenBytes t.len)).foldl (· + ·) 0),
                      adv := k.adv, resumed := false, repair := none, repairTrain := none,
                      fixes := k.fixes.filter (fun f => ids.contains f.1), captured := k0.beat + 4,
                      reqs := k0.reqs.filter (fun q => q.ctx == x && ids.contains q.inst),
                      resps := k0.resps.filter (fun q => q.ctx == x && ids.contains q.inst) }
    -- a frame that resumed and has not re-entered keeps what it holds (R237)
    let p := match old with
      | some q => { q with before := f, tokens := p.tokens, offend := p.offend, tile := n, room := p.room, resumed := false,
                           captured := p.captured }
      | none => p
    let t : Tile := { Tile.reset with owner := x, state := .draining, base := base, size := size, pool := pool, producer := .park }
    let c2 := s2.core c
    let c3 := { c2 with
      store := c2.store.filter (fun t => !mine.contains t),
      offends := c2.offends.filter (fun t => !(frameOf t.tok.tag == frame && t.tok.ctx == x)), faults := c2.faults.filter (fun g => g.1 != frame),
      frames := sput c2.frames frame { f with state := .parked, fault := some r }, parks := sput c2.parks frame p,
      reqs := c2.reqs.filter (fun q => !(q.ctx == x && ids.contains q.inst)),
      resps := c2.resps.filter (fun q => !(q.ctx == x && ids.contains q.inst)) }
    let c4 := ((c3.setCtx x { (c3.ctx x).lift ids is with holdFire := (c3.waitingPark x).isSome }).setTile n t).countEvent 20 x 1
    let s3 := writePark (s2.setCore c c4) c base k f r p is all
    some (match old with
      | some q => s3.vacateTile c q.tile
      | none => s3)

/-- The fault that is reported of several in one frame: the lowest instruction's (R229). -/
def reported (fs : List (Nat × FaultRec)) (frame : Nat) : Option FaultRec :=
  pickFirst (fun a b => a.instr < b.instr) ((fs.filter (fun g => g.1 == frame)).map (·.2))

/-- FRAME_PARK: a frame with a fault parks (R229); of two frames of a context, the lower first (R239). A fault of a frame
that is parked or gone is not reported. -/
def execFramePark (core frame : Nat) (s : State) : Host.Outcome State Fault Refusal :=
  let c := s.core core
  let drop : State := s.setCore core { c with faults := c.faults.filter (fun g => g.1 != frame) }
  .next (State.tick (match c.frame frame, reported c.faults frame with
    | some f, some r =>
      if f.state ≠ .opened then drop.touch core [f.ctx]
      else if c.faults.any (fun g => g.1 < frame && g.2.ctx == f.ctx) then s
      else ((parkFrame s core frame f r).map (fun t => t.touch core [f.ctx])).getD s
    | _, _ => drop))

/-! ## Delivery of the fault record (R234, R236) -/

/-- Whether the hsel that a fault was numbered under sends it to the handler subgraph (R234, R239). -/
def toHandler (s : State) (r : Nat) (f : FaultRec) : Bool :=
  let h := f.hsel
  let c := coreOf r (bits h 27 24)
  let x := bits h 15 14
  bit h 31 && !switchedOut s c x && !(f.core == c % 16 && f.ctx == x) &&
  (match (s.core c).frame (bits h 23 16) with
    | some g => g.state == .opened && g.depth != 0
    | none => false)

/-- The token of a fault record to the handler (R234). -/
def recordToken (r : Nat) (f : FaultRec) : Token :=
  let h := f.hsel
  { tag := 2 ^ 56 * bits h 23 16 + f.seq, core := coreOf r (bits h 27 24), slot := bits h 6 2, port := 0, ctx := bits h 15 14,
    fmt := 0, kind := .data, mark := 0, cls := 0, len := 1, inl := 24, payload := f.bytes ++ List.replicate 40 0 }

/-- FAULT_RECORD_DELIVERY: the oldest fault record goes to the handler subgraph, or to the control core (R234). -/
def execFaultRecordDelivery (r : Nat) (s : State) : Host.Outcome State Fault Refusal :=
  let g := s.region r
  .next (State.tick (match g.records with
    | [] => s
    | f :: rest =>
      let s1 := s.setRegion r { g with records := rest }
      if toHandler s r f then
        let t := recordToken r f
        s1.send t.core t
      else s1.setRegion r { s1.region r with messages := g.messages ++ [f] }))

/-- The message of a fault to the control core (R236). -/
def faultMessage (r : Nat) (f : FaultRec) : Token :=
  { tag := 2 ^ 56 * frameOf f.tag + bits f.tag 7 0, core := coreOf r f.core, slot := 36, port := 2, ctx := f.ctx, fmt := 0,
    kind := .data, mark := 0, cls := 0, len := 1, inl := 24, payload := f.bytes ++ List.replicate 40 0 }

/-- FAULT_MESSAGE: a fault enters the control core's mailbox, which then takes a trap (R236). -/
def execFaultMessage (r : Nat) (s : State) : Host.Outcome State Fault Refusal :=
  let g := s.region r
  .next (State.tick (match g.messages with
    | [] => s
    | f :: rest =>
      if 16 ≤ g.msgs.length then s
      else
        let s1 := s.setRegion r { g with messages := rest, msgs := g.msgs ++ [faultMessage r f] }
        (s1.setEvent r 0).raiseAsync r { Trap.engine f.fault f.core f.ctx f.instr f.addr.toNat 0 with poison := f.poison }))

/-! ## Verdicts (R235) -/

/-- The verdict word of a verdict token. -/
def Token.verdict (t : Token) : Nat := if t.len = 0 then t.inl else ofBytes (t.payload.take 4)

/-- Whether a verdict answers the outstanding fault of a parked frame of this core. -/
def verdictFits (c core : Nat) (k : Core) (t : Token) : Bool :=
  let v := t.verdict
  t.kind == .data && c == core && bits v 25 22 == core % 16 && bits v 27 26 == t.ctx && bits v 21 14 == frameOf t.tag &&
  (match k.frame (frameOf t.tag) with
    | some f => f.state == .parked && f.ctx == t.ctx && (match f.fault with
      | some r => r.seq == bits v 13 6
      | none => false)
    | none => false)

/-- Whether a verdict is treated as a decline (R235). -/
def declines (b : Option Block) (v instr : Nat) (store : Bool) : Bool :=
  let act := bits v 31 30
  let rep := bits v 29 28
  let kind := match b with
    | some b => if instr < b.count then (b.word instr).kind else 12
    | none => 12
  act == 0 || act == 3 || bits v 5 0 != 0 || rep == 3 ||
    (act == 1 && rep != 0 && !store && (kind == 9 || kind == 11))

/-- A fault no longer awaits a verdict. -/
def State.answered (s : State) (c seq : Nat) : State :=
  let g := s.region (regionOf c)
  s.setRegion (regionOf c) { g with awaiting := g.awaiting.filter (fun a => a.1 != seq) }

/-- The tiles that dropped instances were filling (R235). -/
def fillingTiles (s : State) (c : Nat) (ns : List Inst) : List Nat :=
  (ns.flatMap (·.tiles)).filter (fun t => (s.tile c t).state == .filling)

/-- The tiles that elements of a parked frame are reading. -/
def Park.readTiles (p : Park) (b : Option Block) : List Nat :=
  (p.elems.filter (fun (e : Nat × Elem) =>
    (b.map (fun b => (b.word e.1).kind)) == some 8 && e.2.started && e.2.lost.isNone)).map (fun (e : Nat × Elem) => e.2.tile)

/-- Requests to the allocator of dropped instances are withdrawn, with grants not yet collected. -/
def dropWaits (c x : Nat) (ids : List Nat) (s : State) : State :=
  let k := s.core c
  let mine (w : Wait) : Bool := w.owner == x && (match w.who with
    | .alloc _ inst => ids.contains inst
    | _ => false)
  s.setCore c { k with waits := k.waits.filter (fun w => !mine w),
                       grants := k.grants.filter (fun g => !(4096 ≤ g.1 && g.1 % 128 / 32 == x && ids.contains ((g.1 - 4096) / 128))) }

/-- The discard of a parked frame (R235): it becomes free, with no exit token; the reads of its elements end, the tiles it
filled and its park tile become empty, and the pools are served once. -/
def discardFrame (s : State) (c frame : Nat) (f : Frame) (p : Park) : State :=
  let toks := ((s.core c).store.filter (fun t => frameOf t.tok.tag == frame)).map (·.tok) ++ p.tokens ++ p.offend.toList
  let s1 := dropWaits c f.ctx (p.insts.map (·.id)) (toks.foldl (fun s t => s.lostDrain c t) s)
  let k := s1.core c
  let k1 := { k with parks := sdel k.parks frame, store := k.store.filter (fun t => frameOf t.tok.tag != frame) }
  let s2 := s1.setCore c (k1.freeFrameEntry frame)
  let s3 := (p.readTiles (k.ctx f.ctx).block).foldl (fun s t => s.endRead c t) s2
  let gone := fillingTiles s3 c p.insts ++ [p.tile]
  gone.foldl (fun s t => s.vacateTile c t) s3

/-- Tokens return to the matching store, each as a new arrival (R237): the state, and what is left behind a token that offends, or
that finds no room (R33). -/
def returnTokens (c : Nat) (f : Frame) : List Token → State → State × List Token
  | [], s => (s, [])
  | t :: ts, s =>
    let k := s.core c
    if f.closed && t.kind == .eos then returnTokens c f ts s
    else if (k.storedToken f.ctx t.tag (t.slot, t.port)).isSome || aboveDepth t.tag f.depth || f.closed then (s.offend c t, ts)
    else match k.keep f.ctx t false with
      | some k1 => returnTokens c f ts (s.setCore c k1)
      | none => (s, t :: ts)

/-- The tokens of a resumed frame's park tile return, as far as there is room. -/
def State.returnParked (s : State) (c frame : Nat) : State :=
  match (s.core c).frame frame, sfind (s.core c).parks frame with
  | some f, some p =>
    let (s1, left) := returnTokens c f p.tokens s
    s1.setCore c { s1.core c with parks := sput (s1.core c).parks frame { p with tokens := left } }
  | _, _ => s

/-- Replace the first token of a list that meets a test, or add the new one at the end. -/
def replaceToken (p : Token → Bool) (new : Token) : List Token → List Token
  | [] => [new]
  | t :: ts => if p t then new :: ts else t :: replaceToken p new ts

/-- What a repair makes of the tokens to return, of which the offending one is the last (R228): for a duplicate key the token already
held for that key is replaced. -/
def repairToken (f : Frame) (rep : Nat) (t : Token) (verdict : Token) (ts : List Token) : List Token :=
  if rep = 0 || f.closed then ts
  else
    let tag := 2 ^ 56 * frameOf t.tag + t.tag % 2 ^ (8 * f.depth)
    let new : Token := if rep = 2 then { t with tag := tag, kind := .eos, len := 0, inl := 0, payload := [] }
      else { t with tag := tag, kind := .data, fmt := verdict.fmt, len := 2, inl := (if verdict.fmt = 7 then 64 else 128),
                    payload := verdict.payload.drop 128 ++ List.replicate 128 0 }
    if aboveDepth t.tag f.depth then ts ++ [new]
    else replaceToken (fun u => u.tag == tag && u.slot == t.slot && u.port == t.port) new ts

/-- The replacement train of a verdict (R235), or EOS. -/
def repairTrain (b : Option Block) (rep instr : Nat) (t : Token) : Option Train :=
  let uns := match b with
    | some b => (b.word instr).uns
    | none => false
  if rep = 1 then
    some { kind := .data, fmt := t.fmt, tag := 0,
           lanes := lanesOfBytes t.fmt uns (((t.payload.drop 128).take (trainBytes t.fmt))) }
  else if rep = 2 then some (kindTrain .eos t.fmt 0) else none

/-- Resume a parked frame (R237): its tokens return, then it waits to re-enter the pipeline. -/
def resumeFrame (s : State) (c frame : Nat) (f : Frame) (p : Park) (rep : Nat) (t : Token) (r : FaultRec) : State :=
  let k := s.core c
  let held := (k.store.filter (fun e => e.held && frameOf e.tok.tag == frame)).map (·.tok)
  let toks := match p.offend with
    | some o => repairToken f rep o t p.tokens
    | none => p.tokens
  let fix := if p.offend.isSome then none else repairTrain (k.ctx f.ctx).block rep r.instr t
  let p1 := { p with resumed := true, tokens := toks ++ held, offend := none, repair := (fix.map (fun _ => r)).or p.repair,
                     repairTrain := fix.or p.repairTrain }
  let k2 := { k with store := k.store.filter (fun e => !(e.held && frameOf e.tok.tag == frame)),
                     frames := sput k.frames frame { f with state := .opened, fault := none }, parks := sput k.parks frame p1 }
  let gone := p.offend.toList ++ p.tokens.filter (fun u => !toks.contains u)
  (gone.foldl (fun s u => s.lostDrain c u) (s.setCore c (k2.setCtx f.ctx { k2.ctx f.ctx with holdFire := true }))).returnParked c frame

/-- VERDICT: the oldest verdict token at a core acts on its parked frame, once the capture has ended (R239), or is stale (R235). -/
def execVerdict (core : Nat) (s : State) : Host.Outcome State Fault Refusal :=
  let k := s.core core
  .next (State.tick (match k.verdicts with
    | [] => s
    | t :: rest =>
      let s1 := s.setCore core { k with verdicts := rest }
      let stale : State := s1.raiseAsync (regionOf core) (Trap.engine FaultCode.illegal.code core t.ctx 0 0 0)
      if (sfind k.parks (frameOf t.tag)).any (fun p => k.beat < p.captured) then s
      else if !verdictFits t.core core k t then stale
      else match k.frame (frameOf t.tag), sfind k.parks (frameOf t.tag) with
        | some f, some p =>
          let r := f.fault.getD default
          let v := t.verdict
          if declines (k.ctx f.ctx).block v r.instr p.offend.isSome then
            let g := s1.region (regionOf core)
            s1.setRegion (regionOf core) { g with messages := g.messages ++ [r] }
          else if bits v 31 30 = 2 then discardFrame (s1.answered core r.seq) core (frameOf t.tag) f p
          else resumeFrame (s1.answered core r.seq) core (frameOf t.tag) f p (bits v 29 28) t r
        | _, _ => stale))

/-! ## Re-entry (R237) -/

/-- Whether the positions a resumed frame held are free of other frames' trains. -/
def positionsFree (k : Ctx) (p : Park) : Bool :=
  p.queues.all (fun q => (sget [] k.queues q.1).isEmpty) &&
  p.elems.all (fun e => let m := k.elem e.1
    { m with held := [], latch := Latch.reset, inst := 0, tile := 0, next := 0 } == Elem.reset)

/-- How far a resumed frame's advances move: what it was doing when it parked is done in the next advance (R153, R237). -/
def Ctx.shift (k : Ctx) (p : Park) : Nat := k.adv + 1 - p.adv

/-- The pipeline with a resumed frame's instances in it again, their distances kept; what other frames hold stays (R153). -/
def Ctx.reenter (k : Ctx) (p : Park) : Ctx :=
  let d := k.shift p
  let qs := p.queues.foldl (fun qs q => sput qs q.1 (q.2.map (fun t => { t with due := t.due + d }))) k.queues
  let es := p.elems.foldl (fun (es : Sparse Elem) (e : Nat × Elem) =>
    let m := sget Elem.reset es e.1
    sput es e.1 { e.2 with next := Nat.max m.next (e.2.next + d), held := m.held, latch := m.latch }) k.elems
  let hs := p.holds.foldl (fun (es : Sparse Elem) (h : Nat × Hold) =>
    let m := sget Elem.reset es h.1
    sput es h.1 { m with held := m.held ++ [{ h.2 with first := h.2.first + d, last := h.2.last + d }] }) es
  let ls := p.latches.foldl (fun (es : Sparse Elem) (l : Nat × Latch) =>
    let m := sget Elem.reset es l.1
    if l.2.since + d < m.latch.since then es
    else sput es l.1 { m with latch := { l.2 with since := l.2.since + d, due := l.2.due + d } }) hs
  { k with queues := qs, elems := ls, insts := k.insts ++ p.insts, fixes := k.fixes ++ p.fixes }

/-- The read stream of an `ld` passes over the rest of a train that a verdict has replaced (R235). -/
def PortEntry.skipTrain (e : PortEntry) : PortEntry :=
  let left := (streamBytes (patFmt e.pattern) - e.buf.length) / 2 ^ patSize e.pattern
  { e with pos := Nat.min (e.pos + left) (patTotal e.pattern), buf := [], stopped := false, err := none, waited := Waited.reset, tried := false }

/-- Whether another `ld` word of the block takes trains of the same port (R371). -/
def sharesPort (s : State) (c : Nat) (r : MemReq) : Bool :=
  match (s.ctx c r.ctx).block with
  | none => false
  | some b => (range 0 b.count).any (fun j =>
      j != r.idx && (b.word j).kind == 8 && (b.word j).sub == 0 && some (bits (b.word j).imm 3 0) == r.port)

/-- A verdict's train answers request `n`, whose access has faulted (R235): an `ld`'s stream goes on behind the train, and ends
where it was the last; an EOS ends the element's reading and frees its port, unless
another element of the block takes trains of it. -/
def repairReq (s : State) (c n : Nat) (r : MemReq) (t : Train) : State :=
  let k := s.core c
  let t := { t with tag := r.tag }
  let mine (q : MemReq) : Bool := q.ctx == r.ctx && q.idx == r.idx && q.inst == r.inst
  if t.kind = .eos then
    let shared := sharesPort s c r
    let s1 := s.answer c n { r with port := none, flags := 0 } t false
    let s2 := s1.setCore c { s1.core c with reqs := (s1.core c).reqs.filter (fun q => !mine q) }
    match r.port, r.port.bind (s2.core c).activeEntry with
    | some p, some e =>
      (s2.setHead c p { e with finished := !shared, stopped := false, err := none, tried := false }).settlePort c (some p)
    | _, _ => s2
  else if isStreamReq s c r then
    match r.port, r.port.bind k.activeEntry with
    | some p, some e => giveTrainTo s c p n { r with flags := 0 } e.skipTrain t
    | _, _ => s.answer c n { r with flags := 0 } t false
  else s.answer c n { r with flags := 0 } t false

/-- A verdict's train takes the place of one that a port holds and whose flags faulted as it was taken (R144, R235): an EOS ends what
its instruction has sent, and the instruction. -/
def Ctx.repairQueued (k : Ctx) (i inst : Nat) (tg : Target) (t : Train) : Ctx :=
  let mine (h : Timed) : Bool := h.src == i && h.inst == inst
  let q := k.queue tg.idx tg.port
  match q.find? mine with
  | none => k
  | some h =>
    let new := { h with train := { t with tag := h.train.tag }, lf := [] }
    if t.kind = .eos then
      let rest := q.filter (fun u => !mine u)
      let k1 := k.setQueue tg.idx tg.port (insertTimed new rest)
      k1.setElem i { (k1.elem i).rest inst with ended := true, busy := true }
    else
      let at' := findIdx mine 0 q
      k.setQueue tg.idx tg.port (match at' with
        | some (n, _) => setNth q n new
        | none => q)

/-- A verdict's train is the exit of an instance whose paths to channel 31 have all delivered null (R39, R235). -/
def repairExit (s : State) (c x : Nat) (n : Inst) (t : Train) : State :=
  let p := if t.kind = .data then (resolveLane t.fmt false 0 0 (t.lane 0)).1 % 2 ^ 32 else 0
  sendExit (s.modInst c x n.id (fun n => { n with exits := [(t, p)] })) c n t p

/-- What a verdict's train does as its frame re-enters (R235): it answers the request whose access faulted, or takes the place of
the answer that faulted, of the train whose flags faulted where it was taken, of the exit, or of the train that the element is about to
send. -/
def State.applyRepair (s : State) (c x : Nat) (r : FaultRec) (t : Train) : State :=
  let i := r.instr
  let k := s.core c
  match findIdx (fun (r : MemReq) => r.faulted && r.ctx == x && r.idx == i) 0 k.reqs with
  | some (n, q) => repairReq s c n q t
  | none => match findIdx (fun (a : MemResp) => a.faulted && a.ctx == x && a.idx == i) 0 k.resps with
    | some (n, a) =>
      let b := { a with train := { t with tag := a.train.tag }, flags := 0, eosAfter := a.eosAfter && t.kind != .eos }
      s.setCore c { k with resps := setNth k.resps n b }
    | none => match (k.ctx x).block, (k.ctx x).inst r.inst with
      | some b, some n =>
        if r.fault = FaultCode.arith.code ∧ 2 ≤ r.detail ∧ cancellable b i then
          s.modCtx c x (fun k => k.repairQueued i n.id (targetOf (b.word i).f.ta) t)
        else if r.fault = FaultCode.tagCheck.code ∧ i = 31 ∧ n.exits.isEmpty ∧ !n.exitNulls.isEmpty then repairExit s c x n t
        else s.modCtx c x (fun k => { k with fixes := k.fixes ++ [(n.id, i, t)] })
      | _, _ => s

/-- The requests and answers of a core that have faulted are tried again. -/
def Core.retryFaulted (k : Core) (x : Nat) : Core :=
  { k with reqs := k.reqs.map (fun (q : MemReq) => if q.ctx = x then { q with faulted := false } else q),
           resps := k.resps.map (fun (q : MemResp) => if q.ctx = x then { q with faulted := false } else q) }

/-- RESUMED_REENTRY: what is left of a resumed frame's tokens returns; then its instances re-enter together, and the park tile becomes
empty (R237). -/
def execResumedReentry (core ctx : Nat) (s : State) : Host.Outcome State Fault Refusal :=
  let c := s.core core
  .next (State.tick (match c.waitingPark ctx with
    | none => s
    | some (frame, p) =>
      if !p.tokens.isEmpty then (if c.faulted frame then s else s.returnParked core frame)
      else if c.faulted frame ∨ !positionsFree (c.ctx ctx) p then s
      else
        let d := (c.ctx ctx).shift p
        let c1 := { c with parks := sdel c.parks frame,
                           reqs := c.reqs ++ p.reqs.map (fun (q : MemReq) => { q with due := q.due + d }),
                           resps := c.resps ++ p.resps.map (fun (q : MemResp) => { q with due := q.due + d }) }
        let k := (c1.ctx ctx).reenter p
        let c2 := c1.setCtx ctx { k with holdFire := (c1.waitingPark ctx).isSome }
        let s1 := (s.setCore core c2).vacateTile core p.tile
        let s2 := match p.repair, p.repairTrain with
          | some r, some t => s1.applyRepair core ctx r t
          | _, _ => s1
        s2.setCore core ((s2.core core).retryFaulted ctx)))

/-! ## Precise stops (R238, R358) -/

/-- PRECISE_STOP: a requested stop lands at a region edge, where the context has no instance in flight. A breakpoint writes
a record of the instance that met it and traps the control core; a debugger's stop writes a stop record. -/
def execPreciseStop (core ctx : Nat) (s : State) : Host.Outcome State Fault Refusal :=
  let k := s.ctx core ctx
  let r := regionOf core
  .next (State.tick (if !k.stopWanted || !k.insts.isEmpty || k.slot != .resident then s
    else
      let s1 := s.setCtx core ctx { k with slot := .stopped, stopWanted := false, hit := none }
      let id := match k.block with
        | some b => b.id
        | none => 0
      let (tag, t, u) := k.hit.getD (0, stackTop k.rstack)
      let s2 := s1.record r core (recordQ0 (if k.hit.isSome then 3 else 4) core ctx 0 0 (frameOf tag) (bits tag 7 0) id) (recordQ2 t u 0) 0
      if k.hit.isSome then s2.raiseAsync r (Trap.engine 0 core ctx 0 0 0) else s2))

end Sys2Proof.Machine
end

