-- ==== Sys2Proof/Machine/Delivery.lean ====
section
/-! DEFINITION. The delivery of tokens at network interfaces (R20, R27-R34, R54, R127, R247, R311, R341). -/
namespace Sys2Proof.Machine

/-! ## What an interface refuses (R28) -/

/-- The checks that need nothing but the token. -/
def Token.malformed (t : Token) : Bool :=
  38 ≤ t.slot || (t.kind == TokenKind.data && t.len != 0 && (t.inl == 0 || lenBytes t.len < t.inl)) ||
  (t.slot == 36 && t.port == 3 && t.len != 1)

/-- The payload as a receiver reads it: nothing of a token that is not data, zeros past the valid bytes. -/
def Token.bytesIn (t : Token) (n : Nat) : List Nat :=
  ((if t.kind = TokenKind.data then t.payload.take t.inl else []) ++ List.replicate n 0).take n

/-! ## Slots of a core -/

/-- A token to slot 32 (R54, R55, R311): none while the queue is full. -/
def acceptOrder (s : State) (c : Nat) (t : Token) : Option State :=
  let m := (s.core c).mx
  if 8 ≤ m.queue.length then none
  else match t.kind with
  | .null => some s
  | .eos => some s
  | .poison => some (s.orderTrap c t.ctx 0 none .matrixPoison 0)
  | .data =>
    let q : QOrder := { word := ofBytes (t.bytesIn 32), ctx := t.ctx,
                        bad := !(t.port == 0 && t.fmt == 0 && t.len == 1 && t.inl == 32), entry := none }
    some (s.setMx c { m with queue := m.queue ++ [q] })

/-- A token to slot 33 (R247): a record goes through the checks of the copy commands; one that fails is discarded, one of a context
that is switched out waits, and so does one whose queue is full. Its instruction is the seq element that sent it, 31 for another sender
(log 60). -/
def acceptRecord (s : State) (c : Nat) (t : Token) : Option State :=
  let ws := wordsOf 4 (t.bytesIn 32)
  let idx := t.sender.getD 31
  let op := bits (nth 0 ws 0).toNat 63 60
  let bad := some (s.raiseAsync (regionOf c) (Trap.engine FaultCode.illegal.code c t.ctx idx 0 0))
  if t.kind ≠ .data ∨ t.port ≠ 0 ∨ t.len ≠ 1 ∨ t.inl ≠ 32 ∨ !copyRecordOk ws op (s.region (regionOf c)).mask then bad
  else if switchedOut s c t.ctx then none
  else if (s.ctx c t.ctx).block.isNone then bad
  else if 16 ≤ ((s.core c).copyQ (bits (nth 0 ws 0).toNat 59 58)).length then none
  else some (s.enqueueCopy c t.ctx idx ws)

/-- A token whose form R28 accepts, at the slot it names, for a slot of a core that is not switched out: none where it
waits. A token to slot 34 is never one of the device's own requests, and slot 35 takes none (log 59). -/
def acceptSlot (s : State) (c : Nat) (t : Token) : Option State :=
  if t.slot < 32 then admitToken s c t
  else if t.slot = 32 then acceptOrder s c t
  else if t.slot = 33 then acceptRecord s c t
  else if t.slot = 34 then some (s.refuse c t)
  else if t.slot = 35 then some s
  else some (s.setCore c { s.core c with verdicts := (s.core c).verdicts ++ [t] })

/-- The entry that takes a token: that of the frame its frame byte names (R340). -/
def tokenEntry (s : State) (c : Nat) (t : Token) : Option Nat :=
  match (s.core c).frame (frameOf t.tag) with
  | some f => if f.bank = 5 then some f.div else none
  | none => none

/-- What a core's interface does with a token: none where it is refused and waits. -/
def acceptToken (s : State) (c : Nat) (t : Token) : Option State :=
  if t.malformed then some (s.refuse c t)
  else match tokenEntry s c t with
    | some e => match s.divert c e 4 0 0 0 t.bytes with
      | (u, true) => some u
      | (_, false) => none
    | none => acceptSlot s c t

/-- The state of a core whose interface has refused a token that waits: a full proof is reported (R341), the refusal
counted, and the context of the seq element that has sent it stalls as a unit (R204, R247, R311). -/
def refusedAt (s : State) (c : Nat) (t : Token) : State :=
  let s := s.countEvent c 14 t.ctx 1
  let s := match t.sender with
    | some i => if (s.ctx c t.ctx).slot = .resident then s.setLate c t.ctx i 1 else s
    | none => s
  match tokenEntry s c t with
  | some e => if s.recordHeld c e t.bytes.length then s else s.proofFull c e
  | none => s

/-- A token of a seq element has been taken: its context no longer stalls on it. -/
def State.tokenTaken (s : State) (c : Nat) (t : Token) : State :=
  match t.sender with
  | some i => if (s.ctx c t.ctx).late.contains (i, 1) then s.notLate c t.ctx i else s
  | none => s

/-! ## The mailbox of a region (R20, R127) -/

/-- A token at a control core's mailbox: none where it waits. A launch record comes from the application die alone. -/
def acceptMail (s : State) (r src : Nat) (t : Token) : Option State :=
  let g := s.region r
  if t.malformed then some (s.refuse t.core t)
  else if t.port = 3 then
    if src ≠ appDie then
      some (s.raiseAsync (if src < 4096 then regionOf src else src - 4096)
        { Trap.engine FaultCode.protection.code t.core t.ctx 0 t.low t.tag with source := 3 })
    else if 4 ≤ g.launches.length then none
    else some (s.setRegion r { g with launches := g.launches ++ [wordsOf 8 (t.bytesIn 64)] })
  else if 16 ≤ g.msgs.length then none
  else
    let n := lenBytes t.len
    let u : Token := { t with payload := (t.payload.take t.inl ++ List.replicate n 0).take n }
    some ((s.setRegion r { g with msgs := g.msgs ++ [u] }).setEvent r 0)

/-- A reply has come back to its requester (R291); one to a copy unit counts in its class (R260). -/
def State.replied (s : State) (p : Packet) : State :=
  if p.bytes = 0 then s.delivered p else (s.delivered p).copyReply p.dst p.chunk p.tok.cls p.bytes (p.tok.mark == 1)

/-- What becomes of the packet that stands next at an interface: a reply is taken, a memory request answered at its home, and a
token accepted, discarded, or refused, in which case it waits (R28, R33). -/
def State.deliver (s : State) (dst : Nat) (p : Packet) : State :=
  if p.reply then s.replied p
  else match p.ask with
    | some back => s.serveAsk p back
    | none =>
      if dst < 4096 then
        match acceptToken s dst p.tok with
        | some t => (t.tokenTaken dst p.tok).delivered p
        | none => refusedAt s dst p.tok
      else match acceptMail s (dst - 4096) p.src p.tok with
        | some t => t.delivered p
        | none => s

/-- TOKEN_DELIVERY: packet `k` that has arrived at an interface, if it is the next of its pair. -/
def execTokenDelivery (dst k : Nat) (s : State) : Host.Outcome State Fault Refusal :=
  .next (State.tick (match s.arrived dst k with
    | none => s
    | some p => s.deliver dst p))

/-- The reply to a core's copy unit, of a class and of `n` bytes, marked or not, that has come and is the next of its pair. -/
def State.replyAt (s : State) (core cls n marked : Nat) : Option Packet :=
  (sget [] s.arrivals core).find? (fun p => p.reply && p.bytes == n && n != 0 && p.tok.cls == cls && p.tok.mark == marked &&
    p.seq == sget 0 s.expect (pairKey p.src core))

/-- COPY_REPLY: a reply for `n` bytes of a class returns to the copy unit, with or without a congestion mark (R260). -/
def execCopyReply (core cls n marked : Nat) (s : State) : Host.Outcome State Fault Refusal :=
  .next (State.tick (match s.replyAt core cls n marked with
    | none => s
    | some p => s.replied p))

end Sys2Proof.Machine
end

