-- ==== Sys2Proof/Machine/Image.lean ====
section
/-! DEFINITION. Context images (R338, R379): the bytes of an image, and what the sections of an image say. -/
namespace Sys2Proof.Machine

/-! ## Items -/

/-- A section: its header, then its items (R338). -/
def imageSection (kind : Nat) (items : List (List Nat)) : List Nat :=
  toBytes 8 (kind + 2 ^ 32 * items.flatten.length) ++ toBytes 8 items.length ++ items.flatten

/-- Bytes in whole 8-byte words for `n` bits. -/
def bitWords (n : Nat) : Nat := 8 * ((n + 63) / 64)

def frameItem (p : Nat × Frame) : List Nat := toBytes 8 p.1 ++ toBytes 8 p.2.word

def bankItem (f : Frame) : List Nat := (range 0 64).flatMap (fun i => toBytes 4 (sget 0 f.regs i))

/-- The 16-byte units of a tile that hold marked counters, as a bit map (R349). -/
def markMap (s : State) (c : Nat) (t : Tile) : Nat :=
  ((range 0 (2 * t.size)).filter (fun u => s.marked (spadKey c (32 * t.base + 16 * u)))).foldl (fun m u => m ||| 2 ^ u) 0

/-- The keys of a tile's bytes. -/
def tileRange (c : Nat) (t : Tile) : List Nat := range (spadKey c (32 * t.base)) (32 * t.size)

/-- A tile's item (Table 21.13). -/
def tileItem (s : State) (c : Nat) (p : Nat × Tile) : List Nat :=
  let t := p.2
  let marks := markMap s c t
  let wm := t.aon && t.state == .filling
  toBytes 8 (2 ^ 11 * b2n (marks != 0) + 2 ^ 10 * b2n wm + 2 ^ 8 * (t.pool % 4) + p.1) ++ toBytes 8 t.word0 ++
    toBytes 8 t.word1 ++ toBytes 8 (32 * t.size) ++ (if wm then toBytes (bitWords (32 * t.size)) t.written else []) ++
    (if marks != 0 then toBytes (bitWords (2 * t.size)) marks else []) ++ s.readKeys (tileRange c t)

/-- A waiting-list entry's item (Table 21.14). -/
def waitItem (k : Ctx) (now : Nat) (w : Wait) : List Nat :=
  let (req, ring) := match w.who with
    | .alloc idx _ => (if k.element idx = 31 then 1 else 0, 0)
    | .ring n _ => (2, n)
    | .talloc => (3, 0)
  toBytes 8 (2 ^ 56 * w.rank + 2 ^ 54 * w.pool + 2 ^ 52 * w.owner + 2 ^ 48 * w.readers + 2 ^ 47 * b2n w.aon + 2 ^ 44 * req +
    2 ^ 40 * ring + (w.size - 1)) ++ toBytes 8 (2 ^ 32 * Nat.min (now - w.age) (2 ^ 32 - 1) + 2 ^ 24 * w.frame)

/-- A generator position as the item holds it: j0 to j3 (R379). -/
def genPosition (p : List Word) (j : Nat) : Nat :=
  let j1 := j / patCount p 0
  let j2 := j1 / patCount p 1
  j % patCount p 0 + 2 ^ 16 * (j1 % patCount p 1) + 2 ^ 32 * (j2 % patCount p 2) + 2 ^ 48 * (j2 / patCount p 2 % 2 ^ 16)

/-- The position that an item's words name. -/
def positionOf (p : List Word) (g : Nat) : Nat :=
  bits g 15 0 + patCount p 0 * (bits g 31 16 + patCount p 1 * (bits g 47 32 + patCount p 2 * bits g 63 48))

/-- The item of an entry at a place of a port's queue; a barrier's has the ports it is on and whether a control core waits for
it. -/
def portItem (k : Core) (waits : Nat → Bool) (q : Nat × Nat × PortEntry) : List Nat :=
  let e := q.2.2
  let bar := match e.barrier with
    | some n => 2 ^ 7 + 2 ^ 8 * (range 0 16).foldl (fun m p =>
        if (k.portQ p).any (fun f => f.barrier == some n) then m ||| 2 ^ p else m) 0 + 2 ^ 24 * b2n (waits n)
    | none => 0
  e.pattern.flatMap (fun w => toBytes 8 w.toNat) ++ toBytes 8 e.addend.toNat ++ toBytes 8 (genPosition e.pattern e.pos) ++
    toBytes 8 (q.1 + 2 ^ 4 * Nat.min q.2.1 3 + 2 ^ 6 * b2n e.stopped + bar) ++ toBytes 8 0

/-- A ring's item (Table 21.15). -/
def ringItem (n : Nat) (g : Ring) : List Nat :=
  toBytes 8 (2 ^ 48 * g.wp + 2 ^ 32 * g.kp + 2 ^ 16 * g.fp + 2 ^ 4 * n + b2n g.setup) ++
    toBytes 8 (if g.setup then 2 ^ 22 * g.rank + 2 ^ 18 * g.readers + 2 ^ 6 * (g.size - 1) + (g.slots - 1) else 0)

/-- The other item (Table 21.16). -/
def otherItem (c x : Nat) (k : Ctx) (hsel : Nat) : List Nat :=
  let here := bit hsel 31 && bits hsel 27 24 == c % 16 && bits hsel 15 14 == x
  (range 0 32).flatMap (fun e => toBytes 4 (if k.elemSet.contains e then sget (lfsrSeed c e x) k.lfsr e else 0)) ++
    toBytes 8 (k.age % 2 ^ 32) ++ (range 0 16).flatMap (fun i => toBytes 2 (nth 0 k.rstack i)) ++ toBytes 8 k.rstack.length ++
    toBytes 8 (if here then hsel else 0) ++ toBytes 8 0

/-! ## What an image takes of a core -/

/-- The live frames of a context. -/
def Core.framesOf (k : Core) (x : Nat) : List (Nat × Frame) := k.frames.filter (fun f => f.2.ctx == x && f.2.bank != 5)

/-- The tiles a context owns; a hosted piece is another image's (R337). -/
def Core.tilesOf (k : Core) (x : Nat) : List (Nat × Tile) :=
  k.tiles.filter (fun t => t.2.owner == x && t.2.state != .empty && t.2.producer != .hosted)

/-- The tokens of frames of a context, in arrival order. -/
def Core.tokensOf (k : Core) (x : Nat) (fs : List (Nat × Frame)) : List Stored :=
  k.store.filter (fun t => t.tok.ctx == x && fs.any (fun f => f.1 == frameOf t.tok.tag))

/-- The port entries of a context's image: port, place in the queue, entry. -/
def Core.entriesOf (k : Core) (x : Nat) : List (Nat × Nat × PortEntry) :=
  k.ports.flatMap (fun (q : Nat × List PortEntry) =>
    ((range 0 q.2.length).zip q.2).filterMap (fun p => if k.goesWith x p.2 then some (q.1, p.1, p.2) else none))

/-- The idle register banks of other contexts, in the order of R224. -/
def Core.idleBanks (k : Core) (x : Nat) : List (Nat × Nat) :=
  ((range 0 16).filter (fun b => b / 4 != x && !k.bankUsed (b / 4) (b % 4))).map (fun b => (b / 4, b % 4))

/-- Register banks with the idle bank that hosts each, while there are any (R336). -/
def hostBanks : List (List Nat) → List (Nat × Nat) → List (List Nat × Option (Nat × Nat))
  | [], _ => []
  | b :: bs, [] => (b, none) :: hostBanks bs []
  | b :: bs, h :: hs => (b, some h) :: hostBanks bs hs

/-- A register host entry (R338). -/
def hostEntry : Option (Nat × Nat) → Nat
  | none => 0
  | some (y, b) => 2 ^ 15 + 2 ^ 13 * y + 2 ^ 11 * b

/-- The header of an image and its sections 1 to 4, with its seal word 0 (R338); `size` is the image's. A hosted bank leaves zeros
in its item. -/
def imageFront (s : State) (c x size : Nat) : List Nat :=
  let k := s.core c
  let cx := k.ctx x
  let fs := k.framesOf x
  let banks := hostBanks (fs.map (fun f => bankItem f.2)) (k.idleBanks x)
  let is := match cx.block with
    | some b => range 0 b.count
    | none => []
  let groups := elementGroups cx cx.adv (fun _ => true) (fun i => (cx.elem i).latch) cx.queue (byElement cx is)
  let block := match cx.block with
    | some b => b.addr.toNat
    | none => 0
  let words := [0, 2 ^ 16 * cx.prioNew.getD cx.prio + 2 ^ 12 * x + c, size, 0, block, cx.flags, 0, 0]
  let list := banks.flatMap (fun b => toBytes 2 (hostEntry b.2))
  let head := words.flatMap (toBytes 8) ++ List.replicate 2048 0 ++ list
  head ++ List.replicate (4096 - head.length) 0 ++
    toBytes 8 (1 + 2 ^ 32 * groups.length) ++ toBytes 8 is.length ++ groups ++
    imageSection 2 (fs.map frameItem) ++
    imageSection 3 (banks.map (fun b => if b.2.isSome then List.replicate 256 0 else b.1)) ++
    imageSection 4 ((k.tokensOf x fs).map (fun t => t.tok.bytes))

/-- Section 5 of an image: its tiles. -/
def imageTilesOf (s : State) (c x : Nat) : List Nat := imageSection 5 (((s.core c).tilesOf x).map (tileItem s c))

/-- Sections 6 to 9. -/
def imageBack (s : State) (c x : Nat) : List Nat :=
  let k := s.core c
  let cx := k.ctx x
  imageSection 6 ((k.waits.filter (fun w => w.owner == x)).map (waitItem cx k.beat)) ++
    imageSection 7 ((k.entriesOf x).map (portItem k (fun n => (s.region (regionOf c)).bars.contains (c, n)))) ++
    imageSection 8 ((range 0 16).map (fun n => ringItem n (cx.ring n))) ++
    imageSection 9 [otherItem c x cx (s.region (regionOf c)).hsel.toNat]

/-- The image of context `x` of core `c` (R338). -/
def imageOf (s : State) (c x : Nat) : List Nat :=
  let rest := imageTilesOf s c x ++ imageBack s c x
  imageFront s c x ((imageFront s c x 0).length + rest.length) ++ rest

/-- The 8-byte units of an image that hold poisoned bytes of its tiles (R280). -/
def imageBad (s : State) (c x : Nat) : List Nat :=
  let flags (t : Nat × Tile) : List Bool :=
    List.replicate ((tileItem s c t).length - 32 * t.2.size) false ++ (tileRange c t.2).map (fun k => s.poison.contains (k / 8))
  let all := ((s.core c).tilesOf x).flatMap flags
  let off := (imageFront s c x 0).length + 16
  ((range 0 (all.length / 8)).filter (fun u => all.getD (8 * u) false)).map (fun u => off / 8 + u)

/-! ## Reading an image -/

/-- The sections after the header: kind, item count, bytes. -/
def sectionsOf : Nat → List Nat → List (Nat × Nat × List Nat)
  | 0, _ => []
  | f + 1, bs =>
    let w := ofBytes (bs.take 8)
    let n := w / 2 ^ 32
    (w % 256, ofBytes ((bs.drop 8).take 8), (bs.drop 16).take n) :: sectionsOf f (bs.drop (16 + n))

def sectionBytes (ss : List (Nat × Nat × List Nat)) (kind : Nat) : List Nat :=
  match ss.find? (fun t => t.1 == kind) with
  | some t => t.2.2
  | none => []

/-- Where the items of a section stand in the bytes after the header. -/
def sectionPlace (kind : Nat) : Nat → Nat → List Nat → Nat
  | 0, at', _ => at'
  | f + 1, at', bs =>
    let w := ofBytes (bs.take 8)
    if w % 256 = kind then at' + 16 else sectionPlace kind f (at' + 16 + w / 2 ^ 32) (bs.drop (16 + w / 2 ^ 32))

/-- Bytes in items of one length. -/
def itemsOf (n : Nat) : Nat → List Nat → List (List Nat)
  | 0, _ => []
  | f + 1, bs => if bs.isEmpty then [] else bs.take n :: itemsOf n f (bs.drop n)

/-- Word `i` of an item. -/
def itemWord (bs : List Nat) (i : Nat) : Nat := ofBytes ((bs.drop (8 * i)).take 8)

/-- The fields of a frame-table entry over a frame (Table 2.3). -/
def Frame.ofWord (f : Frame) (w : Nat) : Frame :=
  { f with state := (if bits w 63 62 = 2 then .parked else if bits w 63 62 = 3 then .retiring else .opened),
           depth := bits w 59 57, bank := bits w 56 54, div := 0, sinks := bits w 47 42, stores := bits w 41 32,
           blockId := bits w 31 16, inflight := bits w 15 8 }

/-- The registers of a bank's bytes. -/
def bankRegs (bs : List Nat) : Sparse Nat :=
  (range 0 64).filterMap (fun i =>
    let v := ofBytes ((bs.drop (4 * i)).take 4)
    if v = 0 then none else some (i, v))

/-- The tokens of section 4. -/
def tokensIn : Nat → List Nat → List Token
  | 0, _ => []
  | f + 1, bs =>
    if bs.isEmpty then []
    else
      let h := ofBytes (bs.take 16)
      let n := lenBytes (bits h 33 32)
      tokenOf h ((bs.drop 16).take n) :: tokensIn f (bs.drop (16 + n))

/-- A tile of section 5; `place` is where its bytes stand in the image. -/
structure SavedTile where
  num : Nat
  place : Nat
  pool : Nat
  w0 : Nat
  w1 : Nat
  written : Nat
  marks : Nat
  data : List Nat

def SavedTile.base (t : SavedTile) : Nat := bits t.w1 31 18

def SavedTile.size (t : SavedTile) : Nat := bits t.w1 17 6 + 1

/-- The tiles of section 5, whose items stand at `at'` in the image. -/
def tilesIn : Nat → Nat → List Nat → List SavedTile
  | 0, _, _ => []
  | f + 1, at', bs =>
    if bs.isEmpty then []
    else
      let h := itemWord bs 0
      let n := itemWord bs 3 % 2 ^ 32
      let wl := if bit h 10 then bitWords n else 0
      let ml := if bit h 11 then bitWords (n / 16) else 0
      let rest := bs.drop 32
      { num := bits h 6 0, place := at' + 32 + wl + ml, pool := bits h 9 8, w0 := itemWord bs 1, w1 := itemWord bs 2,
        written := ofBytes (rest.take wl), marks := ofBytes ((rest.drop wl).take ml), data := (rest.drop (wl + ml)).take n } ::
        tilesIn f (at' + 32 + wl + ml + n) (rest.drop (wl + ml + n))

/-- The tile-table entry of a saved tile, over what the image's tile was (Tables 6.4, 6.5). -/
def SavedTile.entry (t : SavedTile) (old : Tile) : Tile :=
  { old with rank := bits t.w0 63 56, owner := bits t.w0 55 54, poison := bit t.w0 53, aon := bit t.w0 52,
             readers := bits t.w0 51 48,
             state := (match bits t.w0 47 46 with
               | 0 => .empty
               | 1 => .filling
               | 2 => .ready
               | _ => .draining),
             version := bits t.w1 63 32, base := t.base, size := t.size, written := t.written,
             pool := if old.pool = 4 then 4 else t.pool }

/-- A waiting-list entry of section 6, over what it was; its age is the restore's (R379). -/
def waitOf (now : Nat) (p : List Nat × Wait) : Wait :=
  let w := itemWord p.1 0
  { p.2 with rank := bits w 63 56, pool := bits w 55 54, owner := bits w 53 52, readers := bits w 51 48, aon := bit w 47,
             size := bits w 11 0 + 1, age := now }

/-- A port entry of section 7, over what it was; a barrier's is as it was. -/
def entryOf (p : List Nat × PortEntry) : PortEntry :=
  let pat := wordsOf 8 p.1
  let g := itemWord p.1 9
  { p.2 with pattern := pat, addend := BitVec.ofNat 64 (itemWord p.1 8), stopped := bit (itemWord p.1 10) 6,
             pos := if g = genPosition p.2.pattern p.2.pos then p.2.pos else positionOf pat g }

/-- A ring of section 8, over what it was. -/
def ringFrom (bs : List Nat) (old : Ring) : Ring :=
  let w := itemWord bs 0
  let v := itemWord bs 1
  if bit w 0 then
    { old with setup := true, wp := bits w 63 48, kp := bits w 47 32, fp := bits w 31 16, rank := bits v 29 22,
               readers := bits v 21 18, size := bits v 17 6 + 1, slots := bits v 5 0 + 1 }
  else Ring.reset

/-! ## The pieces of an image (R336-R338) -/

/-- Bytes of window 0x8 read as the control core reads them, 2 KiB at a time. -/
def readMany (s : State) (r : Nat) : Nat → Nat → Nat → Res (List Nat)
  | 0, _, _ => .ok []
  | f + 1, addr, n =>
    if n = 0 then .ok []
    else do
      let m := Nat.min n (2048 - addr % 2048)
      let bs ← recordRead s r addr m
      let rest ← readMany s r f (addr + m) (n - m)
      .ok (bs ++ rest)

/-- Bytes of an image and their poison: a copy of poison stays poison (R280). -/
abbrev Marked := List (Nat × Bool)

def State.readMarked (s : State) (ks : List Nat) : Marked := ks.map (fun k => (s.readByte k, s.poison.contains (k / 8)))

/-- Piece `i` of an image of core `c`, from its host (R338). -/
def readPiece (s : State) (c ptr host i n : Nat) : Res Marked :=
  if bits host 31 30 = 1 then
    .ok (s.readMarked (range (spadKey (4 * (c / 4) + bits host 29 28) (32 * bits host 27 14)) n))
  else if bits host 31 30 = 2 then .ok (s.readMarked (range (regionKey (regionOf c) (2048 * bits host 27 14)) n))
  else do
    let r := regionOf c
    await (!walkHeld s (.control r) (ptr + 2048 * i) n)
    let ks ← ofAcc (ptr + 2048 * i) (resolve s (.control r) (ptr + 2048 * i) n .read)
    await (!vaultHeld s ks)
    .ok (s.readMarked ks)

def readPieces (s : State) (c ptr len : Nat) (head : List Nat) : Nat → Nat → Res Marked
  | 0, _ => .ok []
  | f + 1, i =>
    if len ≤ 2048 * i then .ok []
    else do
      let host := ofBytes ((head.drop (64 + 4 * i)).take 4)
      let bs ← readPiece s c ptr host i (Nat.min 2048 (len - 2048 * i))
      let rest ← readPieces s c ptr len head f (i + 1)
      .ok (bs ++ rest)

/-- An image as it has been read: its bytes, and its 8-byte units that read poison. -/
structure Image where
  bytes : List Nat
  bad : List Nat

/-- The tiles that section 5 of an image names. -/
def imageTiles (im : Image) : List SavedTile :=
  let body := im.bytes.drop 4096
  tilesIn 128 (4096 + sectionPlace 5 9 0 body) (sectionBytes (sectionsOf 9 body) 5)

/-- Whether poison lies in the image outside the bytes of its tiles. -/
def Image.torn (im : Image) : Bool :=
  im.bad.any (fun u => !(imageTiles im).any (fun t => t.place ≤ 8 * u && 8 * u < t.place + t.data.length))

/-- The whole image at a pointer: its header, read first, then its pieces. Poison outside the bytes of its tiles is read as a
load reads it (R92, log 90). -/
def readContextImage (s : State) (c ptr : Nat) (head : List Nat) : Res Image := do
  let body ← readPieces s c ptr (itemWord head 2 % 2 ^ 32) head 512 2
  let flags := body.map (·.2)
  let im : Image := { bytes := head ++ body.map (·.1),
                      bad := ((range 0 ((flags.length + 7) / 8)).filter (fun u => ((flags.drop (8 * u)).take 8).any id)).map (· + 512) }
  if im.torn then .error (.trap (Trap.access .protection ptr true)) else .ok im

/-! ## Proof records read back (Table 21.9) -/

structure ProofRec where
  kind : Nat
  off : Nat
  mask : Nat
  r2 : Nat
  data : List Nat

/-- The records of a log, in ascending sequence. -/
def recordsIn : Nat → List Nat → List ProofRec
  | 0, _ => []
  | f + 1, bs =>
    if bs.isEmpty then []
    else
      let w := itemWord bs 0
      let n := 32 * bits w 27 23
      { kind := bits w 31 28, off := bits w 18 0, mask := itemWord bs 1, r2 := itemWord bs 2, data := (bs.drop 32).take n } ::
        recordsIn f (bs.drop (32 + n))

end Sys2Proof.Machine
end

