-- ==== Sys2Proof/Machine/Context.lean ====
section
/-! DEFINITION. The context commands, the save engine and the merge (R333-R347, R349). -/
namespace Sys2Proof.Machine

/-! ## cxprio, cxpark (R335) -/

/-- `cxprio` (R335): the priority holds from the next beat (R37). -/
def execCxprio (a prio ctx : Nat) (s : State) : Host.Outcome State Fault Refusal :=
  command s (fun s => do
    let cs ← maskOperand s s.turn a
    ctxOperand s cs ctx
    need (cs.all (fun c => (s.ctx c ctx).block.isSome)) .illegal
    .ok (cs.foldl (fun s c => s.modCtx c ctx (fun k => { k with prioNew := some prio })) s))

/-- The cores that `cxpark` names, checked (R335): a slot with no block has nothing to stop (log 61). -/
def parkOperands (s : State) (a ctx : Nat) : Res (List Nat) := do
  let cs ← maskOperand s s.turn a
  ctxOperand s cs ctx
  need (cs.all (fun c => (s.ctx c ctx).slot != .empty)) .illegal
  .ok cs

/-- `cxpark` (R335): each named core stops the context from its next beat, and the command completes when all have. -/
def execCxpark (a ctx : Nat) (s : State) : Host.Outcome State Fault Refusal :=
  let r := s.turn
  let ready := s.drains r
  let s := s.drain r
  match (do
      await ready
      parkOperands s a ctx : Res (List Nat)) with
  | .error x => finish s r (.error x)
  | .ok cs =>
    if cs.all (fun c => (s.ctx c ctx).slot == .stopped) then finish s r (.ok s)
    else finish (cs.foldl (fun s c => s.modCtx c ctx (fun k => { k with parkNew := true })) s) r (.error .wait)

/-! ## The switch-out point (R336) -/

/-- The keys of grants of a context (Wait.key). -/
def grantOf (x key : Nat) : Bool :=
  (4096 ≤ key && key % 128 / 32 == x) || (1024 ≤ key && key < 2048 && (key - 1024) / 64 == x)

/-- How many LD elements of a list read a tile. -/
def readsBy (b : Option Block) (n : Nat) (es : Sparse Elem) : Nat :=
  (es.filter (fun (e : Nat × Elem) =>
    (b.map (fun b => (b.word e.1).kind)) == some 8 && e.2.started && e.2.tile == n && e.2.lost.isNone)).length

/-- The reads of a tile by the LD elements of its context, parked frames among them. -/
def Core.ownReads (k : Core) (x n : Nat) : Nat :=
  let b := (k.ctx x).block
  readsBy b n (k.ctx x).elems + ((k.parks.filter (fun (p : Nat × Park) => p.2.before.ctx == x)).map
    (fun (p : Nat × Park) => readsBy b n p.2.elems)).foldl (· + ·) 0

/-- The entry that `cxsave` sets up (R339), with what of the image no section holds. -/
def newEntryFor (s : State) (c x cxid ptr : Nat) (l : Launch) : Divert :=
  let k := s.core c
  let fs := k.framesOf x
  let sizes := l.proofs
  let skip := (c % 16) * sizes.foldl (· + ·) 0 + (sizes.take x).foldl (· + ·) 0
  let ts := k.tilesOf x
  let mine (n : Nat) : Bool := fs.any (fun f => f.1 == n)
  let banks := (hostBanks (fs.map (fun f => bankItem f.2)) (k.idleBanks x)).filterMap (fun b => b.2.map (fun h => (h.1, h.2, b.1)))
  { slot := x, full := false, cxid := cxid, seq := 0, image := BitVec.ofNat 64 ptr,
    proof := BitVec.ofNat 64 (l.w 6 + 32 * skip), size := nth 0 sizes x, used := 0, since := s.ticks.toNat,
    pipe := { k.ctx x with flags := 0, fresh := 0, enables := some (k.ctx x).trapEnables, parkNew := false,
                           late := (k.ctx x).late.filter (fun l => l.2 != 1) }, frames := fs, parks := k.parks.filter (fun p => mine p.1),
    tiles := ts.map (fun (t : Nat × Tile) => (t.1, { t.2 with reads := k.ownReads x t.1 })), waits := k.waits.filter (fun w => w.owner == x), entries := (k.ports.map (fun (q : Nat × List PortEntry) =>
      (q.1, q.2.filter (k.goesWith x)))).filter (fun q => !q.2.isEmpty),
    reqs := k.reqs.filter (fun q => q.ctx == x && isStreamReq s c q), resps := [],
    grants := k.grants.filter (fun g => grantOf x g.1), faults := k.faults.filter (fun f => mine f.1),
    verdicts := k.verdicts.filter (fun t => t.ctx == x && mine (frameOf t.tag)), poison := imageBad s c x, banks := banks, groups := [], dropping := false }

/-- What is left of the core when an image's state is taken out: ready tiles draining (Table 10.1), frames parked in bank 5 with
the entry (R333), requests, answers, copies and orders in flight carrying the entry (R340). Its port entries and waiting entries
stand in place, and nothing serves them, until the seal (R344). -/
def Core.takeOut (k : Core) (s : State) (c x e : Nat) (d : Divert) : Core :=
  let mine (n : Nat) : Bool := d.frames.any (fun f => f.1 == n)
  let tag (q : Copy) : Copy := if q.ctx = x ∧ q.entry.isNone then { q with entry := some e } else q
  let tagOrder (q : QOrder) : QOrder := if q.ctx = x ∧ q.entry.isNone then { q with entry := some e } else q
  let tagRun (q : Running) : Running := if q.ctx = x ∧ q.entry.isNone then { q with entry := some e } else q
  let old := k.ctx x
  let stub : Ctx := { Ctx.reset with slot := .stopped, block := old.block, prio := old.prioNew.getD old.prio, age := old.age, last := old.last,
                                     score := old.score, bkpt := old.bkpt, rstack := old.stackNow }
  ({ k with
      frames := k.frames.map (fun (f : Nat × Frame) => (f.1, if mine f.1 then { f.2 with state := .parked, bank := 5, div := e } else f.2)),
      tiles := k.tiles.map (fun (t : Nat × Tile) =>
        (t.1, if d.tiles.any (fun u => u.1 == t.1) && t.2.state == .ready then { t.2 with state := .draining } else t.2)),
      parks := k.parks.filter (fun p => !mine p.1), verdicts := k.verdicts.filter (fun t => !d.verdicts.contains t),
      reqs := k.reqs.filter (fun q => q.ctx != x),
      awayReqs := k.awayReqs ++ ((k.reqs.filter (fun q => q.ctx == x && !isStreamReq s c q)).map
        (fun (q : MemReq) => { q with entry := some e })),
      resps := k.resps.filter (fun q => q.ctx != x),
      awayResps := k.awayResps ++ (k.resps.filter (fun q => q.ctx == x)).map (fun q => (e, q)),
      grants := k.grants.filter (fun g => !grantOf x g.1), faults := k.faults.filter (fun f => !mine f.1),
      copy := { k.copy with queues := k.copy.queues.map (fun (q : Nat × List Copy) => (q.1, q.2.map tag)),
                            flying := k.copy.flying.map tag },
      mx := { k.mx with queue := k.mx.queue.map tagOrder, running := k.mx.running.map tagRun },
      divs := sput k.divs e d } : Core).setCtx x stub

/-- The port entries and waiting entries of an image leave the core (R336). -/
def Core.leaveQueues (k : Core) (x : Nat) : Core :=
  { k with waits := k.waits.filter (fun w => w.owner != x),
           ports := (k.ports.map (fun (q : Nat × List PortEntry) =>
             (q.1, q.2.filter (fun e => !k.leavesWith x e)))).filter (fun q => !q.2.isEmpty) }

/-- The switch-out point of a save. -/
def switchOut (s : State) (c x cxid ptr area e : Nat) (l : Launch) : State :=
  let d := newEntryFor s c x cxid ptr l
  let image := imageOf s c x
  let k := (s.core c).takeOut s c x e d
  let v : Saving := { entry := e, area := area, image := image, cursor := 0, stopped := false }
  s.setCore c { k with saves := sput k.saves x v }

/-- A free diversion entry of a core. -/
def Core.freeEntry (k : Core) : Option Nat := (range 0 16).find? (fun e => (sfind k.divs e).isNone)

/-- `cxsave` (R336, R345). -/
def execCxsave (a b core ctx : Nat) (s : State) : Host.Outcome State Fault Refusal :=
  command s (fun s => do
    let r := s.turn
    needPrivileged s r
    let v := (s.getX r a).toNat
    let ptr := (s.getX r b).toNat
    let cxid := bits v 15 0
    let units := bits v 47 32
    let c ← coreOperand s r core
    need (bits v 31 16 == 0 && bits v 63 48 == 0 && 2 ≤ units && units ≤ 256 && ptr / 2 ^ 60 == 8 && ptr % 4096 == 0) .illegal
    match sfind (s.core c).saves ctx with
    | some w =>
      let d := (s.div c w.entry).getD default
      need (w.stopped && d.cxid == cxid && d.image.toNat == ptr) .illegal
      let w' := { w with stopped := false, area := Nat.max w.area (4096 * units) }
      .ok (s.setCore c { s.core c with saves := sput (s.core c).saves ctx w' })
    | none =>
      need ((s.ctx c ctx).slot == .resident || (s.ctx c ctx).slot == .stopped) .illegal
      match (s.core c).freeEntry, (s.region r).launch with
      | some e, some l => .ok (switchOut s c ctx cxid ptr (4096 * units) e l)
      | _, _ => .error .wait)

/-! ## Writing an image (R336, R337, R344) -/

/-- Where a piece goes other than home: its host-map entry, the keys of its bytes, and the state that holds it. -/
def hostPiece (s : State) (c e i n : Nat) (d : Divert) : Option (Nat × List Nat × State) :=
  let r := regionOf c
  match ((range 0 4).filter (fun j => j != c % 4)).findSome? (fun j =>
      let h := 4 * (c / 4) + j
      let adv := (sget 0 (s.region r).adverts (h % 16)).toNat
      let k := s.core h
      let p := bits adv 30 29
      if bit adv 31 && 64 * k.hosts.length + 64 ≤ bits adv 28 15 then
        (k.fits p 64).map (fun f => (j, h, p, f.1, f.2))
      else none) with
  | some (j, h, p, t, base) =>
    let k := s.core h
    let tile : Tile := { Tile.reset with owner := p, state := .draining, base := base, size := 64, pool := p, producer := .hosted }
    some (2 ^ 30 + 2 ^ 28 * j + 2 ^ 14 * base, range (spadKey h (32 * base)) n,
      s.setCore h (({ k with hosts := k.hosts ++ [(t, 16 * c + e, i)] } : Core).setTile t tile))
  | none =>
    let used (g : Nat) : Bool := (range 0 16).any (fun q =>
      (s.core (coreOf r q)).divs.any (fun (p : Nat × Divert) => p.2.groups.contains g))
    let lo := s.regionEnd r / 2048
    ((range lo (2048 - lo)).find? (fun g => !used g)).map (fun g =>
      (2 ^ 31 + 2 ^ 14 * g, range (regionKey r (2048 * g)) n, s.setDiv c e { d with groups := d.groups ++ [g] }))

/-- A save stops at its cursor (R344). -/
def stopSave (s : State) (c x : Nat) (v : Saving) (f : FaultCode) (info : Nat) : State :=
  let k := s.core c
  let t := { Trap.engine f.code c x 0 info v.cursor with extra := s.absentBits c (some v.entry) }
  (s.setCore c { k with saves := sput k.saves x { v with stopped := true } }).raiseAsync (regionOf c) t

/-- The keys of a write of an image in window 0x8, by the tables of context 0 (R336). -/
def imageKeys (s : State) (c addr n : Nat) : Option (List Nat) :=
  match resolve s (.control (regionOf c)) addr n .write with
  | .ok ks => some ks
  | .error _ => none

/-- Whether a write of an image waits for its tables or its home (R281). -/
def imageHeld (s : State) (c addr n : Nat) : Bool :=
  walkHeld s (.control (regionOf c)) addr n || (match imageKeys s c addr n with
    | some ks => vaultHeld s ks
    | none => false)

/-- The host of the next piece of an image, if it is not its home; the first two pieces stay home. -/
def nextHost (s : State) (c : Nat) (v : Saving) (d : Divert) : Option (Nat × List Nat × State) :=
  if v.cursor / 2048 < 2 then none else hostPiece s c v.entry (v.cursor / 2048) (Nat.min 2048 (v.image.length - v.cursor)) d

/-- Whether the next piece of an image waits so: its cursor, its host-map entry or, where it goes home, its bytes. -/
def pieceHeld (s : State) (c : Nat) (v : Saving) (d : Divert) : Bool :=
  let i := v.cursor / 2048
  let ptr := d.image.toNat
  imageHeld s c (ptr + 24) 4 || imageHeld s c (ptr + 64 + 4 * i) 4 ||
    ((nextHost s c v d).isNone && imageHeld s c (ptr + 2048 * i) (Nat.min 2048 (v.image.length - v.cursor)))

/-- Write the piece at the cursor to its host, poison with its bytes (R280); the home of a piece that lies elsewhere is not written. -/
def savePiece (s : State) (c x : Nat) (v : Saving) (d : Divert) : State :=
  let i := v.cursor / 2048
  let n := Nat.min 2048 (v.image.length - v.cursor)
  let ptr := d.image.toNat
  let bytes := (v.image.drop v.cursor).take n
  if v.area < v.cursor + n then stopSave s c x v .saveSpace v.area
  else
    let host := nextHost s c v d
    match imageKeys s c (ptr + 24) 4, imageKeys s c (ptr + 64 + 4 * i) 4, (if host.isSome then some [] else imageKeys s c (ptr + 2048 * i) n) with
    | some kc, some km, some kh =>
      let ps := (range v.cursor n).map (fun j => d.poison.contains (j / 8))
      let s1 : State := match host with
        | some (m, ks, t) => (t.storeMarked ks bytes ps).store km (toBytes 4 m)
        | none => s.storeMarked kh bytes ps
      let s2 := s1.store kc (toBytes 4 (v.cursor + n))
      s2.setCore c { s2.core c with saves := sput (s2.core c).saves x { v with cursor := v.cursor + n } }
    | none, _, _ => stopSave s c x v .saveFault (ptr + 24)
    | _, none, _ => stopSave s c x v .saveFault (ptr + 64 + 4 * i)
    | _, _, none => stopSave s c x v .saveFault (ptr + 2048 * i)

/-- SAVE_PIECE_WRITE: the save engine of a core writes the next piece of a save that is not stopped (R336). -/
def execSavePieceWrite (core : Nat) (s : State) : Host.Outcome State Fault Refusal :=
  let k := s.core core
  .next (State.tick (match k.saves.find? (fun (v : Nat × Saving) => !v.2.stopped && v.2.cursor < v.2.image.length) with
    | some (x, v) => match s.div core v.entry with
      | some d => if pieceHeld s core v d then s else savePiece s core x v d
      | none => s
    | none => s))

/-- The tiles of a slot become empty (R336, R339). -/
def emptyTiles (s : State) (c x : Nat) : State :=
  s.emptyAll c (((s.core c).tilesOf x).map (·.1))

/-- The slot becomes vacant: its tokens, tiles, queue entries and elements are freed (R336). -/
def vacate (s : State) (c x : Nat) (d : Divert) : State :=
  let k := (s.core c).leaveQueues x
  let old := k.ctx x
  let mine (n : Nat) : Bool := d.frames.any (fun f => f.1 == n)
  let k1 := ({ k with saves := sdel k.saves x, spill := k.spill.filter (fun (p : Nat × Spill) => !mine p.2.frame),
                      store := k.store.filter (fun t => !(t.tok.ctx == x && mine (frameOf t.tok.tag))) } : Core).setCtx x
    { Ctx.reset with slot := .vacant, score := old.score, last := old.last }
  emptyTiles (s.setCore c k1) c x

/-- Whether an order of an image still reads its tiles (R329, R336). -/
def Core.ordersRead (k : Core) (e : Nat) : Bool := k.mx.running.any (fun q => q.entry == some e && !q.reads.isEmpty)

/-- SAVE_SEAL: every piece is written and the running orders have made their reads; the seal word is written last and the slot
becomes vacant (R336). -/
def execSaveSeal (core : Nat) (s : State) : Host.Outcome State Fault Refusal :=
  let k := s.core core
  .next (State.tick (match k.saves.find? (fun (v : Nat × Saving) => !v.2.stopped && v.2.cursor == v.2.image.length) with
    | some (x, v) => match s.div core v.entry with
      | some d =>
        let id := match (s.region (regionOf core)).launch with
          | some l => l.id
          | none => 0
        if k.ordersRead v.entry || imageHeld s core d.image.toNat 8 then s
        else match imageKeys s core d.image.toNat 8 with
        | some ks =>
          let s1 := s.store ks (toBytes 8 (2 ^ 63 + 2 ^ 32 * id + 2 ^ 16 * d.cxid))
          (vacate s1 core x d).setEvent (regionOf core) 5
        | none => stopSave s core x v .saveFault d.image.toNat
      | none => s
    | none => s))

/-! ## The merge (R342) -/

/-- The part of a write record that a tile of the slot takes, by Table 10.2: offsets of its bytes. -/
def takenBytes (s : State) (c x : Nat) (p : ProofRec) : List Nat :=
  (maskList p.mask 64).filter (fun j => tileCheck (s.core c) x (p.off + j) 1 true != .prot)

/-- Apply a record of kind 1, 2 or 6 (step 2). Bytes that Table 10.2 refuses are not written, and PROTECTION is raised as it would have
been of the arrival (R321, R343). -/
def applyWrite (c x : Nat) (s : State) (p : ProofRec) : State :=
  let js := takenBytes s c x p
  let ks := js.map (fun j => spadKey c (p.off + j))
  let bs := js.map (fun j => nth 0 p.data j)
  let ps := js.map (fun j => bit p.r2 (56 + j / 8))
  let s := if p.kind ≤ 2 ∧ js.length ≠ (maskList p.mask 64).length then
      s.raiseAsync (regionOf c) (Trap.engine FaultCode.protection.code c x 31 p.off 0) else s
  if p.kind = 1 then s.land ks bs ps
  else if p.kind = 2 then
    if js.isEmpty then s
    else
      let (t, f) := s.addOne ks (bits p.r2 55 53) (bits p.r2 52 50) (bits p.r2 49 49) (ofBytes bs) (ps.any id)
      t.modCtx c x (fun k => k.enterFlags f)
  else if p.kind = 6 then
    let n := bits p.r2 3 0
    match (s.core c).tiles.find? (fun (t : Nat × Tile) => t.2.owner == x && t.2.state == .filling && t.2.producer == .ring n &&
        t.2.base / 2 == p.off / 64) with
    | some (t, _) =>
      let s1 := s.readyTile c t
      let k := s1.ctx c x
      let g := k.ring n
      (s1.setCtx c x (k.setRing n { g with wp := (g.wp + 1) % 65536, tiles := g.tiles ++ [(g.wp, t)] })).setEvent (regionOf c) 4
    | none => s
  else s

/-- Apply a record of kind 3 (step 3). -/
def applyArrival (c x : Nat) (s : State) (p : ProofRec) : State :=
  if p.kind ≠ 3 then s
  else
    let k := spadKey c p.off
    let refuse (f : FaultCode) (poison : Bool) : State :=
      s.raiseAsync (regionOf c) { Trap.engine f.code c x 31 p.off 0 with poison := poison }
    if tileCheck (s.core c) x p.off 16 true = .prot then refuse .protection false
    else if s.poisonedAt (counterKeys k) then refuse .protection true
    else if s.marked k then s.cycle k (p.r2 % 2 ^ 32)
    else refuse .illegal false

/-- A token re-enters as a new arrival (step 4); one with no room stands at the core's interface until there is (R33, log 62). -/
def reinject (c : Nat) (s : State) (t : Token) : State := (acceptSlot s c t).getD (s.send c t)

/-- The token of a record of kind 4. -/
def ProofRec.token (p : ProofRec) : Token :=
  let h := ofBytes (p.data.take 16)
  tokenOf h ((p.data.drop 16).take (lenBytes (bits h 33 32)))

/-- The answer that a record of kind 5 holds, over what it was: its train where the log has other bytes. -/
def ProofRec.answer (c : Nat) (p : ProofRec) (a : MemResp) : MemResp :=
  let old := respBytes c a
  if p.data.take old.length = old then a
  else
    let h := ofBytes (p.data.take 16)
    let t := tokenOf h []
    { a with train := if t.kind = .data then
        { kind := .data, fmt := t.fmt, lanes := lanesOfBytes t.fmt false ((p.data.drop 16).take (trainBytes t.fmt)), tag := t.tag }
      else kindTrain t.kind t.fmt t.tag }

/-- Step 4 for one record: a token re-enters; an answer, the oldest of those diverted, is on its way again. -/
def applyToken (c : Nat) (sa : State × List Answered) (p : ProofRec) : State × List Answered :=
  let (s, as) := sa
  let k := s.core c
  if p.kind = 4 then (reinject c s p.token, as)
  else if p.kind ≠ 5 then (s, as)
  else match as with
    | .resp a :: rest => (s.setCore c { k with resps := k.resps ++ [p.answer c a] }, rest)
    | .grant key tile :: rest => (s.setCore c { k with grants := k.grants ++ [(key, tile)] }, rest)
    | [] => (s, as)

/-- A frame back in the table, its bank where there is one (R224); with no bank and no spill-map entry free it stands as
spilled with no entry (log 79). -/
def Core.rebank (k : Core) (x : Nat) (p : Nat × Frame) : Core :=
  let free := if p.2.bank = 4 then none
    else if !k.bankUsed x p.2.bank then some p.2.bank
    else (range 0 4).find? (fun b => !k.bankUsed x b)
  match free with
  | some b => { k with frames := sput k.frames p.1 { p.2 with bank := b } }
  | none =>
    let k1 : Core := { k with frames := sput k.frames p.1 { p.2 with bank := 4 } }
    match k.freeSpill, k.spillPlace x (fun _ => false) with
    | some e, some v => { k1 with spill := sput k1.spill e { v with frame := p.1 } }
    | _, _ => k1

/-- Entries of a port rejoin its queue behind an entry that has started, those behind a barrier that still stands there behind it
(log 43). -/
def rejoin (q : List PortEntry) (es : List PortEntry) : List PortEntry :=
  let (first, rest) := match q with
    | e :: l => if e.active then ([e], l) else ([], q)
    | [] => ([], [])
  let (done, left) := es.foldl (fun (d : List PortEntry × List PortEntry) e =>
    if e.barrier.isSome && d.2.any (fun f => f.barrier == e.barrier) then
      (d.1 ++ d.2.takeWhile (fun f => f.barrier != e.barrier) ++ [e], (d.2.dropWhile (fun f => f.barrier != e.barrier)).drop 1)
    else (d.1 ++ [e], d.2)) (first, rest)
  done ++ left

/-- The image's state that no record changes is back in the core, and its work in flight is the slot's again (R340). Of its waiting
entries, those that find the list of 64 full are dropped: the spec says nothing of them (log 98). -/
def Core.putBack (k : Core) (x e : Nat) (d : Divert) : Core :=
  let untag (q : Copy) : Copy := if q.entry = some e then { q with entry := none } else q
  let untagOrder (q : QOrder) : QOrder := if q.entry = some e then { q with entry := none } else q
  let untagRun (q : Running) : Running := if q.entry = some e then { q with entry := none } else q
  let mine (q : MemReq) : Bool := q.entry == some e
  let k1 : Core := { k with
    parks := d.parks.foldl (fun l p => sput l p.1 p.2) k.parks, waits := (k.waits ++ d.waits).take 64,
    ports := d.entries.foldl (fun l q => sput l q.1 (rejoin (sget [] l q.1) q.2)) k.ports,
    grants := k.grants ++ d.grants, faults := k.faults ++ d.faults, verdicts := k.verdicts ++ d.verdicts,
    copy := { k.copy with queues := k.copy.queues.map (fun (q : Nat × List Copy) => (q.1, q.2.map untag)),
                          flying := k.copy.flying.map untag },
    mx := { k.mx with queue := k.mx.queue.map untagOrder, running := k.mx.running.map untagRun },
    reqs := k.reqs ++ d.reqs ++ (k.awayReqs.filter mine).map (fun (q : MemReq) => { q with entry := none }),
    awayReqs := k.awayReqs.filter (fun q => !mine q),
    resps := k.resps ++ (k.awayResps.filter (fun a => a.1 == e)).map (·.2),
    awayResps := k.awayResps.filter (fun a => a.1 != e) }
  d.frames.foldl (fun k f => k.rebank x f) k1

/-- Granules that neighbours lent to an image are free again. -/
def freeHosted (s : State) (c e : Nat) : State :=
  (range (4 * (c / 4)) 4).foldl (fun s h =>
    let mine : List Nat := ((s.core h).hosts.filter (fun t => t.2.1 == 16 * c + e)).map (·.1)
    (s.setCore h { s.core h with hosts := (s.core h).hosts.filter (fun u => !mine.contains u.1) }).emptyAll h mine) s

/-- Steps 2 to 5 on a slot whose state is in place, and the end of the entry (R342, R346); while a debugger holds the package
the slot stops at its next region edge (R302). -/
def finishMerge (s : State) (c x e : Nat) (d : Divert) (log : List ProofRec) (toks : List Token) (prio : Nat) : State :=
  let s1 := log.foldl (applyWrite c x) s
  let s2 := log.foldl (applyArrival c x) s1
  let s3 := (log.foldl (applyToken c) (toks.foldl (reinject c) s2, d.resps)).1
  let s4 := s3.modCtx c x (fun k => { k with slot := .resident, prio := prio, age := 0, last := (s3.core c).beat,
                                              stopWanted := k.stopWanted || s.die.debugHold })
  let s5 := match imageKeys s4 c d.image.toNat 8 with
    | some ks => s4.store ks (List.replicate 8 0)
    | none => s4
  let s6 := (s5.dropDiv c e).setEvent (regionOf c) 5
  let s7 := d.entries.foldl (fun s q => s.settlePort c (some q.1)) s6
  s7.touch c (range 0 4)

/-! ## Restoring the sections (step 1) -/

/-- A tile returns to its number and granules, with its poison (R280). -/
def restoreTile (c : Nat) (d : Divert) (bad : List Nat) (s : State) (t : SavedTile) : State :=
  let e := t.entry (sget Tile.reset d.tiles t.num)
  let ps := (range t.place t.data.length).map (fun j => bad.contains (j / 8))
  let s1 := (s.storeMarked (tileRange c e) t.data ps).setTile c t.num e
  (maskList t.marks (2 * t.size)).foldl (fun s u => { s with marks := insertNat s.marks (spadKey c (32 * e.base + 16 * u)) }) s1

/-- The pipeline of an image over what it was: flags, rings, LFSR states and region stack. -/
def restoreCtx (head other rings : List Nat) (k : Ctx) : Ctx :=
  let depth := itemWord other 21 % 32
  let ring (n : Nat) : Ring := ringFrom ((rings.drop (16 * n)).take 16) (k.ring n)
  { k with flags := k.flags ||| (itemWord head 5 % 2 ^ 32), enables := none,
           rings := ((range 0 16).filter (fun n => (ring n).setup)).map (fun n => (n, ring n)),
           lfsr := k.elemSet.foldl (fun l e => sput l e (ofBytes ((other.drop (4 * e)).take 4))) k.lfsr,
           rstack := (range 0 depth).map (fun i => ofBytes ((other.drop (136 + 2 * i)).take 2)) }

/-- The frames of an image with what sections 2 and 3 say of them. -/
def restoreFrames (head ss2 ss3 : List Nat) (d : Divert) : List (Nat × Frame) :=
  ((range 0 d.frames.length).zip d.frames).map (fun p =>
    let h := ofBytes ((head.drop (2112 + 2 * p.1)).take 2)
    let bank := if bit h 15 then
        ((d.banks.find? (fun b => b.1 == bits h 14 13 && b.2.1 == bits h 12 11)).map (fun b => b.2.2)).getD []
      else (ss3.drop (256 * p.1)).take 256
    (p.2.1, { p.2.2.ofWord (itemWord ss2 (2 * p.1 + 1)) with regs := bankRegs bank }))

/-- Step 1: the sections of an image are restored into the slot. -/
def restoreSections (s : State) (c x e : Nat) (d : Divert) (im : Image) : State × Divert :=
  let image := im.bytes
  let ss := sectionsOf 9 (image.drop 4096)
  let sec (k : Nat) : List Nat := sectionBytes ss k
  let now := (s.core c).beat
  let pos := d.entries.flatMap (fun q => q.2.map (fun (p : PortEntry) => (q.1, p)))
  let items := (itemsOf 96 64 (sec 7)).zip (pos.map (·.2))
  let ports := (pos.zip (items.map entryOf)).map (fun p => (p.1.1, p.2))
  let d1 := { d with
    frames := restoreFrames image (sec 2) (sec 3) d,
    waits := ((itemsOf 16 64 (sec 6)).zip d.waits).map (waitOf now),
    entries := d.entries.map (fun (q : Nat × List PortEntry) => (q.1, (ports.filter (fun p => p.1 == q.1)).map (·.2))),
    banks := [], groups := [] }
  let pipe := restoreCtx image (sec 9) (sec 8) d.pipe
  let s1 := freeHosted s c e
  let s2 := (imageTiles im).foldl (restoreTile c d im.bad) s1
  let s4 := (s2.setCtx c x { pipe with slot := .stopped, score := (s2.ctx c x).score }).setDiv c e d1
  (s4.setCore c ((s4.core c).putBack x e d1), d1)

/-- The header of an image, read before anything else (R342). -/
def readHead (s : State) (r ptr : Nat) : Res (List Nat) := readMany s r 3 ptr 4096

/-- The proof of an entry, read through the control core's tables (R336). -/
def readProof (s : State) (r : Nat) (d : Divert) : Res (List Nat) := readMany s r 2048 d.proof.toNat (32 * d.used)

/-- Whether the numbers and granules of section 5 are free. -/
def tilesFree (k : Core) (ts : List SavedTile) : Bool :=
  ts.all (fun t => (k.tile t.num).state == .empty &&
    !k.tiles.any (fun (u : Nat × Tile) => u.2.state != .empty && u.2.base < t.base + t.size && t.base < u.2.base + u.2.size))

/-- The entry that an image's header names for a slot: the one of this pointer, else any of its cxid. -/
def Core.entryFor (k : Core) (x cxid ptr : Nat) : Option Nat :=
  let ok (p : Nat × Divert) : Bool := p.2.slot == x && p.2.cxid == cxid
  match k.divs.find? (fun p => ok p && p.2.image.toNat == ptr) with
  | some p => some p.1
  | none => (k.divs.find? ok).map (·.1)

/-- The five steps of R342 with the image and the log that have been read. -/
def mergeImage (s : State) (c x e ptr : Nat) (d : Divert) (image : Image) (log : List Nat) : State :=
  let (s1, d1) := restoreSections (s.setCore c { s.core c with restore := none }) c x e d image
  let toks := tokensIn 4096 (sectionBytes (sectionsOf 9 (image.bytes.drop 4096)) 4)
  finishMerge s1 c x e { d1 with image := BitVec.ofNat 64 ptr } (recordsIn 65536 log) toks (bits (itemWord image.bytes 1) 18 16)

/-- The checks of `cxrest` in the order of R342's table: the entry, the image and the log. -/
def restoreOperands (s : State) (r c x ptr : Nat) : Res (Nat × Divert × Image × List Nat) := do
  need (ptr / 2 ^ 60 == 8 && ptr % 4096 == 0) .illegal
  let head ← readHead s r ptr
  let h0 := itemWord head 0
  let h1 := itemWord head 1
  need (bit h0 63) .restoreUnsealed
  need (bits h1 11 0 == c && bits h1 13 12 == x && bits h0 47 32 == ((s.region r).launch.map Launch.id).getD 0) .illegal
  need ((s.ctx c x).slot == .vacant) .illegal
  match (s.core c).entryFor x (bits h0 31 16) ptr with
  | none => fail .illegal
  | some e => match s.div c e with
    | none => fail .illegal
    | some d =>
      let image ← readContextImage s c ptr head
      let log ← readProof s r d
      .ok (e, d, image, log)

/-- `cxrest` (R342): its checks, and the merge once the tiles of section 5 are free; until then it waits, with the merge
asked for. -/
def execCxrest (b core ctx : Nat) (s : State) : Host.Outcome State Fault Refusal :=
  let r := s.turn
  let ready := s.drains r
  let s := s.drain r
  let ptr := (s.getX r b).toNat
  match (do
      await ready
      needPrivileged s r
      let c ← coreOperand s r core
      let v ← restoreOperands s r c ctx ptr
      .ok (c, v) : Res (Nat × Nat × Divert × Image × List Nat)) with
  | .error x => finish s r (.error x)
  | .ok (c, e, d, image, log) =>
    if tilesFree (s.core c) (imageTiles image) then finish s r (.ok (mergeImage s c ctx e ptr d image log))
    else finish (s.setCore c { s.core c with restore := some (ctx, e, ptr) }) r (.error .wait)

/-- RESTORE_MERGE: the tiles that a waiting `cxrest` waits for are free; the merge runs and the command completes (R342). -/
def execRestoreMerge (core : Nat) (s : State) : Host.Outcome State Fault Refusal :=
  let r := regionOf core
  match (s.core core).restore with
  | none => .next s.tick
  | some (x, _, ptr) =>
    match restoreOperands s r core x ptr with
    | .error _ => .next s.tick
    | .ok (e, d, image, log) =>
      if tilesFree (s.core core) (imageTiles image) then .next ((mergeImage s core x e ptr d image log).complete r)
      else .next s.tick

/-! ## cxresume (R335, R346) -/

/-- Abandon a save: steps 2 to 5 on the context's own state. -/
def abandonSave (s : State) (c x : Nat) (v : Saving) (d : Divert) (log : List Nat) : State :=
  let s1 := freeHosted s c v.entry
  let flags := match v.image.drop 40 with
    | bs => ofBytes (bs.take 4)
  let s2 := s1.setCtx c x { d.pipe with slot := .stopped, score := (s1.ctx c x).score, flags := d.pipe.flags ||| flags, enables := none }
  let k := (s2.core c).leaveQueues x
  let mine (n : Nat) : Bool := d.frames.any (fun f => f.1 == n)
  let spill := k.spill.filter (fun (p : Nat × Spill) => !mine p.2.frame)
  let back (t : Nat × Tile) : Nat × Tile :=
    (t.1, if (d.tiles.find? (fun u => u.1 == t.1)).any (fun u => u.2.state == .ready) && t.2.state == .draining then
      { t.2 with state := .ready } else t.2)
  let k1 := ({ k with saves := sdel k.saves x, spill := spill, tiles := k.tiles.map back } : Core).putBack x v.entry d
  finishMerge (s2.setCore c k1) c x v.entry d (recordsIn 65536 log) [] d.pipe.prio

/-- Resume the slot of one core; while a debugger holds the package it stops again at its next region edge (R302). -/
def resumeOn (x : Nat) (s : State) (c : Nat) : Res State :=
  match sfind (s.core c).saves x with
  | none => .ok (s.modCtx c x (fun k => { k with slot := .resident, parkNew := false, stopWanted := k.stopWanted || s.die.debugHold }))
  | some v =>
    match s.div c v.entry with
    | none => .ok s
    | some d => do
      await (!imageHeld s c d.image.toNat 8)
      let log ← readProof s (regionOf c) d
      .ok (abandonSave s c x v d log)

def resumeAll (x : Nat) : List Nat → State → Res State
  | [], s => .ok s
  | c :: cs, s => do
    let t ← resumeOn x s c
    resumeAll x cs t

/-- `cxresume` (R335, R346). -/
def execCxresume (a ctx : Nat) (s : State) : Host.Outcome State Fault Refusal :=
  command s (fun s => do
    let cs ← maskOperand s s.turn a
    await (cs.all (fun c => (s.ctx c ctx).slot != .vacant))
    need (cs.all (fun c => (s.ctx c ctx).slot != .empty)) .illegal
    resumeAll ctx cs s)

/-! ## dvmap, dvclr (R339) -/

/-- `dvmap` (R339). -/
def execDvmap (b core e : Nat) (s : State) : Host.Outcome State Fault Refusal :=
  command s (fun s => do
    let r := s.turn
    needPrivileged s r
    let addr := (s.getX r b).toNat
    let c ← coreOperand s r core
    need (addr % 32 == 0) .illegal
    let bs ← recordRead s r addr 32
    match s.div c e with
    | none => fail .illegal
    | some d =>
      let d0 := itemWord bs 0
      let proof := itemWord bs 2
      let size := bits (itemWord bs 3) 63 48
      need (bit d0 63 && bits d0 62 61 == d.slot && bits d0 47 32 == d.cxid && bits d0 31 0 == d.seq &&
        itemWord bs 1 == d.image.toNat && d.used ≤ size && size != 0 &&
        (proof == d.proof.toNat || (d.used == 0 && proof / 2 ^ 60 == 8 && proof % 32 == 0))) .illegal
      .ok (s.setDiv c e { d with proof := BitVec.ofNat 64 proof, size := size, full := false }))

/-- Whether issued work of an image is still to be performed. -/
def Core.workOf (k : Core) (e : Nat) : Bool :=
  k.copy.flying.any (fun q => q.entry == some e) || k.copy.chunks.any (fun h => (k.copy.find h.copy).any (fun q => q.entry == some e)) ||
  k.mx.running.any (fun q => q.entry == some e) || k.awayReqs.any (fun q => q.entry == some e) ||
  k.awayResps.any (fun a => a.1 == e)

/-- The queued copies and orders of an image are cancelled, and what lands for it from now on is dropped. -/
def startClear (s : State) (c e : Nat) (d : Divert) : State :=
  let s1 := s.setDiv c e { d with dropping := true }
  let qs := ((range 0 4).flatMap (s1.core c).copyQ).filter (fun q => q.entry == some e)
  let s2 := qs.foldl (fun s q => s.cancelCopy c q) s1
  let k := s2.core c
  s2.setCore c { k with mx := { k.mx with queue := k.mx.queue.filter (fun q => q.entry != some e) },
                        awayResps := k.awayResps.filter (fun a => a.1 != e) }

/-- The frames of an image end as the discard verdict ends them, its marked instance leaves its sample record (R356), its seal
word is 0 and its entry free. -/
def endClear (s : State) (c e : Nat) (d : Divert) (ks : List Nat) : State :=
  let s0 := d.pipe.insts.foldl (fun s n => s.sampleOf c d.slot (((d.pipe.block).map (·.id)).getD 0) n true) s
  let s1 := d.frames.foldl (fun s f =>
    let t := match f.2.fault with
      | some r => s.answered c r.seq
      | none => s
    t.setCore c ((t.core c).freeFrameEntry f.1)) s0
  let s2 := if (s1.core c).saves.any (fun v => v.2.entry == e) then vacate s1 c d.slot d else s1
  let s2 := s2.setCore c { s2.core c with drains := (s2.core c).drains.filter (fun g => d.frames.all (fun f => f.1 != frameOf g.tag)) }
  ((freeHosted s2 c e).store ks (List.replicate 8 0)).dropDiv c e

/-- `dvclr` (R339). -/
def execDvclr (core e : Nat) (s : State) : Host.Outcome State Fault Refusal :=
  let r := s.turn
  let ready := s.drains r
  let s := s.drain r
  match (do
      await ready
      needPrivileged s r
      coreOperand s r core : Res Nat) with
  | .error x => finish s r (.error x)
  | .ok c => match s.div c e with
    | none => finish s r (.ok s)
    | some d => if imageHeld s c d.image.toNat 8 then finish s r (.error .wait)
      else match ofAcc d.image.toNat (resolve s (.control r) d.image.toNat 8 .write) with
      | .error x => finish s r (.error x)
      | .ok ks =>
        let s1 := startClear s c e d
        if (s1.core c).workOf e then finish s1 r (.error .wait)
        else finish s1 r (.ok (endClear s1 c e d ks))

end Sys2Proof.Machine
end

