-- ==== Sys2Proof/Machine/Debug.lean ====
section
/-! DEFINITION. The debug commands (R358) and the debugger's halt (R302). -/
namespace Sys2Proof.Machine

/-! ## Region stacks -/

/-- The operands of a command on region stacks: none for the control core's own, else cores and a context with a block. -/
def stackOperands (s : State) (a own ctx : Nat) : Res (Option (List Nat)) := do
  if own = 1 then do
    need (a == 0 && ctx == 0) .illegal
    .ok none
  else
    let cs ← maskOperand s s.turn a
    ctxOperand s cs ctx
    need (cs.all (fun c => (s.ctx c ctx).block.isSome)) .illegal
    .ok (some cs)

/-- Change the stacks a command names; a context's firings see the change from the next beat (R37, R358). -/
def changeStacks (s : State) (cs : Option (List Nat)) (ctx : Nat) (f : List Nat → List Nat) : State :=
  match cs with
  | none => s.setRegion s.turn { s.region s.turn with rstack := f (s.region s.turn).rstack }
  | some l => l.foldl (fun s c => s.modCtx c ctx (fun k => { k with stackNew := some (f k.stackNow) })) s

/-- Whether every stack a command names satisfies a test on its depth. -/
def allStacks (s : State) (cs : Option (List Nat)) (ctx : Nat) (p : Nat → Bool) : Bool :=
  match cs with
  | none => p (s.region s.turn).rstack.length
  | some l => l.all (fun c => p (s.ctx c ctx).stackNow.length)

/-- `renter` and `renter.cc` (R358). -/
def execRenter (a b own ctx : Nat) (s : State) : Host.Outcome State Fault Refusal :=
  command s (fun s => do
    let cs ← stackOperands s a own ctx
    let v ← lowOperand (s.getX s.turn b) 16
    need (allStacks s cs ctx (fun d => d < 16)) .illegal
    .ok (changeStacks s cs ctx (fun l => l ++ [v])))

/-- `rleave` and `rleave.cc` (R358). -/
def execRleave (a own ctx : Nat) (s : State) : Host.Outcome State Fault Refusal :=
  command s (fun s => do
    let cs ← stackOperands s a own ctx
    need (allStacks s cs ctx (fun d => 1 < d)) .illegal
    .ok (changeStacks s cs ctx (fun l => l.dropLast)))

/-- `smark` (R358): a mark record of the control core. -/
def execSmark (b : Nat) (s : State) : Host.Outcome State Fault Refusal :=
  command s (fun s => do
    let r := s.turn
    let v ← lowOperand (s.getX r b) 32
    let (t, u) := stackTop (s.region r).rstack
    .ok (s.record r (coreOf r 0) (recordQ0 2 0 0 0 1 0 0 0) (recordQ2 t u v) 0))

/-- `bkpt` (R358). -/
def execBkpt (b core ctx : Nat) (s : State) : Host.Outcome State Fault Refusal :=
  command s (fun s => do
    let r := s.turn
    let v := (s.getX r b).toNat
    let c ← coreOperand s r core
    ctxOperand s [c] ctx
    need (bits v 30 0 == 0) .illegal
    need (s.ctx c ctx).block.isSome .illegal
    let p : Bkpt := { block := bits v 63 48, region := bits v 47 32 }
    .ok (s.modCtx c ctx (fun k => { k with bkpt := if bit v 31 then some p else none })))

/-! ## The debugger's halt (R302, R303) -/

/-- DEBUG_HOLD: the package broadcasts debug-hold, and a precise stop is asked of every resident context (R302, R358); one that
becomes resident while the package is held is stopped as well (Ctx.withBlock, resumeOn). -/
def execDebugHold (s : State) : Host.Outcome State Fault Refusal :=
  let stop (k : Ctx) : Ctx := if k.slot = .resident then { k with stopWanted := true } else k
  let halt (c : Core) : Core := { c with ctxs := c.ctxs.map (fun (p : Nat × Ctx) => (p.1, stop p.2)) }
  let die := { s.die with debugHold := true, holdSince := if s.die.debugHold then s.die.holdSince else s.ticks.toNat }
  .next (State.tick { s with die := die, cores := s.cores.map (fun (p : Nat × Core) => (p.1, halt p.2)) })

/-- DEBUG_HOLD_RELEASE: the broadcast ends and paused watches count again (R302, R303). -/
def execDebugHoldRelease (s : State) : Host.Outcome State Fault Refusal :=
  let now := s.ticks.toNat
  let resume (k : Coll) : Coll := { k with paused := k.paused + (now - Nat.max s.die.holdSince k.start) }
  let go (g : Region) : Region := { g with colls := g.colls.map resume }
  .next (State.tick (if !s.die.debugHold then s
    else { s with die := { s.die with debugHold := false }, regions := s.regions.map (fun (p : Nat × Region) => (p.1, go p.2)) }))

end Sys2Proof.Machine
end

