-- ==== Sys2Proof/Machine/FabricCompute.lean ====
section
/-! DEFINITION. The compute instructions of the fabric (08): kinds ADD, MUL, CMP, BIT, CVT and FUNC. -/
namespace Sys2Proof.Machine

/-- FABRIC_ADD: kind 0, subop 0 (Table 8.1). -/
def execFAdd (w : Fab) (s : State) : Host.Outcome State Fault Refusal := computeElement 0 0 w (addSub 0) s

/-- FABRIC_SUB: kind 0, subop 1 (Table 8.1). -/
def execFSub (w : Fab) (s : State) : Host.Outcome State Fault Refusal := computeElement 0 1 w (addSub 1) s

/-- NEG: kind 0, subop 2 (Table 8.1). -/
def execFNeg (w : Fab) (s : State) : Host.Outcome State Fault Refusal := computeElement 0 2 w (addSub 2) s

/-- ABS: kind 0, subop 3 (Table 8.1). -/
def execFAbs (w : Fab) (s : State) : Host.Outcome State Fault Refusal := computeElement 0 3 w (addSub 3) s

/-- ABSDIFF: kind 0, subop 4 (Table 8.1). -/
def execFAbsdiff (w : Fab) (s : State) : Host.Outcome State Fault Refusal := computeElement 0 4 w (addSub 4) s

/-- ADDC: kind 0, subop 5 (Table 8.1). -/
def execFAddc (w : Fab) (s : State) : Host.Outcome State Fault Refusal := computeElement 0 5 w (addSub 5) s

/-- FABRIC_MUL: kind 1, subop 0 (Table 8.1). -/
def execFMul (w : Fab) (s : State) : Host.Outcome State Fault Refusal := computeElement 1 0 w (mulSub 0) s

/-- FMA: kind 1, subop 1 (Table 8.1). -/
def execFFma (w : Fab) (s : State) : Host.Outcome State Fault Refusal := computeElement 1 1 w (mulSub 1) s

/-- FMS: kind 1, subop 2 (Table 8.1). -/
def execFFms (w : Fab) (s : State) : Host.Outcome State Fault Refusal := computeElement 1 2 w (mulSub 2) s

/-- FNMA: kind 1, subop 3 (Table 8.1). -/
def execFFnma (w : Fab) (s : State) : Host.Outcome State Fault Refusal := computeElement 1 3 w (mulSub 3) s

/-- MULHI: kind 1, subop 4 (Table 8.1). -/
def execFMulhi (w : Fab) (s : State) : Host.Outcome State Fault Refusal := computeElement 1 4 w mulhi s

/-- MULSC: kind 1, subop 5 (Table 8.1). -/
def execFMulsc (w : Fab) (s : State) : Host.Outcome State Fault Refusal := computeElement 1 5 w mulsc s

/-- CMP_EQ: kind 2, subop 0 (Table 8.1). -/
def execFCmpEq (w : Fab) (s : State) : Host.Outcome State Fault Refusal := computeElement 2 0 w (cmpSub 0) s

/-- CMP_NE: kind 2, subop 1 (Table 8.1). -/
def execFCmpNe (w : Fab) (s : State) : Host.Outcome State Fault Refusal := computeElement 2 1 w (cmpSub 1) s

/-- CMP_LT: kind 2, subop 2 (Table 8.1). -/
def execFCmpLt (w : Fab) (s : State) : Host.Outcome State Fault Refusal := computeElement 2 2 w (cmpSub 2) s

/-- CMP_LE: kind 2, subop 3 (Table 8.1). -/
def execFCmpLe (w : Fab) (s : State) : Host.Outcome State Fault Refusal := computeElement 2 3 w (cmpSub 3) s

/-- CMP_GT: kind 2, subop 4 (Table 8.1). -/
def execFCmpGt (w : Fab) (s : State) : Host.Outcome State Fault Refusal := computeElement 2 4 w (cmpSub 4) s

/-- CMP_GE: kind 2, subop 5 (Table 8.1). -/
def execFCmpGe (w : Fab) (s : State) : Host.Outcome State Fault Refusal := computeElement 2 5 w (cmpSub 5) s

/-- CMP_MIN: kind 2, subop 8 (Table 8.1). -/
def execFCmpMin (w : Fab) (s : State) : Host.Outcome State Fault Refusal := computeElement 2 8 w (minMaxSub true) s

/-- CMP_MAX: kind 2, subop 9 (Table 8.1). -/
def execFCmpMax (w : Fab) (s : State) : Host.Outcome State Fault Refusal := computeElement 2 9 w (minMaxSub false) s

/-- SIGN: kind 2, subop 10 (Table 8.1). -/
def execFSign (w : Fab) (s : State) : Host.Outcome State Fault Refusal := computeElement 2 10 w thrSub s

/-- THR: kind 2, subop 11 (Table 8.1). -/
def execFThr (w : Fab) (s : State) : Host.Outcome State Fault Refusal := computeElement 2 11 w thrSub s

/-- CLAMP: kind 2, subop 12 (Table 8.1). -/
def execFClamp (w : Fab) (s : State) : Host.Outcome State Fault Refusal := computeElement 2 12 w clampSub s

/-- FABRIC_AND: kind 3, subop 0 (Table 8.1). -/
def execFAnd (w : Fab) (s : State) : Host.Outcome State Fault Refusal := computeElement 3 0 w (bitSub 0) s

/-- FABRIC_OR: kind 3, subop 1 (Table 8.1). -/
def execFOr (w : Fab) (s : State) : Host.Outcome State Fault Refusal := computeElement 3 1 w (bitSub 1) s

/-- FABRIC_XOR: kind 3, subop 2 (Table 8.1). -/
def execFXor (w : Fab) (s : State) : Host.Outcome State Fault Refusal := computeElement 3 2 w (bitSub 2) s

/-- NOT: kind 3, subop 3 (Table 8.1). -/
def execFNot (w : Fab) (s : State) : Host.Outcome State Fault Refusal := computeElement 3 3 w (bitSub 3) s

/-- SHL: kind 3, subop 4 (Table 8.1). -/
def execFShl (w : Fab) (s : State) : Host.Outcome State Fault Refusal := computeElement 3 4 w (shiftSub 4) s

/-- SHR: kind 3, subop 5 (Table 8.1). -/
def execFShr (w : Fab) (s : State) : Host.Outcome State Fault Refusal := computeElement 3 5 w (shiftSub 5) s

/-- FABRIC_SRA: kind 3, subop 6 (Table 8.1). -/
def execFSra (w : Fab) (s : State) : Host.Outcome State Fault Refusal := computeElement 3 6 w (shiftSub 6) s

/-- FABRIC_POPC: kind 3, subop 7 (Table 8.1). -/
def execFPopc (w : Fab) (s : State) : Host.Outcome State Fault Refusal := computeElement 3 7 w (bitSub 7) s

/-- FABRIC_CLZ: kind 3, subop 8 (Table 8.1). -/
def execFClz (w : Fab) (s : State) : Host.Outcome State Fault Refusal := computeElement 3 8 w (bitSub 8) s

/-- BSEL: kind 3, subop 9 (Table 8.1). -/
def execFBsel (w : Fab) (s : State) : Host.Outcome State Fault Refusal := computeElement 3 9 w (bitSub 9) s

/-- CVT: kind 4, subop 0 (Table 8.1). -/
def execFCvt (w : Fab) (s : State) : Host.Outcome State Fault Refusal := computeElement 4 0 w cvt s

/-- RND: kind 4, subop 1 (Table 8.1). -/
def execFRnd (w : Fab) (s : State) : Host.Outcome State Fault Refusal := computeElement 4 1 w rnd s

/-- RESOLVE: kind 4, subop 2 (Table 8.1). -/
def execFResolve (w : Fab) (s : State) : Host.Outcome State Fault Refusal := computeElement 4 2 w resolveSub s

/-- QBLK: kind 4, subop 3 (Table 8.1). -/
def execFQblk (w : Fab) (s : State) : Host.Outcome State Fault Refusal := computeElement 4 3 w qblk s

/-- DQBLK: kind 4, subop 4 (Table 8.1). -/
def execFDqblk (w : Fab) (s : State) : Host.Outcome State Fault Refusal := computeElement 4 4 w dqblk s

/-- SAT: kind 4, subop 5 (Table 8.1). -/
def execFSat (w : Fab) (s : State) : Host.Outcome State Fault Refusal := computeElement 4 5 w satSub s

/-- EXP2: kind 5, subop 0 (Table 8.1). -/
def execFExp2 (w : Fab) (s : State) : Host.Outcome State Fault Refusal := computeElement 5 0 w (funcSub 0) s

/-- LOG2: kind 5, subop 1 (Table 8.1). -/
def execFLog2 (w : Fab) (s : State) : Host.Outcome State Fault Refusal := computeElement 5 1 w (funcSub 1) s

/-- RCP: kind 5, subop 2 (Table 8.1). -/
def execFRcp (w : Fab) (s : State) : Host.Outcome State Fault Refusal := computeElement 5 2 w (funcSub 2) s

/-- RSQRT: kind 5, subop 3 (Table 8.1). -/
def execFRsqrt (w : Fab) (s : State) : Host.Outcome State Fault Refusal := computeElement 5 3 w (funcSub 3) s

/-- SQRT: kind 5, subop 4 (Table 8.1). -/
def execFSqrt (w : Fab) (s : State) : Host.Outcome State Fault Refusal := computeElement 5 4 w (funcSub 4) s

/-- DIV: kind 5, subop 5 (Table 8.1). -/
def execFDiv (w : Fab) (s : State) : Host.Outcome State Fault Refusal := computeElement 5 5 w (funcSub 5) s

/-- SIGM: kind 5, subop 6 (Table 8.1). -/
def execFSigm (w : Fab) (s : State) : Host.Outcome State Fault Refusal := computeElement 5 6 w (funcSub 6) s

/-- TANH: kind 5, subop 7 (Table 8.1). -/
def execFTanh (w : Fab) (s : State) : Host.Outcome State Fault Refusal := computeElement 5 7 w (funcSub 7) s

end Sys2Proof.Machine
end

