-- ==== Sys2Proof/Machine/Integer.lean ====
section
/-! DEFINITION. Integer words of the control core (R86, R87): no fault, no flag. -/
namespace Sys2Proof.Machine

def execAdd (d a b : Nat) (s : State) : Host.Outcome State Fault Refusal := aluR (· + ·) d a b s

def execSub (d a b : Nat) (s : State) : Host.Outcome State Fault Refusal := aluR (· - ·) d a b s

def execAnd (d a b : Nat) (s : State) : Host.Outcome State Fault Refusal := aluR (· &&& ·) d a b s

def execOr (d a b : Nat) (s : State) : Host.Outcome State Fault Refusal := aluR (· ||| ·) d a b s

def execXor (d a b : Nat) (s : State) : Host.Outcome State Fault Refusal := aluR (· ^^^ ·) d a b s

def execSll (d a b : Nat) (s : State) : Host.Outcome State Fault Refusal :=
  aluR (fun x y => x <<< shiftOf y) d a b s

def execSrl (d a b : Nat) (s : State) : Host.Outcome State Fault Refusal :=
  aluR (fun x y => x >>> shiftOf y) d a b s

def execSra (d a b : Nat) (s : State) : Host.Outcome State Fault Refusal :=
  aluR (fun x y => x.sshiftRight (shiftOf y)) d a b s

def execMul (d a b : Nat) (s : State) : Host.Outcome State Fault Refusal := aluR (· * ·) d a b s

def execMulh (d a b : Nat) (s : State) : Host.Outcome State Fault Refusal :=
  aluR (fun x y => highHalf (x.toInt * y.toInt)) d a b s

def execMulhn (d a b : Nat) (s : State) : Host.Outcome State Fault Refusal :=
  aluR (fun x y => highHalf (x.toNat * y.toNat : Nat)) d a b s

def execMin (d a b : Nat) (s : State) : Host.Outcome State Fault Refusal :=
  aluR (fun x y => if x.toInt ≤ y.toInt then x else y) d a b s

def execMax (d a b : Nat) (s : State) : Host.Outcome State Fault Refusal :=
  aluR (fun x y => if x.toInt ≤ y.toInt then y else x) d a b s

def execMinn (d a b : Nat) (s : State) : Host.Outcome State Fault Refusal :=
  aluR (fun x y => if x.toNat ≤ y.toNat then x else y) d a b s

def execMaxn (d a b : Nat) (s : State) : Host.Outcome State Fault Refusal :=
  aluR (fun x y => if x.toNat ≤ y.toNat then y else x) d a b s

def execSlt (d a b : Nat) (s : State) : Host.Outcome State Fault Refusal :=
  aluR (fun x y => if x.toInt < y.toInt then 1 else 0) d a b s

def execSltn (d a b : Nat) (s : State) : Host.Outcome State Fault Refusal :=
  aluR (fun x y => if x.toNat < y.toNat then 1 else 0) d a b s

def execClz (d a : Nat) (s : State) : Host.Outcome State Fault Refusal :=
  aluI (fun x => BitVec.ofNat 64 (clz64 x)) d a s

def execPopc (d a : Nat) (s : State) : Host.Outcome State Fault Refusal :=
  aluI (fun x => BitVec.ofNat 64 (popc64 x)) d a s

def execAddi (d a i : Nat) (s : State) : Host.Outcome State Fault Refusal := aluI (· + sext16 i) d a s

def execAndi (d a i : Nat) (s : State) : Host.Outcome State Fault Refusal := aluI (· &&& zext16 i) d a s

def execOri (d a i : Nat) (s : State) : Host.Outcome State Fault Refusal := aluI (· ||| zext16 i) d a s

def execXori (d a i : Nat) (s : State) : Host.Outcome State Fault Refusal := aluI (· ^^^ zext16 i) d a s

def execSlli (d a n : Nat) (s : State) : Host.Outcome State Fault Refusal := aluI (· <<< n) d a s

def execSrli (d a n : Nat) (s : State) : Host.Outcome State Fault Refusal := aluI (· >>> n) d a s

def execSrai (d a n : Nat) (s : State) : Host.Outcome State Fault Refusal := aluI (fun x => x.sshiftRight n) d a s

def execLui (d i : Nat) (s : State) : Host.Outcome State Fault Refusal := aluI (fun _ => luiValue i) d 0 s

end Sys2Proof.Machine
end

