-- ==== Sys2Proof/Machine/Launch.lean ====
section
/-! DEFINITION. Launches (R19-R23): their start, `lwait` and their end; the taking of asynchronous causes (R132) and the
resumption of waiting commands (R113). -/
namespace Sys2Proof.Machine

/-! ## Starting a launch (R19-R21) -/

/-- A split field: a count of eighths, or the default of R12. -/
def splitOf (field dflt : Nat) : Nat := if field = 15 then dflt else field

/-- Whether the tiles of a core's image fit their contexts' pools (R19, R211). -/
def imageFits (l : Launch) (ts : List ImageTile) : Bool :=
  ts.length ≤ 128 && (range 0 4).all (fun x =>
    ((ts.filter (fun t => t.ctx == x)).map (fun t => (t.bytes.length + 31) / 32)).foldl (· + ·) 0 ≤ nth 0 l.pools x)

/-- What makes a control core refuse a record (R19); a spill pool above 4,096 entries is no case of it (log 80). -/
def recordBad (s : State) (r : Nat) (l : Launch) : Bool :=
  let badSplit (f : Nat) : Bool := 9 ≤ f && f ≤ 14
  l.mask == 0 || badSplit (bits (l.w 0) 31 28) || badSplit (bits (l.w 0) 27 24) || badSplit (bits (l.w 0) 23 20) ||
  !(l.w 1 / 2 ^ 60 == 2 || l.w 1 / 2 ^ 60 == 8) || 16384 < l.spill + l.pools.foldl (· + ·) 0 ||
  bits (l.w 0) 19 16 != 0 || l.w 7 != 0 ||
  !(maskCores r l.mask).all (fun c => imageFits l (s.core c).image)

/-- The sector split that a record brings into force, or its conflict with another launch of the sector (R21). -/
def sectorFor (s : State) (r : Nat) (l : Launch) : Option Nat :=
  let sec := r / 4
  let now := sget 4 s.sectorSplit sec
  let f := bits (l.w 0) 23 20
  if (range (4 * sec) 4).any (fun q => q != r && (s.region q).launch.isSome) then
    (if f = 15 ∨ f = now then some now else none)
  else some (splitOf f 4)

/-- Place the tiles of an image, from the low end of each pool (R211): `n` is the next tile number, `at'` the next granule
of each context. -/
def placeTiles (c : Nat) : List ImageTile → Nat → List Nat → State → State
  | [], _, _, s => s
  | t :: ts, n, at', s =>
    let base := nth 0 at' t.ctx
    let size := (t.bytes.length + 31) / 32
    let tile : Tile := { Tile.reset with owner := t.ctx, readers := t.readers, state := .ready, base := base, size := size,
                                         pool := t.ctx, producer := .launch }
    let s1 := (s.store (range (spadKey c (32 * base)) t.bytes.length) t.bytes).setTile c n tile
    placeTiles c ts (n + 1) (setNth at' t.ctx (base + size)) s1

/-- The bases of the four pools (R210). -/
def poolBases (l : Launch) : List (Nat × Nat) :=
  (range 0 4).map (fun x => (l.spill + (l.pools.take x).foldl (· + ·) 0, nth 0 l.pools x))

/-- Lay out the scratchpad of one core for a launch (R210, R211). -/
def prepareCore (l : Launch) (s : State) (c : Nat) : State :=
  let k := s.core c
  let s1 := s.setCore c { k with spillSize := l.spill, pools := poolBases l }
  placeTiles c k.image 0 ((poolBases l).map (·.1)) s1

/-- The control core as a launch program starts (R20, R23). -/
def Region.begin (g : Region) (l : Launch) : Region :=
  { g with launch := some l, x := [(10, nth 0 l.words 2), (11, BitVec.ofNat 64 l.id)], pc := nth 0 l.words 1,
           mode := .unprivileged, depth := 0, loops := [], waiting := false, atLwait := false, hsel := 0, tdest := 0,
           adverts := [], collwd := 0x1000000, aps := [], held := [], faultSeq := 0, rstack := [0],
           events := 0, regionSplit := splitOf (bits (l.w 0) 27 24) 8 }

/-- Start the oldest launch record of a region's mailbox, or refuse it (R19-R21). -/
def startLaunch (s : State) (r : Nat) (l : Launch) : State :=
  if recordBad s r l then s.writeStatus r (l.w 3) (statusWord l.id 0x01 0)
  else match sectorFor s r l with
    | none => s.writeStatus r (l.w 3) (statusWord l.id 0x02 0)
    | some sec =>
      let s1 := { s with quadSplit := sput s.quadSplit r (splitOf (bits (l.w 0) 31 28) 8),
                         sectorSplit := sput s.sectorSplit (r / 4) sec }
      let s2 := s1.setRegion r ((s1.region r).begin l)
      (maskCores r l.mask).foldl (prepareCore l) s2

/-- LAUNCH_START: an idle control core takes the oldest launch record (R20), once its last status word is written (R22). -/
def execLaunchStart (r : Nat) (s : State) : Host.Outcome State Fault Refusal :=
  let g := s.region r
  .next (State.tick (match g.launches with
    | [] => s
    | ws :: rest =>
      if g.launch.isSome || s.die.boot != .running || !g.owed.isEmpty then s
      else startLaunch (s.setRegion r { g with launches := rest }) r { words := ws }))

/-! ## The end of a launch (R22) -/

/-- Whether a frame of the launch is live. -/
def State.liveFrames (s : State) (r : Nat) : Bool :=
  match (s.region r).launch with
  | none => false
  | some l => (maskCores r l.mask).any (fun c => !(s.core c).frames.isEmpty)

/-- `lwait` (R123): the launch ends at once if no frame is live; else the program waits at its end. -/
def execLwait (s : State) : Host.Outcome State Fault Refusal :=
  let r := s.turn
  let ready := s.drains r
  let s := s.drain r
  if !ready then finishJump s r (.error .wait)
  else if s.liveFrames r then finishJump (s.setRegion r { s.region r with atLwait := true }) r (.error .wait)
  else finishJump s r (.ok (s.endLaunch r 0x00 0))

/-- LAUNCH_END: the last frame has retired and the program has reached `lwait` (R22). -/
def execLaunchEnd (r : Nat) (s : State) : Host.Outcome State Fault Refusal :=
  let g := s.region r
  .next (State.tick (if g.launch.isSome && g.atLwait && !s.liveFrames r then s.endLaunch r 0x00 0 else s))

/-! ## Traps and waiting commands -/

/-- TAKE_TRAP: the oldest asynchronous cause is taken before the next word, or escalates (R132). -/
def execTakeTrap (r : Nat) (s : State) : Host.Outcome State Fault Refusal :=
  let g := s.region r
  .next (State.tick (if g.launch.isSome && s.takes r then s.takeHeld r else s))

/-- WAITING_COMMAND_RESUME: a waiting command is looked at again (R113). -/
def execWaitingCommandResume (r : Nat) (s : State) : Host.Outcome State Fault Refusal :=
  .next (State.tick (if (s.region r).waiting then { s with agenda := .issue r :: s.agenda } else s))

end Sys2Proof.Machine
end

