-- ==== Sys2Proof/Machine/Package.lean ====
section
/-! DEFINITION. The package: boot, measurement, attestation, resets, lane repair, power, and the application die's accesses
(R15, R16, R360-R368). -/
namespace Sys2Proof.Machine

/-! ## Boot and measurement (R360, R361) -/

/-- The bytes that a manifest's signature covers: its version, its digests and the rest of its text (R360, log 97). -/
def signedText (m : Manifest) : List Nat := toBytes 4 m.version ++ m.digests.flatMap (toBytes 32) ++ m.text

/-- Steps 2 and 3 of R360, and the version against the fused minimum: a key of 32 bytes, a signature of 7,856. -/
def Die.accepts (d : Die) (m : Manifest) : Bool :=
  m.key.length == 32 && m.sig.length == 7856 && Config.sha256 m.key == d.keyHash && d.minVersion ≤ m.version &&
    Config.slhDsaVerify m.key (signedText m) m.sig

/-- Step 4: every image agrees with its digest. -/
def imagesOk (m : Manifest) : Bool := m.images.map (fun i => (Config.sha256 i).toNat) == m.digests

/-- Extend the measurement by one image, with its entry in the measured-boot log (R361). -/
def Die.extend (version : Nat) (d : Die) (image : List Nat) : Die :=
  let digest := Config.sha256 image
  let m := Config.sha256 (toBytes 32 d.measure.toNat ++ toBytes 32 digest.toNat)
  { d with measure := m, bootLog := d.bootLog ++ [(digest, version, m)] }

/-- Step 5: every image is measured and the firmware starts; the package takes its number in the domain (R11), which boot `n` of
the run is given, the firmware writes the route tables of the stack roots (R296), and the IOMMU is set up (R363). -/
def Die.startFirmware (d : Die) (n : Nat) : Die :=
  { d.nor.images.foldl (Die.extend d.nor.version) d with
    version := d.nor.version, boot := .running, powered := true, package := (Config.domainNumber n).map (· % 64),
    routes := (range 0 256).filterMap (fun k => (Config.route n k).map (fun v => (k, v % 8))), iommu := Config.iommu n }

/-- The units of a vault of a package that spare lanes serve (R13, R365). -/
def spareUnits (pkg v : Nat) (lanes : List (Nat × Nat)) : List Nat :=
  if lanes.isEmpty then []
  else (range (pkg * 2 ^ 36 + v * 2 ^ 24) (2 ^ 24)).filter (fun u =>
    (range 0 8).any (fun j => lanes.any (fun l => Config.laneServes l.1 (8 * (u % 2 ^ 24) + j))))

/-- Whether the log has lost a vault's entry as boot `n` reads it. -/
def Vault.lost (v : Vault) (n vault : Nat) : Bool := v.logLost || Config.logLost n vault

/-- The replay of a vault's repair map (R365): a repair under way is abandoned (R368), and what a spare lane served reads
as poison where the log has lost its entry. -/
def replay (n : Nat) (s : State) (p : Nat × Vault) : State :=
  if p.2.lost n p.1 then s.spoil (spareUnits (s.packageNo) p.1 p.2.lanes) else s

/-- A vault after its replay: it answers once its lane check has passed. -/
def Vault.replayed (v : Vault) (n vault : Nat) : Vault :=
  let log := if v.lost n vault then [] else v.log
  { v with held := !Config.laneCheck n vault, repair := none, lanes := log, log := log, logLost := false }

/-- Bring-up (R364): the repair maps are replayed. -/
def State.bringUp (s : State) (n : Nat) : State :=
  let t := s.die.vaults.foldl (replay n) s
  { t with die := { t.die with vaults := t.die.vaults.map (fun (p : Nat × Vault) => (p.1, p.2.replayed n p.1)) } }

/-- The firmware starts, and brings the package up. -/
def State.start (s : State) : State :=
  ({ s with die := s.die.startFirmware s.free, free := s.free + 1 } : State).bringUp s.free

/-- Steps 2 to 5 of a boot (R360): the first that fails leaves the stacks unpowered, and their vaults answer nothing. -/
def State.boot (s : State) : State :=
  if s.die.accepts s.die.nor && imagesOk s.die.nor then s.start
  else { s with die := { s.die with boot := .stopped, powered := false,
                                    vaults := s.die.vaults.map (fun (p : Nat × Vault) => (p.1, { p.2 with held := true })) } }

/-! ## Resets (R364) -/

/-- COLD_RESET: everything is cleared, the fuses, SPI-NOR and the repair log stay, and the package boots (R360). A failing
step leaves the stacks unpowered. What spare lanes served is known to the replay, which is the first to set the cleared
soft-repair registers again (R365). -/
def execColdReset (s : State) : Host.Outcome State Fault Refusal :=
  let d := s.die
  let kept : Die := { Die.reset with keyHash := d.keyHash, minVersion := d.minVersion, nor := d.nor, vaults := d.vaults }
  .next (State.boot { State.reset with die := kept, agenda := s.agenda, turn := s.turn, free := s.free, vcFlits := s.vcFlits }).tick

/-- The machine with every launch ended and everything on the stacks but DRAM cleared (the warm column of Table 24.2). -/
def State.warmClear (s : State) : State :=
  { State.reset with
    mem := s.mem.filter (fun m => m.1 < 2 ^ 45), poison := s.poison.filter (fun u => 8 * u < 2 ^ 45),
    marks := s.marks.filter (fun m => m < 2 ^ 45),
    die := { s.die with notices := s.die.notices, debugHold := false, links := [] },
    clocks := s.clocks, ticks := s.ticks, agenda := s.agenda, turn := s.turn, free := s.free, vcFlits := s.vcFlits }

/-- WARM_RESET: launches end with no status word, the firmware restarts and bring-up runs again (R364). A package without
compute power needs a cold reset (R367). -/
def execWarmReset (s : State) : Host.Outcome State Fault Refusal :=
  .next (if s.die.boot = .running then s.warmClear.start else s).tick

/-- RECOVERY_MANIFEST: the recovery loader of a stopped boot takes a manifest that passes steps 2 and 3 into SPI-NOR, and the boot
goes on with it (R360). -/
def execRecoveryManifest (m : Manifest) (s : State) : Host.Outcome State Fault Refusal :=
  .next (if s.die.boot = .stopped then
      if s.die.accepts m then State.boot { s with die := { s.die with nor := m } } else s.notify (.refused 1)
    else s).tick

/-! ## Attestation (R362) -/

/-- The identity public key, of 48 bytes. -/
def identityKey : List Nat := (Config.slhDsaPublic Config.identitySeed ++ List.replicate 48 0).take 48

/-- The signed bytes 0 to 103 of a report (Table 24.1). -/
def reportText (d : Die) (nonce : Nat) : List Nat :=
  toBytes 32 nonce ++ toBytes 32 d.measure.toNat ++ toBytes 32 (Config.sha256 identityKey).toNat ++ toBytes 4 d.version ++
    toBytes 4 (d.package.getD 0xFFFFFFFF)

/-- ATTESTATION_REPORT: the security block signs a report over a nonce, with the identity key. -/
def execAttestationReport (nonce : Nat) (s : State) : Host.Outcome State Fault Refusal :=
  let text := reportText s.die nonce
  let sig := (Config.slhDsaSign Config.identitySeed text ++ List.replicate 16224 0).take 16224
  .next (s.notify (.report (text ++ sig))).tick

/-! ## Lane repair (R366) -/

def State.vault (s : State) (v : Nat) : Vault := sget Vault.reset s.die.vaults v

def State.setVault (s : State) (v : Nat) (x : Vault) : State :=
  { s with die := { s.die with vaults := sput s.die.vaults v x } }

/-- The units that a lane switch of vault `v` finds uncorrectable: they are poisoned, and counted at the vault's core (R280,
R366). -/
def State.poisonUnits (s : State) (v : Nat) : State :=
  (s.spoil (((Config.uncorrectable s.free).filter (fun u => u < 2 ^ 24)).map
    (fun u => s.packageNo * 2 ^ 36 + v * 2 ^ 24 + u))).setFree (s.free + 1)

/-- LANE_REPAIR: the sequencer of a vault of a powered package first holds its requests; no read-modify-write is open between
steps, so the next such event switches the lane, with what the switch reads as uncorrectable, and the held requests go on. -/
def execLaneRepair (vault lane spare : Nat) (s : State) : Host.Outcome State Fault Refusal :=
  let v := s.vault vault
  .next (if !s.die.powered then s
    else match v.repair with
    | none => s.setVault vault { v with held := true, repair := some (lane, spare) }
    | some l => (s.poisonUnits vault).setVault vault
        { v with held := false, repair := none, lanes := v.lanes ++ [l], log := v.log ++ [l] }).tick

/-! ## Power (R367) -/

/-- The lowest point of a layer in mV: 620 for a VCL, 580 for an ML. -/
def layerMin (layer : Nat) : Nat := if layer % 2 = 0 then 620 else 580

def State.setPoint (s : State) (layer mv : Nat) : State := { s with die := { s.die with mv := sput s.die.mv layer mv } }

/-- DVFS_MOVE: a layer's point of a powered package moves between beats, within the layer's range; no value changes (R17, R367). -/
def execDvfsMove (layer mv : Nat) (s : State) : Host.Outcome State Fault Refusal :=
  .next (if s.die.powered = true ∧ layerMin layer ≤ mv ∧ mv ≤ 750 then s.setPoint layer mv else s).tick

def State.setTemp (s : State) (layer temp : Nat) : State :=
  { s with die := { s.die with temp := sput s.die.temp layer temp } }

/-- THERMAL_THROTTLE: above 95 degrees the layer's point falls to its minimum (R367). -/
def execThermalThrottle (layer temp : Nat) (s : State) : Host.Outcome State Fault Refusal :=
  let s := s.setTemp layer temp
  .next (if s.die.powered = true ∧ 95 < temp then s.setPoint layer (layerMin layer) else s).tick

/-- THERMAL_TRIP: at 105 degrees compute power is removed; every launch ends as at a warm reset, and only a cold reset
recovers (R367). -/
def execThermalTrip (layer temp : Nat) (s : State) : Host.Outcome State Fault Refusal :=
  let s := s.setTemp layer temp
  .next (if s.die.powered = true ∧ 105 ≤ temp then
      let t := s.warmClear
      { t with die := { t.die with powered := false, boot := .unpowered } }
    else s).tick

/-! ## Accesses from the application die (R16, R363) -/

/-- A read or write of physical memory at keys; poison read is refused, and a home that is held answers nothing. -/
def dieAccess (s : State) (wr addr : Nat) (ks data : List Nat) : State :=
  if vaultHeld s ks then s
  else if wr = 1 then s.store ks data
  else if s.poisonedAt ks then s.notify (.refused FaultCode.protection.code)
  else s.notify (.read addr (s.readKeys ks))

/-- The physical keys that bytes at a 45-bit address name (R13). -/
def dieKeys (p n : Nat) : Option (List Nat) := if p + n ≤ 2 ^ 45 then some (physKeys p n) else none

/-- The physical address the IOMMU gives a DMA address for `n` bytes. -/
def iommuOf (d : Die) (addr n : Nat) : Option Nat :=
  (d.iommu.find? (fun e => e.1 ≤ addr && addr + n ≤ e.1 + e.2.2)).map (fun e => e.2.1 + (addr - e.1))

/-- ENDPOINT_DMA: an endpoint reads or writes window 0x8 through the IOMMU (R363). -/
def execEndpointDma (wr addr : Nat) (data : List Nat) (s : State) : Host.Outcome State Fault Refusal :=
  let off := addr % 2 ^ 60
  .next (if s.die.boot != .running || data.isEmpty || addr / 2 ^ 60 != 8 then s.notify (.refused FaultCode.protection.code)
    else match (iommuOf s.die off data.length).bind (fun p => dieKeys p data.length) with
      | some ks => dieAccess s wr addr ks data
      | none => s.notify (.refused FaultCode.translation.code)).tick

/-- The fault of an application core's access by window, end and straddle (R265 to R267): windows 0x8 and 0xF are its own. -/
def dieFault (addr n : Nat) : Option FaultCode :=
  let win := addr / 2 ^ 60
  let off := addr % 2 ^ 60
  if win ≤ 3 then some .protection
  else if win ≠ 8 ∧ win ≠ 15 then some .translation
  else if bits off 58 45 ≠ 0 ∨ (win = 8 ∧ bit off 59) then some .translation
  else if (addr + n - 1) % 2 ^ 64 / 2 ^ 60 ≠ win then some .windowStraddle
  else none

/-- What an atomic of an application core writes: AMOSWAP, AMOADD, AMOXOR, AMOAND, AMOOR, AMOMIN, AMOMAX, AMOMINU and AMOMAXU by
codes 2 to 10 (log 27). -/
def appAmo (code n old v : Nat) : Nat :=
  if code = 2 then v
  else if code = 3 then (old + v) % 2 ^ n
  else if code = 4 then old ^^^ v
  else if code = 5 then old &&& v
  else if code = 6 then old ||| v
  else if code = 7 then (if sextNat n v < sextNat n old then v else old)
  else if code = 8 then (if sextNat n old < sextNat n v then v else old)
  else if code = 9 then Nat.min old v
  else Nat.max old v

/-- An atomic of an application core on an aligned word of 4 or 8 bytes: what it read is told (log 27). -/
def dieAtomic (s : State) (code addr : Nat) (ks data : List Nat) : State :=
  let n := data.length
  if !(n == 4 || n == 8) || addr % n != 0 then s.notify (.refused FaultCode.illegal.code)
  else if vaultHeld s ks then s
  else if s.poisonedAt ks then s.notify (.refused FaultCode.protection.code)
  else (s.notify (.read addr (s.readKeys ks))).rmw ks (toBytes n (appAmo code (8 * n) (s.readNat ks) (ofBytes data)))

/-- APPLICATION_CORE_ACCESS: an application core reads, writes or updates device memory, or reads or writes device space, at the address
its MMU has given: windows 0x8 and 0xF only (R16, R266). -/
def execApplicationCoreAccess (wr addr : Nat) (data : List Nat) (s : State) : Host.Outcome State Fault Refusal :=
  let off := addr % 2 ^ 60
  .next (if s.die.boot != .running || data.isEmpty then s.notify (.refused FaultCode.protection.code)
    else match dieFault addr data.length with
    | some f => s.notify (.refused f.code)
    | none =>
      if addr / 2 ^ 60 == 15 && bit off 59 then
        if wr = 1 then deviceWrite s off data.length (ofBytes data)
        else if wr = 0 then s.notify (.read addr (toBytes data.length (deviceRead s off data.length)))
        else s.notify (.refused FaultCode.illegal.code)
      else match dieKeys off data.length with
        | some ks => if 2 ≤ wr then dieAtomic s wr addr ks data else dieAccess s wr addr ks data
        | none => s.notify (.refused FaultCode.translation.code)).tick

/-- What the sender's interface refuses of an application core's token (R15, R126). -/
def appSendFault (t : Token) : Option FaultCode :=
  if 38 ≤ t.slot ∨ t.slot = 34 ∨ t.malformed then some .illegal else none

/-- APPLICATION_CORE_TOKEN_SEND: an application core sends a token to a core of its package, or to a control core's mailbox
(R15, R20). -/
def execApplicationCoreTokenSend (h : Nat) (data : List Nat) (s : State) : Host.Outcome State Fault Refusal :=
  let t := tokenOf h []
  let n := lenBytes t.len
  let u : Token := { t with mark := 0, payload := ((data.take t.inl) ++ List.replicate n 0).take n }
  .next (if s.die.boot != .running then s
    else match appSendFault u with
      | some f => s.notify (.refused f.code)
      | none => s.send appDie u).tick

end Sys2Proof.Machine
end

