-- ==== Sys2Proof/Machine/System.lean ====
section
/-! DEFINITION. Traps by command, state registers and events (R132-R136, R80, R82, R234, R268, R297, R303, R337, R350-R355). -/
namespace Sys2Proof.Machine

/-! ## trap, tret, wfe -/

/-- `trap` (R134): a trap with source 10, resumed at the next word; in privileged mode it declines the handled trap. -/
def execTrap (k : Nat) (s : State) : Host.Outcome State Fault Refusal :=
  let r := s.turn
  let ready := s.drains r
  let s := s.drain r
  let g := s.region r
  finishJump s r (do
    await ready
    .ok (if g.mode = .privileged then s.escalate r (bits g.tcause.toNat 7 0)
      else (s.setRegion r g.completed).takeTrap r g.completed.pc
        { Trap.word .illegal with fault := 0, source := 2, code := k }))

/-- `tret` (R134, R109). -/
def execTret (s : State) : Host.Outcome State Fault Refusal :=
  let r := s.turn
  let ready := s.drains r
  let s := s.drain r
  finishJump s r (do
    await ready
    needPrivileged s r
    let g := s.region r
    need (savedOk g.saved && g.tpc.toNat % 4 == 0) .illegal
    .ok (s.setRegion r g.returnTrap))

/-- `wfe` (R136). -/
def execWfe (s : State) : Host.Outcome State Fault Refusal :=
  command s (fun s => do
    let g := s.region s.turn
    await (g.events != 0)
    .ok (s.setRegion s.turn { g with events := 0 }))

/-- A write of the events register clears the bits it sets (R136). -/
def execEventsClear (b : Nat) (s : State) : Host.Outcome State Fault Refusal :=
  command s (fun s =>
    let g := s.region s.turn
    .ok (s.setRegion s.turn { g with events := g.events &&& ~~~(s.getX s.turn b) }))

/-! ## Which state registers there are (Tables 6.7, 11.2, 16.2, 17.2, 21.4, 23.1) -/

/-- The register numbers that may be read. -/
def readable (n : Nat) : Bool :=
  (1 ≤ n && n ≤ 5) || (0x10 ≤ n && n ≤ 0x18) || n == 0x20 || n == 0x21 || (0x30 ≤ n && n ≤ 0x33) || n == 0x40 ||
  (0x50 ≤ n && n ≤ 0x58) || n == 0x60 || n == 0x61 || (0x70 ≤ n && n ≤ 0x7F) || (0x80 ≤ n && n ≤ 0x8A) ||
  (0x90 ≤ n && n ≤ 0x9F) || (0xA0 ≤ n && n ≤ 0xA2) || (0xB0 ≤ n && n ≤ 0xB3) || (0x100 ≤ n && n ≤ 0x13F)

/-- The registers that are only read. -/
def readOnly (n : Nat) : Bool :=
  (0x30 ≤ n && n ≤ 0x32) || (0x81 ≤ n && n ≤ 0x8A) || (0xA0 ≤ n && n ≤ 0xA2) || n == 0xB3

/-- The registers reserved to privileged mode. -/
def privilegedReg (n : Nat) : Bool :=
  (1 ≤ n && n ≤ 5) || (0x10 ≤ n && n ≤ 0x18) || n == 0x20 || n == 0x21 || (0x50 ≤ n && n ≤ 0x58) || n == 0x61 ||
  (0x70 ≤ n && n ≤ 0x7F) || n == 0xB1 || n == 0xB2

/-- The checks of a read (R135). -/
def readCheck (s : State) (r n : Nat) : Res Unit := do
  need (readable n) .illegal
  need (!privilegedReg n || (s.region r).mode == .privileged) .protection

/-- The checks of a write (R135). -/
def writeCheck (s : State) (r n : Nat) : Res Unit := do
  need (readable n && !readOnly n) .illegal
  need (!privilegedReg n || (s.region r).mode == .privileged) .protection

/-- The core and the context that dsel names (R350). -/
def dselCore (g : Region) (r : Nat) : Nat := coreOf r (bits g.dsel.toNat 3 0)

def dselCtx (g : Region) : Nat := bits g.dsel.toNat 5 4

/-- The value of a state register of region `r`. -/
def stateReg (s : State) (r n : Nat) : Word :=
  let g := s.region r
  let c := s.core (dselCore g r)
  if n = 0x01 then g.tvec
  else if n = 0x02 then g.tpc
  else if n = 0x03 then g.tcause
  else if n = 0x04 then g.tinfo
  else if n = 0x05 then g.tinfoH
  else if n < 0x19 then sget 0 g.saved (n - 0x10)
  else if n < 0x22 then sget 0 g.scratch (n - 0x20)
  else if n = 0x30 then s.ticks
  else if n = 0x31 then BitVec.ofNat 64 r
  else if n = 0x32 then BitVec.ofNat 64 (match g.launch with
    | some l => l.id
    | none => 0)
  else if n = 0x33 then g.events
  else if n = 0x40 then g.hsel
  else if n < 0x59 then g.translationReg n
  else if n = 0x60 then g.tdest
  else if n = 0x61 then g.collwd
  else if n < 0x80 then sget 0 g.adverts (n - 0x70)
  else if n = 0x80 then g.dsel
  else if n < 0x8B then BitVec.ofNat 64 (nth 0 g.scLatch (n - 0x81))
  else if n < 0x98 then BitVec.ofNat 64 (sget 0 c.counters (n - 0x90))
  else if n < 0xA0 then BitVec.ofNat 64 (sget 0 c.selects (n - 0x98))
  else if n < 0xA3 then BitVec.ofNat 64 (nth 0 g.clkLatch (n - 0xA0))
  else if n = 0xB0 then c.sampling
  else if n = 0xB1 then g.recBase
  else if n = 0xB2 then g.recSize
  else if n = 0xB3 then BitVec.ofNat 64 (g.recIndex.toNat % g.recSize.toNat)
  else BitVec.ofNat 64 (s.ctx (coreOf r ((n - 0x100) / 4)) (n % 4)).flags

/-- `mvfs` (R135). -/
def execMvfs (a n : Nat) (s : State) : Host.Outcome State Fault Refusal :=
  command s (fun s => do
    readCheck s s.turn n
    if 0x100 ≤ n then flagOperand s s.turn n else .ok ()
    .ok (s.setX s.turn a (stateReg s s.turn n)))

/-! ## Writing a state register -/

/-- The bits of tcause that hold a field (Tables 6.6 and 21.10): the others read as zero (R5). -/
def tcauseMask : Nat := 0xFFFFFFFF801FFFFF

/-- A write of a register of the handler or of the trap (Table 6.7); none where the value is refused. -/
def Region.writeTrapReg (g : Region) (n v : Nat) : Option Region :=
  let w := BitVec.ofNat 64 v
  if n = 0x01 then (if v % 4 = 0 then some { g with tvec := w } else none)
  else if n = 0x02 then some { g with tpc := w }
  else if n = 0x03 then some { g with tcause := BitVec.ofNat 64 (v &&& tcauseMask) }
  else if n = 0x04 then some { g with tinfo := w }
  else if n = 0x05 then some { g with tinfoH := w }
  else if n = 0x10 then some { g with saved := sput g.saved 0 (BitVec.ofNat 64 (v % 8)) }
  else if n < 0x19 then some { g with saved := sput g.saved (n - 0x10) w }
  else some { g with scratch := sput g.scratch (n - 0x20) w }

/-- A write of hsel, tdest, collwd, an advert or a record register; none where the value is refused. -/
def Region.writeReg (g : Region) (n v : Nat) : Option Region :=
  let w := BitVec.ofNat 64 v
  if n = 0x40 then
    (if bits v 63 32 = 0 ∧ bits v 30 28 = 0 ∧ bits v 13 7 = 0 ∧ bits v 1 0 = 0 then some { g with hsel := w } else none)
  else if n = 0x60 then (if v < 128 then some { g with tdest := w } else none)
  else if n = 0x61 then some { g with collwd := BitVec.ofNat 64 (v % 2 ^ 48) }
  else if n < 0x80 then
    (if bits v 63 32 = 0 ∧ bits v 14 0 = 0 then some { g with adverts := sput g.adverts (n - 0x70) w } else none)
  else if n = 0xB1 then (if bits v 63 45 = 0 ∧ bits v 4 0 = 0 then some { g with recBase := w } else none)
  else if v < 2 ^ 32 then some { g with recSize := w } else none

/-- A write of an event counter, from the next beat, of an event select or the sampling control of a core (R353, R355); none where
the value is refused. -/
def Core.writeReg (c : Core) (n v : Nat) : Option Core :=
  if n < 0x98 then (if v < 2 ^ 48 then some { c with countersNew := sput c.countersNew (n - 0x90) v } else none)
  else if n < 0xA0 then
    (if bits v 63 12 = 0 ∧ bits v 7 0 ≤ 21 then some { c with selects := sput c.selects (n - 0x98) v } else none)
  else if bits v 63 32 = 0 ∧ bits v 30 21 = 0 ∧ bits v 11 0 = 0 ∧ 8 ≤ bits v 20 16 ∧ bits v 20 16 ≤ 20 then
    some { c with sampling := BitVec.ofNat 64 v }
  else none

/-- The state after register `n` of region `r`, one with no row of its own, takes a value. -/
def writeStateReg (s : State) (r n v : Nat) : Res State :=
  let g := s.region r
  if (0x90 ≤ n && n < 0xA0) || n == 0xB0 then
    match (s.core (dselCore g r)).writeReg n v with
    | some c => .ok (s.setCore (dselCore g r) c)
    | none => fail .illegal
  else match (if n < 0x22 then g.writeTrapReg n v else g.writeReg n v) with
    | some g => .ok (s.setRegion r g)
    | none => fail .illegal

/-- `mvts` of a register that has no row of its own (R135). -/
def execMvts (b n : Nat) (s : State) : Host.Outcome State Fault Refusal :=
  command s (fun s => do
    writeCheck s s.turn n
    writeStateReg s s.turn n (s.getX s.turn b).toNat)

/-- A write of a context's flag word (R80, R82): bits [15:0]; the others are reserved (R80). -/
def execFlagWordWrite (b n : Nat) (s : State) : Host.Outcome State Fault Refusal :=
  command s (fun s => do
    let r := s.turn
    flagOperand s r n
    .ok (s.modCtx (coreOf r ((n - 0x100) / 4)) (n % 4) (fun k => k.writeFlags (bits (s.getX r b).toNat 15 0))))

/-- A write of dsel; bit [8] clears the scorecard of the context it names, from the next beat (R350, R359). -/
def execDselScorecardClear (b : Nat) (s : State) : Host.Outcome State Fault Refusal :=
  command s (fun s => do
    let r := s.turn
    let v := (s.getX r b).toNat
    need (bits v 63 9 == 0 && bits v 7 6 == 0) .illegal
    let g := { s.region r with dsel := BitVec.ofNat 64 (bits v 5 0) }
    let s1 := s.setRegion r g
    let c := s1.core (dselCore g r)
    .ok (if bit v 8 then s1.setCore (dselCore g r) { c with scoreClears := dselCtx g :: c.scoreClears } else s1))

/-- A read of 0x081 latches the ten counts of the scorecard (R352). -/
def execScorecardLatch (a : Nat) (s : State) : Host.Outcome State Fault Refusal :=
  command s (fun s =>
    let r := s.turn
    let g := s.region r
    let k := s.ctx (dselCore g r) (dselCtx g)
    let l := (range 0 10).map (fun i => nth 0 k.score i)
    .ok ((s.setRegion r { g with scLatch := l }).setX r a (BitVec.ofNat 64 (nth 0 l 0))))

/-- The layer clock counters of a stack have moved on by a number of cycles that the model leaves free (log 6). -/
def State.clocksOn (s : State) (stack : Nat) : State :=
  let old := sget [0, 0, 0] s.clocks stack
  let (a, s1) := s.takeFree
  let (b, s2) := s1.takeFree
  let (c, s3) := s2.takeFree
  let step (i d : Nat) : Nat := (nth 0 old i + d) % 2 ^ 64
  { s3 with clocks := sput s3.clocks stack [step 0 a, step 1 b, step 2 c] }

/-- A read of 0x0A0 latches the three layer clock counters of the stack (R354). -/
def execLayerClockLatch (a : Nat) (s : State) : Host.Outcome State Fault Refusal :=
  command s (fun s =>
    let r := s.turn
    let s1 := s.clocksOn (r / 64)
    let l := sget [0, 0, 0] s1.clocks (r / 64)
    .ok ((s1.setRegion r { s1.region r with clkLatch := l }).setX r a (BitVec.ofNat 64 (nth 0 l 0))))

/-- A write of rtab, ptroot or otab (R268): privileged; the model caches no translation. -/
def execTranslationRegisterWrite (b n : Nat) (s : State) : Host.Outcome State Fault Refusal :=
  command s (fun s => do
    let r := s.turn
    needPrivileged s r
    let v := (s.getX r b).toNat
    need (translationValueOk (translationAlign n) v) .illegal
    .ok (s.setRegion r ((s.region r).setTranslationReg n (BitVec.ofNat 64 v))))

end Sys2Proof.Machine
end

