-- ==== Sys2Proof/Machine/Dispatch.lean ====
section
/-! DEFINITION. One arm per instruction: each calls its meaning. -/
namespace Sys2Proof.Machine

def exec (i : Instr) (s : State) : Host.Outcome State Fault Refusal :=
  match i with
  | .add d a b => Sys2Proof.Machine.execAdd d a b s
  | .sub d a b => Sys2Proof.Machine.execSub d a b s
  | .and d a b => Sys2Proof.Machine.execAnd d a b s
  | .or d a b => Sys2Proof.Machine.execOr d a b s
  | .xor d a b => Sys2Proof.Machine.execXor d a b s
  | .sll d a b => Sys2Proof.Machine.execSll d a b s
  | .srl d a b => Sys2Proof.Machine.execSrl d a b s
  | .sra d a b => Sys2Proof.Machine.execSra d a b s
  | .mul d a b => Sys2Proof.Machine.execMul d a b s
  | .mulh d a b => Sys2Proof.Machine.execMulh d a b s
  | .mulhn d a b => Sys2Proof.Machine.execMulhn d a b s
  | .min d a b => Sys2Proof.Machine.execMin d a b s
  | .max d a b => Sys2Proof.Machine.execMax d a b s
  | .minn d a b => Sys2Proof.Machine.execMinn d a b s
  | .maxn d a b => Sys2Proof.Machine.execMaxn d a b s
  | .slt d a b => Sys2Proof.Machine.execSlt d a b s
  | .sltn d a b => Sys2Proof.Machine.execSltn d a b s
  | .clz d a => Sys2Proof.Machine.execClz d a s
  | .popc d a => Sys2Proof.Machine.execPopc d a s
  | .addi d a imm => Sys2Proof.Machine.execAddi d a imm s
  | .andi d a imm => Sys2Proof.Machine.execAndi d a imm s
  | .ori d a imm => Sys2Proof.Machine.execOri d a imm s
  | .xori d a imm => Sys2Proof.Machine.execXori d a imm s
  | .slli d a n => Sys2Proof.Machine.execSlli d a n s
  | .srli d a n => Sys2Proof.Machine.execSrli d a n s
  | .srai d a n => Sys2Proof.Machine.execSrai d a n s
  | .lui d imm => Sys2Proof.Machine.execLui d imm s
  | .ldB d a imm => Sys2Proof.Machine.execLdB d a imm s
  | .ldH d a imm => Sys2Proof.Machine.execLdH d a imm s
  | .ldW d a imm => Sys2Proof.Machine.execLdW d a imm s
  | .ldD d a imm => Sys2Proof.Machine.execLdD d a imm s
  | .ldnB d a imm => Sys2Proof.Machine.execLdnB d a imm s
  | .ldnH d a imm => Sys2Proof.Machine.execLdnH d a imm s
  | .ldnW d a imm => Sys2Proof.Machine.execLdnW d a imm s
  | .stB x a imm => Sys2Proof.Machine.execStB x a imm s
  | .stH x a imm => Sys2Proof.Machine.execStH x a imm s
  | .stW x a imm => Sys2Proof.Machine.execStW x a imm s
  | .stD x a imm => Sys2Proof.Machine.execStD x a imm s
  | .amoSwap d a b w sc => Sys2Proof.Machine.execAmoSwap d a b w sc s
  | .amoAdd d a b w sc => Sys2Proof.Machine.execAmoAdd d a b w sc s
  | .amoAnd d a b w sc => Sys2Proof.Machine.execAmoAnd d a b w sc s
  | .amoOr d a b w sc => Sys2Proof.Machine.execAmoOr d a b w sc s
  | .amoXor d a b w sc => Sys2Proof.Machine.execAmoXor d a b w sc s
  | .amoMax d a b w sc => Sys2Proof.Machine.execAmoMax d a b w sc s
  | .amoMin d a b w sc => Sys2Proof.Machine.execAmoMin d a b w sc s
  | .amoMaxn d a b w sc => Sys2Proof.Machine.execAmoMaxn d a b w sc s
  | .amoMinn d a b w sc => Sys2Proof.Machine.execAmoMinn d a b w sc s
  | .amoCas d a b w sc => Sys2Proof.Machine.execAmoCas d a b w sc s
  | .fence sc => Sys2Proof.Machine.execFence sc s
  | .beq a b o => Sys2Proof.Machine.execBeq a b o s
  | .bne a b o => Sys2Proof.Machine.execBne a b o s
  | .blt a b o => Sys2Proof.Machine.execBlt a b o s
  | .bge a b o => Sys2Proof.Machine.execBge a b o s
  | .bltn a b o => Sys2Proof.Machine.execBltn a b o s
  | .bgen a b o => Sys2Proof.Machine.execBgen a b o s
  | .jal o => Sys2Proof.Machine.execJal o s
  | .jalr d a imm => Sys2Proof.Machine.execJalr d a imm s
  | .loop l c n => Sys2Proof.Machine.execLoop l c n s
  | .lbrk l => Sys2Proof.Machine.execLbrk l s
  | .lcnt d l => Sys2Proof.Machine.execLcnt d l s
  | .storeBufferDrain r => Sys2Proof.Machine.execStoreBufferDrain r s
  | .tsend a b p => Sys2Proof.Machine.execTsend a b p s
  | .trecv a b => Sys2Proof.Machine.execTrecv a b s
  | .fopen a b core depth ctx => Sys2Proof.Machine.execFopen a b core depth ctx s
  | .fwait a core => Sys2Proof.Machine.execFwait a core s
  | .apset b ap => Sys2Proof.Machine.execApset b ap s
  | .apmod b f ap => Sys2Proof.Machine.execApmod b f ap s
  | .sbind a b port ctx ap => Sys2Proof.Machine.execSbind a b port ctx ap s
  | .sbar a b w => Sys2Proof.Machine.execSbar a b w s
  | .sstat a core => Sys2Proof.Machine.execSstat a core s
  | .bload a b ctx => Sys2Proof.Machine.execBload a b ctx s
  | .bdrop a ctx => Sys2Proof.Machine.execBdrop a ctx s
  | .lwait => Sys2Proof.Machine.execLwait s
  | .talloc a b core ctx => Sys2Proof.Machine.execTalloc a b core ctx s
  | .trel a core pub ctx => Sys2Proof.Machine.execTrel a core pub ctx s
  | .tstate a b core sel => Sys2Proof.Machine.execTstate a b core sel s
  | .ringinit a core ring ctx => Sys2Proof.Machine.execRinginit a core ring ctx s
  | .ringwait a core ring ctx => Sys2Proof.Machine.execRingwait a core ring ctx s
  | .ringrel core ring ctx => Sys2Proof.Machine.execRingrel core ring ctx s
  | .cp b core ctx => Sys2Proof.Machine.execCp b core ctx s
  | .cpg b core ctx => Sys2Proof.Machine.execCpg b core ctx s
  | .cps b core ctx => Sys2Proof.Machine.execCps b core ctx s
  | .cpsa b core ctx => Sys2Proof.Machine.execCpsa b core ctx s
  | .cpm b core ctx => Sys2Proof.Machine.execCpm b core ctx s
  | .cpbin b core ctx => Sys2Proof.Machine.execCpbin b core ctx s
  | .cpcancel a core retry ctx => Sys2Proof.Machine.execCpcancel a core retry ctx s
  | .cpq b core => Sys2Proof.Machine.execCpq b core s
  | .pcinit a b core ctx => Sys2Proof.Machine.execPcinit a b core ctx s
  | .pcarrive a b core ctx => Sys2Proof.Machine.execPcarrive a b core ctx s
  | .pcexpect a b core ctx => Sys2Proof.Machine.execPcexpect a b core ctx s
  | .pcwait a b core ctx => Sys2Proof.Machine.execPcwait a b core ctx s
  | .coll b => Sys2Proof.Machine.execColl b s
  | .collwait a => Sys2Proof.Machine.execCollwait a s
  | .cxprio a prio ctx => Sys2Proof.Machine.execCxprio a prio ctx s
  | .cxpark a ctx => Sys2Proof.Machine.execCxpark a ctx s
  | .cxresume a ctx => Sys2Proof.Machine.execCxresume a ctx s
  | .cxsave a b core ctx => Sys2Proof.Machine.execCxsave a b core ctx s
  | .cxrest b core ctx => Sys2Proof.Machine.execCxrest b core ctx s
  | .dvmap b core e => Sys2Proof.Machine.execDvmap b core e s
  | .dvclr core e => Sys2Proof.Machine.execDvclr core e s
  | .renter a b own ctx => Sys2Proof.Machine.execRenter a b own ctx s
  | .rleave a own ctx => Sys2Proof.Machine.execRleave a own ctx s
  | .smark b => Sys2Proof.Machine.execSmark b s
  | .bkpt b core ctx => Sys2Proof.Machine.execBkpt b core ctx s
  | .trap k => Sys2Proof.Machine.execTrap k s
  | .tret => Sys2Proof.Machine.execTret s
  | .mvfs a n => Sys2Proof.Machine.execMvfs a n s
  | .mvts b n => Sys2Proof.Machine.execMvts b n s
  | .wfe => Sys2Proof.Machine.execWfe s
  | .eventsClear b => Sys2Proof.Machine.execEventsClear b s
  | .flagWordWrite b n => Sys2Proof.Machine.execFlagWordWrite b n s
  | .dselScorecardClear b => Sys2Proof.Machine.execDselScorecardClear b s
  | .scorecardLatch a => Sys2Proof.Machine.execScorecardLatch a s
  | .layerClockLatch a => Sys2Proof.Machine.execLayerClockLatch a s
  | .translationRegisterWrite b n => Sys2Proof.Machine.execTranslationRegisterWrite b n s
  | .deviceRegisterWrite off v => Sys2Proof.Machine.execDeviceRegisterWrite off v s
  | .fAdd w => Sys2Proof.Machine.execFAdd w s
  | .fSub w => Sys2Proof.Machine.execFSub w s
  | .fNeg w => Sys2Proof.Machine.execFNeg w s
  | .fAbs w => Sys2Proof.Machine.execFAbs w s
  | .fAbsdiff w => Sys2Proof.Machine.execFAbsdiff w s
  | .fAddc w => Sys2Proof.Machine.execFAddc w s
  | .fMul w => Sys2Proof.Machine.execFMul w s
  | .fFma w => Sys2Proof.Machine.execFFma w s
  | .fFms w => Sys2Proof.Machine.execFFms w s
  | .fFnma w => Sys2Proof.Machine.execFFnma w s
  | .fMulhi w => Sys2Proof.Machine.execFMulhi w s
  | .fMulsc w => Sys2Proof.Machine.execFMulsc w s
  | .fCmpEq w => Sys2Proof.Machine.execFCmpEq w s
  | .fCmpNe w => Sys2Proof.Machine.execFCmpNe w s
  | .fCmpLt w => Sys2Proof.Machine.execFCmpLt w s
  | .fCmpLe w => Sys2Proof.Machine.execFCmpLe w s
  | .fCmpGt w => Sys2Proof.Machine.execFCmpGt w s
  | .fCmpGe w => Sys2Proof.Machine.execFCmpGe w s
  | .fCmpMin w => Sys2Proof.Machine.execFCmpMin w s
  | .fCmpMax w => Sys2Proof.Machine.execFCmpMax w s
  | .fSign w => Sys2Proof.Machine.execFSign w s
  | .fThr w => Sys2Proof.Machine.execFThr w s
  | .fClamp w => Sys2Proof.Machine.execFClamp w s
  | .fAnd w => Sys2Proof.Machine.execFAnd w s
  | .fOr w => Sys2Proof.Machine.execFOr w s
  | .fXor w => Sys2Proof.Machine.execFXor w s
  | .fNot w => Sys2Proof.Machine.execFNot w s
  | .fShl w => Sys2Proof.Machine.execFShl w s
  | .fShr w => Sys2Proof.Machine.execFShr w s
  | .fSra w => Sys2Proof.Machine.execFSra w s
  | .fPopc w => Sys2Proof.Machine.execFPopc w s
  | .fClz w => Sys2Proof.Machine.execFClz w s
  | .fBsel w => Sys2Proof.Machine.execFBsel w s
  | .fCvt w => Sys2Proof.Machine.execFCvt w s
  | .fRnd w => Sys2Proof.Machine.execFRnd w s
  | .fResolve w => Sys2Proof.Machine.execFResolve w s
  | .fQblk w => Sys2Proof.Machine.execFQblk w s
  | .fDqblk w => Sys2Proof.Machine.execFDqblk w s
  | .fSat w => Sys2Proof.Machine.execFSat w s
  | .fExp2 w => Sys2Proof.Machine.execFExp2 w s
  | .fLog2 w => Sys2Proof.Machine.execFLog2 w s
  | .fRcp w => Sys2Proof.Machine.execFRcp w s
  | .fRsqrt w => Sys2Proof.Machine.execFRsqrt w s
  | .fSqrt w => Sys2Proof.Machine.execFSqrt w s
  | .fDiv w => Sys2Proof.Machine.execFDiv w s
  | .fSigm w => Sys2Proof.Machine.execFSigm w s
  | .fTanh w => Sys2Proof.Machine.execFTanh w s
  | .fSel w => Sys2Proof.Machine.execFSel w s
  | .fRoute w => Sys2Proof.Machine.execFRoute w s
  | .fMerge w => Sys2Proof.Machine.execFMerge w s
  | .fFan w => Sys2Proof.Machine.execFFan w s
  | .fFilt w => Sys2Proof.Machine.execFFilt w s
  | .fGate w => Sys2Proof.Machine.execFGate w s
  | .fRedSum w => Sys2Proof.Machine.execFRedSum w s
  | .fRedMax w => Sys2Proof.Machine.execFRedMax w s
  | .fRedMin w => Sys2Proof.Machine.execFRedMin w s
  | .fScan w => Sys2Proof.Machine.execFScan w s
  | .fRecur w => Sys2Proof.Machine.execFRecur w s
  | .fKeyred w => Sys2Proof.Machine.execFKeyred w s
  | .fLd w => Sys2Proof.Machine.execFLd w s
  | .fLdt w => Sys2Proof.Machine.execFLdt w s
  | .fLdring w => Sys2Proof.Machine.execFLdring w s
  | .fLdg w => Sys2Proof.Machine.execFLdg w s
  | .fLdver w => Sys2Proof.Machine.execFLdver w s
  | .fSt w => Sys2Proof.Machine.execFSt w s
  | .fSta w => Sys2Proof.Machine.execFSta w s
  | .fStadd w => Sys2Proof.Machine.execFStadd w s
  | .fStmax w => Sys2Proof.Machine.execFStmax w s
  | .fStbin w => Sys2Proof.Machine.execFStbin w s
  | .fPush w => Sys2Proof.Machine.execFPush w s
  | .fPop w => Sys2Proof.Machine.execFPop w s
  | .fInc w => Sys2Proof.Machine.execFInc w s
  | .fEos w => Sys2Proof.Machine.execFEos w s
  | .fChk w => Sys2Proof.Machine.execFChk w s
  | .fCnt w => Sys2Proof.Machine.execFCnt w s
  | .fSeq w => Sys2Proof.Machine.execFSeq w s
  | .fMark w => Sys2Proof.Machine.execFMark w s
  | .fBget w => Sys2Proof.Machine.execFBget w s
  | .fAlloc w => Sys2Proof.Machine.execFAlloc w s
  | .fRelease w => Sys2Proof.Machine.execFRelease w s
  | .fHandoff w => Sys2Proof.Machine.execFHandoff w s
  | .mMma o => Sys2Proof.Machine.execMMma o s
  | .mMmaSp o => Sys2Proof.Machine.execMMmaSp o s
  | .mMmac o => Sys2Proof.Machine.execMMmac o s
  | .mAccClr o => Sys2Proof.Machine.execMAccClr o s
  | .mAccRd o => Sys2Proof.Machine.execMAccRd o s
  | .mAccRdFabric o => Sys2Proof.Machine.execMAccRdFabric o s
  | .mAccRdq o => Sys2Proof.Machine.execMAccRdq o s
  | .mAccLd o => Sys2Proof.Machine.execMAccLd o s
  | .mMscLd o => Sys2Proof.Machine.execMMscLd o s
  | .orderCompletion core bank => Sys2Proof.Machine.execOrderCompletion core bank s
  | .launchStart r => Sys2Proof.Machine.execLaunchStart r s
  | .launchEnd r => Sys2Proof.Machine.execLaunchEnd r s
  | .tokenDelivery dst k => Sys2Proof.Machine.execTokenDelivery dst k s
  | .fire core ctx tag => Sys2Proof.Machine.execFire core ctx tag s
  | .beatSelect core => Sys2Proof.Machine.execBeatSelect core s
  | .fallbackReturn core ctx => Sys2Proof.Machine.execFallbackReturn core ctx s
  | .contextAged core ctx => Sys2Proof.Machine.execContextAged core ctx s
  | .lateOperandArrival core ctx => Sys2Proof.Machine.execLateOperandArrival core ctx s
  | .instanceCommit core ctx => Sys2Proof.Machine.execInstanceCommit core ctx s
  | .frameRetire core frame => Sys2Proof.Machine.execFrameRetire core frame s
  | .takeTrap r => Sys2Proof.Machine.execTakeTrap r s
  | .waitingCommandResume r => Sys2Proof.Machine.execWaitingCommandResume r s
  | .streamStart core port => Sys2Proof.Machine.execStreamStart core port s
  | .streamAccess core port => Sys2Proof.Machine.execStreamAccess core port s
  | .allocDeadlock core => Sys2Proof.Machine.execAllocDeadlock core s
  | .spillBankMove core e => Sys2Proof.Machine.execSpillBankMove core e s
  | .registerBankSwap core frame => Sys2Proof.Machine.execRegisterBankSwap core frame s
  | .bankHandover core ctx => Sys2Proof.Machine.execBankHandover core ctx s
  | .framePark core frame => Sys2Proof.Machine.execFramePark core frame s
  | .faultRecordDelivery r => Sys2Proof.Machine.execFaultRecordDelivery r s
  | .faultMessage r => Sys2Proof.Machine.execFaultMessage r s
  | .verdict core => Sys2Proof.Machine.execVerdict core s
  | .resumedReentry core ctx => Sys2Proof.Machine.execResumedReentry core ctx s
  | .preciseStop core ctx => Sys2Proof.Machine.execPreciseStop core ctx s
  | .copyStart core cls => Sys2Proof.Machine.execCopyStart core cls s
  | .copyRound core => Sys2Proof.Machine.execCopyRound core s
  | .chunkPerformed core n => Sys2Proof.Machine.execChunkPerformed core n s
  | .copyReply core cls n marked => Sys2Proof.Machine.execCopyReply core cls n marked s
  | .memoryRequest core n => Sys2Proof.Machine.execMemoryRequest core n s
  | .phaseCompletion key => Sys2Proof.Machine.execPhaseCompletion key s
  | .arbitrationRound port => Sys2Proof.Machine.execArbitrationRound port s
  | .promotion port vc => Sys2Proof.Machine.execPromotion port vc s
  | .flitReplay link => Sys2Proof.Machine.execFlitReplay link s
  | .linkRetrainFailure link => Sys2Proof.Machine.execLinkRetrainFailure link s
  | .collectiveComplete r cid => Sys2Proof.Machine.execCollectiveComplete r cid s
  | .collTimeout r cid => Sys2Proof.Machine.execCollTimeout r cid s
  | .debugHold => Sys2Proof.Machine.execDebugHold s
  | .savePieceWrite core => Sys2Proof.Machine.execSavePieceWrite core s
  | .saveSeal core => Sys2Proof.Machine.execSaveSeal core s
  | .restoreMerge core => Sys2Proof.Machine.execRestoreMerge core s
  | .coldReset => Sys2Proof.Machine.execColdReset s
  | .warmReset => Sys2Proof.Machine.execWarmReset s
  | .recoveryManifest m => Sys2Proof.Machine.execRecoveryManifest m s
  | .attestationReport nonce => Sys2Proof.Machine.execAttestationReport nonce s
  | .laneRepair vault lane spare => Sys2Proof.Machine.execLaneRepair vault lane spare s
  | .dvfsMove layer mv => Sys2Proof.Machine.execDvfsMove layer mv s
  | .thermalThrottle layer temp => Sys2Proof.Machine.execThermalThrottle layer temp s
  | .thermalTrip layer temp => Sys2Proof.Machine.execThermalTrip layer temp s
  | .endpointDma wr addr data => Sys2Proof.Machine.execEndpointDma wr addr data s
  | .applicationCoreAccess wr addr data => Sys2Proof.Machine.execApplicationCoreAccess wr addr data s
  | .applicationCoreTokenSend h data => Sys2Proof.Machine.execApplicationCoreTokenSend h data s
  | .packageLinkRetrain link => Sys2Proof.Machine.execPackageLinkRetrain link s
  | .debugHoldRelease => Sys2Proof.Machine.execDebugHoldRelease s

end Sys2Proof.Machine
end

