-- ==== Sys2Proof/Machine/Step.lean ====
section
/-! DEFINITION. One step: the next happening of the agenda, or, where it is empty, a word of the control core whose turn
it is. -/
namespace Sys2Proof.Machine

/-- A control core issues: with no launch, or at its end, nothing happens; an asynchronous cause is taken first (R132);
a fetch whose home is held waits (R281); else the word at pc is fetched, its packet travelling as R305 says, and runs. -/
def issueStep (r : Nat) (s : State) : Host.Outcome State Fault Refusal :=
  let g := s.region r
  if g.launch.isNone || s.die.boot != .running then .next s.tick
  else if s.takes r then .next (s.takeHeld r).tick
  else if fetchHeld s r then .next s.tick
  else match controlInstr s r with
    | .error t => .next ((s.askFetch r).takeTrap r g.pc t).tick
    | .ok i => exec i { s.askFetch r with turn := r }

/-- One step of the machine. -/
def step (s : State) : Host.Outcome State Fault Refusal :=
  match s.agenda with
  | [] => issueStep s.turn s
  | .issue r :: rest => issueStep r { s with agenda := rest }
  | .element c x i :: rest =>
    match elementInstr s c x i with
    | some ins => exec ins { s with agenda := rest, cur := { core := c, ctx := x, idx := i } }
    | none => .fault .nothingToRun
  | .order c b :: rest =>
    match orderInstr s c b with
    | some ins => exec ins { s with agenda := rest, cur := { core := c, ctx := 0, idx := b } }
    | none =>
      if ((s.core c).mx.headOrder b).isSome then .next (refuseUnknown { s with agenda := rest } c b).tick
      else .fault .nothingToRun
  | .event i :: rest =>
    match encodeWord i with
    | none => exec i { s with agenda := rest }
    | some _ => .fault .nothingToRun

/-- The state with a table word placed where `step` takes its next word from. -/
def State.withFetchWord (s : State) (nbits w : Nat) : State :=
  match kindOfBits nbits with
  | .control => s.placeControl (w % 2 ^ 32)
  | .fabric => s.placeFabric (w % 2 ^ 64)
  | .order => s.placeOrder (w % 2 ^ 256)

end Sys2Proof.Machine
end

