-- ==== Sys2Proof/Safety.lean ====
section
/-! DEFINITION. What the claims call a sound state, a safe step, and the parts of a state that a word leaves alone. -/
namespace Sys2Proof.Machine

/-- The invariant of every step: memory keeps its canonical form. -/
def State.Sound (s : State) : Prop := memWf s.mem = true

/-- An outcome that goes on. -/
def Continues (o : Host.Outcome State Fault Refusal) : Prop := ∃ t, o = .next t

/-- The registers that only privileged code may write: the handler's address and the translation registers (R84, R135,
R268). -/
def SamePrivileged (s t : State) : Prop :=
  ∀ r, (t.region r).tvec = (s.region r).tvec ∧ (t.region r).rtab = (s.region r).rtab ∧
    (t.region r).ptroot = (s.region r).ptroot ∧ (t.region r).otab = (s.region r).otab

/-- From `s` to `t` nothing differs but general register `d` of region `r`, its pc and loop stack, what marks a waiting word, and
the tick count: every other register, every core, the network, the package and all of memory are as before. -/
def OnlyRegister (s t : State) (r d : Nat) : Prop :=
  (∀ n, n ≠ d → t.getX r n = s.getX r n) ∧ (∀ k, t.readByte k = s.readByte k) ∧
  ∃ g : Region, t = (s.setRegion r g).tick ∧
    g = { s.region r with x := g.x, pc := g.pc, depth := g.depth, loops := g.loops, waiting := false, heldAt := none,
                          sendSince := none }

/-- What a command finds: every earlier store of its control core has been performed, which gives `d` (R98). -/
def Drained (s d : State) : Prop := s.drains s.turn = true ∧ d = s.drain s.turn

/-- A control core issues the word at its pc: a launch runs, no asynchronous cause is taken first, and what the fetch needs is
not held (R102, R132, R281). -/
def CanIssue (s : State) (r : Nat) : Prop :=
  (s.region r).launch ≠ none ∧ s.die.boot = .running ∧ s.takes r = false ∧ fetchHeld s r = false

/-- A trap of the running word of `s`, taken with nothing else changed but the tick count (R85, R132): in unprivileged
mode with a handler, the handler is entered with pc saved and the cause laid out. -/
def TrapsWith (o : Host.Outcome State Fault Refusal) (s : State) (r : Nat) (t : Trap) : Prop :=
  o = .next (s.takeTrap r (s.region r).pc t).tick

end Sys2Proof.Machine
end

