-- ==== Sys2Proof/Certificates/Slice0/Obligations.lean ====
section
/-! DEFINITION. The statements for the provers. -/

open Sys2Proof Sys2Proof.Machine

/-! ## Steps, decoding, encoding -/

/-- R102, R45: the word that the bytes at pc decode to is the word that runs, its fetch having sent its packet (R305); the same
for an element's word, a matrix bank's order, and an event of the agenda. -/
def WordsRunDecoded : Prop :=
  (∀ (s : State) (ks : List Nat) (i : Instr), s.agenda = [] → CanIssue s s.turn → fetchKeys s s.turn = .ok ks →
    ccPoisoned s s.turn ks = false → decodeWord .control (ofBytes (s.ccRead s.turn ks)) = .ok i →
    step s = exec i { s.askControl s.turn (s.homeAt ks) .load with turn := s.turn }) ∧
  (∀ (s u : State) (r : Nat) (rest : List Happening) (ks : List Nat) (i : Instr), s.agenda = .issue r :: rest →
    u = { s with agenda := rest } → CanIssue u r → fetchKeys u r = .ok ks → ccPoisoned u r ks = false →
    decodeWord .control (ofBytes (u.ccRead r ks)) = .ok i →
    step s = exec i { u.askControl r (u.homeAt ks) .load with turn := r }) ∧
  (∀ (s : State) (c x n : Nat) (rest : List Happening) (b : Block) (w : Nat) (i : Instr),
    s.agenda = .element c x n :: rest → (s.ctx c x).block = some b → b.words[n]? = some w →
    decodeWord .fabric w = .ok i → step s = exec i { s with agenda := rest, cur := { core := c, ctx := x, idx := n } }) ∧
  (∀ (s : State) (c bank : Nat) (rest : List Happening) (q : QOrder) (i : Instr),
    s.agenda = .order c bank :: rest → (s.core c).mx.headOrder bank = some q → decodeWord .order q.word = .ok i →
    step s = exec i { s with agenda := rest, cur := { core := c, ctx := 0, idx := bank } }) ∧
  (∀ (s : State) (i : Instr) (rest : List Happening), s.agenda = .event i :: rest → encodeWord i = none →
    step s = exec i { s with agenda := rest })

/-- A fetch that faults and a word that does not decode raise their trap with pc at the word (R45, R102); an asynchronous
cause is taken before the next word issues (R132); a fetch whose tables or home are held waits (R281). -/
def FetchFaultsTrapAtPc : Prop :=
  (∀ (s : State) (f : FaultCode) (p : Bool), s.agenda = [] → CanIssue s s.turn → fetchKeys s s.turn = .error (f, p) →
    step s = .next (s.takeTrap s.turn (s.region s.turn).pc (Trap.access f (s.region s.turn).pc.toNat p)).tick) ∧
  (∀ (s : State) (ks : List Nat) (e : DecodeError), s.agenda = [] → CanIssue s s.turn → fetchKeys s s.turn = .ok ks →
    ccPoisoned s s.turn ks = false → decodeWord .control (ofBytes (s.ccRead s.turn ks)) = .error e →
    step s = .next ((s.askControl s.turn (s.homeAt ks) .load).takeTrap s.turn (s.region s.turn).pc (Trap.word .illegal)).tick) ∧
  (∀ (s : State), (s.region s.turn).pc.toNat / 2 ^ 60 ≠ 2 → (s.region s.turn).pc.toNat / 2 ^ 60 ≠ 8 →
    fetchKeys s s.turn = .error (.protection, false)) ∧
  (∀ (s : State), s.agenda = [] → (s.region s.turn).launch ≠ none → s.die.boot = .running → s.takes s.turn = true →
    step s = .next (s.takeHeld s.turn).tick) ∧
  (∀ (s : State), s.agenda = [] → (s.region s.turn).launch ≠ none → s.die.boot = .running → s.takes s.turn = false →
    fetchHeld s s.turn = true → step s = .next s.tick)

/-- A step runs the decoded instruction (R45, R102), and where there is none it takes the trap the spec names. -/
def Obligations.StepRunsDecodedInstruction : Prop := WordsRunDecoded ∧ FetchFaultsTrapAtPc

/-- Words that the spec writes out beside their source (Tables 5.9 and others) decode to the instructions they stand
for. -/
def Obligations.DecodesWordsOfTheSpec : Prop :=
  decodeTableWord 32 0x20A5003F = some (.srai 5 5 63) ∧ decodeTableWord 32 0x25008000 = some (.lui 8 0x8000) ∧
  decodeTableWord 32 0x3C62FFFE = some (.ldnH 3 2 0xFFFE) ∧ decodeTableWord 32 0x4CCA0000 = some (.stW 6 10 0) ∧
  decodeTableWord 32 0x0508380C = some (.max 8 8 7) ∧ decodeTableWord 32 0x54A734A0 = some (.amoCas 5 7 6 0 4) ∧
  decodeTableWord 32 0x6C89FFFB = some (.bltn 4 9 0xFFFB) ∧ decodeTableWord 32 0x74000028 = some (.jal 40) ∧
  decodeTableWord 32 0x7C480800 = some (.loop 0 9 4) ∧ decodeTableWord 32 0x81000000 = some (.lbrk 1) ∧
  decodeTableWord 32 0x58000004 = some (.fence 4) ∧ decodeTableWord 32 0x90000200 = some .lwait ∧
  decodeTableWord 32 0xA4800019 = some (.cxprio 4 6 1)

/-- Decoding what the encoder writes gives the instruction back, with every operand at every value its field holds: as a
word, and as bytes with more bytes behind them. -/
def Obligations.DecodeOfEncodeIsIdentity : Prop :=
  ∀ (i : Instr), i.wf = true →
    (∀ (k : WordKind) (w : Nat), encodeWord i = some (k, w) → w < 2 ^ (8 * k.bytes) ∧ decodeWord k w = .ok i) ∧
    (∀ (k : WordKind) (bs rest : List Nat), encode i = some (k, bs) → decode k (bs ++ rest) = .ok (i, rest))

/-! ## Invariants and reset -/

/-- Every step keeps the memory's canonical form: keys rise strictly and no entry equals what an unlisted byte reads as. -/
def Obligations.StepKeepsMemoryCanonical : Prop :=
  ∀ (s t : State), s.Sound → step s = .next t → t.Sound

/-- The state after reset has a memory in canonical form. -/
def ResetMemoryHolds : Prop := State.reset.Sound

/-- No instruction and no happening of the spec stops the machine: each answers a next state, in every state. -/
def Obligations.EveryInstructionContinues : Prop := ∀ (i : Instr) (s : State), Continues (exec i s)

/-- R84, R135, R268: a control-core word that runs in unprivileged mode leaves the handler address and the translation
registers of every region as they are. -/
def Obligations.UnprivilegedWordsKeepPrivilegedRegisters : Prop :=
  ∀ (i : Instr) (w : Nat) (s t : State), encodeWord i = some (.control, w) →
    (s.region s.turn).mode = .unprivileged → exec i s = .next t → SamePrivileged s t

/-- What reset leaves by R364: no launch runs, every control core's mailbox and every queue is empty, scratchpads read zero,
no word is poisoned and no counter is marked. -/
def ResetFields : Prop :=
  (∀ r, (State.reset.region r).launch = none ∧ (State.reset.region r).launches = [] ∧ (State.reset.region r).msgs = [] ∧
    (State.reset.region r).mode = .unprivileged ∧ (State.reset.region r).tvec = 0 ∧ (State.reset.region r).depth = 0 ∧
    (∀ n, State.reset.getX r n = 0)) ∧
  (∀ c, (State.reset.core c).frames = [] ∧ (State.reset.core c).tiles = [] ∧ (State.reset.core c).store = [] ∧
    (∀ x, (State.reset.ctx c x).block = none ∧ (State.reset.ctx c x).flags = 0) ∧
    (∀ off, State.reset.readByte (spadKey c off) = 0)) ∧
  State.reset.poison = [] ∧ State.reset.marks = [] ∧ State.reset.ticks = 0

/-- The state after reset: its memory is in canonical form, and R364's clearing. -/
def Obligations.ResetState : Prop := ResetMemoryHolds ∧ ResetFields

/-! ## General registers and integer words -/

/-- R83: x0 reads as zero, and a write to it is discarded; a write to another register is read back and leaves the others. -/
def Obligations.GeneralRegisters : Prop :=
  ∀ (s : State) (r : Nat) (v : Word), s.getX r 0 = 0 ∧ (∀ q, (s.setX r 0 v).region q = s.region q) ∧
    (∀ n, n ≠ 0 → (s.setX r n v).getX r n = v) ∧
    (∀ n m, m ≠ n → (s.setX r n v).getX r m = s.getX r m) ∧
    (∀ q n m, q ≠ r → (s.setX r n v).getX q m = s.getX q m)

/-- Table 5.1 (R86): the register forms of major 0x01. -/
def RegisterForms : Prop :=
  ∀ (s : State) (d a b : Nat) (x y : Word), s.getX s.turn a = x → s.getX s.turn b = y →
    exec (.add d a b) s = .next ((s.setX s.turn d (x + y)).complete s.turn) ∧
    exec (.sub d a b) s = .next ((s.setX s.turn d (x - y)).complete s.turn) ∧
    exec (.and d a b) s = .next ((s.setX s.turn d (x &&& y)).complete s.turn) ∧
    exec (.or d a b) s = .next ((s.setX s.turn d (x ||| y)).complete s.turn) ∧
    exec (.xor d a b) s = .next ((s.setX s.turn d (x ^^^ y)).complete s.turn) ∧
    exec (.sll d a b) s = .next ((s.setX s.turn d (x <<< (y.extractLsb' 0 6))).complete s.turn) ∧
    exec (.srl d a b) s = .next ((s.setX s.turn d (x >>> (y.extractLsb' 0 6))).complete s.turn) ∧
    exec (.sra d a b) s = .next ((s.setX s.turn d (x.sshiftRight' (y.extractLsb' 0 6))).complete s.turn) ∧
    exec (.mul d a b) s = .next ((s.setX s.turn d (x * y)).complete s.turn) ∧
    exec (.mulh d a b) s =
      .next ((s.setX s.turn d ((x.signExtend 128 * y.signExtend 128).extractLsb' 64 64)).complete s.turn) ∧
    exec (.mulhn d a b) s =
      .next ((s.setX s.turn d ((x.setWidth 128 * y.setWidth 128).extractLsb' 64 64)).complete s.turn) ∧
    exec (.min d a b) s = .next ((s.setX s.turn d (if y.slt x then y else x)).complete s.turn) ∧
    exec (.max d a b) s = .next ((s.setX s.turn d (if x.slt y then y else x)).complete s.turn) ∧
    exec (.minn d a b) s = .next ((s.setX s.turn d (if y.ult x then y else x)).complete s.turn) ∧
    exec (.maxn d a b) s = .next ((s.setX s.turn d (if x.ult y then y else x)).complete s.turn) ∧
    exec (.slt d a b) s = .next ((s.setX s.turn d (if x.slt y then 1 else 0)).complete s.turn) ∧
    exec (.sltn d a b) s = .next ((s.setX s.turn d (if x.ult y then 1 else 0)).complete s.turn)

/-- R86: `clz` counts the leading zero bits, 64 for zero; `popc` counts the one bits. -/
def CountWords : Prop :=
  ∀ (s : State) (d a : Nat) (x : Word), s.getX s.turn a = x →
    (∃ n, exec (.clz d a) s = .next ((s.setX s.turn d (BitVec.ofNat 64 n)).complete s.turn) ∧ n ≤ 64 ∧
      x.toNat < 2 ^ (64 - n) ∧ (n < 64 → 2 ^ (63 - n) ≤ x.toNat)) ∧
    exec (.popc d a) s =
      .next ((s.setX s.turn d (BitVec.ofNat 64 ((List.range 64).countP (fun i => x.getLsbD i)))).complete s.turn)

/-- R86: every row of Table 5.1. -/
def Obligations.IntegerRegisterForms : Prop := RegisterForms ∧ CountWords

/-- Table 5.2 (R87): the immediate forms of majors 0x02 to 0x09. -/
def ImmediateForms : Prop :=
  ∀ (s : State) (d a i n : Nat) (x : Word), s.getX s.turn a = x →
    exec (.addi d a i) s = .next ((s.setX s.turn d (x + (BitVec.ofNat 16 i).signExtend 64)).complete s.turn) ∧
    exec (.andi d a i) s = .next ((s.setX s.turn d (x &&& (BitVec.ofNat 16 i).setWidth 64)).complete s.turn) ∧
    exec (.ori d a i) s = .next ((s.setX s.turn d (x ||| (BitVec.ofNat 16 i).setWidth 64)).complete s.turn) ∧
    exec (.xori d a i) s = .next ((s.setX s.turn d (x ^^^ (BitVec.ofNat 16 i).setWidth 64)).complete s.turn) ∧
    exec (.slli d a n) s = .next ((s.setX s.turn d (x <<< n)).complete s.turn) ∧
    exec (.srli d a n) s = .next ((s.setX s.turn d (x >>> n)).complete s.turn) ∧
    exec (.srai d a n) s = .next ((s.setX s.turn d (x.sshiftRight n)).complete s.turn) ∧
    exec (.lui d i) s =
      .next ((s.setX s.turn d ((BitVec.ofNat 16 i ++ (0 : BitVec 16)).signExtend 64)).complete s.turn)

/-- R87, R45: a nonzero imm16 [15:6] in a shift word, or a nonzero xa in `lui`, is no instruction, and issuing it raises
ILLEGAL. -/
def ReservedImmediateBits : Prop :=
  ∀ (s : State) (ks : List Nat) (w : Nat), w < 2 ^ 32 → w = ofBytes (s.ccRead s.turn ks) →
    ((6 ≤ w / 2 ^ 26 ∧ w / 2 ^ 26 ≤ 8 ∧ bits w 15 6 ≠ 0) ∨ (w / 2 ^ 26 = 9 ∧ bits w 20 16 ≠ 0)) → s.agenda = [] →
    CanIssue s s.turn → fetchKeys s s.turn = .ok ks → ccPoisoned s s.turn ks = false →
    step s = .next ((s.askControl s.turn (s.homeAt ks) .load).takeTrap s.turn (s.region s.turn).pc (Trap.word .illegal)).tick

/-- R87: Table 5.2, and the immediate words that raise ILLEGAL. -/
def Obligations.IntegerImmediateForms : Prop := ImmediateForms ∧ ReservedImmediateBits

/-- The frame of the integer words: nothing but xd, pc and the loop stack changes; every register, flag word, special
register and byte of memory else is as before. -/
def IntegerWordsFrame : Prop :=
  ∀ (s t : State) (d a b i : Nat),
    (exec (.add d a b) s = .next t ∨ exec (.sub d a b) s = .next t ∨ exec (.and d a b) s = .next t ∨
      exec (.or d a b) s = .next t ∨ exec (.xor d a b) s = .next t ∨ exec (.sll d a b) s = .next t ∨
      exec (.srl d a b) s = .next t ∨ exec (.sra d a b) s = .next t ∨ exec (.mul d a b) s = .next t ∨
      exec (.mulh d a b) s = .next t ∨ exec (.mulhn d a b) s = .next t ∨ exec (.min d a b) s = .next t ∨
      exec (.max d a b) s = .next t ∨ exec (.minn d a b) s = .next t ∨ exec (.maxn d a b) s = .next t ∨
      exec (.slt d a b) s = .next t ∨ exec (.sltn d a b) s = .next t ∨ exec (.clz d a) s = .next t ∨
      exec (.popc d a) s = .next t ∨ exec (.addi d a i) s = .next t ∨ exec (.andi d a i) s = .next t ∨
      exec (.ori d a i) s = .next t ∨ exec (.xori d a i) s = .next t ∨ exec (.slli d a i) s = .next t ∨
      exec (.srli d a i) s = .next t ∨ exec (.srai d a i) s = .next t ∨ exec (.lui d i) s = .next t) →
    OnlyRegister s t s.turn d


/-! ## Loads, stores, atomics -/

/-- One load of `n` bytes: it reads through the core's own buffered stores, at the old xa; an access to window 0xF first
performs every earlier store (R99), and one with offset [59] set reads a device register. Its request travels in class 0 to the
home of its line (R305). -/
def LoadCompletes (mk : Nat → Nat → Nat → Instr) (n : Nat) (ext : Nat → Word) : Prop :=
  ∀ (s m u : State) (d a i ea : Nat) (ks : List Nat), ea = (s.getX s.turn a + (BitVec.ofNat 16 i).signExtend 64).toNat →
    m = orderDevice s s.turn ea → deviceReady s s.turn ea = true → walkHeld m (.control s.turn) ea n = false →
    resolve m (.control s.turn) ea n .read = .ok ks → vaultHeld m ks = false →
    u = m.askControl s.turn (m.homeAt ks) .load →
    ((ea / 2 ^ 60 = 15 ∧ bit ea 59 = true) → ks = [] ∧
      exec (mk d a i) s = .next ((u.setX s.turn d (ext (deviceRead u (ea % 2 ^ 60) n))).complete s.turn)) ∧
    (¬(ea / 2 ^ 60 = 15 ∧ bit ea 59 = true) → ccPoisoned m s.turn ks = false →
      exec (mk d a i) s = .next ((u.setX s.turn d (ext (ofBytes (m.ccRead s.turn ks)))).complete s.turn))

/-- Table 5.4 (R88, R89): a load whose address passes its checks and whose bytes hold no poison writes xd; `ld` forms
sign-extend, `ldn` forms zero-extend. -/
def Obligations.LoadsWriteTheirRegister : Prop :=
  LoadCompletes .ldB 1 (fun v => (BitVec.ofNat 8 v).signExtend 64) ∧
  LoadCompletes .ldH 2 (fun v => (BitVec.ofNat 16 v).signExtend 64) ∧
  LoadCompletes .ldW 4 (fun v => (BitVec.ofNat 32 v).signExtend 64) ∧
  LoadCompletes .ldD 8 (fun v => BitVec.ofNat 64 v) ∧
  LoadCompletes .ldnB 1 (fun v => BitVec.ofNat 64 v) ∧
  LoadCompletes .ldnH 2 (fun v => BitVec.ofNat 64 v) ∧
  LoadCompletes .ldnW 4 (fun v => BitVec.ofNat 64 v)

/-- The frame of the loads: once an access to window 0xF has performed the earlier stores (`orderDevice`; another access changes
nothing first), nothing but xd, pc and the loop stack changes, and the packet of the access enters the network. -/
def LoadsFrame : Prop :=
  (∀ (s t m : State) (d a i ea n : Nat) (ks : List Nat),
    ea = (s.getX s.turn a + (BitVec.ofNat 16 i).signExtend 64).toNat → m = orderDevice s s.turn ea →
    deviceReady s s.turn ea = true →
    walkHeld m (.control s.turn) ea n = false → resolve m (.control s.turn) ea n .read = .ok ks → vaultHeld m ks = false →
    (¬(ea / 2 ^ 60 = 15 ∧ bit ea 59 = true) → ccPoisoned m s.turn ks = false) →
    ((n = 1 ∧ (exec (.ldB d a i) s = .next t ∨ exec (.ldnB d a i) s = .next t)) ∨
      (n = 2 ∧ (exec (.ldH d a i) s = .next t ∨ exec (.ldnH d a i) s = .next t)) ∨
      (n = 4 ∧ (exec (.ldW d a i) s = .next t ∨ exec (.ldnW d a i) s = .next t)) ∨
      (n = 8 ∧ exec (.ldD d a i) s = .next t)) →
    OnlyRegister (m.askControl s.turn (m.homeAt ks) .load) t s.turn d) ∧
  (∀ (s m : State) (ea : Nat), m = orderDevice s s.turn ea →
    (ea / 2 ^ 60 ≠ 15 → m = s) ∧ (ea / 2 ^ 60 = 15 → m = s.drain s.turn ∧ m.cores = s.cores ∧ m.die = s.die ∧
      (∀ q, q ≠ s.turn → m.region q = s.region q) ∧ (∀ n, m.getX s.turn n = s.getX s.turn n) ∧
      (∀ k, (∀ b ∈ (s.region s.turn).stores, k ∉ b.keys) → m.readByte k = s.readByte k)))

/-- What the packet of a control core's access leaves alone: all but the network (R290, R305). -/
def PacketsTouchTheNetworkAlone : Prop :=
  ∀ (s : State) (r home : Nat) (a : Access0), let t := s.askControl r home a
    t = { s with queues := t.queues, arrivals := t.arrivals, sent := t.sent, undelivered := t.undelivered,
                 waitingSend := t.waitingSend }

/-- The frame of the words that write one register: the integer words and the loads, whose packets touch nothing but the network. -/
def Obligations.OneRegisterWordsFrame : Prop := IntegerWordsFrame ∧ LoadsFrame ∧ PacketsTouchTheNetworkAlone

/-- One store of `n` bytes. Outside window 0xF it enters the store buffer: its own core sees the bytes at once, sees every
other byte as before while the buffer has room, and memory changes at most where a full buffer performs its oldest store.
In window 0xF it is performed at once, on a device register or on memory. Its packet travels in class 0 (R305). -/
def StoreCompletes (mk : Nat → Nat → Nat → Instr) (n : Nat) : Prop :=
  ∀ (s m u : State) (x a i ea v : Nat) (ks : List Nat), ea = (s.getX s.turn a + (BitVec.ofNat 16 i).signExtend 64).toNat →
    v = (s.getX s.turn x).toNat → m = orderDevice s s.turn ea → deviceReady s s.turn ea = true →
    walkHeld m (.control s.turn) ea n = false → resolve m (.control s.turn) ea n .write = .ok ks →
    u = m.askControl s.turn (m.homeAt ks) .store →
    (ea / 2 ^ 60 ≠ 15 → s.bufferRoom s.turn = true → ∃ t, exec (mk x a i) s = .next t ∧
      t = (u.buffer s.turn { keys := ks, bytes := toBytes n v }).complete s.turn ∧
      t.ccRead s.turn ks = toBytes n v ∧
      ((s.region s.turn).stores.length < 8 → (∀ k, t.readByte k = s.readByte k) ∧
        ∀ k, k ∉ ks → t.ccRead s.turn [k] = s.ccRead s.turn [k]) ∧
      (∀ k, (∀ b ∈ (s.region s.turn).stores.head?, k ∉ b.keys) → t.readByte k = s.readByte k) ∧
      (∀ q, t.getX s.turn q = s.getX s.turn q) ∧ t.cores = s.cores ∧ t.die = s.die ∧
      (∀ q, q ≠ s.turn → t.region q = s.region q)) ∧
    (ea / 2 ^ 60 ≠ 15 → s.bufferRoom s.turn = false → exec (mk x a i) s = .next (s.wait s.turn)) ∧
    (ea / 2 ^ 60 = 15 → bit ea 59 = true →
      exec (mk x a i) s = .next ((deviceWrite u (ea % 2 ^ 60) n v).complete s.turn)) ∧
    (ea / 2 ^ 60 = 15 → bit ea 59 = false → vaultHeld m ks = false →
      exec (mk x a i) s = .next ((u.store ks (toBytes n v)).complete s.turn))

/-- R90, R95: the four stores, what they write, what their core then sees, and what they leave alone. -/
def Obligations.StoresEnterTheBuffer : Prop :=
  StoreCompletes .stB 1 ∧ StoreCompletes .stH 2 ∧ StoreCompletes .stW 4 ∧ StoreCompletes .stD 8

/-- The bytes a plain access writes are read back, every other byte is as before, no register or core changes: what a store
does to memory when it is performed (R95). -/
def PerformedStoreReadsBack : Prop :=
  ∀ (s t : State) (ks bs : List Nat), t = s.store ks bs → ks.length = bs.length → ks.Nodup → (∀ b ∈ bs, b < 256) →
    t.readKeys ks = bs ∧ (∀ k, k ∉ ks → t.readByte k = s.readByte k) ∧ t.regions = s.regions ∧ t.cores = s.cores ∧
    t.die = s.die ∧ t.ports = s.ports

/-- R92: a store of a whole aligned word over a poisoned word clears the poison, a narrower one leaves it; no other word's
poison changes. -/
def StoresAndPoison : Prop :=
  ∀ (s : State) (k n : Nat) (bs : List Nat), 0 < n →
    (k % 8 = 0 → 8 ≤ n → k / 8 ∉ (s.store (range k n) bs).poison) ∧
    (∀ u, (¬(k ≤ 8 * u ∧ 8 * u + 8 ≤ k + n)) → (u ∈ (s.store (range k n) bs).poison ↔ u ∈ s.poison))

/-- What a store does to memory and to poison when it is performed. -/
def Obligations.PerformedStores : Prop := PerformedStoreReadsBack ∧ StoresAndPoison

/-- An access of a load or store that fails a check raises its fault at its address with nothing else changed (R85, R88), a load from
window 0xF behind the earlier stores (R99); a load that reads poison raises PROTECTION marked as poison (R92), its packet having
entered the network (R305). -/
def Obligations.AccessFaultsTrap : Prop :=
  (∀ (s m : State) (d a i ea : Nat) (f : FaultCode) (p : Bool),
    ea = (s.getX s.turn a + (BitVec.ofNat 16 i).signExtend 64).toNat → m = orderDevice s s.turn ea →
    deviceReady s s.turn ea = true → (∀ n, walkHeld m (.control s.turn) ea n = false) →
    (resolve m (.control s.turn) ea 1 .read = .error (f, p) →
      TrapsWith (exec (.ldB d a i) s) m s.turn (Trap.access f ea p) ∧
      TrapsWith (exec (.ldnB d a i) s) m s.turn (Trap.access f ea p)) ∧
    (resolve m (.control s.turn) ea 2 .read = .error (f, p) →
      TrapsWith (exec (.ldH d a i) s) m s.turn (Trap.access f ea p) ∧
      TrapsWith (exec (.ldnH d a i) s) m s.turn (Trap.access f ea p)) ∧
    (resolve m (.control s.turn) ea 4 .read = .error (f, p) →
      TrapsWith (exec (.ldW d a i) s) m s.turn (Trap.access f ea p) ∧
      TrapsWith (exec (.ldnW d a i) s) m s.turn (Trap.access f ea p)) ∧
    (resolve m (.control s.turn) ea 8 .read = .error (f, p) →
      TrapsWith (exec (.ldD d a i) s) m s.turn (Trap.access f ea p)) ∧
    (resolve m (.control s.turn) ea 1 .write = .error (f, p) →
      TrapsWith (exec (.stB d a i) s) s s.turn (Trap.access f ea p)) ∧
    (resolve m (.control s.turn) ea 2 .write = .error (f, p) →
      TrapsWith (exec (.stH d a i) s) s s.turn (Trap.access f ea p)) ∧
    (resolve m (.control s.turn) ea 4 .write = .error (f, p) →
      TrapsWith (exec (.stW d a i) s) s s.turn (Trap.access f ea p)) ∧
    (resolve m (.control s.turn) ea 8 .write = .error (f, p) →
      TrapsWith (exec (.stD d a i) s) s s.turn (Trap.access f ea p))) ∧
  (∀ (s u : State) (d a i ea : Nat) (ks : List Nat), u = s.askControl s.turn (s.homeAt ks) .load → ea = (s.getX s.turn a + (BitVec.ofNat 16 i).signExtend 64).toNat →
    ea / 2 ^ 60 ≠ 15 → (∀ n, walkHeld s (.control s.turn) ea n = false) → vaultHeld s ks = false → ccPoisoned s s.turn ks = true →
    (resolve s (.control s.turn) ea 1 .read = .ok ks →
      TrapsWith (exec (.ldB d a i) s) u s.turn (Trap.access .protection ea true) ∧
      TrapsWith (exec (.ldnB d a i) s) u s.turn (Trap.access .protection ea true)) ∧
    (resolve s (.control s.turn) ea 2 .read = .ok ks →
      TrapsWith (exec (.ldH d a i) s) u s.turn (Trap.access .protection ea true) ∧
      TrapsWith (exec (.ldnH d a i) s) u s.turn (Trap.access .protection ea true)) ∧
    (resolve s (.control s.turn) ea 4 .read = .ok ks →
      TrapsWith (exec (.ldW d a i) s) u s.turn (Trap.access .protection ea true) ∧
      TrapsWith (exec (.ldnW d a i) s) u s.turn (Trap.access .protection ea true)) ∧
    (resolve s (.control s.turn) ea 8 .read = .ok ks →
      TrapsWith (exec (.ldD d a i) s) u s.turn (Trap.access .protection ea true)))

/-- The windows a control core reaches, and the order of the checks of an access (Table 5.3, R267): window, end of the window part
for its first byte, straddle, last byte; an access that starts in a window part and ends past it raises TRANSLATION; window 0x8 is
translated by context 0's tables; in window 0xF a privileged core reaches a device register, with no memory key, or physical
memory. -/
def Obligations.WindowChecks : Prop :=
  ∀ (s : State) (r addr off n : Nat) (w : Want), 0 < n → n ≤ 8 → addr < 2 ^ 64 → off = addr % 2 ^ 60 →
    (addr / 2 ^ 60 ≤ 1 → resolve s (.control r) addr n w = .error (.protection, false)) ∧
    (addr / 2 ^ 60 = 15 → (s.region r).mode = .unprivileged →
      resolve s (.control r) addr n w = .error (.protection, false)) ∧
    (4 ≤ addr / 2 ^ 60 → addr / 2 ^ 60 ≠ 8 → addr / 2 ^ 60 ≠ 15 →
      resolve s (.control r) addr n w = .error (.translation, false)) ∧
    (addr / 2 ^ 60 = 2 → s.regionEnd r ≤ 2 ^ 22 →
      (off + n ≤ s.regionEnd r → resolve s (.control r) addr n w = .ok (range (regionKey r off) n)) ∧
      (s.regionEnd r < off + n → resolve s (.control r) addr n w = .error (.translation, false))) ∧
    (addr / 2 ^ 60 = 3 → s.sectorEnd (r / 4) ≤ 2 ^ 23 →
      (off + n ≤ s.sectorEnd (r / 4) → resolve s (.control r) addr n w = .ok (range (sectorKey (r / 4) off) n)) ∧
      (s.sectorEnd (r / 4) < off + n → resolve s (.control r) addr n w = .error (.translation, false))) ∧
    (addr / 2 ^ 60 = 8 →
      (off + n ≤ 2 ^ 52 → resolve s (.control r) addr n w = globalKeys s r 0 off n w) ∧
      (2 ^ 52 < off + n → resolve s (.control r) addr n w = .error (.translation, false))) ∧
    (addr / 2 ^ 60 = 15 → (s.region r).mode = .privileged →
      (bits off 58 45 ≠ 0 ∨ bits (off + n - 1) 58 45 ≠ 0 →
        resolve s (.control r) addr n w = .error (.translation, false)) ∧
      (bits off 58 45 = 0 → bits (off + n - 1) 58 45 = 0 →
        (bit off 59 = true → resolve s (.control r) addr n w = .ok []) ∧
        (bit off 59 = false → resolve s (.control r) addr n w = .ok (range (bits off 44 0) n)))) ∧
    (∀ stop base, windowOf s (.control r) (addr / 2 ^ 60) = .ok (stop, base) → off < stop → addr / 2 ^ 60 ≠ 15 →
      (addr + n - 1) % 2 ^ 64 / 2 ^ 60 ≠ addr / 2 ^ 60 → resolve s (.control r) addr n w = .error (.windowStraddle, false))

/-- One atomic: with every earlier store performed, and in its turn among those that its vault has held (R366), the word at xa is
read and written once, at its home; xd receives the old word, sign-extended where the width is 32; every byte outside the word is
as the earlier stores leave it. Its packet travels in class 0 (R305). -/
def AtomicCompletes (mk : Nat → Nat → Nat → Nat → Nat → Instr) (f : (bits' : Nat) → (old operand expected : Nat) → Nat) :
    Prop :=
  ∀ (s m : State) (d a b w sc ea n old : Nat) (ks : List Nat), ea = (s.getX s.turn a).toNat → n = (if w = 0 then 4 else 8) →
    ea % n = 0 → ea / 2 ^ 60 ≠ 15 → Drained s m → walkHeld m (.control s.turn) ea n = false →
    resolve m (.control s.turn) ea n .atomic = .ok ks → atomicGoes m (s.region s.turn).heldAt ks = true →
    m.poisonedAt ks = false → old = m.readNat ks →
    ∃ t, exec (mk d a b w sc) s = .next t ∧
      t = (((m.askControl s.turn (m.homeAt ks) .atomic).rmw ks (toBytes n (f (8 * n) old ((s.getX s.turn b).toNat % 2 ^ (8 * n))
        ((s.getX s.turn d).toNat % 2 ^ (8 * n))))).setX s.turn d
          (if w = 0 then (BitVec.ofNat 32 old).signExtend 64 else BitVec.ofNat 64 old)).complete s.turn ∧
      (∀ k, k ∉ ks → t.readByte k = m.readByte k) ∧ t.poison = m.poison ∧ t.marks = m.marks ∧
      (∀ q, q ≠ d → t.getX s.turn q = s.getX s.turn q) ∧ t.cores = s.cores ∧ t.die = s.die

/-- R93, R97: the ten atomics. -/
def Obligations.AtomicsReadModifyWrite : Prop :=
  AtomicCompletes .amoSwap (fun _ _ v _ => v) ∧
  AtomicCompletes .amoAdd (fun n o v _ => (o + v) % 2 ^ n) ∧
  AtomicCompletes .amoAnd (fun _ o v _ => o &&& v) ∧
  AtomicCompletes .amoOr (fun _ o v _ => o ||| v) ∧
  AtomicCompletes .amoXor (fun _ o v _ => o ^^^ v) ∧
  AtomicCompletes .amoMax (fun n o v _ => if (BitVec.ofNat n o).slt (BitVec.ofNat n v) then v else o) ∧
  AtomicCompletes .amoMin (fun n o v _ => if (BitVec.ofNat n v).slt (BitVec.ofNat n o) then v else o) ∧
  AtomicCompletes .amoMaxn (fun _ o v _ => if o < v then v else o) ∧
  AtomicCompletes .amoMinn (fun _ o v _ => if v < o then v else o) ∧
  AtomicCompletes .amoCas (fun _ o v e => if o = e then v else o)

/-- One atomic's faults, and its waits. -/
def AtomicFaults (mk : Nat → Nat → Nat → Nat → Nat → Instr) : Prop :=
  ∀ (s m : State) (d a b w sc ea n : Nat) (ks : List Nat), ea = (s.getX s.turn a).toNat → n = (if w = 0 then 4 else 8) →
    m = s.drain s.turn →
    (ea % n ≠ 0 → ea / 2 ^ 60 ≠ 15 → TrapsWith (exec (mk d a b w sc) s) s s.turn (Trap.access .illegal ea)) ∧
    (ea % n ≠ 0 → ea / 2 ^ 60 = 15 → TrapsWith (exec (mk d a b w sc) s) s s.turn (Trap.access .illegal ea) ∨
      TrapsWith (exec (mk d a b w sc) s) s s.turn (Trap.access .protection ea)) ∧
    (ea % n = 0 → ea / 2 ^ 60 = 15 → TrapsWith (exec (mk d a b w sc) s) s s.turn (Trap.access .protection ea)) ∧
    (ea % n = 0 → ea / 2 ^ 60 ≠ 15 → (s.drains s.turn = false ∨ walkHeld m (.control s.turn) ea n = true) →
      exec (mk d a b w sc) s = .next (s.wait s.turn)) ∧
    (ea % n = 0 → ea / 2 ^ 60 ≠ 15 → s.drains s.turn = true → walkHeld m (.control s.turn) ea n = false →
      (∀ f p, resolve m (.control s.turn) ea n .atomic = .error (f, p) →
        TrapsWith (exec (mk d a b w sc) s) s s.turn (Trap.access f ea p)) ∧
      (resolve m (.control s.turn) ea n .atomic = .ok ks → atomicGoes m (s.region s.turn).heldAt ks = true →
        m.poisonedAt ks = true → TrapsWith (exec (mk d a b w sc) s) (m.askControl s.turn (m.homeAt ks) .atomic) s.turn
          (Trap.access .protection ea true)) ∧
      (resolve m (.control s.turn) ea n .atomic = .ok ks → atomicGoes m (s.region s.turn).heldAt ks = false →
        exec (mk d a b w sc) s = .next ((s.holdAtomic s.turn ks).wait s.turn)))

/-- R94: a misaligned address, window 0xF, a failed check and a poisoned word fault with memory and xd unchanged, one of the
first two where both hold; a held vault, and an atomic that came to it before, make the atomic wait in its place (R366). -/
def Obligations.AtomicsFaultUnchanged : Prop :=
  AtomicFaults .amoSwap ∧ AtomicFaults .amoAdd ∧ AtomicFaults .amoAnd ∧ AtomicFaults .amoOr ∧ AtomicFaults .amoXor ∧
  AtomicFaults .amoMax ∧ AtomicFaults .amoMin ∧ AtomicFaults .amoMaxn ∧ AtomicFaults .amoMinn ∧ AtomicFaults .amoCas

/-- R95, R96: `fence` of scope region or wider completes with every earlier store performed, one of scope core or quad
orders nothing more; it waits for a store whose home is held (R281). STORE_BUFFER_DRAIN performs the oldest buffered store of a
control core alone. That where it has none that can go it writes an owed status word (R22), and else the oldest record (R356), is the
model's choice of their time (log 13). -/
def Obligations.FencesAndTheStoreBuffer : Prop :=
  (∀ (s : State) (sc : Nat), 2 ≤ sc → s.drains s.turn = true → ∃ t, exec (.fence sc) s = .next t ∧
    t = (s.drain s.turn).complete s.turn ∧ (t.region s.turn).stores = [] ∧
    t.mem = (s.storeAll (s.region s.turn).stores).mem) ∧
  (∀ (s : State) (sc : Nat), 2 ≤ sc → s.drains s.turn = false →
    exec (.fence sc) s = .next ((s.drain s.turn).wait s.turn)) ∧
  (∀ (s : State) (sc : Nat), sc < 2 → exec (.fence sc) s = .next (s.complete s.turn)) ∧
  (∀ (s : State) (r : Nat) (b : BufStore) (rest : List BufStore), (s.region r).stores = b :: rest →
    (vaultHeld s b.keys = false → exec (.storeBufferDrain r) s =
      .next ((s.setRegion r { s.region r with stores := rest }).store b.keys b.bytes).tick) ∧
    (vaultHeld s b.keys = true → (s.region r).owed = [] → (s.region r).recs = [] →
      exec (.storeBufferDrain r) s = .next s.tick)) ∧
  (∀ (s : State) (r : Nat), (s.region r).stores = [] →
    (∀ p rest u, (s.region r).owed = p :: rest → s.statusReady r p.1.toNat = true →
      u = (s.setRegion r { s.region r with owed := rest }).writeStatus r p.1.toNat p.2 →
      exec (.storeBufferDrain r) s = .next (u.leave r (s.region r).leaving).tick) ∧
    ((s.region r).owed = [] →
      ((s.region r).recs = [] → exec (.storeBufferDrain r) s = .next s.tick) ∧
      (∀ at' q0 q2 q3 rest ks, (s.region r).recs = (at', q0, q2, q3) :: rest → ks = physKeys at' 32 →
        (vaultHeld s ks = true → exec (.storeBufferDrain r) s = .next s.tick) ∧
        (vaultHeld s ks = false → exec (.storeBufferDrain r) s = .next ((s.setRegion r { s.region r with recs := rest }).store ks
          (toBytes 8 q0 ++ toBytes 8 s.ticks.toNat ++ toBytes 8 q2 ++ toBytes 8 q3)).tick)))) ∧
  (∀ (s : State) (r mask : Nat), (s.region r).owed = [] →
    s.leave r mask = (s.setRegion r { s.region r with leaving := 0 }).cleanCores (maskCores r mask))

/-! ## Branches, jumps, loops -/

/-- One conditional branch: where its condition holds, pc becomes the branch's address plus four times the offset and the
loop stack is unwound (R108); else end processing runs. Nothing else changes. -/
def BranchCompletes (mk : Nat → Nat → Nat → Instr) (taken : Word → Word → Bool) : Prop :=
  ∀ (s : State) (a b o : Nat) (g : Region) (t : Word), g = s.region s.turn →
    t = g.pc + 4 * (BitVec.ofNat 16 o).signExtend 64 →
    (taken (s.getX s.turn a) (s.getX s.turn b) = true → exec (mk a b o) s =
      .next (s.setRegion s.turn { g with pc := t, depth := unwind t g.depth g.loops, waiting := false, heldAt := none, sendSince := none }).tick) ∧
    (taken (s.getX s.turn a) (s.getX s.turn b) = false → exec (mk a b o) s = .next (s.complete s.turn))

/-- Table 5.5 (R100, R108): the six conditional branches. -/
def ConditionalBranches : Prop :=
  BranchCompletes .beq (fun x y => x == y) ∧ BranchCompletes .bne (fun x y => x != y) ∧
  BranchCompletes .blt (fun x y => x.slt y) ∧ BranchCompletes .bge (fun x y => !x.slt y) ∧
  BranchCompletes .bltn (fun x y => x.ult y) ∧ BranchCompletes .bgen (fun x y => !x.ult y)

/-- R108: unwinding leaves the deepest entry whose body holds the target, and every entry above it holds it not. -/
def UnwindKeepsTheHoldingLoop : Prop :=
  ∀ (t : Word) (d : Nat) (ls : Sparse LoopEntry) (e : Nat → LoopEntry),
    (∀ l, e l = sget { start := 0, len := 0, count := 0 } ls l) →
    unwind t d ls ≤ d ∧
    (∀ l, unwind t d ls = l + 1 → (e l).start.toNat ≤ t.toNat ∧ t.toNat ≤ (e l).last.toNat) ∧
    (∀ l, unwind t d ls ≤ l → l < d → ¬((e l).start.toNat ≤ t.toNat ∧ t.toNat ≤ (e l).last.toNat))

/-- R101: `jal` writes the next address to x1 and never unwinds; `jalr` writes it to xd, jumps to xa plus the immediate
with the old xa, unwinds where xd is x0, and raises ILLEGAL at a misaligned target with nothing changed. -/
def Jumps : Prop :=
  (∀ (s : State) (o : Nat) (g : Region), g = s.region s.turn → exec (.jal o) s =
    .next (s.setRegion s.turn { g.setX 1 (g.pc + 4) with
      pc := g.pc + 4 * (BitVec.ofNat 26 o).signExtend 64, waiting := false, heldAt := none, sendSince := none }).tick) ∧
  (∀ (s : State) (d a i : Nat) (g : Region) (t : Word), g = s.region s.turn →
    t = s.getX s.turn a + (BitVec.ofNat 16 i).signExtend 64 →
    (t.extractLsb' 0 2 = 0 → d ≠ 0 → exec (.jalr d a i) s =
      .next (s.setRegion s.turn { g.setX d (g.pc + 4) with pc := t, waiting := false, heldAt := none, sendSince := none }).tick) ∧
    (t.extractLsb' 0 2 = 0 → d = 0 → exec (.jalr d a i) s =
      .next (s.setRegion s.turn { g with pc := t, depth := unwind t g.depth g.loops, waiting := false, heldAt := none, sendSince := none }).tick) ∧
    (t.extractLsb' 0 2 ≠ 0 → TrapsWith (exec (.jalr d a i) s) s s.turn (Trap.word .illegal)))

/-- R100, R101, R108: branches and jumps. -/
def Obligations.BranchesAndJumps : Prop := ConditionalBranches ∧ Jumps

/-- R104, R46: a loop word with a body length of 0 is no instruction (issuing it raises ILLEGAL, R45). -/
def EmptyLoopBodyIsIllegal : Prop :=
  ∀ (w : Nat), w < 2 ^ 32 → w / 2 ^ 26 = 0x1F → bits w 18 9 = 0 → ∃ e, decodeWord .control w = .error e

/-- R104, R106, R107: `loop` pushes an entry, or skips its body where the count is zero; `lbrk` leaves the loop and every
loop inside it; `lcnt` reads the iterations left. Their ILLEGAL cases change nothing. -/
def Obligations.LoopWords : Prop :=
  EmptyLoopBodyIsIllegal ∧
  (∀ (s : State) (l c n k : Nat) (g : Region), g = s.region s.turn → k = (s.getX s.turn c).toNat →
    (l = g.depth → l < 4 → k < 2 ^ 48 →
      (g.depth = 0 ∨ g.pc.toNat + 4 * n ≤ (g.loopAt (g.depth - 1)).last.toNat) →
      exec (.loop l c n) s = .next (s.setRegion s.turn (if k = 0 then
          { g with pc := g.pc + BitVec.ofNat 64 (4 * n + 4), waiting := false, heldAt := none, sendSince := none }
        else { g with loops := sput g.loops l { start := g.pc + 4, len := n, count := k }, depth := l + 1, pc := g.pc + 4,
                      waiting := false, heldAt := none, sendSince := none })).tick) ∧
    (l ≠ g.depth ∨ 4 ≤ l ∨ 2 ^ 48 ≤ k ∨ (g.depth ≠ 0 ∧ (g.loopAt (g.depth - 1)).last.toNat < g.pc.toNat + 4 * n) →
      TrapsWith (exec (.loop l c n) s) s s.turn (Trap.word .illegal))) ∧
  (∀ (s : State) (l : Nat) (g : Region), g = s.region s.turn →
    (l < g.depth → exec (.lbrk l) s =
      .next (s.setRegion s.turn { g with pc := (g.loopAt l).last + 4, depth := l, waiting := false, heldAt := none, sendSince := none }).tick) ∧
    (g.depth ≤ l → TrapsWith (exec (.lbrk l) s) s s.turn (Trap.word .illegal))) ∧
  (∀ (s : State) (d l : Nat) (g : Region), g = s.region s.turn →
    (l < g.depth → exec (.lcnt d l) s =
      .next ((s.setX s.turn d (BitVec.ofNat 64 (g.loopAt l).count)).complete s.turn)) ∧
    (g.depth ≤ l → TrapsWith (exec (.lcnt d l) s) s s.turn (Trap.word .illegal)))

/-- R105: end processing after a word at `a`. With no loop that ends there pc moves to the next word; the last word of the
innermost loop goes back to its start while iterations are left; in its last iteration the loop is done and the enclosing
entry is tested, so loops that share a last word are stepped in one go. -/
def EndProcessing : Prop :=
  (∀ (a : Word) (ls : Sparse LoopEntry), endCheck a 0 ls = (0, ls, a + 4)) ∧
  (∀ (a : Word) (n : Nat) (ls : Sparse LoopEntry) (e : LoopEntry),
    e = sget { start := 0, len := 0, count := 0 } ls n →
    (a ≠ e.start + BitVec.ofNat 64 (4 * (e.len - 1)) → endCheck a (n + 1) ls = (n + 1, ls, a + 4)) ∧
    (a = e.start + BitVec.ofNat 64 (4 * (e.len - 1)) → 2 ≤ e.count →
      endCheck a (n + 1) ls = (n + 1, sput ls n { e with count := e.count - 1 }, e.start)) ∧
    (a = e.start + BitVec.ofNat 64 (4 * (e.len - 1)) → e.count = 1 →
      endCheck a (n + 1) ls = endCheck a n (sput ls n { e with count := 0 }))) ∧
  (∀ (s : State) (r d : Nat) (ls : Sparse LoopEntry) (pc : Word),
    endCheck (s.region r).pc (s.region r).depth (s.region r).loops = (d, ls, pc) →
    s.complete r = (s.setRegion r { s.region r with depth := d, loops := ls, pc := pc, waiting := false, heldAt := none, sendSince := none }).tick)

/-- R105, R108: end processing, and unwinding. -/
def Obligations.EndProcessingAndUnwinding : Prop := EndProcessing ∧ UnwindKeepsTheHoldingLoop


/-! ## Traps and special registers -/

/-- R132, R109: a fault of an unprivileged word with a handler saves its address in tpc, the loop stack in the saved state
and its cause, empties the loop stack, enters privileged mode and goes to tvec; the restored fields are all that changes. In
privileged mode, or with no handler, it escalates. -/
def TrapEntry : Prop :=
  ∀ (s : State) (r : Nat) (resume : Word) (t : Trap) (g u : Region), g = s.region r →
    u = (s.takeTrap r resume t).region r →
    (g.mode = .unprivileged → g.tvec ≠ 0 →
      u.tpc = resume ∧ u.pc = g.tvec ∧ u.mode = .privileged ∧ u.depth = 0 ∧
      sget 0 u.saved 0 = BitVec.ofNat 64 g.depth ∧
      (∀ l, l < 4 → sget 0 u.saved (2 * l + 1) = (g.loopAt l).start ∧
        sget 0 u.saved (2 * l + 2) = BitVec.ofNat 64 (2 ^ 48 * (g.loopAt l).len + (g.loopAt l).count)) ∧
      u.tcause = t.cause.tcause ∧ u.tinfo = BitVec.ofNat 64 t.info ∧ u.tinfoH = BitVec.ofNat 64 t.infoH ∧
      s.takeTrap r resume t = s.setRegion r { g with
        tpc := u.tpc, saved := u.saved, depth := 0, tcause := u.tcause, tinfo := u.tinfo, tinfoH := u.tinfoH,
        mode := .privileged, pc := g.tvec, waiting := false, heldAt := none, sendSince := none, atLwait := false }) ∧
    (g.mode = .privileged ∨ g.tvec = 0 → s.takeTrap r resume t = s.escalate r t.fault)

/-- Table 6.6 (R133): where tcause holds the fault, the failing instruction, poison, source, context, core and trap code. -/
def CauseLayout : Prop :=
  ∀ (t : Trap), t.fault < 256 → t.instr < 32 → t.source < 4 → t.ctx < 4 → t.core < 16 → t.code < 256 → t.extra = 0 →
    let w := t.cause.tcause.toNat
    bits w 7 0 = t.fault ∧ bits w 15 8 = t.instr ∧ bits w 16 16 = b2n t.poison ∧ bits w 31 17 = 0 ∧
    bits w 33 32 = t.source ∧ bits w 35 34 = t.ctx ∧ bits w 39 36 = t.core ∧ bits w 47 40 = t.code ∧ bits w 63 48 = 0

/-- R134, R109: `trap code` in unprivileged mode with a handler enters the handler with source 10 and its code, to resume
after end processing at the next word; in privileged mode it escalates the saved cause. -/
def TrapWord : Prop :=
  ∀ (s d : State) (k : Nat) (g : Region), Drained s d → g = d.region s.turn →
    (g.mode = .unprivileged → g.tvec ≠ 0 → exec (.trap k) s =
      .next (d.setRegion s.turn (g.completed.enterTrap g.completed.pc
        { Trap.word .illegal with fault := 0, source := 2, code := k }.cause)).tick) ∧
    (g.mode = .unprivileged → g.tvec = 0 → exec (.trap k) s =
      .next ((d.setRegion s.turn g.completed).escalate s.turn 0).tick) ∧
    (g.mode = .privileged → exec (.trap k) s = .next (d.escalate s.turn (bits g.tcause.toNat 7 0)).tick)

/-- R132 to R134: the trap entry, the cause it writes, and the word that takes it by its own effect. -/
def Obligations.TakingATrap : Prop := TrapEntry ∧ CauseLayout ∧ TrapWord

/-- R134, R109: `tret` restores the loop stack from the saved state, leaves privileged mode and goes to tpc; with a saved
state or a tpc that is refused it raises ILLEGAL, and in unprivileged mode PROTECTION. -/
def TretWord : Prop :=
  ∀ (s d : State) (g : Region), Drained s d → g = d.region s.turn →
    (g.mode = .privileged → savedOk g.saved = true → g.tpc.toNat % 4 = 0 →
      ∃ u, exec .tret s = .next (d.setRegion s.turn u).tick ∧ u.pc = g.tpc ∧ u.mode = .unprivileged ∧
        u.depth = (sget 0 g.saved 0).toNat ∧ (∀ l, l < 4 → u.loopAt l = savedEntry g.saved l) ∧
        u = { g with pc := u.pc, mode := u.mode, depth := u.depth, loops := u.loops, waiting := false, heldAt := none, sendSince := none }) ∧
    (g.mode = .privileged → (savedOk g.saved = false ∨ g.tpc.toNat % 4 ≠ 0) →
      exec .tret s = .next (d.takeTrap s.turn g.pc (Trap.word .illegal)).tick) ∧
    (g.mode = .unprivileged → exec .tret s = .next (d.takeTrap s.turn g.pc (Trap.word .protection)).tick)

/-- Trap entry and return are inverse: the handler entered from unprivileged mode that leaves the saved state as it is
returns with `tret` to the resume address, mode and loop stack it came from. -/
def TrapThenReturnRestores : Prop :=
  ∀ (g : Region) (resume : Word) (c : Cause), g.depth ≤ 4 →
    (∀ l, l < g.depth → 1 ≤ (g.loopAt l).len ∧ (g.loopAt l).len < 1024 ∧ 1 ≤ (g.loopAt l).count ∧
      (g.loopAt l).count < 2 ^ 48 ∧ (g.loopAt l).start.toNat % 4 = 0) →
    savedOk (g.enterTrap resume c).saved = true ∧
    ((g.enterTrap resume c).returnTrap).pc = resume ∧ ((g.enterTrap resume c).returnTrap).mode = .unprivileged ∧
    ((g.enterTrap resume c).returnTrap).depth = g.depth ∧
    (∀ l, l < g.depth → ((g.enterTrap resume c).returnTrap).loopAt l = g.loopAt l)

/-- R134, R109: the return, and that it undoes the entry. -/
def Obligations.ReturnFromTrap : Prop := TretWord ∧ TrapThenReturnRestores

/-- R84, R135: a word or register that the spec reserves to privileged mode raises PROTECTION in unprivileged mode, and
takes no other effect. -/
def Obligations.PrivilegedWordsTrap : Prop :=
  ∀ (s d : State) (a b n core ctx e : Nat) (t : Trap), Drained s d → (s.region s.turn).mode = .unprivileged →
    t = Trap.word .protection →
    TrapsWith (exec .tret s) d s.turn t ∧
    TrapsWith (exec (.translationRegisterWrite b n) s) d s.turn t ∧
    TrapsWith (exec (.cxsave a b core ctx) s) d s.turn t ∧
    TrapsWith (exec (.cxrest b core ctx) s) d s.turn t ∧
    TrapsWith (exec (.dvmap b core e) s) d s.turn t ∧
    TrapsWith (exec (.dvclr core e) s) d s.turn t ∧
    (readable n = true → privilegedReg n = true → TrapsWith (exec (.mvfs a n) s) d s.turn t) ∧
    (readable n = true → readOnly n = false → privilegedReg n = true → TrapsWith (exec (.mvts b n) s) d s.turn t)

/-- R135: `mvfs` of a listed register writes its value to xa; a number not listed raises ILLEGAL. A flag word is that of a core
of the launch's mask, and one of a switched-out context makes the read wait (R80, R112). Reads of 0x081 and 0x0A0 latch the counts
they begin (R352, R354). -/
def Obligations.StateRegisterReads : Prop :=
  ∀ (s d : State) (a n : Nat) (g : Region), Drained s d → g = d.region s.turn →
    (readable n = true → (privilegedReg n = true → g.mode = .privileged) → (0x100 ≤ n → flagOperand d s.turn n = .ok ()) →
      exec (.mvfs a n) s = .next ((d.setX s.turn a (stateReg d s.turn n)).complete s.turn)) ∧
    (∀ core ctx c, core < 16 → ctx < 4 → n = 0x100 + 4 * core + ctx → coreOperand d s.turn core = .ok c →
      (switchedOut d c ctx = false → flagOperand d s.turn n = .ok ()) ∧
      (switchedOut d c ctx = true → exec (.mvfs a n) s = .next (d.wait s.turn))) ∧
    (∀ core ctx, core < 16 → ctx < 4 → n = 0x100 + 4 * core + ctx → bit g.mask core = false →
      TrapsWith (exec (.mvfs a n) s) d s.turn (Trap.word .protection)) ∧
    (readable n = false → TrapsWith (exec (.mvfs a n) s) d s.turn (Trap.word .illegal)) ∧
    stateReg d s.turn 0x001 = g.tvec ∧ stateReg d s.turn 0x002 = g.tpc ∧ stateReg d s.turn 0x003 = g.tcause ∧
    stateReg d s.turn 0x004 = g.tinfo ∧ stateReg d s.turn 0x005 = g.tinfoH ∧ stateReg d s.turn 0x030 = d.ticks ∧
    stateReg d s.turn 0x031 = BitVec.ofNat 64 s.turn ∧ stateReg d s.turn 0x033 = g.events ∧
    stateReg d s.turn 0x040 = g.hsel ∧ stateReg d s.turn 0x058 = g.otab ∧ stateReg d s.turn 0x060 = g.tdest ∧
    (∀ core ctx, core < 16 → ctx < 4 → stateReg d s.turn (0x100 + 4 * core + ctx) =
      BitVec.ofNat 64 (d.ctx (coreOf s.turn core) ctx).flags) ∧
    (∀ l, l = (range 0 10).map (fun i => nth 0 (d.ctx (dselCore g s.turn) (dselCtx g)).score i) →
      exec (.scorecardLatch a) s =
        .next (((d.setRegion s.turn { g with scLatch := l }).setX s.turn a (BitVec.ofNat 64 (nth 0 l 0))).complete s.turn)) ∧
    (∀ e l, e = d.clocksOn (s.turn / 64) → l = sget [0, 0, 0] e.clocks (s.turn / 64) →
      exec (.layerClockLatch a) s =
        .next (((e.setRegion s.turn { e.region s.turn with clkLatch := l }).setX s.turn a
          (BitVec.ofNat 64 (nth 0 l 0))).complete s.turn))

/-- R135: `mvts` of a listed register that is not read-only takes a value its layout allows, and raises ILLEGAL for any
other value or number; the writes with a meaning of their own: events (R136), flag words (R80), dsel (R350) and the
translation registers (R268). A flag word written in the beat in which a commit has raised flags holds both, and its trap enables
govern from the next beat (R82). That a written event count and a cleared scorecard hold from the next beat of their core, whatever
the clock of their source (R353), is log 92. -/
def Obligations.StateRegisterWrites : Prop :=
  ∀ (s d : State) (b n v : Nat) (g : Region), Drained s d → g = d.region s.turn →
    v = (d.getX s.turn b).toNat →
    ((readable n = false ∨ readOnly n = true) → TrapsWith (exec (.mvts b n) s) d s.turn (Trap.word .illegal)) ∧
    (∀ u, readable n = true → readOnly n = false → (privilegedReg n = true → g.mode = .privileged) →
      writeStateReg d s.turn n v = .ok u → exec (.mvts b n) s = .next (u.complete s.turn)) ∧
    (g.mode = .privileged → v % 4 = 0 →
      exec (.mvts b 0x001) s = .next ((d.setRegion s.turn { g with tvec := BitVec.ofNat 64 v }).complete s.turn)) ∧
    (g.mode = .privileged → v % 4 ≠ 0 → TrapsWith (exec (.mvts b 0x001) s) d s.turn (Trap.word .illegal)) ∧
    (g.mode = .privileged →
      exec (.mvts b 0x002) s = .next ((d.setRegion s.turn { g with tpc := BitVec.ofNat 64 v }).complete s.turn)) ∧
    exec (.eventsClear b) s =
      .next ((d.setRegion s.turn { g with events := g.events &&& ~~~(BitVec.ofNat 64 v) }).complete s.turn) ∧
    (∀ core ctx, core < 16 → ctx < 4 → flagOperand d s.turn (0x100 + 4 * core + ctx) = .ok () →
      ∃ u, exec (.flagWordWrite b (0x100 + 4 * core + ctx)) s = .next (u.complete s.turn) ∧
        u = d.modCtx (coreOf s.turn core) ctx (fun k => { k with
          flags := v % 2 ^ 16 ||| k.fresh, enables := some k.trapEnables })) ∧
    (v / 512 = 0 → v / 64 % 4 = 0 → v / 256 = 0 → exec (.dselScorecardClear b) s =
      .next ((d.setRegion s.turn { g with dsel := BitVec.ofNat 64 (v % 64) }).complete s.turn)) ∧
    (v / 512 = 0 → v / 64 % 4 = 0 → v / 256 = 1 → exec (.dselScorecardClear b) s =
      .next (((d.setRegion s.turn { g with dsel := BitVec.ofNat 64 (v % 64) }).setCore (coreOf s.turn (v % 16))
        { d.core (coreOf s.turn (v % 16)) with
          scoreClears := v / 16 % 4 :: (d.core (coreOf s.turn (v % 16))).scoreClears }).complete s.turn)) ∧
    (∀ k : Core, k.takeCounts.counters = k.countersNew.foldl (fun l p => sput l p.1 p.2) k.counters ∧
      (∀ x ∈ k.scoreClears, (k.takeCounts.ctx x).score = [])) ∧
    (g.mode = .privileged → translationValueOk (translationAlign n) v = true →
      exec (.translationRegisterWrite b n) s =
        .next ((d.setRegion s.turn (g.setTranslationReg n (BitVec.ofNat 64 v))).complete s.turn)) ∧
    (g.mode = .privileged → translationValueOk (translationAlign n) v = false →
      TrapsWith (exec (.translationRegisterWrite b n) s) d s.turn (Trap.word .illegal))

/-- R136: `wfe` with a bit of the events register set clears the register and goes on; with none it waits, as it does for a store
whose home is held (R98, R281). -/
def WaitForEvent : Prop :=
  ∀ (s d : State) (g : Region), Drained s d → g = d.region s.turn →
    (g.events ≠ 0 → exec .wfe s = .next ((d.setRegion s.turn { g with events := 0 }).complete s.turn)) ∧
    (g.events = 0 → exec .wfe s = .next (d.wait s.turn)) ∧
    (∀ u : State, u.drains u.turn = false → exec .wfe u = .next ((u.drain u.turn).wait u.turn))

/-- R113: a command that waits has taken no effect but that its core's earlier stores are performed (R98): pc stands, and no
register, core, tile or byte of memory changes beyond those stores. -/
def WaitingTakesNoEffect : Prop :=
  ∀ (s d : State), Drained s d →
    d.wait s.turn = (d.setRegion s.turn { d.region s.turn with waiting := true }).tick ∧
    (d.wait s.turn).cores = s.cores ∧ (d.wait s.turn).mem = (s.storeAll (s.region s.turn).stores).mem ∧
    ((d.wait s.turn).region s.turn).pc = (s.region s.turn).pc ∧ (∀ n, (d.wait s.turn).getX s.turn n = s.getX s.turn n)

/-- R136, R113: events and waiting. -/
def Obligations.WaitingAndEvents : Prop := WaitForEvent ∧ WaitingTakesNoEffect

/-! ## Commands: streams, blocks, frames, tokens -/

/-- R115: `apset` and `apmod` of a record that passes its checks write the pattern register; a record that does not raises
ILLEGAL and leaves it (of a misaligned one R115 names no fault: ILLEGAL is log 24). -/
def PatternCommands : Prop :=
  ∀ (s d : State) (b f ap addr : Nat) (g : Region), Drained s d → g = d.region s.turn →
    addr = (d.getX s.turn b).toNat →
    (∀ bs, addr % 64 = 0 → recordRead d s.turn addr 64 = .ok bs → patOk (wordsOf 8 bs) = true →
      exec (.apset b ap) s = .next ((d.setRegion s.turn { g with aps := sput g.aps ap (wordsOf 8 bs) }).complete s.turn)) ∧
    (∀ bs, addr % 64 = 0 → recordRead d s.turn addr 64 = .ok bs → patOk (wordsOf 8 bs) = false →
      TrapsWith (exec (.apset b ap) s) d s.turn (Trap.word .illegal)) ∧
    (addr % 64 ≠ 0 → TrapsWith (exec (.apset b ap) s) d s.turn (Trap.word .illegal)) ∧
    (∀ p, patMod (g.ap ap) f addr = some p → patOk p = true →
      exec (.apmod b f ap) s = .next ((d.setRegion s.turn { g with aps := sput g.aps ap p }).complete s.turn)) ∧
    (10 ≤ f → TrapsWith (exec (.apmod b f ap) s) d s.turn (Trap.word .illegal))

/-- R117, R118, R120: `sbind` places a stream in the queue of a port of every core of its mask, `sbar` a barrier in every
port of its masks, with wait 1 first placing and then waiting; `sstat` reads the ports. -/
def PortCommands : Prop :=
  ∀ (s d : State) (a b port ctx ap core : Nat) (cs ps : List Nat) (g : Region), Drained s d →
    g = d.region s.turn →
    (maskOperand d s.turn a = .ok cs → ctxOperand d cs ctx = .ok () →
      (∀ c ∈ cs, (d.ctx c ctx).block ≠ none ∧ ((d.core c).portQ port).length < 4) →
      exec (.sbind a b port ctx ap) s =
        .next ((cs.foldl (fun t c => t.setPortQ c port ((t.core c).portQ port ++ [newEntry ctx (g.ap ap) (d.getX s.turn b)]))
          d).complete s.turn)) ∧
    (sbarOperands d a b = .ok (cs, ps) → g.bars = [] → (∀ c ∈ cs, ∀ p ∈ ps, ((d.core c).portQ p).length < 4) →
      exec (.sbar a b 0) s = .next ((cs.foldl (placeBarrier ps) d).complete s.turn)) ∧
    (sbarOperands d a b = .ok (cs, ps) → g.bars = [] → (∀ c ∈ cs, ∀ p ∈ ps, ((d.core c).portQ p).length < 4) →
      ∃ t, exec (.sbar a b 1) s = .next t ∧ (t.region s.turn).bars = cs.map (fun c => (c, (d.core c).nextBar)) ∧
        (t.region s.turn).pc = g.pc) ∧
    (sbarOperands d a b = .ok (cs, ps) → g.bars ≠ [] → (∀ p ∈ g.bars, (d.core p.1).hasBarrier p.2 = false) →
      exec (.sbar a b 1) s = .next ((d.setRegion s.turn { g with bars := [] }).complete s.turn)) ∧
    (∀ c, coreOperand d s.turn core = .ok c → ∃ v, exec (.sstat a core) s = .next ((d.setX s.turn a v).complete s.turn) ∧
      (∀ p, p < 16 → v.getLsbD p = ((d.core c).portQ p).any (·.active) ∧
        v.getLsbD (16 + p) = ((d.core c).portQ p).any (fun e => !e.active) ∧
        v.getLsbD (32 + p) = ((d.core c).portQ p).any (·.stopped) ∧
        v.getLsbD (48 + p) = decide (((d.core c).portQ p).length = 4)))

/-- R115 to R120: the stream commands. -/
def Obligations.StreamCommands : Prop := PatternCommands ∧ PortCommands

/-- R121, R122: `bload` of an image that every core of the mask accepts gives each its block; `bdrop` of a context with no
live frame removes what the context holds; R123, R22: `lwait` with no live frame ends the launch. -/
def BlockCommands : Prop :=
  ∀ (s d : State) (a b ctx : Nat) (cs : List Nat), Drained s d →
    (∀ ws u, maskOperand d s.turn a = .ok cs → ctxOperand d cs ctx = .ok () → (∀ c ∈ cs, (d.ctx c ctx).block = none) →
      readImage d s.turn (d.getX s.turn b).toNat (cs.headD 0) ctx = .ok ws →
      loadAll (blockOf (d.getX s.turn b) ws) ctx cs d = .ok u → exec (.bload a b ctx) s = .next (u.complete s.turn)) ∧
    (∀ c, maskOperand d s.turn a = .ok cs → ctxOperand d cs ctx = .ok () → c ∈ cs → (d.ctx c ctx).block ≠ none →
      TrapsWith (exec (.bload a b ctx) s) d s.turn (Trap.word .illegal)) ∧
    (maskOperand d s.turn a = .ok cs → ctxOperand d cs ctx = .ok () → (∀ c ∈ cs, (d.core c).hasFrames ctx = false) →
      exec (.bdrop a ctx) s = .next ((cs.foldl (dropOn ctx) d).complete s.turn)) ∧
    (d.liveFrames s.turn = false → exec .lwait s = .next (d.endLaunch s.turn 0x00 0).tick) ∧
    (d.liveFrames s.turn = true → ∃ t, exec .lwait s = .next t ∧ (t.region s.turn).atLwait = true ∧
      (t.region s.turn).pc = (d.region s.turn).pc)

/-- R124, R125: `fopen` of a context with a block takes the lowest free frame number, writes its entry and returns it; it
waits with no number or bank; a context with no block raises ILLEGAL. `fwait` completes once the number is free. -/
def FrameCommands : Prop :=
  ∀ (s d : State) (a b core depth ctx c : Nat), Drained s d → coreOperand d s.turn core = .ok c →
    (∀ blk route xf regs n bank spill, ctxOperand d [c] ctx = .ok () → (d.ctx c ctx).block = some blk →
      openRecord d s.turn (d.getX s.turn b).toNat = .ok (route, xf, regs) → (d.core c).freeFrame = some n →
      (d.core c).placeBank ctx = some (bank, spill) →
      ∃ t, exec (.fopen a b core depth ctx) s = .next t ∧ (a ≠ 0 → t.getX s.turn a = BitVec.ofNat 64 n) ∧
        (t.core c).frame n = some (Frame.fresh ctx depth bank blk route xf regs d.ticks.toNat) ∧
        (∀ m, m ≠ n → (t.core c).frame m = (d.core c).frame m) ∧ t.mem = d.mem ∧
        (∀ q, q ≠ a → t.getX s.turn q = d.getX s.turn q) ∧ (∀ q, q ≠ c → t.core q = d.core q)) ∧
    (ctxOperand d [c] ctx = .ok () → (d.ctx c ctx).block = none →
      TrapsWith (exec (.fopen a b core depth ctx) s) d s.turn (Trap.word .illegal)) ∧
    (∀ blk x, ctxOperand d [c] ctx = .ok () → (d.ctx c ctx).block = some blk →
      openRecord d s.turn (d.getX s.turn b).toNat = .ok x → (d.core c).freeFrame = none →
      exec (.fopen a b core depth ctx) s = .next (d.wait s.turn)) ∧
    ((d.core c).frame ((d.getX s.turn a).toNat % 256) = none → exec (.fwait a core) s = .next (d.complete s.turn)) ∧
    ((d.core c).frame ((d.getX s.turn a).toNat % 256) ≠ none → exec (.fwait a core) s = .next (d.wait s.turn))

/-- R121 to R125: blocks, frames and the launch's end. -/
def Obligations.BlockAndFrameCommands : Prop := BlockCommands ∧ FrameCommands

/-- R126, R127: `tsend` of a header that raises no fault sends its token, with the congestion mark 0 and the payload read
from memory as a load reads it (R305); it waits while the pair has sixteen packets undelivered, and that wait counts at the first hop
(R290). `trecv` takes the oldest message, writes xa, and stores the valid bytes where a buffer is named. -/
def Obligations.TokenCommands : Prop :=
  ∀ (s d : State) (a b p h : Nat) (u : Token) (g : Region), Drained s d → g = d.region s.turn →
    h = 2 ^ 64 * (d.getX s.turn a).toNat + (d.getX s.turn b).toNat → u = { tokenOf h [] with mark := 0 } →
    (tsendFault (g.mode == .privileged) u p = none → u.len = 0 → bit g.tdest.toNat 6 = false →
      (d.canSend (mailbox s.turn) u.dest = true →
        exec (.tsend a b p) s = .next ((d.sendSourced g.sendSince (packetOf (mailbox s.turn) u)).complete s.turn)) ∧
      (d.canSend (mailbox s.turn) u.dest = false → exec (.tsend a b p) s = .next ((d.setRegion s.turn { g with
        sendSince := some (g.sendSince.getD d.ticks.toNat) }).wait s.turn))) ∧
    (∀ v n e, tsendFault (g.mode == .privileged) u p = none → n = lenBytes u.len → n ≠ 0 → p ≠ 0 →
      (d.getX s.turn p).toNat % 16 = 0 → loadBytes d s.turn (d.getX s.turn p).toNat n = .ok v → bit g.tdest.toNat 6 = false →
      d.canSend (mailbox s.turn) u.dest = true → e = d.askAccess s.turn (d.getX s.turn p).toNat n .read .load →
      exec (.tsend a b p) s = .next ((e.sendSourced g.sendSince (packetOf (mailbox s.turn)
        { u with payload := (toBytes u.inl v ++ List.replicate n 0).take n })).complete s.turn)) ∧
    (∀ f, tsendFault (g.mode == .privileged) u p = some f → TrapsWith (exec (.tsend a b p) s) d s.turn (Trap.word f)) ∧
    (∀ m rest, g.msgs = m :: rest → (m.len = 0 ∨ d.getX s.turn b = 0 ∨ m.kind ≠ TokenKind.data) →
      exec (.trecv a b) s =
        .next (((d.setRegion s.turn { g with msgs := rest }).setX s.turn a (messageWord m)).complete s.turn)) ∧
    (∀ m rest e, g.msgs = m :: rest → m.len ≠ 0 → d.getX s.turn b ≠ 0 → m.kind = TokenKind.data →
      storePayload d s.turn (d.getX s.turn b).toNat (m.payload.take m.inl) = .ok e →
      exec (.trecv a b) s =
        .next (((e.setRegion s.turn { e.region s.turn with msgs := rest }).setX s.turn a (messageWord m)).complete s.turn)) ∧
    (g.msgs = [] → exec (.trecv a b) s = .next (d.wait s.turn))

/-- R128, R129, R130, R219: `talloc` of a request that has been served returns its tile's number; a request joins the list, whose pool
is served at the end of the beat, and waits there; `trel` releases a ready tile of the context or publishes its `talloc` tile; `tstate`
reads a tile's entry. -/
def TileCommands : Prop :=
  ∀ (s d : State) (a b core ctx c : Nat), Drained s d → coreOperand d s.turn core = .ok c →
    (∀ w n k, tallocOperands d b core ctx = .ok (c, w) → (d.core c).takeGrant w.key = some (n, k) →
      exec (.talloc a b core ctx) s = .next (((d.setCore c k).setX s.turn a (BitVec.ofNat 64 n)).complete s.turn)) ∧
    (∀ w, tallocOperands d b core ctx = .ok (c, w) → (d.core c).takeGrant w.key = none →
      ((d.core c).waits.any (fun v => v.key == w.key) = true → exec (.talloc a b core ctx) s = .next (d.wait s.turn)) ∧
      ((d.core c).waits.any (fun v => v.key == w.key) = false →
        (∀ e, d.request c w = some e → exec (.talloc a b core ctx) s = .next (e.wait s.turn) ∧
          (e.core c).waits.any (fun v => v.key == w.key) = true ∧ w.pool ∈ (e.core c).touched) ∧
        (d.request c w = none → exec (.talloc a b core ctx) s = .next (d.wait s.turn)))) ∧
    (∀ n t, n = (d.getX s.turn a).toNat % 128 → t = d.tile c n → ctxOperand d [c] ctx = .ok () → t.owner = ctx →
      (t.state = .ready → t.readers ≠ 0 → exec (.trel a core 0 ctx) s = .next ((d.releaseTile c n).complete s.turn)) ∧
      (t.state = .filling → t.producer = .talloc →
        exec (.trel a core 1 ctx) s = .next ((d.commitTile c n).complete s.turn)) ∧
      (t.state = .draining → TrapsWith (exec (.trel a core 0 ctx) s) d s.turn (Trap.word .illegal))) ∧
    (∀ n t, n = (d.getX s.turn b).toNat % 128 → t = d.tile c n →
      exec (.tstate a b core 0) s = .next ((d.setX s.turn a (BitVec.ofNat 64 t.word0)).complete s.turn) ∧
      exec (.tstate a b core 1) s = .next ((d.setX s.turn a (BitVec.ofNat 64 t.word1)).complete s.turn))

/-- R131, R209: `ringinit` sets up a ring that holds no slot; `ringwait` takes the next filled slot, advances the take pointer and
returns the slot's tile, and waits where there is none and in a beat in which the fabric takes it; `ringrel`
releases the tile of the slot the free pointer names, whoever owns it now (log 69). -/
def RingCommands : Prop :=
  ∀ (s d : State) (a core ring ctx c : Nat) (g : Ring), Drained s d → coreOperand d s.turn core = .ok c →
    ctxOperand d [c] ctx = .ok () → g = (d.ctx c ctx).ring ring →
    (∀ q, ringOf (d.getX s.turn a).toNat = some q → g.held = 0 → ringFloorOk (d.core c) ctx ring q = true →
      exec (.ringinit a core ring ctx) s = .next ((d.modCtx c ctx (fun k => k.setRing ring q)).complete s.turn)) ∧
    (∀ q, ringOf (d.getX s.turn a).toNat = some q → g.held ≠ 0 →
      TrapsWith (exec (.ringinit a core ring ctx) s) d s.turn (Trap.word .illegal)) ∧
    (g.filled ≠ 0 → (d.core c).ringFires ctx ring = false → exec (.ringwait a core ring ctx) s =
      .next (((d.modCtx c ctx (fun k => k.setRing ring { g with kp := (g.kp + 1) % 65536 })).setX s.turn a
        (BitVec.ofNat 64 (g.tileOf g.kp))).complete s.turn)) ∧
    (g.filled = 0 ∨ (d.core c).ringFires ctx ring = true → exec (.ringwait a core ring ctx) s = .next (d.wait s.turn)) ∧
    (g.fp ≠ g.kp → (d.tile c (g.tileOf g.fp)).state = .ready → (d.tile c (g.tileOf g.fp)).readers ≠ 0 →
      exec (.ringrel core ring ctx) s = .next ((d.releaseTile c (g.tileOf g.fp)).complete s.turn)) ∧
    (g.fp = g.kp ∨ (d.tile c (g.tileOf g.fp)).state = .draining →
      TrapsWith (exec (.ringrel core ring ctx) s) d s.turn (Trap.word .illegal))

/-- R128 to R131: tiles and rings. -/
def Obligations.TileAndRingCommands : Prop := TileCommands ∧ RingCommands


/-! ## Commands: copies, phase counters, collectives, contexts, debug -/

/-- One copy command: a record that passes its checks joins the queue of its class, and a full queue makes it wait. -/
def CopyCompletes (mk : Nat → Nat → Nat → Instr) (op : Nat) : Prop :=
  ∀ (s d : State) (b core ctx c addr : Nat) (bs : List Nat) (ws : List Word), Drained s d →
    addr = (d.getX s.turn b).toNat → ws = wordsOf 4 bs →
    (addr % 32 ≠ 0 → TrapsWith (exec (mk b core ctx) s) d s.turn (Trap.word .illegal)) ∧
    (addr % 32 = 0 → recordRead d s.turn addr 32 = .ok bs → copyRecordOk ws op (d.region s.turn).mask = false →
      TrapsWith (exec (mk b core ctx) s) d s.turn (Trap.word .illegal)) ∧
    (addr % 32 = 0 → recordRead d s.turn addr 32 = .ok bs → copyRecordOk ws op (d.region s.turn).mask = true →
      coreOperand d s.turn core = .ok c → ctxOperand d [c] ctx = .ok () → (d.ctx c ctx).block ≠ none →
      (((d.core c).copyQ (bits (nth 0 ws 0).toNat 59 58)).length < 16 →
        exec (mk b core ctx) s = .next ((d.enqueueCopy c ctx 31 ws).complete s.turn)) ∧
      (16 ≤ ((d.core c).copyQ (bits (nth 0 ws 0).toNat 59 58)).length →
        exec (mk b core ctx) s = .next (d.wait s.turn)))

/-- R247: the six copy commands. -/
def CopyCommandsEnqueue : Prop :=
  CopyCompletes .cp 0 ∧ CopyCompletes .cpg 1 ∧ CopyCompletes .cps 2 ∧ CopyCompletes .cpsa 3 ∧ CopyCompletes .cpm 4 ∧
  CopyCompletes .cpbin 5

/-- R259, R251: `cpcancel` of an id that no queue holds completes; with retry 1 a stopped copy goes on; with retry 0 the copy
is taken out, and the command waits while chunks already issued are under way; `cpq` sets the four quanta. -/
def CopyControlCommands : Prop :=
  ∀ (s d : State) (a b core retry ctx id c : Nat), Drained s d → coreOperand d s.turn core = .ok c →
    ((d.getX s.turn a).toNat = id → id < 256 → ctxOperand d [c] ctx = .ok () → (d.region s.turn).cancelling = none →
      ((d.core c).findCopy id ctx = none → exec (.cpcancel a core retry ctx) s = .next (d.complete s.turn)) ∧
      (∀ q, (d.core c).findCopy id ctx = some q →
        exec (.cpcancel a core 1 ctx) s = .next ((if q.stopped then
          d.modCopy c (fun u => u.modify q.uid (fun e => { e with stopped := false })) else d).complete s.turn)) ∧
      (∀ q, (d.core c).findCopy id ctx = some q → ((d.cancelCopy c q).core c).copy.flying.any (fun e => e.uid == q.uid) = false →
        exec (.cpcancel a core 0 ctx) s = .next ((d.cancelCopy c q).complete s.turn)) ∧
      (∀ q, (d.core c).findCopy id ctx = some q → ((d.cancelCopy c q).core c).copy.flying.any (fun e => e.uid == q.uid) = true →
        ∃ t, exec (.cpcancel a core 0 ctx) s = .next t ∧ (t.region s.turn).cancelling = some (c, q.uid) ∧
          (t.region s.turn).pc = ((d.cancelCopy c q).region s.turn).pc)) ∧
    (∀ q0 q1 q2 q3, (d.getX s.turn b).toNat = q0 + 2 ^ 8 * q1 + 2 ^ 16 * q2 + 2 ^ 24 * q3 → 2 ≤ q0 → q0 < 256 → 2 ≤ q1 →
      q1 < 256 → 2 ≤ q2 → q2 < 256 → 2 ≤ q3 → q3 < 256 →
      exec (.cpq b core) s = .next ((d.modCopy c (fun u => { u with quanta := [q0, q1, q2, q3] })).complete s.turn))

/-- R247, R251, R259: the copy commands. -/
def Obligations.CopyCommands : Prop := CopyCommandsEnqueue ∧ CopyControlCommands

/-- R286: `pcinit` marks a counter and gives it phase 0, no arrivals, its expectation and its trigger; `pcarrive` and
`pcexpect` add to a marked counter; `pcwait` completes once the phase differs; an unmarked counter raises ILLEGAL. That the command's
packet goes to the counter's home as an atomic's does, and a `pcwait`'s as a read of its phase, is the model's choice (log 44). -/
def PhaseCommands : Prop :=
  ∀ (s d u : State) (a b core ctx k v : Nat), Drained s d → v = (d.getX s.turn b).toNat →
    counterOperand d s.turn a core ctx false = .ok k → u = d.askControl s.turn (d.nodeOf k) .atomic →
    (∀ e : State, bit (v / 2 ^ 32) 0 = false → bits (v / 2 ^ 32) 18 18 = 0 →
      e = (u.store (counterKeys k) ({ phase := 0, e := v % 2 ^ 32, a := 0, trigger := v / 2 ^ 32 : PhaseCtr }.bytes)).noteKeys
        (counterKeys k) false →
      exec (.pcinit a b core ctx) s =
        .next ((({ e with marks := insertNat e.marks k } : State).register (v / 2 ^ 32)).complete s.turn)) ∧
    (1 ≤ v → v < 2 ^ 32 → d.poisonedAt (counterKeys k) = false → d.marked k = true →
      exec (.pcarrive a b core ctx) s = .next ((u.cycle k v).complete s.turn) ∧
      exec (.pcexpect a b core ctx) s = .next ((u.expectMore k v).complete s.turn)) ∧
    (v < 2 ^ 32 → d.poisonedAt (counterKeys k) = false → d.marked k = true →
      ((d.counter k).phase ≠ v → exec (.pcwait a b core ctx) s =
        .next ((d.askControl s.turn (d.nodeOf k) .phase).complete s.turn)) ∧
      ((d.counter k).phase = v → exec (.pcwait a b core ctx) s = .next (d.wait s.turn))) ∧
    (1 ≤ v → v < 2 ^ 32 → d.poisonedAt (counterKeys k) = false → d.marked k = false →
      TrapsWith (exec (.pcarrive a b core ctx) s) d s.turn (Trap.word .illegal) ∧
      TrapsWith (exec (.pcexpect a b core ctx) s) d s.turn (Trap.word .illegal) ∧
      TrapsWith (exec (.pcwait a b core ctx) s) d s.turn (Trap.word .illegal))

/-- R299: `coll` of a record that passes its checks reads its vector and joins the region's collectives, and waits while four
are under way; `collwait` completes once no collective of its id is under way. -/
def CollectiveCommands : Prop :=
  ∀ (s d : State) (a b addr id : Nat) (bs src dst : List Nat) (ws : List Word) (g : Region), Drained s d →
    g = d.region s.turn → addr = (d.getX s.turn b).toNat → ws = wordsOf 4 bs →
    (addr % 32 = 0 → recordRead d s.turn addr 32 = .ok bs → collRecordOk d s.turn ws = true →
      vectorKeys d s.turn (nth 0 ws 1).toNat .read 8192
        (memBits (collFmt (nth 0 ws 0).toNat) / 8 * collCount (nth 0 ws 0).toNat) = .ok src →
      vectorKeys d s.turn (nth 0 ws 2).toNat .write 8192
        (memBits (collFmt (nth 0 ws 0).toNat) / 8 * collCount (nth 0 ws 0).toNat) = .ok dst →
      ((g.colls.filter (fun k => !k.freed)).length < 4 → vaultHeld d src = false →
        exec (.coll b) s = .next ((d.setRegion s.turn { g with colls := g.colls ++
          [{ words := ws, data := elementsAt d (memBits (collFmt (nth 0 ws 0).toNat) / 8) (collCount (nth 0 ws 0).toNat) src,
             dest := dst, start := d.ticks.toNat, paused := 0, freed := false }] }).complete s.turn)) ∧
      ((4 ≤ (g.colls.filter (fun k => !k.freed)).length ∨ vaultHeld d src = true) →
        exec (.coll b) s = .next (d.wait s.turn))) ∧
    ((d.getX s.turn a).toNat = id → id < 256 →
      (g.colls.any (fun k => !k.freed && collId k.c0 == id) = false →
        exec (.collwait a) s = .next (d.complete s.turn)) ∧
      (g.colls.any (fun k => !k.freed && collId k.c0 == id) = true → exec (.collwait a) s = .next (d.wait s.turn)))

/-- R286, R299: phase counters and collectives. -/
def Obligations.PhaseAndCollectiveCommands : Prop := PhaseCommands ∧ CollectiveCommands

/-- R335, R37: on every core of the mask `cxprio` sets the firing priority from the next beat, `cxpark` stops a context from the
next beat and completes when it is stopped everywhere, and `cxresume` resumes it; a vacant slot makes `cxresume` wait. -/
def ContextSlotCommands : Prop :=
  ∀ (s d : State) (a prio ctx : Nat) (cs : List Nat), Drained s d → maskOperand d s.turn a = .ok cs →
    (ctxOperand d cs ctx = .ok () → (∀ c ∈ cs, (d.ctx c ctx).block ≠ none) →
      exec (.cxprio a prio ctx) s =
        .next ((cs.foldl (fun t c => t.modCtx c ctx (fun k => { k with prioNew := some prio })) d).complete s.turn)) ∧
    (ctxOperand d cs ctx = .ok () → (∀ c ∈ cs, (d.ctx c ctx).slot ≠ .empty) →
      ((∀ c ∈ cs, (d.ctx c ctx).slot = .stopped) → exec (.cxpark a ctx) s = .next (d.complete s.turn)) ∧
      ((∃ c ∈ cs, (d.ctx c ctx).slot ≠ .stopped) → exec (.cxpark a ctx) s =
        .next ((cs.foldl (fun t c => t.modCtx c ctx (fun k => { k with parkNew := true })) d).wait s.turn))) ∧
    (∀ k : Ctx, k.parkNew = true → k.slot = .resident → k.nextBeat.slot = .stopped) ∧
    (∀ u, (∀ c ∈ cs, (d.ctx c ctx).slot ≠ .empty ∧ (d.ctx c ctx).slot ≠ .vacant) → resumeAll ctx cs d = .ok u →
      exec (.cxresume a ctx) s = .next (u.complete s.turn)) ∧
    ((∃ c ∈ cs, (d.ctx c ctx).slot = .vacant) → exec (.cxresume a ctx) s = .next (d.wait s.turn))

/-- R336, R342, R339: in privileged mode `cxsave` of a resident or stopped slot reaches its switch-out point with a free diversion
entry, `cxrest` merges an image whose tiles are free, and waits with the merge asked for where they are not; `dvmap` gives an
entry its proof, a new pointer while no record is in it; `dvclr` clears an entry, and is done at once where there is none. -/
def Obligations.ContextImageCommands : Prop :=
  ∀ (s d : State) (a b core ctx e c ptr v : Nat), Drained s d → (d.region s.turn).mode = .privileged →
    coreOperand d s.turn core = .ok c → ptr = (d.getX s.turn b).toNat → v = (d.getX s.turn a).toNat →
    (∀ l, bits v 31 16 = 0 → bits v 63 48 = 0 → 2 ≤ bits v 47 32 → bits v 47 32 ≤ 256 → ptr / 2 ^ 60 = 8 → ptr % 4096 = 0 →
      sfind (d.core c).saves ctx = none → ((d.ctx c ctx).slot = .resident ∨ (d.ctx c ctx).slot = .stopped) →
      (d.core c).freeEntry = some e → (d.region s.turn).launch = some l →
      exec (.cxsave a b core ctx) s =
        .next ((switchOut d c ctx (bits v 15 0) ptr (4096 * bits v 47 32) e l).complete s.turn)) ∧
    (∀ w image log, restoreOperands d s.turn c ctx ptr = .ok (e, w, image, log) →
      (tilesFree (d.core c) (imageTiles image) = true →
        exec (.cxrest b core ctx) s = .next ((mergeImage d c ctx e ptr w image log).complete s.turn)) ∧
      (tilesFree (d.core c) (imageTiles image) = false →
        exec (.cxrest b core ctx) s = .next ((d.setCore c { d.core c with restore := some (ctx, e, ptr) }).wait s.turn))) ∧
    (∀ bs w proof, ptr % 32 = 0 → recordRead d s.turn ptr 32 = .ok bs → d.div c e = some w → bit (itemWord bs 0) 63 = true →
      bits (itemWord bs 0) 62 61 = w.slot → bits (itemWord bs 0) 47 32 = w.cxid → bits (itemWord bs 0) 31 0 = w.seq →
      itemWord bs 1 = w.image.toNat → w.used ≤ bits (itemWord bs 3) 63 48 → bits (itemWord bs 3) 63 48 ≠ 0 →
      proof = itemWord bs 2 →
      (proof = w.proof.toNat ∨ (w.used = 0 ∧ proof / 2 ^ 60 = 8 ∧ proof % 32 = 0) →
        exec (.dvmap b core e) s = .next ((d.setDiv c e { w with
          proof := BitVec.ofNat 64 proof, size := bits (itemWord bs 3) 63 48, full := false }).complete s.turn)) ∧
      (proof ≠ w.proof.toNat → w.used ≠ 0 → TrapsWith (exec (.dvmap b core e) s) d s.turn (Trap.word .illegal))) ∧
    (d.div c e = none → ptr % 32 = 0 → (∃ bs, recordRead d s.turn ptr 32 = .ok bs) →
      TrapsWith (exec (.dvmap b core e) s) d s.turn (Trap.word .illegal)) ∧
    (d.div c e = none → exec (.dvclr core e) s = .next (d.complete s.turn)) ∧
    (∀ w ks, d.div c e = some w → imageHeld d c w.image.toNat 8 = false →
      resolve d (.control s.turn) w.image.toNat 8 .write = .ok ks → ((startClear d c e w).core c).workOf e = false →
      exec (.dvclr core e) s = .next ((endClear (startClear d c e w) c e w ks).complete s.turn))

/-- R358, R37: `renter` and `rleave` push and pop the region stacks they name, a context's from its next beat, `smark` writes a
mark record, `bkpt` sets or clears a context's breakpoint. -/
def DebugCommands : Prop :=
  ∀ (s d : State) (a b core ctx c v : Nat) (g : Region), Drained s d → g = d.region s.turn →
    v = (d.getX s.turn b).toNat →
    (v < 2 ^ 16 → g.rstack.length < 16 → exec (.renter 0 b 1 0) s =
      .next ((d.setRegion s.turn { g with rstack := g.rstack ++ [v] }).complete s.turn)) ∧
    (1 < g.rstack.length → exec (.rleave 0 1 0) s =
      .next ((d.setRegion s.turn { g with rstack := g.rstack.dropLast }).complete s.turn)) ∧
    (∀ cs, maskOperand d s.turn a = .ok cs → ctxOperand d cs ctx = .ok () → (∀ q ∈ cs, (d.ctx q ctx).block ≠ none) →
      (v < 2 ^ 16 → (∀ q ∈ cs, (d.ctx q ctx).stackNow.length < 16) → exec (.renter a b 0 ctx) s =
        .next ((cs.foldl (fun t q => t.modCtx q ctx (fun k => { k with stackNew := some (k.stackNow ++ [v]) })) d).complete
          s.turn)) ∧
      ((∀ q ∈ cs, 1 < (d.ctx q ctx).stackNow.length) → exec (.rleave a 0 ctx) s =
        .next ((cs.foldl (fun t q => t.modCtx q ctx (fun k => { k with stackNew := some k.stackNow.dropLast })) d).complete
          s.turn))) ∧
    (v < 2 ^ 32 → exec (.smark b) s = .next ((d.record s.turn (coreOf s.turn 0) (recordQ0 2 0 0 0 1 0 0 0)
      (recordQ2 (stackTop g.rstack).1 (stackTop g.rstack).2 v) 0).complete s.turn)) ∧
    (coreOperand d s.turn core = .ok c → ctxOperand d [c] ctx = .ok () → bits v 30 0 = 0 → (d.ctx c ctx).block ≠ none →
      exec (.bkpt b core ctx) s = .next ((d.modCtx c ctx (fun k => { k with
        bkpt := if bit v 31 then some { block := bits v 63 48, region := bits v 47 32 } else none })).complete s.turn))

/-- R335, R358: context slots and debug. -/
def Obligations.ContextAndDebugCommands : Prop := ContextSlotCommands ∧ DebugCommands


/-! ## The digit fabric -/

/-- What an element carries from train to train belongs to one instance: with a train of another instance at port a it starts at
rest, its digit beats and its latch kept (that this is when it rests is log 93); nothing else changes. -/
def ElementsRestBetweenInstances : Prop :=
  ∀ (s t : State) (c x i : Nat), t = s.freshElem c x i →
    (∀ h, (s.ctx c x).head i 0 = some h → ((s.ctx c x).elem i).inst ≠ h.inst → (t.ctx c x).elem i = { Elem.reset with
      inst := h.inst, held := ((s.ctx c x).elem i).held, latch := ((s.ctx c x).elem i).latch,
      next := ((s.ctx c x).elem i).next }) ∧
    (∀ h, (s.ctx c x).head i 0 = some h → ((s.ctx c x).elem i).inst = h.inst → t = s) ∧
    ((s.ctx c x).head i 0 = none → t = s) ∧ t.mem = s.mem ∧ t.regions = s.regions ∧
    (∀ j, j ≠ i → (t.ctx c x).elem j = (s.ctx c x).elem j) ∧ (t.ctx c x).queues = (s.ctx c x).queues ∧
    (t.ctx c x).insts = (s.ctx c x).insts

/-- The element of `State.cur` in state `s0`, which `s` is with the element at rest for a new instance (log 93), holds word `w`, may
work, and has a train at every port: none at EOS or all at EOS, no train from a verdict for the instance, and no train whose format
the word refuses (R143, R149, R157, R235). -/
def Fires (s0 s : State) (w : FWord) (c x i : Nat) (b : Block) (hs : List (Nat × Timed)) : Prop :=
  s = s0.freshElem c x i ∧
  s.cur = { core := c, ctx := x, idx := i } ∧ (s.ctx c x).block = some b ∧ (s.ctx c x).slot = .resident ∧
  (s.ctx c x).steer = none ∧ i < b.count ∧ b.isFallback i = false ∧ headsOf (s.ctx c x) i (b.ports i) = some hs ∧
  (s.ctx c x).fixOf i (instOf hs) = none ∧ ((s.ctx c x).elem i).ended = false ∧ badPort w (firingTag w hs) hs = none ∧
  ((∀ h ∈ hs, h.2.train.kind ≠ .eos) ∨ (∀ h ∈ hs, h.2.train.kind = .eos))

/-- What a firing of a compute word sends: one train of the result's lanes, or two (qblk). -/
def computeOuts (o : FOut) (tag : Nat) : List Out :=
  match o.second with
  | none => [{ off := 0, which := 0, train := { kind := .data, fmt := o.fmt, lanes := o.lanes, tag := tag }, lf := [] }]
  | some (f, ls) => [{ off := 0, which := 1, train := { kind := .data, fmt := o.fmt, lanes := o.lanes, tag := tag }, lf := [] },
      { off := 0, which := 2, train := { kind := .data, fmt := f, lanes := ls, tag := tag }, lf := [] }]

/-- One compute word: on data it takes the train of every port and sends the result of `body`; a null or poison train gives
one (R159), and takes the flags that its producer holds back (R144); EOS on every port is passed on and the element rests (R41). -/
def ComputeFires (mk : Fab → Instr) (kind sub : Nat) (body : FArg → FOut) : Prop :=
  ∀ (s0 s : State) (f : Fab) (w : FWord) (c x i : Nat) (b : Block) (hs : List (Nat × Timed)),
    w = { kind := kind, sub := sub, f := f } → Fires s0 s w c x i b hs → hs ≠ [] →
    exec (mk f) s0 = .next (fireCompute w body s b c x i hs).tick ∧
    ((∀ h ∈ hs, h.2.train.kind = .eos) →
      exec (mk f) s0 = .next (passEos s b w c x i (outTag w (firingTag w hs)) hs).tick) ∧
    ((∀ h ∈ hs, h.2.train.kind ≠ .eos) → (∃ h ∈ hs, governs w h.1 = none) →
      (∀ k, k = firingKind hs → k ≠ .data → exec (mk f) s0 = .next (s.payHead c x i hs
        (emitOne s (s.popData c x i hs) b w c x i hs 0 [outKind k (outTag w (firingTag w hs)) (tagOf hs)])).tick) ∧
      (∀ a o h, firingKind hs = .data → headAt hs 0 = some h → h.lf = [] → cancellable b i = false →
        a = { w := w, b := b, fmt := firingTag w hs, a := (headAt hs 0).map (·.train), pb := (headAt hs 1).map (·.train),
              c := (headAt hs 2).map (·.train), p := (headAt hs 3).map (·.train), st := s.lfsr c x i } →
        o = body a → o.err = none → exec (mk f) s0 =
          .next (emitOne s (if f.mode = 5 then (s.popData c x i hs).setLfsr c x i o.st else s.popData c x i hs) b w c x i hs
            (o.flags.foldl (fun p q => p ||| q) 0) (computeOuts o (tagOf hs))).tick) ∧
      (∀ a o e, firingKind hs = .data → cancellable b i = false →
        a = { w := w, b := b, fmt := firingTag w hs, a := (headAt hs 0).map (·.train), pb := (headAt hs 1).map (·.train),
              c := (headAt hs 2).map (·.train), p := (headAt hs 3).map (·.train), st := s.lfsr c x i } →
        o = body a → o.err = some e → exec (mk f) s0 = .next (s.raise c x i e 0 (tagOf hs) 0).tick))

/-- Table 8.1, kinds ADD and MUL. -/
def AddAndMulWordsFire : Prop :=
  ComputeFires .fAdd 0 0 (addSub 0) ∧ ComputeFires .fSub 0 1 (addSub 1) ∧ ComputeFires .fNeg 0 2 (addSub 2) ∧
  ComputeFires .fAbs 0 3 (addSub 3) ∧ ComputeFires .fAbsdiff 0 4 (addSub 4) ∧ ComputeFires .fAddc 0 5 (addSub 5) ∧
  ComputeFires .fMul 1 0 (mulSub 0) ∧ ComputeFires .fFma 1 1 (mulSub 1) ∧ ComputeFires .fFms 1 2 (mulSub 2) ∧
  ComputeFires .fFnma 1 3 (mulSub 3) ∧ ComputeFires .fMulhi 1 4 mulhi ∧ ComputeFires .fMulsc 1 5 mulsc

/-- Table 8.1, kinds CMP and BIT. -/
def CmpAndBitWordsFire : Prop :=
  ComputeFires .fCmpEq 2 0 (cmpSub 0) ∧ ComputeFires .fCmpNe 2 1 (cmpSub 1) ∧ ComputeFires .fCmpLt 2 2 (cmpSub 2) ∧
  ComputeFires .fCmpLe 2 3 (cmpSub 3) ∧ ComputeFires .fCmpGt 2 4 (cmpSub 4) ∧ ComputeFires .fCmpGe 2 5 (cmpSub 5) ∧
  ComputeFires .fCmpMin 2 8 (minMaxSub true) ∧ ComputeFires .fCmpMax 2 9 (minMaxSub false) ∧
  ComputeFires .fSign 2 10 thrSub ∧ ComputeFires .fThr 2 11 thrSub ∧ ComputeFires .fClamp 2 12 clampSub ∧
  ComputeFires .fAnd 3 0 (bitSub 0) ∧ ComputeFires .fOr 3 1 (bitSub 1) ∧ ComputeFires .fXor 3 2 (bitSub 2) ∧
  ComputeFires .fNot 3 3 (bitSub 3) ∧ ComputeFires .fShl 3 4 (shiftSub 4) ∧ ComputeFires .fShr 3 5 (shiftSub 5) ∧
  ComputeFires .fSra 3 6 (shiftSub 6) ∧ ComputeFires .fPopc 3 7 (bitSub 7) ∧ ComputeFires .fClz 3 8 (bitSub 8) ∧
  ComputeFires .fBsel 3 9 (bitSub 9)

/-- Table 8.1, kinds CVT and FUNC. -/
def CvtAndFuncWordsFire : Prop :=
  ComputeFires .fCvt 4 0 cvt ∧ ComputeFires .fRnd 4 1 rnd ∧ ComputeFires .fResolve 4 2 resolveSub ∧
  ComputeFires .fQblk 4 3 qblk ∧ ComputeFires .fDqblk 4 4 dqblk ∧ ComputeFires .fSat 4 5 satSub ∧
  ComputeFires .fExp2 5 0 (funcSub 0) ∧ ComputeFires .fLog2 5 1 (funcSub 1) ∧ ComputeFires .fRcp 5 2 (funcSub 2) ∧
  ComputeFires .fRsqrt 5 3 (funcSub 3) ∧ ComputeFires .fSqrt 5 4 (funcSub 4) ∧ ComputeFires .fDiv 5 5 (funcSub 5) ∧
  ComputeFires .fSigm 5 6 (funcSub 6) ∧ ComputeFires .fTanh 5 7 (funcSub 7)

/-- Table 8.1: the compute words. -/
def Obligations.ComputeWordsFire : Prop :=
  AddAndMulWordsFire ∧ CmpAndBitWordsFire ∧ CvtAndFuncWordsFire ∧ ElementsRestBetweenInstances

/-- The exact value that an integer lane stands for. -/
def laneInt (o : FOut) (j : Nat) : Int := (intOf (nth .absent o.lanes j)).1

/-- The value an integer lane stands for as signedness bit [9] has a comparison or selection read it: the spec says 'as unsigned when
it is 1'; that a lane below 0 is then its pattern of the lane's width is log 91. -/
def readInt (fmt : Nat) (uns : Bool) (v : Int) : Int := if uns = true ∧ v < 0 then v % 2 ^ laneBits fmt else v

/-- R139, R162, R163, R166, R167: on integer lanes the sums and products are those of the exact integers, and the comparisons and
selections those of the values as bit [9] has them read (log 91). -/
def Obligations.IntegerLanesAreExact : Prop :=
  ∀ (x : FArg) (j : Nat) (u hu v hv z hz p q : Int), isInt x.fmt = true → x.p = none → j < lanesOf x.fmt →
    laneAt x.a j = some (.int u hu) → laneAt x.pb j = some (.int v hv) → laneAt x.c j = some (.int z hz) →
    p = readInt x.fmt x.w.uns u → q = readInt x.fmt x.w.uns v →
    laneInt (addSub 0 x) j = u + v ∧ laneInt (addSub 1 x) j = u - v ∧ laneInt (addSub 2 x) j = -u ∧
    laneInt (addSub 3 x) j = u.natAbs ∧ laneInt (addSub 4 x) j = (u - v).natAbs ∧ laneInt (addSub 5 x) j = u + v + z ∧
    laneInt (mulSub 0 x) j = u * v ∧ laneInt (mulSub 1 x) j = u * v + z ∧ laneInt (mulSub 2 x) j = u * v - z ∧
    laneInt (mulSub 3 x) j = z - u * v ∧
    (j < lanesOf (intTag (laneBits x.fmt)) →
      laneInt (cmpSub 0 x) j = (if p = q then 1 else 0) ∧ laneInt (cmpSub 1 x) j = (if p = q then 0 else 1) ∧
      laneInt (cmpSub 2 x) j = (if p < q then 1 else 0) ∧ laneInt (cmpSub 3 x) j = (if p ≤ q then 1 else 0) ∧
      laneInt (cmpSub 4 x) j = (if q < p then 1 else 0) ∧ laneInt (cmpSub 5 x) j = (if q ≤ p then 1 else 0)) ∧
    laneInt (minMaxSub true x) j = min p q ∧ laneInt (minMaxSub false x) j = max p q

/-- R157: a data train whose format the word's mask leaves out, at a port that does not govern, is steered to the fallback
the word names, and faults FORMAT-UNACCEPTED where it names none; a memory word has no fallback field (R183; that it faults is log
17). The trains stay at their ports. -/
def Obligations.UnacceptedFormatsSteerOrFault : Prop :=
  ∀ (s : State) (w : FWord) (c x i p : Nat) (t : Timed),
    (w.isMem = true ∨ w.f.lsid = 31 →
      steer s w c x i p t .outside = s.raise c x i .formatUnaccepted w.detail t.train.tag 0) ∧
    (w.isMem = false → w.f.lsid ≠ 31 → t.src ≠ returnedMark → (s.ctx c x).trapBit fSteered = none →
      ((steer s w c x i p t .outside).ctx c x).steer =
        some { idx := i, port := p, fb := w.f.lsid, train := t.train, asked := false } ∧
      ((steer s w c x i p t .outside).ctx c x).queues = (s.ctx c x).queues) ∧
    (steer s w c x i p t .fault = s.raise c x i .formatUnaccepted w.detail t.train.tag 0)

/-- A flow word in lock step: EOS passes, and `outs` is what it sends for the trains of a firing. -/
def FlowFires (mk : Fab → Instr) (kind sub : Nat) (body : FlowBody) : Prop :=
  ∀ (s0 s : State) (f : Fab) (w : FWord) (c x i : Nat) (b : Block) (hs : List (Nat × Timed)),
    w = { kind := kind, sub := sub, f := f } → Fires s0 s w c x i b hs → exec (mk f) s0 = .next (body w s b c x i hs).tick

/-- R186, R187, R188: the STEER words take the train of every port and send, on data: sel lane by lane by its predicate;
route to target A on a true decision and to B on a false one, null to the other; merge the chosen input; fan a copy; gate
the train on true and null on false; filt packs the lanes it keeps. A null or poison train at a port gives one on every target of
route and gate (R159, R185). EOS passes. -/
def Obligations.SteerWordsFire : Prop :=
  FlowFires .fSel 6 0 (lockStep selOuts) ∧ FlowFires .fRoute 6 1 (lockStep routeOuts) ∧
  FlowFires .fMerge 6 2 (lockStep mergeOuts) ∧ FlowFires .fFan 6 3 (lockStep fanOuts) ∧
  FlowFires .fFilt 6 4 filtBody ∧ FlowFires .fGate 6 5 (lockStep gateOuts) ∧
  (∀ (outs : TokenKind → List (Nat × Timed) → List Out) (w : FWord) (s : State) (b : Block) (c x i : Nat)
    (hs : List (Nat × Timed)),
    ((∀ h ∈ hs, h.2.train.kind = .eos) → lockStep outs w s b c x i hs = passEos s b w c x i (fmtOf hs) hs) ∧
    ((∃ h ∈ hs, h.2.train.kind ≠ .eos) →
      lockStep outs w s b c x i hs = emitOne s (s.popData c x i hs) b w c x i hs 0 (outs (firingKind hs) hs))) ∧
  (∀ (k : TokenKind) (hs : List (Nat × Timed)) (a p t : Train), a = trainAt hs 0 → t = trainAt hs 1 → p = trainAt hs 3 →
    fanOuts k hs = [toAll a] ∧
    (k ≠ .data → routeOuts k hs = [toAll (kindTrain k (fmtOf hs) (tagOf hs))] ∧
      gateOuts k hs = [toAll (kindTrain k (fmtOf hs) (tagOf hs))]) ∧
    (k = .data →
      (decision p = true → routeOuts k hs = [toOne 1 a, toOne 2 (kindTrain .null a.fmt a.tag)] ∧ gateOuts k hs = [toAll a]) ∧
      (decision p = false → routeOuts k hs = [toOne 1 (kindTrain .null a.fmt a.tag), toOne 2 a] ∧
        gateOuts k hs = [toAll (kindTrain .null (fmtOf hs) (tagOf hs))])) ∧
    (p.kind = .data → mergeOuts k hs = [toAll (if decision p then a else t)]) ∧
    (k ≠ .data → selOuts k hs = [toAll (kindTrain k (fmtOf hs) (tagOf hs))]) ∧
    (k = .data → ∃ o, selOuts k hs = [toAll o] ∧ o.kind = .data ∧ o.fmt = a.fmt ∧ o.tag = a.tag ∧
      o.lanes.length = lanesOf a.fmt ∧ (∀ j g, j < lanesOf a.fmt → g = govLane p (laneBits a.fmt) j →
        ((g = .absent ∨ a.lane j = .absent ∨ t.lane j = .absent) → o.lane j = .absent) ∧
        (g ≠ .absent → a.lane j ≠ .absent → t.lane j ≠ .absent →
          o.lane j = (if (intOf g).1 ≠ 0 then a.lane j else t.lane j))))) ∧
  (∀ (w : FWord) (s : State) (b : Block) (c x i : Nat) (hs : List (Nat × Timed)) (a : Train) (m : Elem) (acc : List Lane),
    a = trainAt hs 0 → m = (s.ctx c x).elem i → (∃ h ∈ hs, h.2.train.kind ≠ .eos) → firingKind hs = .data →
    acc = m.acc ++ ((range 0 (lanesOf a.fmt)).filter (fun j =>
      a.lane j != .absent && (intOf (govLane (trainAt hs 3) (laneBits a.fmt) j)).1 != 0)).map a.lane →
    (lanesOf a.fmt ≤ acc.length → filtBody w s b c x i hs = stepElem s b w c x i hs
      { m with acc := acc.drop (lanesOf a.fmt), limit := a.fmt } 0 [toAll (packTrain a.fmt (tagOf hs) acc)]) ∧
    (acc.length < lanesOf a.fmt → filtBody w s b c x i hs = stepElem s b w c x i hs
      { m with acc := acc, limit := a.fmt } 0 [toAll (kindTrain .null (fmtOf hs) (tagOf hs))]))

/-- R189, R191: the reductions and keyred take the train of every port. A data train of a reduction is combined into the running
lanes and gives null, poison once a train of the instance was poison; at EOS the result follows with EOS behind it. A lane of
keyred joins its run while its key stays, and another key ends the run; the completed runs are kept until they fill a train. -/
def ReductionWordsFire : Prop :=
  FlowFires .fRedSum 7 0 (redBody 0) ∧ FlowFires .fRedMax 7 1 (redBody 1) ∧ FlowFires .fRedMin 7 2 (redBody 2) ∧
  FlowFires .fKeyred 7 5 keyredBody ∧
  (∀ (op : Nat) (w : FWord) (s : State) (b : Block) (c x i : Nat) (hs : List (Nat × Timed)) (a : Train) (m : Elem),
    a = trainAt hs 0 → m = (s.ctx c x).elem i → m.poisoned = false →
    ((∃ h ∈ hs, h.2.train.kind ≠ .eos) → a.kind = .data → (∃ l ∈ a.lanes, l ≠ .absent) →
      (m.started = false ∨ m.limit = a.fmt) →
      redBody op w s b c x i hs = stepElem s b w c x i hs { m with
        started := true, acc := (foldLanes op a.fmt m.acc (a.lanes.map (redLane w op a.fmt))).1, limit := a.fmt }
        (foldLanes op a.fmt m.acc (a.lanes.map (redLane w op a.fmt))).2 [outKind .null a.fmt a.tag]) ∧
    ((∃ h ∈ hs, h.2.train.kind ≠ .eos) → a.kind = .data → (∀ l ∈ a.lanes, l = .absent) →
      redBody op w s b c x i hs = stepElem s b w c x i hs m 0 [outKind .null a.fmt a.tag]) ∧
    ((∃ h ∈ hs, h.2.train.kind ≠ .eos) → a.kind = .null →
      redBody op w s b c x i hs = stepElem s b w c x i hs m 0 [outKind .null a.fmt a.tag]) ∧
    ((∃ h ∈ hs, h.2.train.kind ≠ .eos) → a.kind = .poison →
      redBody op w s b c x i hs = stepElem s b w c x i hs { m with poisoned := true } 0 [outKind .poison a.fmt a.tag]) ∧
    ((∀ h ∈ hs, h.2.train.kind = .eos) → m.started = true → bit w.imm 8 = false →
      redBody op w s b c x i hs = endElem s b w c x i hs 0
        [toAll (packTrain m.limit a.tag (m.acc.map (refresh m.limit))), eosNext m.limit a.tag])) ∧
  (∀ (op : Nat) (w : FWord) (s : State) (b : Block) (c x i : Nat) (hs : List (Nat × Timed)) (a : Train) (m : Elem),
    a = trainAt hs 0 → m = (s.ctx c x).elem i → m.poisoned = true → (∃ h ∈ hs, h.2.train.kind ≠ .eos) →
    (a.kind = .null ∨ (a.kind = .data ∧ ∀ l ∈ a.lanes, l = .absent)) →
    redBody op w s b c x i hs = stepElem s b w c x i hs m 0 [outKind .poison a.fmt a.tag]) ∧
  (∀ (op fmt : Nat) (as ls : List Lane) (j : Nat) (p q : Lane), as.length = ls.length → as[j]? = some p → ls[j]? = some q →
    (foldLanes op fmt as ls).1[j]? = some (if p = .absent then (startLane op fmt q).1 else if q = .absent then p
      else (redStep op fmt p q).1)) ∧
  (∀ (op fmt g : Nat) (m : Elem) (v key u k : Lane), m.runVal = some u → m.runKey = some k →
    ((intOf k).1 = (intOf key).1 → runStep op fmt (m, g) v key =
      ({ m with runVal := some (redStep op fmt u v).1 }, g ||| (redStep op fmt u v).2)) ∧
    ((intOf k).1 ≠ (intOf key).1 → runStep op fmt (m, g) v key =
      ({ m with acc := m.acc ++ [u], keys := m.keys ++ [k], runVal := some (startLane op fmt v).1, runKey := some key },
        g ||| (startLane op fmt v).2))) ∧
  (∀ (w : FWord) (s : State) (b : Block) (c x i g : Nat) (hs : List (Nat × Timed)) (a kt : Train) (m n : Elem),
    a = trainAt hs 0 → kt = trainAt hs 1 → m = (s.ctx c x).elem i → (∃ h ∈ hs, h.2.train.kind ≠ .eos) →
    firingKind hs = .data → (n, g) = (range 0 (lanesOf a.fmt)).foldl (fun r j =>
      if a.lane j = .absent ∨ readLane kt.fmt w.uns (kt.lane j) = .absent then r
      else runStep (bits w.imm 1 0) a.fmt r (redLane w (bits w.imm 1 0) a.fmt (a.lane j))
        (readLane kt.fmt w.uns (kt.lane j))) (m, 0) →
    n.acc.length < lanesOf a.fmt → n.poisoned = false → keyredBody w s b c x i hs =
      stepElem s b w c x i hs { n with limit := a.fmt, version := kt.fmt } g
        [toOne 1 (kindTrain .null a.fmt (tagOf hs)), toOne 2 (kindTrain .null kt.fmt (tagOf hs))])

/-- R190: a scan or recur element takes one train of port a, with the train of its recurrence port from position d on, and
sends its combination; at EOS it passes EOS, and its recurrence port still owes one where it is fed. -/
def RecurrenceWordsFire : Prop :=
  ∀ (s0 s : State) (f : Fab) (c x i sub : Nat) (mk : Fab → Instr) (w : FWord) (b : Block) (k : Ctx) (a : Timed),
    (sub = 3 ∧ mk = .fScan) ∨ (sub = 4 ∧ mk = .fRecur) → w = { kind := 7, sub := sub, f := f } →
    s0.cur = { core := c, ctx := x, idx := i } → (s0.ctx c x).block = some b → (s0.ctx c x).slot = .resident →
    (s0.ctx c x).steer = none → i < b.count → b.isFallback i = false → s = (drainRecur s0 c x i).freshElem c x i →
    k = s.ctx c x → k.head i 0 = some a → k.fixOf i a.inst = none → (k.elem i).ended = false →
    (a.train.kind = .eos → b.fed i 3 = false → exec (mk f) s0 = .next (passEos s b w c x i a.train.fmt [(0, a)]).tick) ∧
    (a.train.kind = .eos → b.fed i 3 = true → exec (mk f) s0 =
      .next (passEos (s.modInst c x a.inst (fun n => { n with owedEos := insertNat n.owedEos i })) b w c x i a.train.fmt
        [(0, a)]).tick) ∧
    (a.train.kind ≠ .eos → badPort w (firingTag w [(0, a)]) [(0, a)] = none →
      (b.fed i 3 = false ∨ (k.elem i).count < bits f.imm 7 5 + 1 →
        exec (mk f) s0 = .next (recurFire (sub == 3) w s b c x i [(0, a)]).tick) ∧
      (∀ q, b.fed i 3 = true → bits f.imm 7 5 + 1 ≤ (k.elem i).count → k.head i 3 = some q →
        badPort w (firingTag w [(0, a)]) [(0, a), (3, q)] = none →
        exec (mk f) s0 = .next (recurFire (sub == 3) w s b c x i [(0, a), (3, q)]).tick))

/-- R190: what a scan or recur element sends for train k of its instance: poison once a train of it was poison; for a null train the
recurrence train where that is data; else the combination of train a's lanes with those of the recurrence train, the initial value
up to position d and the identity where no recurrence is fed or a lane of it is absent: lane-wise for recur, as a prefix with the
last lane carried in for scan. Absent lanes of a stay absent. -/
def RecurrenceSends : Prop :=
  (∀ (scan : Bool) (w : FWord) (s : State) (b : Block) (c x i fmt : Nat) (hs : List (Nat × Timed)) (h : Timed) (a : Train) (m : Elem)
    (q : Option Train) (poison : Bool), headAt hs 0 = some h → a = h.train → m = (s.ctx c x).elem i → fmt = firingTag w [(0, h)] →
    q = recurTrain w b i m.count fmt (headAt hs 3) →
    poison = (a.kind == .poison || m.poisoned || q.any (fun t => t.kind == .poison)) →
    (poison = true → recurFire scan w s b c x i hs = stepElem s b w c x i hs { m with count := m.count + 1, poisoned := true } 0
      [toAll (kindTrain .poison fmt a.tag)]) ∧
    (poison = false → a.kind = .null → recurFire scan w s b c x i hs =
      stepElem s b w c x i hs { m with count := m.count + 1 } 0
        [toAll { (if (q.any (fun t => t.kind == .data)) = true then q.getD default else kindTrain .null fmt a.tag) with tag := a.tag }]) ∧
    (∀ lane al r, poison = false → a.kind = .data →
      (∀ t j, q = some t → t.kind = .data → t.lane j ≠ .absent → lane j = redLane w (bits w.imm 1 0) fmt (t.lane j)) →
      (∀ j, (∀ t, q = some t → t.kind = .data → t.lane j = .absent) → lane j = identity (bits w.imm 1 0) fmt w.uns) →
      (∀ j, al j = redLane w (bits w.imm 1 0) fmt (a.lane j)) →
      r = (if scan then scanLanes (bits w.imm 1 0) fmt (lane (lanesOf fmt - 1)) al else recurLanes (bits w.imm 1 0) fmt lane al) →
      recurFire scan w s b c x i hs = stepElem s b w c x i hs { m with count := m.count + 1 } r.2
        [toAll { kind := .data, fmt := fmt, lanes := r.1, tag := a.tag }])) ∧
  (∀ (w : FWord) (b : Block) (i k fmt : Nat) (p : Option Timed),
    (b.fed i 3 = false → recurTrain w b i k fmt p = none) ∧
    (b.fed i 3 = true → k < bits w.imm 7 5 + 1 → recurTrain w b i k fmt p = some (fullTrain fmt (initialLane w b fmt))) ∧
    (b.fed i 3 = true → bits w.imm 7 5 + 1 ≤ k → recurTrain w b i k fmt p = p.map (·.train))) ∧
  (∀ (op fmt j : Nat) (q a : Nat → Lane), j < lanesOf fmt →
    (recurLanes op fmt q a).1.length = lanesOf fmt ∧ (a j = .absent → nth .absent (recurLanes op fmt q a).1 j = .absent) ∧
    (a j ≠ .absent → nth .absent (recurLanes op fmt q a).1 j =
      (if op = 0 then (addLanes fmt false [(q j, false), (a j, false)]).1 else minMax fmt (op == 2) (q j) (a j)))) ∧
  (∀ (op fmt n : Nat) (carry : Lane) (a : Nat → Lane), lanesOf fmt = n + 1 → a 0 ≠ .absent →
    (scanLanes op fmt carry a).1.length = n + 1 ∧ nth .absent (scanLanes op fmt carry a).1 0 = (redStep op fmt carry (a 0)).1 ∧
    (∀ j, j < n → a j ≠ .absent → a (j + 1) ≠ .absent → nth .absent (scanLanes op fmt carry a).1 (j + 1) =
      (redStep op fmt (nth .absent (scanLanes op fmt carry a).1 j) (a (j + 1))).1))

/-- R189 to R191: the RED words. -/
def Obligations.ReductionAndRecurrenceWordsFire : Prop := ReductionWordsFire ∧ RecurrenceWordsFire ∧ RecurrenceSends

/-- R201 to R206: the TAG words. push, pop, inc and chk pass every train with its tag changed or checked; seq sends its token
where the network and its queue take it, and stalls its context where they do not; eos ends the stream at the train of a true
decision; cnt sends a count for every N; mark counts every train that passes, EOS among them; bget puts a frame register in the
shape of the train. -/
def Obligations.TagWordsFire : Prop :=
  FlowFires .fPush 10 0 tagBody ∧ FlowFires .fPop 10 1 tagBody ∧ FlowFires .fInc 10 2 tagBody ∧
  FlowFires .fEos 10 3 eosBody ∧ FlowFires .fChk 10 4 tagBody ∧ FlowFires .fCnt 10 5 cntBody ∧
  FlowFires .fSeq 10 6 seqBody ∧ FlowFires .fMark 10 7 markBody ∧ FlowFires .fBget 10 8 bgetBody ∧
  (∀ (w : FWord) (s : State) (b : Block) (c x i tag : Nat) (hs : List (Nat × Timed)) (a : Train), a = trainAt hs 0 →
    (∃ h ∈ hs, h.2.train.kind ≠ .eos) →
    (tagEffect w b (frameDepth s c a.tag) a.tag = .ok tag → tagBody w s b c x i hs =
      emitOne s (s.popData c x i hs) b w c x i hs 0 [toAll { a with tag := tag }]) ∧
    (∀ f, tagEffect w b (frameDepth s c a.tag) a.tag = .error f → tagBody w s b c x i hs = s.raise c x i f 0 a.tag 0) ∧
    (a.kind = .data → (8 ≤ bits (b.param (bits w.imm 7 0)) 13 10 ∨ isInt a.fmt = true) →
      (s.seqMay c (seqToken w b c x i a) = true → seqBody w s b c x i hs =
        emitOne s (((s.popData c x i hs).notLate c x i).seqSend c x i (seqToken w b c x i a)) b w c x i hs 0 [toAll a]) ∧
      (s.seqMay c (seqToken w b c x i a) = false → seqBody w s b c x i hs = s.seqWait c x i ∧
        ((s.seqWait c x i).ctx c x).late = ((s.ctx c x).late.filter (fun l => l.1 != i)) ++ [(i, 1)])) ∧
    (a.kind = .data → bits (b.param (bits w.imm 7 0)) 13 10 < 8 → isInt a.fmt = false →
      seqBody w s b c x i hs = s.raise c x i .formatUnaccepted 0 a.tag 0) ∧
    markBody w s b c x i hs =
      emitOne s ((s.passMark w c x (instOf hs)).popData c x i hs) b w c x i hs 0 [toAll a]) ∧
  (∀ (w : FWord) (s : State) (b : Block) (c x i : Nat) (hs : List (Nat × Timed)), (∀ h ∈ hs, h.2.train.kind = .eos) →
    markBody w s b c x i hs = passEos (s.passMark w c x (instOf hs)) b w c x i (trainAt hs 0).fmt hs) ∧
  (∀ (w : FWord) (s : State) (b : Block) (c x i k n : Nat) (hs : List (Nat × Timed)) (a p : Train) (m : Elem) (v : Inst),
    a = trainAt hs 0 → p = trainAt hs 3 → m = (s.ctx c x).elem i → (∃ h ∈ hs, h.2.train.kind ≠ .eos) →
    (p.kind = .data → decision p = true → eosBody w s b c x i hs =
      stepElem s b w c x i hs { m with ended := true, busy := true } 0 [toAll a, eosNext a.fmt a.tag]) ∧
    (p.kind = .data → decision p = false → eosBody w s b c x i hs = stepElem s b w c x i hs m 0 [toAll a]) ∧
    (a.kind = .data → k = m.count + (if bit w.imm 8 then (a.lanes.filter (fun l => l != .absent)).length else 1) →
      n = bits (b.param (bits w.imm 7 0)) 31 0 →
      (n ≤ k → cntBody w s b c x i hs =
        stepElem s b w c x i hs { m with count := k % n } 0 [toAll (countTrain a.tag (k / n) 0)]) ∧
      (k < n → cntBody w s b c x i hs = stepElem s b w c x i hs { m with count := k } 0 [toAll (kindTrain .null 0 a.tag)])) ∧
    (a.kind = .data → (s.ctx c x).inst (instOf hs) = some v → bgetBody w s b c x i hs =
      emitOne s (s.popData c x i hs) b w c x i hs 0 [toAll { a with lanes := a.lanes.map (fun q =>
        if q = .absent then .absent else ofPattern a.fmt w.uns (sget 0 v.bank (bits w.imm 5 0))) }])) ∧
  (∀ (w : FWord) (b : Block) (d tag : Nat), tag < 2 ^ 64 →
    (w.sub = 0 → bits w.imm 2 0 ≤ d → (∀ j, bits w.imm 2 0 ≤ j + 1 → j < 7 → tagField tag j = 0) → 1 ≤ bits w.imm 2 0 →
      ∃ t, tagEffect w b d tag = .ok t ∧ tagField t 0 = 0 ∧ (∀ j, j < 6 → tagField t (j + 1) = tagField tag j) ∧
        frameOf t = frameOf tag) ∧
    (w.sub = 2 → bits w.imm 2 0 < d → bits w.imm 2 0 < 7 →
      ∃ t, tagEffect w b d tag = .ok t ∧ tagField t (bits w.imm 2 0) = (tagField tag (bits w.imm 2 0) + 1) % 256 ∧
        (∀ j, j < 8 → j ≠ bits w.imm 2 0 → tagField t j = tagField tag j)) ∧
    (w.sub ≤ 1 → d < bits w.imm 2 0 → tagEffect w b d tag = .error .tagDepth))

/-- The element of `State.cur` holds memory word `w` and may work. -/
def MemElemAt (s : State) (e : MemElem) : Prop :=
  s.cur = { core := e.c, ctx := e.x, idx := e.i } ∧ (s.ctx e.c e.x).block = some e.b ∧
  (s.ctx e.c e.x).slot = .resident ∧ (s.ctx e.c e.x).steer = none ∧ e.i < e.b.count ∧ e.b.isFallback e.i = false

/-- An LD element, once it has dropped trains of no use at its ports (log 95), may take its next step, and no verdict gives its
instance a train. -/
def LoadAt (s0 s : State) (e : MemElem) : Prop :=
  MemElemAt s0 e ∧ s = e.clean s0 ∧ (e.elem s).active = true ∧ (e.elem s).next ≤ (s.ctx e.c e.x).adv ∧
  (s.ctx e.c e.x).fixOf e.i (e.elem s).inst = none

/-- An `ldt` or `ldver` that reads no tile has a descriptor that passes its checks, its element at rest for the descriptor's instance,
and begins the read of the tile, which is ready and its context's: `s1` is the state after. -/
def DescriptorAt (s0 s s1 : State) (e : MemElem) (d : Timed) (v : Nat) : Prop :=
  MemElemAt s0 e ∧ (e.elem (e.clean s0)).started = false ∧ s = (e.clean s0).freshElem e.c e.x e.i ∧
  (e.elem s).next ≤ (s.ctx e.c e.x).adv ∧ (e.elem s).started = false ∧ (s.ctx e.c e.x).head e.i 0 = some d ∧
  (s.ctx e.c e.x).fixOf e.i d.inst = none ∧ d.train.kind = .data ∧ portVerdict e.w (bits e.w.imm 7 5) 0 d.train = .ok ∧
  e.w.accepts (bits e.w.imm 7 5) = true ∧ d.train.lane 0 ≠ .absent ∧ v = wrapInt 32 (intOf (d.train.lane 0)).1 ∧
  descOk v = true ∧ e.beginTile s d.inst (descTile v) (descGranule v) = .ok s1

/-- The next train of a running read may be read: its tile is still the context's, Table 10.2 lets it read, and no release at its end
faults (R214, R216). -/
def MayRead (e : MemElem) (s : State) : Prop :=
  e.readGate s (tileKeys e (e.elem s)).length
    (decide ((e.elem s).limit ≤ (e.elem s).pos + (tileKeys e (e.elem s)).length)) = none

/-- R192, R193: an `ld` whose instance is active asks its stream for one train; R194: `ldt`, `ldring` and `ldver` begin the
read of a ready tile that the context owns and send its first train, or read on while Table 10.2 lets them (R214). -/
def Obligations.LoadWordsFire : Prop :=
  (∀ (s0 s s1 : State) (f : Fab) (e : MemElem) (q : PortEntry), e.w = { kind := 8, sub := 0, f := f } → LoadAt s0 s e →
    (s.core e.c).activeEntry e.port = some q → q.ctx = e.x → patWrites q.pattern = false →
    ((e.elem s).started = true ∨ ldFmtOk e.w q.pattern = true) → e.after s = some s1 →
    ∃ r : MemReq, exec (.fLd f) s0 = .next (((s1.notLate e.c e.x e.i).setElem e.c e.x e.i
        { e.elem s1 with started := true, next := (s.ctx e.c e.x).adv + 2 }).postReq e.c r).tick ∧
      r.kind = .read ∧ r.ctx = e.x ∧ r.idx = e.i ∧ r.port = some e.port ∧ r.fmt = patFmt q.pattern ∧
      r.inst = (e.elem s).inst ∧ r.due = (s.ctx e.c e.x).adv + e.w.delay) ∧
  (∀ (s0 s s1 s2 : State) (f : Fab) (e : MemElem) (d : Timed) (v : Nat), e.w = { kind := 8, sub := 1, f := f } →
    DescriptorAt s0 s s1 e d v → MayRead e (s1.modCtx e.c e.x (fun k => k.pop e.i 0)) →
    e.after (s1.modCtx e.c e.x (fun k => k.pop e.i 0)) = some s2 →
    exec (.fLdt f) s0 = .next (e.readOn (s2.notLate e.c e.x e.i)).tick) ∧
  (∀ (s0 s s1 : State) (f : Fab) (e : MemElem) (d : Timed) (v : Nat), e.w = { kind := 8, sub := 4, f := f } →
    DescriptorAt s0 s s1 e d v →
    exec (.fLdver f) s0 = .next (e.verRead (s1.modCtx e.c e.x (fun k => k.pop e.i 0))).tick) ∧
  (∀ (s0 s s1 s2 : State) (f : Fab) (e : MemElem), e.w = { kind := 8, sub := 2, f := f } → LoadAt s0 s e →
    ((e.elem s).started = true → MayRead e s → e.after s = some s1 →
      exec (.fLdring f) s0 = .next (e.readOn (s1.notLate e.c e.x e.i)).tick) ∧
    ((e.elem s).started = false → e.w.accepts (bits e.w.imm 7 5) = true →
      e.beginTile s (e.elem s).inst (e.elem s).tile 0 = .ok s1 → MayRead e s1 → e.after s1 = some s2 →
      exec (.fLdring f) s0 = .next (e.readOn (s2.notLate e.c e.x e.i)).tick)) ∧
  (∀ (s0 s s1 : State) (f : Fab) (e : MemElem), LoadAt s0 s e → (e.elem s).started = true →
    (e.w = { kind := 8, sub := 1, f := f } → MayRead e s → e.after s = some s1 →
      exec (.fLdt f) s0 = .next (e.readOn (s1.notLate e.c e.x e.i)).tick) ∧
    (e.w = { kind := 8, sub := 4, f := f } → (e.elem s).count = 1 → exec (.fLdver f) s0 = .next (e.verOut s).tick))

/-- What an ldg or an ST word needs to make its accesses: it may work, a train is at every port and none is EOS, its port's active
entry is the context's, and a first train takes no entry that an earlier instance has done with (R192, R195, R263). -/
def MemFires (s0 s : State) (e : MemElem) (hs : List (Nat × Timed)) (a : Timed) (q : PortEntry) : Prop :=
  Fires s0 s e.w e.c e.x e.i e.b hs ∧ (∀ h ∈ hs, h.2.train.kind ≠ .eos) ∧ headAt hs 0 = some a ∧
  (s.core e.c).activeEntry e.port = some q ∧ q.ctx = e.x ∧ ((e.elem s).started = true ∨ q.finished = false)

/-- R195: `ldg` on data of a table of its format posts one read request: each access at the address its index gives, as bit [9] has
it read, answered where the static schedule puts it; its trains are taken. An index outside the table raises GATHER-INDEX, and a
table of another format or element size FORMAT-UNACCEPTED. -/
def GatherFires : Prop :=
  ∀ (s0 s : State) (f : Fab) (e : MemElem) (hs : List (Nat × Timed)) (a : Timed) (q : PortEntry) (fmt now : Nat)
    (ix : List (Nat × Int)), e.w = { kind := 8, sub := 3, f := f } → MemFires s0 s e hs a q → a.train.kind = .data →
    fmt = patFmt q.pattern → ix = indexLanes e.w.uns a.train → now = (s.ctx e.c e.x).adv →
    ((e.w.accepts fmt = false ∨ laneBits fmt ≠ laneBits a.train.fmt ∨ 2 ^ patSize q.pattern ≠ laneBits fmt / 8) →
      exec (.fLdg f) s0 = .next (e.fault s .formatUnaccepted a.train.tag).tick) ∧
    (e.w.accepts fmt = true → laneBits fmt = laneBits a.train.fmt → 2 ^ patSize q.pattern = laneBits fmt / 8 →
      ((∃ p ∈ ix, p.2 < 0 ∨ (patCount q.pattern 0 : Int) ≤ p.2) →
        exec (.fLdg f) s0 = .next (e.fault s .gatherIndex a.train.tag).tick) ∧
      ((∀ p ∈ ix, 0 ≤ p.2 ∧ p.2 < (patCount q.pattern 0 : Int)) → ∃ r : MemReq,
        exec (.fLdg f) s0 = .next ((((s.popData e.c e.x e.i hs).notLate e.c e.x e.i).setElem e.c e.x e.i
          ({ e.elem s with started := true, inst := instOf hs }.hold now now (now + 1) (instOf hs))).postReq e.c r).tick ∧
        r.kind = .read ∧ r.ctx = e.x ∧ r.idx = e.i ∧ r.inst = instOf hs ∧ r.port = some e.port ∧ r.fmt = fmt ∧
        r.tag = a.train.tag ∧ r.due = now + e.w.delay ∧
        r.accs.map (·.addr) = ix.map (fun p => tableAddr q.pattern q.addend p.2) ∧
        r.accs.map (·.lane) = ix.map (·.1) ∧ (∀ v ∈ r.accs, v.size = laneBits fmt / 8))) ∧
    (∀ j v h, j < lanesOf a.train.fmt → isInt a.train.fmt = true → a.train.lane j = .int v h →
      (j, readInt a.train.fmt e.w.uns v) ∈ indexLanes e.w.uns a.train)

/-- R196: each lane is resolved in ascending order in the word's format; a poison train has none. -/
def StorePatterns : Prop :=
  ∀ (w : FWord) (fmt st : Nat) (a : Train) (js : List Nat),
    (stPatterns w fmt a true js st).1 = js.map (fun j => (j, 0, true)) ∧
    (w.f.mode ≠ 5 → (stPatterns w fmt a false js st).1 =
      js.map (fun j => (j, (resolveLane fmt w.uns w.f.mode st (a.lane j)).1, false)))

/-- One ST word whose port's entry has its format and whose indices lie in its table: where no flag it raises traps, it posts one
request of the kind the word names, with an access for each lane it writes, at the address of its index for a table; its trains
are taken, its LFSR steps in mode 101, its flags join the instance's, and the frame's stores open grow by the requests. Where the
frame can hold no more it waits (R196 to R200). -/
def StoreFires (mk : Fab → Instr) (sub : Nat) (kind : ReqKind) : Prop :=
  ∀ (s0 s : State) (f : Fab) (e : MemElem) (hs : List (Nat × Timed)) (a : Timed) (q : PortEntry) (fr : Frame)
    (n flags st now : Nat) (js : List Nat) (items : List (Nat × Nat × Bool)) (accs : List Access),
    e.w = { kind := 9, sub := sub, f := f } → MemFires s0 s e hs a q → (∀ h ∈ dataHeads hs, h.2.train.kind ≠ .null) →
    (sub = 0 → (e.elem s).busy = false ∧ patWrites q.pattern = true) → js = storeLanes e.w (dataHeads hs) →
    (sub ≠ 0 → (trainAt (dataHeads hs) 1).kind = .data ∧ ∀ j ∈ js, 0 ≤ storeIndex e.w (dataHeads hs) j ∧
      storeIndex e.w (dataHeads hs) j < (patCount q.pattern (if sub = 4 then 1 else 0) : Int)) →
    stFmtOk e.w a.train.fmt q.pattern = true → now = (s.ctx e.c e.x).adv →
    storeItems e.w (dataHeads hs) js (s.lfsr e.c e.x e.i) = (items, flags, st) →
    accs = stAccesses e.w a.train q (storeIndex e.w (dataHeads hs)) items →
    n = (if sub ≤ 1 then lineCount (stPointers s e.c e.port e.w q accs) else accs.length) →
    (s.core e.c).frame (frameOf (tagOf hs)) = some fr →
    (1023 < fr.stores + n → exec (mk f) s0 = .next (s.setLate e.c e.x e.i 0).tick) ∧
    (fr.stores + n ≤ 1023 → (s.ctx e.c e.x).trapBit flags = none → ∃ (r : MemReq) (t : State),
      t = ((s.popData e.c e.x e.i hs).notLate e.c e.x e.i).setElem e.c e.x e.i
        ({ e.elem s with started := true, inst := instOf hs }.hold now now (now + e.w.delay + 1) (instOf hs)) ∧
      exec (mk f) s0 = .next ((((if f.mode = 5 then t.setLfsr e.c e.x e.i st else t).modFrame e.c (frameOf (tagOf hs)) (fun v =>
        { v with stores := v.stores + n })).postReq e.c r).modInst e.c e.x (instOf hs) (fun v =>
          { v with flags := v.flags ||| flags })).tick ∧
      r.kind = kind ∧ r.accs = accs ∧ r.lines = n ∧ r.ctx = e.x ∧ r.idx = e.i ∧ r.inst = instOf hs ∧ r.port = some e.port ∧
      r.fmt = a.train.fmt ∧ r.tag = tagOf hs ∧ r.due = now + e.w.delay ∧
      (1 ≤ sub → sub ≤ 3 → r.accs.map (·.addr) =
        items.map (fun j => tableAddr q.pattern q.addend (storeIndex e.w (dataHeads hs) j.1))) ∧
      (sub = 4 → r.accs.map (·.addr) = items.map (fun j =>
        nth 0 q.pattern 0 + q.addend + BitVec.ofInt 64 (storeIndex e.w (dataHeads hs) j.1 * patStride q.pattern 1))))

/-- R195 to R200: `ldg` and the ST words, their faults, and the null, poison and EOS trains that pass with no access; EOS ends the
instance's access to the port. -/
def Obligations.GatherAndStoreWordsFire : Prop :=
  GatherFires ∧ StoreFires .fSt 0 .write ∧ StoreFires .fSta 1 .write ∧ StoreFires .fStadd 2 .add ∧
  StoreFires .fStmax 3 .max ∧ StoreFires .fStbin 4 .append ∧ StorePatterns ∧
  (∀ (e : MemElem) (s : State) (hs : List (Nat × Timed)), hs ≠ [] →
    ((∀ h ∈ hs, h.2.train.kind = .eos) → stFire e s hs = memEos e s hs 0 ∧
      ldgFire e s hs = memEos e s hs (trainAt (dataHeads hs) 0).fmt) ∧
    ((∃ h ∈ hs, h.2.train.kind ≠ .eos) → (∃ h ∈ dataHeads hs, h.2.train.kind = .null) →
      stFire e s hs = memPass e s hs (firingKind (dataHeads hs)) 0) ∧
    ((∃ h ∈ hs, h.2.train.kind ≠ .eos) → (∀ h ∈ dataHeads hs, h.2.train.kind ≠ .null) → e.w.sub ≠ 0 →
      (trainAt (dataHeads hs) 1).kind = .poison → stFire e s hs = memPass e (s.countEvent e.c 12 e.x 1) hs .poison 0) ∧
    ((∃ h ∈ hs, h.2.train.kind ≠ .eos) → (trainAt (dataHeads hs) 0).kind ≠ .data → ldgFire e s hs =
      memPass e s hs (trainAt (dataHeads hs) 0).kind (trainAt (dataHeads hs) 0).fmt)) ∧
  (∀ (e : MemElem) (s : State) (hs : List (Nat × Timed)) (q : PortEntry), (∀ h ∈ dataHeads hs, h.2.train.kind = .data) →
    dataHeads hs ≠ [] → (∃ h ∈ hs, h.2.train.kind ≠ .eos) →
    (s.core e.c).activeEntry e.port = some q → q.ctx = e.x → stFmtOk e.w (trainAt (dataHeads hs) 0).fmt q.pattern = true →
    1 ≤ e.w.sub → (trainAt (dataHeads hs) 1).kind = .data →
    (∃ j ∈ storeLanes e.w (dataHeads hs), storeIndex e.w (dataHeads hs) j < 0 ∨
      (patCount q.pattern (if e.w.sub = 4 then 1 else 0) : Int) ≤ storeIndex e.w (dataHeads hs) j) →
    stFire e s hs = e.fault s .gatherIndex (tagOf hs)) ∧
  (∀ (e : MemElem) (s : State) (hs : List (Nat × Timed)) (q : PortEntry), firingKind (dataHeads hs) = .poison →
    (∀ h ∈ dataHeads hs, h.2.train.kind ≠ .null) → (∃ h ∈ hs, h.2.train.kind ≠ .eos) →
    (1 ≤ e.w.sub → (trainAt (dataHeads hs) 1).kind ≠ .poison) → (e.w.sub = 0 → (e.elem s).busy = false) →
    (s.core e.c).activeEntry e.port = some q → q.ctx = e.x → (e.w.sub = 0 → patWrites q.pattern = true) →
    stFire e s hs = storeNow e s hs q ((storeLanes e.w (dataHeads hs)).filter (indexIn e.w (dataHeads hs) q)))

/-- R215, R216, R219: `alloc` with a grant collects it and sends the tile's descriptor, places its request, whose pool is served as the
beat ends, and waits while it has none; `release` and
`handoff` pass their train and act when the instance commits. -/
def Obligations.AllocationWordsFire : Prop :=
  FlowFires .fAlloc 11 0 allocBody ∧ FlowFires .fRelease 11 1 (tileActBody false) ∧
  FlowFires .fHandoff 11 2 (tileActBody true) ∧
  (∀ (w : FWord) (s : State) (b : Block) (c x i tile : Nat) (k : Core) (hs : List (Nat × Timed)) (a : Train), a = trainAt hs 0 →
    (∃ h ∈ hs, h.2.train.kind ≠ .eos) → a.kind = .data →
    ((s.core c).takeGrant (allocWait b w x i (instOf hs) a.tag).key = some (tile, k) → allocBody w s b c x i hs =
      emitOne s (((s.setCore c k).popData c x i hs).notLate c x i) b w c x i hs 0 [toAll (descTrain a.tag tile)]) ∧
    ((s.core c).takeGrant (allocWait b w x i (instOf hs) a.tag).key = none →
      (s.core c).waits.any (fun v => v.key == (allocWait b w x i (instOf hs) a.tag).key) = true →
      allocBody w s b c x i hs = s.setLate c x i 2) ∧
    ((s.core c).takeGrant (allocWait b w x i (instOf hs) a.tag).key = none →
      (s.core c).waits.any (fun v => v.key == (allocWait b w x i (instOf hs) a.tag).key) = false →
      ((s.core c).waits.length < 64 → ∃ t, allocBody w s b c x i hs = t ∧
        (t.core c).waits.any (fun v => v.key == (allocWait b w x i (instOf hs) a.tag).key) = true ∧
        (allocWait b w x i (instOf hs) a.tag).pool ∈ (t.core c).touched ∧ t.mem = s.mem ∧ t.regions = s.regions) ∧
      (64 ≤ (s.core c).waits.length → allocBody w s b c x i hs = s.setLate c x i 2)) ∧
    (∀ h, a.lane 0 ≠ .absent → tileActBody h w s b c x i hs =
      emitOne s ((s.popData c x i hs).modInst c x (instOf hs) (fun n => { n with acts := n.acts ++
        [{ idx := i, handoff := h, desc := wrapInt 32 (intOf (a.lane 0)).1, owner := bits w.imm 1 0 }] }))
        b w c x i hs 0 [toAll a]))

/-- R39, R42, R41: an EOS closes an output channel of its frame once: the count of open sinks falls by one the first time and
not again. -/
def EosClosesASinkOnce : Prop :=
  ∀ (s : State) (c frame ch : Nat) (f : Frame), (s.core c).frame frame = some f →
    (f.eosCh.contains ch = false → ∃ g, ((s.closeSink c frame ch).core c).frame frame = some g ∧
      g.sinks = f.sinks - 1 ∧ g.eosCh.contains ch = true) ∧
    (s.closeSink c frame ch).closeSink c frame ch = s.closeSink c frame ch


/-! ## The matrix engine -/

/-- One matrix order at the head of its bank: it starts with the effect of its kind where its checks pass, is refused with
its fault, or waits. -/
def OrderRuns (mk : MxOrder → Instr) (op : Nat) (fab : Bool) (effect : State → Nat → Nat → MxOrder → Effect) : Prop :=
  ∀ (s : State) (c bank : Nat) (q : QOrder) (o : MxOrder), s.cur = { core := c, ctx := 0, idx := bank } →
    (s.core c).mx.headOrder bank = some q →
    (orderCheck s c q op o fab = .go → exec (mk o) s = .next (startOrder s c q op o (effect s c q.ctx o)).tick) ∧
    (∀ f, orderCheck s c q op o fab = .refuse f → exec (mk o) s = .next (refuseOrder s c q f).tick) ∧
    (orderCheck s c q op o fab = .wait → exec (mk o) s = .next s.tick)

/-- R312, R315 to R325: the nine orders. `acc.clr` clears its columns and no other word. -/
def MatrixOrdersRun : Prop :=
  OrderRuns .mMma 0 false mmaEffect ∧ OrderRuns .mMmaSp 1 false mmaSpEffect ∧ OrderRuns .mMmac 2 false mmacEffect ∧
  OrderRuns .mAccClr 3 false accClrEffect ∧ OrderRuns .mAccRd 4 false accRdEffect ∧
  OrderRuns .mAccRdFabric 4 true accRdFabEffect ∧ OrderRuns .mAccRdq 5 false accRdqEffect ∧
  OrderRuns .mAccLd 6 false accLdEffect ∧ OrderRuns .mMscLd 7 false mscLdEffect ∧
  (∀ (s : State) (c ctx : Nat) (o : MxOrder) (k r : Nat), r < 128 →
    (k ∈ o.cols → (accClrEffect s c ctx o).m.word k r = 0 ∧ ((accClrEffect s c ctx o).m.col k).poison = false ∧
      ((accClrEffect s c ctx o).m.col k).written = false ∧ ((accClrEffect s c ctx o).m.col k).owner = ctx) ∧
    (k ∉ o.cols → (accClrEffect s c ctx o).m.word k r = (s.core c).mx.word k r ∧
      (accClrEffect s c ctx o).m.col k = (s.core c).mx.col k))

/-- R313, R329: the oldest running order of a bank completes: its tile writes are made, its reads of tiles end, its flags enter
its context's flag word, its completion token is sent, and it runs no more. R329 has the column and tile writes precede the token;
that the columns are written as the order starts and the tile writes made here is log 19. -/
def MatrixOrdersComplete : Prop :=
  ∀ (s s1 s2 : State) (c bank n : Nat) (r : Running),
    findIdx (fun (q : Running) => q.bank == bank) 0 (s.core c).mx.running = some (n, r) → r.bank = bank →
    landOrder c r s r.ops = (s1, []) →
    s2 = ((nth r (s1.core c).mx.running n).reads.foldl (fun t i => t.endRead c i)
      (s1.setMx c { (s1.core c).mx with running := dropNth (s1.core c).mx.running n })).countEvent c 18 r.ctx 1 →
    exec (.orderCompletion c bank) s = .next (sendCompletion (orderFaults (enterOrderFlags s2 c r) c r) c r).tick ∧
    (r.trains = [] → sendCompletion s2 c r =
      s2.send c (plainToken r.order.echo c r.order.cidx r.order.cport r.ctx 0 .data 0 r.status)) ∧
    (r.mpoison = none → r.sparse = none → r.flags = 0 → orderFaults (enterOrderFlags s2 c r) c r = enterOrderFlags s2 c r)

/-- R312 to R325: matrix orders, from their start to their completion. -/
def Obligations.MatrixOrders : Prop := MatrixOrdersRun ∧ MatrixOrdersComplete

/-! ## Launches and traps taken between words -/

/-- R20 to R22, R113, R132: an idle control core takes its oldest launch record; a launch at `lwait` with no live frame ends
with status 0; a held asynchronous cause is taken before the next word; a waiting command is looked at again. -/
def Obligations.LaunchHappenings : Prop :=
  ∀ (s : State) (r : Nat) (g : Region), g = s.region r →
    (∀ ws rest, g.launches = ws :: rest → g.launch = none → s.die.boot = .running → g.owed = [] →
      exec (.launchStart r) s = .next (startLaunch (s.setRegion r { g with launches := rest }) r { words := ws }).tick) ∧
    (∀ t l, recordBad s r l = true → t = s.writeStatus r (l.w 3) (statusWord l.id 0x01 0) → startLaunch s r l = t) ∧
    (∀ t l sec, recordBad s r l = false → sectorFor s r l = some sec → t = startLaunch s r l →
      (t.region r).launch = some l ∧ (t.region r).pc = nth 0 l.words 1 ∧ (t.region r).mode = .unprivileged ∧
      t.getX r 10 = nth 0 l.words 2 ∧ t.getX r 11 = BitVec.ofNat 64 l.id ∧ (t.region r).depth = 0 ∧
      (∀ n, n ≠ 10 → n ≠ 11 → t.getX r n = 0)) ∧
    (g.launch ≠ none → g.atLwait = true → s.liveFrames r = false →
      exec (.launchEnd r) s = .next (s.endLaunch r 0x00 0).tick) ∧
    (g.launch ≠ none → s.takes r = true → exec (.takeTrap r) s = .next (s.takeHeld r).tick) ∧
    (g.waiting = true → exec (.waitingCommandResume r) s = .next { s with agenda := .issue r :: s.agenda }.tick)

/-! ## The network -/

/-- R305, R306, R290: what a control core's access sends is one class 0 request to the home of its line, with a line where it
stores, and asks for a line where it loads; a packet leaves at once where its pair may send, with the pair's next sequence number,
and else waits at its source; a chunk's request carries at most 512 bytes, and no write to the unit's own scratchpad makes one. That
an atomic goes out with a line and asks for one, and a phase counter's read for a reply without payload, is the model's choice: R305's
table gives neither (log 44). -/
def RequestsEnterTheNetwork : Prop :=
  (∀ (s : State) (r home : Nat), home < 2 ^ 16 →
    s.askControl r home .load = s.sendPacket (askPacket (mailbox r) home 0 0 1 0 0) ∧
    s.askControl r home .store = s.sendPacket (askPacket (mailbox r) home 0 1 0 0 0) ∧
    s.askControl r home .atomic = s.sendPacket (askPacket (mailbox r) home 0 1 1 0 0) ∧
    s.askControl r home .phase = s.sendPacket (askPacket (mailbox r) home 0 0 0 0 0)) ∧
  (∀ (src home cls out back bytes chunk : Nat) (p : Packet), p = askPacket src home cls out back bytes chunk →
    p.vc = 2 * cls ∧ p.dst = home ∧ p.ask = some back ∧ p.tok.flits = 1 + lenBytes out / 16 ∧
    (p.answer back).vc = 2 * cls + 1 ∧ (p.answer back).dst = src ∧ (p.answer back).tok.mark = p.tok.mark ∧
    (p.answer back).tok.flits = 1 + lenBytes back / 16) ∧
  (∀ (s t : State) (p : Packet), t = s.sendPacket p →
    (s.canSend p.src p.dst = true → sget 0 t.sent (pairKey p.src p.dst) = (sget 0 s.sent (pairKey p.src p.dst) + 1) % 16 ∧
      sget 0 t.undelivered (pairKey p.src p.dst) = sget 0 s.undelivered (pairKey p.src p.dst) + 1 ∧
      t.waitingSend = s.waitingSend) ∧
    (s.canSend p.src p.dst = false → t = { s with
      waitingSend := { p with stayed := true, since := s.ticks.toNat } :: s.waitingSend })) ∧
  (∀ (core : Nat) (ks : List Nat) (write : Bool), (∀ q ∈ cutRequests core write ks, 1 ≤ q.2 ∧ q.2 ≤ 512) ∧
    ((cutRequests core write ks).map (·.2)).sum = (ks.filter (fun k => !write || spadOf k != some core)).length)

/-- R28, R290, R292: what stands next at an interface: a reply is taken, a request of a home that is not held is answered with its
class and its mark, a token is delivered once its interface takes it and stays where it refuses it. -/
def PacketsAreDelivered : Prop :=
  ∀ (s : State) (d k : Nat) (p : Packet), s.arrived d k = some p →
    (p.reply = true → p.bytes = 0 → exec (.tokenDelivery d k) s = .next (s.delivered p).tick) ∧
    (p.reply = true → p.bytes ≠ 0 → exec (.tokenDelivery d k) s =
      .next ((s.delivered p).copyReply p.dst p.chunk p.tok.cls p.bytes (p.tok.mark == 1)).tick) ∧
    (∀ back, p.reply = false → p.ask = some back →
      ((4096 ≤ p.dst ∨ (s.vault p.dst).held = false) →
        exec (.tokenDelivery d k) s = .next ((s.delivered p).sendPacket (p.answer back)).tick) ∧
      (p.dst < 4096 → (s.vault p.dst).held = true → exec (.tokenDelivery d k) s = .next s.tick)) ∧
    (p.reply = false → p.ask = none →
      (∀ t, d < 4096 → acceptToken s d p.tok = some t →
        exec (.tokenDelivery d k) s = .next ((t.tokenTaken d p.tok).delivered p).tick) ∧
      (d < 4096 → acceptToken s d p.tok = none → exec (.tokenDelivery d k) s = .next (refusedAt s d p.tok).tick) ∧
      (∀ t, 4096 ≤ d → acceptMail s (d - 4096) p.src p.tok = some t →
        exec (.tokenDelivery d k) s = .next (t.delivered p).tick) ∧
      (4096 ≤ d → acceptMail s (d - 4096) p.src p.tok = none → exec (.tokenDelivery d k) s = .next s.tick))

/-- R293, R296: an arbitration round starts with the weights and sends while something is ready; a head that has waited 64 ticks is
promoted, of several the one that has waited longest; a replay keeps the link's packets; the port of a failed link sends nothing,
its packets standing in their queues, until it is trained again. That a round is one happening is log 45. -/
def SwitchesAndLinks : Prop :=
  ∀ (s : State),
    (∀ port u, u = s.setPort port { s.port port with left := [8, 4, 2, 1] } →
      exec (.arbitrationRound port) s = .next (roundLoop port (queued u) u).tick ∧
      (readyHeads u port = [] → exec (.arbitrationRound port) s = .next u.tick) ∧
      (∀ p n, nextPacket u port = some p → queued u = n + 1 →
        exec (.arbitrationRound port) s = .next (roundLoop port n (u.sendOn port p)).tick)) ∧
    (∀ port vc k p now, now = s.ticks.toNat → (k, p) ∈ headsAt s port → p.vc = vc → p.promoted = false → p.since + 64 ≤ now →
      (∀ e ∈ headsAt s port, e.2.vc = vc → e.2.promoted = false → e.2.since + 64 ≤ now → e = (k, p) ∨ p.since < e.2.since) →
      exec (.promotion port vc) s = .next { s with
        queues := sput s.queues k ({ p with promoted := true } :: (sget [] s.queues k).drop 1) }.tick) ∧
    (∀ l, ∃ t, exec (.flitReplay l) s = .next t ∧ (t.link l).replays = (s.link l).replays + 1 ∧
      (t.link l).sent = (s.link l).sent ∧ t.queues = s.queues ∧ t.regions = s.regions ∧ t.mem = s.mem) ∧
    (∀ l, l < 4096 → ∃ t, exec (.linkRetrainFailure l) s = .next t ∧ (t.link l).state = .failed ∧ t.queues = s.queues ∧
      (t.link l).sent = (s.link l).sent ∧ t.die.notices = s.die.notices ++ [.linkFailed l] ∧
      readyHeads t (linkPort l) = []) ∧
    (∀ l, l < 4096 → ∃ t, exec (.packageLinkRetrain l) s = .next t ∧ (t.link l).state = .up ∧ t.queues = s.queues ∧
      (t.link l).sent = (s.link l).sent ∧ portUp t (linkPort l) = true)

/-- The network: requests and their replies, delivery, switches and package links (R28, R290 to R296, R305, R306). -/
def Obligations.NetworkHappenings : Prop := RequestsEnterTheNetwork ∧ PacketsAreDelivered ∧ SwitchesAndLinks

/-! ## Firing, beats, commit and retirement -/

/-- R32, R35, R36, R150, R219, R280: an instance that is ready fires; a beat whose requests and releases have touched pools ends
with each of them served once, in ascending order, and the elements that wait for a tile looking again; then the contexts that R36
selects advance by one and their elements are stepped, and what the model leaves free of soft errors is met (log 89). That FIRE
looks at canFire alone, and that the steps of the elements stand on the agenda, is the model's order of a beat (log 31, log 1); a
steered train goes through the fallback and back, and the elements from the steering one on take the step that the stall kept from
them; aging changes nothing else; a late answer is delivered, counts from the next beat, and the elements that waited look again.
-/
def Obligations.FiringHappenings : Prop :=
  ∀ (s : State) (c x : Nat),
    (∀ tag b f ts, canFire (s.core c) x tag = true → (s.ctx c x).block = some b →
      (s.core c).frame (frameOf tag) = some f → (s.core c).entryTokens x tag b.entries = some ts →
      exec (.fire c x tag) s = .next (s.setCore c (fireInst (s.core c) c x tag b f ts)).tick) ∧
    ((s.core c).touched = [] → ∃ t, exec (.beatSelect c) s = .next t ∧ (t.core c).beat = (s.core c).beat + 1 ∧
      (∀ d, d ≠ c → t.core d = s.core d) ∧ t.mem = s.mem ∧ t.regions = s.regions ∧
      (∀ n ∈ s.poison, n ∈ t.poison) ∧ t.agenda = beatSteps (s.core c) c ++ s.agenda ∧
      (∀ y i, Happening.element c y i ∈ beatSteps (s.core c) c ↔
        y ∈ selected (s.core c) ∧ ∃ b, (s.ctx c y).block = some b ∧ i < b.count) ∧
      (x < 4 → x ∈ selected (s.core c) → (t.ctx c x).adv = (s.ctx c x).adv + 1 ∧ (t.ctx c x).age = 0) ∧
      (x < 4 → x ∉ selected (s.core c) → (t.ctx c x).adv = (s.ctx c x).adv)) ∧
    ((s.core c).touched ≠ [] → ∃ t u, exec (.beatSelect c) s = .next t ∧
      u = ((range 0 4).filter (fun p => (s.core c).touched.contains p)).foldl (fun v p => v.servePool c p)
        (s.setCore c { s.core c with touched := [] }) ∧
      t = { u with agenda := allocSteps (s.core c) c ++ (Happening.event (.beatSelect c) :: s.agenda) }.tick) ∧
    (∀ t b, (s.ctx c x).steer = some t → (s.ctx c x).block = some b → exec (.fallbackReturn c x) s =
      .next { s with agenda := .element c x t.fb ::
        ((range t.idx (b.count - t.idx)).map (Happening.element c x) ++ s.agenda) }.tick) ∧
    exec (.contextAged c x) s = .next s.tick ∧
    (∀ n r u t, findIdx (fun q : MemResp => q.ctx == x && !(s.core c).faulted (frameOf q.train.tag)) 0 (s.core c).resps =
        some (n, r) →
      u = (if r.due ≤ (s.ctx c x).adv + 1 then
        (s.countEvent c 9 x 1).modCtx c x (fun k => { k with lateBeat := some (s.core c).beat }) else s) →
      t = deliverResp u c n r → (t.core c).faults.length ≤ (u.core c).faults.length →
      exec (.lateOperandArrival c x) s = .next (t.retry c x ((t.ctx c x).late.map (·.1))).tick)

/-- R39, R40, R216: the oldest instance of a context that has delivered all it owes commits: its tiles become ready, its
acts are made, its register writes and flags take effect; a tile that becomes empty has its pool served as the beat ends (R219). R41:
an open frame with nothing open retires, its bank passing on and its number free from the next beat; a token left of it from an
earlier beat raises TAG-CHECK, and those that have met it in the beat of the retirement, stored, offending or discarded as late, meet
a retired frame (R25, R34, R43). -/
def CommitHappenings : Prop :=
  ∀ (s : State) (c x : Nat),
    (∀ b n rest f t, (s.ctx c x).block = some b → (s.ctx c x).insts = n :: rest →
      (s.core c).frame (frameOf n.tag) = some f → (s.core c).faulted (frameOf n.tag) = false →
      commits (s.core c) x b n = true →
      actAll c x (n.acts.foldl (fun l a => insertAct a l) []) (n.tiles.foldl (fun s t => s.commitTile c t) s) = .ok t →
      exec (.instanceCommit c x) s = .next (commitInst t c x n).tick) ∧
    (∀ n, (s.tile c n).pool < 4 → (s.tile c n).pool ∈ ((s.vacateTile c n).core c).touched ∧
      ((s.vacateTile c n).tile c n).state = .empty) ∧
    (∀ frame f late, (s.core c).frame frame = some f → (s.core c).lateTokens frame = some late → f.state = .opened → f.sinks = 0 →
      f.stores = 0 → f.inflight = 0 →
      ((∀ e ∈ (s.core c).store, frameOf e.tok.tag = frame → e.beat = (s.core c).beat) → ∃ k t,
        k = ({ s.core c with store := (s.core c).store.filter (fun e => frameOf e.tok.tag != frame),
                             dropped := (s.core c).dropped.filter (fun e => frameOf e.tok.tag != frame),
                             faults := (s.core c).faults.filter (fun g => g.1 != frame) } : Core) ∧
        t = (s.setCore c ((k.freeFrameEntry frame).passBank f.ctx f.bank)).setEvent (regionOf c) 1 ∧
        exec (.frameRetire c frame) s = .next ((((s.core c).store.filter (fun e => frameOf e.tok.tag == frame)).map (·.tok) ++
          late).foldl (fun u e => u.strayToken c e) t).tick) ∧
      (∀ e, (s.core c).faulted frame = false →
        (s.core c).store.find? (fun t => frameOf t.tok.tag == frame && t.beat != (s.core c).beat) = some e →
        exec (.frameRetire c frame) s = .next (s.raise c f.ctx e.tok.slot .tagCheck 0 e.tok.tag 0).tick)) ∧
    (∀ frame, (s.core c).faulted frame = false → (∀ e ∈ (s.core c).offends, frameOf e.tok.tag ≠ frame) →
      (s.core c).lateTokens frame = some (((s.core c).dropped.filter (fun e => frameOf e.tok.tag == frame)).map (·.tok))) ∧
    (∀ frame (k : Core), (k.freeFrameEntry frame).frame frame = none ∧ frame ∈ (k.freeFrameEntry frame).retired ∧
      (∀ m, m ≠ frame → (k.freeFrameEntry frame).frame m = k.frame m)) ∧
    (∀ regs r v l, writeRegs regs ((r, some v) :: l) = writeRegs (sput regs r v) l)

/-- Commit, retirement, and the closing of sinks. -/
def Obligations.CommitAndRetirement : Prop := CommitHappenings ∧ EosClosesASinkOnce

/-- R222 to R225, R245: a bank of the context that is free passes to the spilled frame opened earliest, which does not fire for 8
beats; a spilled frame that could fire takes the bank of the resident frame with nothing in flight that fired least recently, and
neither fires for 8 beats; a spilled bank leaves a column that an order names, which is in its way for 8 beats, in which its frame
neither fires nor swaps (R226). That a bank which is free without a retirement passes on too is log 70, and where a spilled bank goes
log 48; the watch that has
counted 65,536 beats raises ALLOC-DEADLOCK on behalf of the oldest entry that waits and starts again. -/
def Obligations.BankHappenings : Prop :=
  ∀ (s : State) (c x : Nat),
    (∀ k b n f, k = (s.core c).freeMoved x → (range 0 4).find? (fun b => !k.bankUsed x b) = some b → b < 4 →
      (n, f) ∈ k.frames → f.ctx = x → f.bank = 4 → (∀ g ∈ k.frames, g.2.ctx = x → g.2.bank = 4 → g = (n, f) ∨
        f.opened < g.2.opened ∨ (f.opened = g.2.opened ∧ n < g.1)) →
      exec (.bankHandover c x) s = .next (s.setCore c { k with
        frames := sput k.frames n { f with bank := b, rests := k.beat + 8 } }).tick) ∧
    (∀ m f n g, (s.core c).frame m = some f → f.bank = 4 → f.rests ≤ (s.core c).beat →
      matched (s.core c) f.ctx (2 ^ 56 * m) = true → (n, g) ∈ (s.core c).frames → g.ctx = f.ctx → g.bank < 4 → g.inflight = 0 →
      g.rests ≤ (s.core c).beat →
      (∀ q ∈ (s.core c).frames, q.2.ctx = f.ctx → q.2.bank < 4 → q.2.inflight = 0 → q.2.rests ≤ (s.core c).beat → q = (n, g) ∨
        g.lastFire < q.2.lastFire ∨ (g.lastFire = q.2.lastFire ∧ n < q.1)) →
      exec (.registerBankSwap c m) s = .next (s.setCore c { s.core c with
        frames := sput (sput (s.core c).frames m { f with bank := g.bank, rests := (s.core c).beat + 8 }) n
          { g with bank := 4, rests := (s.core c).beat + 8 },
        spill := (s.core c).spill.map (fun e => (e.1, if e.2.frame = m then { e.2 with frame := n } else e.2)) }).tick) ∧
    (∀ e p v wants, wants = (fun col => (s.core c).mx.queue.any (fun q =>
        128 * (orderFields q.word).bank + (orderFields q.word).base ≤ col &&
          col ≤ 128 * (orderFields q.word).bank + (orderFields q.word).base + (orderFields q.word).n1)) →
      sfind (s.core c).spill e = some p → p.inBank = false → wants p.place = true →
      (s.core c).spillPlace p.ctx wants = some v → ∃ t, exec (.spillBankMove c e) s = .next t ∧
        t = (s.setCore c { s.core c with spill := sput (s.core c).spill e { v with frame := p.frame },
                                         frames := (match (s.core c).frame p.frame with
                                           | some f => sput (s.core c).frames p.frame { f with rests := (s.core c).beat + 8 }
                                           | none => (s.core c).frames),
                                         clearing := (p.place, (s.core c).beat + 8) :: (s.core c).clearing }).tick ∧
        (v.inBank = true ∨ wants v.place = false) ∧ v.ctx = p.ctx) ∧
    (65536 ≤ (s.core c).dead →
      (∀ w idx inst, oldestWait (s.core c).waits = some w → w.who = .alloc idx inst → ∃ tag t,
        exec (.allocDeadlock c) s = .next t ∧ (t.core c).dead = 0 ∧
        t = ((s.setCore c { s.core c with dead := 0 }).raise c w.owner idx .allocDeadlock 0 tag 0).tick ∧
        (∀ v, ((s.core c).ctx w.owner).inst inst = some v → tag = v.tag) ∧
        (((s.core c).ctx w.owner).inst inst = none → tag = 2 ^ 56 * w.frame)) ∧
      (∀ w, oldestWait (s.core c).waits = some w → (∀ idx inst, w.who ≠ .alloc idx inst) → ∃ t,
        exec (.allocDeadlock c) s = .next t ∧ (t.core c).dead = 0 ∧
        t = ((s.setCore c { s.core c with dead := 0 }).raiseAsync (regionOf c)
          (Trap.engine FaultCode.allocDeadlock.code c w.owner 0 0 0)).tick) ∧
      (∀ y, (s.core c).waits = [] → (range 0 4).find? (s.core c).hasFrames = some y → ∃ t,
        exec (.allocDeadlock c) s = .next t ∧ (t.core c).dead = 0 ∧
        t = ((s.setCore c { s.core c with dead := 0 }).raiseAsync (regionOf c)
          (Trap.engine FaultCode.allocDeadlock.code c y 0 0 0)).tick))

/-! ## Faults of frames -/

/-- R229, R234, R236: the frame with the lowest number of those that have faulted parks with its reported fault; a record
goes to the handler subgraph where hsel names one that can take it, and to the control core's mailbox otherwise, with a trap. -/
def Obligations.ParkingAndDelivery : Prop :=
  ∀ (s : State),
    (∀ c n f r t, (s.core c).frame n = some f → reported (s.core c).faults n = some r → f.state = .opened →
      (s.core c).faults.any (fun g => g.1 < n && g.2.ctx == f.ctx) = false → parkFrame s c n f r = some t →
      exec (.framePark c n) s = .next (t.touch c [f.ctx]).tick ∧
      ∃ p, sfind (t.core c).parks n = some p ∧ p.resumed = false) ∧
    (∀ r f rest t, (s.region r).records = f :: rest → t = s.setRegion r { s.region r with records := rest } →
      (toHandler s r f = true → exec (.faultRecordDelivery r) s =
        .next (t.send (recordToken r f).core (recordToken r f)).tick) ∧
      (toHandler s r f = false → exec (.faultRecordDelivery r) s =
        .next (t.setRegion r { t.region r with messages := (s.region r).messages ++ [f] }).tick)) ∧
    (∀ r f rest, (s.region r).messages = f :: rest → (s.region r).msgs.length < 16 → ∃ t,
      exec (.faultMessage r) s = .next t ∧ (t.region r).messages = rest ∧
      (t.region r).msgs = (s.region r).msgs ++ [faultMessage r f] ∧
      ((s.region r).launch ≠ none → (t.region r).held = (s.region r).held ++
        [{ Trap.engine f.fault f.core f.ctx f.instr f.addr.toNat 0 with poison := f.poison }.cause]))

/-- R230, R235, R237, R238, R358: the verdict on a parked frame, once its capture has ended (R229), resumes it, discards it, or
declines it to the control core; one that fits no parked frame is stale and raises ILLEGAL; a resumed frame's tokens return, and
it re-enters once its positions are free; that its requests and answers go with it, due as far ahead as they were, is log 49; a
requested stop lands where no instance is in flight, with a breakpoint's record of the instance that met it. -/
def Obligations.VerdictsAndStops : Prop :=
  ∀ (s : State) (c : Nat) (k : Core), k = s.core c →
    (∀ t rest f p r s1, k.verdicts = t :: rest → verdictFits t.core c k t = true → k.frame (frameOf t.tag) = some f →
      sfind k.parks (frameOf t.tag) = some p → r = f.fault.getD default → s1 = s.setCore c { k with verdicts := rest } →
      (k.beat < p.captured → exec (.verdict c) s = .next s.tick) ∧
      (p.captured ≤ k.beat →
        (declines (k.ctx f.ctx).block t.verdict r.instr p.offend.isSome = true → exec (.verdict c) s =
          .next (s1.setRegion (regionOf c) { s1.region (regionOf c) with
            messages := (s1.region (regionOf c)).messages ++ [r] }).tick) ∧
        (declines (k.ctx f.ctx).block t.verdict r.instr p.offend.isSome = false →
          (bits t.verdict 31 30 = 2 → exec (.verdict c) s =
            .next (discardFrame (s1.answered c r.seq) c (frameOf t.tag) f p).tick) ∧
          (bits t.verdict 31 30 ≠ 2 → exec (.verdict c) s = .next (resumeFrame (s1.answered c r.seq) c (frameOf t.tag) f p
            (bits t.verdict 29 28) t r).tick)))) ∧
    (∀ t rest, k.verdicts = t :: rest → verdictFits t.core c k t = false →
      (∀ p, sfind k.parks (frameOf t.tag) = some p → p.captured ≤ k.beat) → exec (.verdict c) s =
        .next ((s.setCore c { k with verdicts := rest }).raiseAsync (regionOf c)
          (Trap.engine FaultCode.illegal.code c t.ctx 0 0 0)).tick) ∧
    (∀ x frame p, k.waitingPark x = some (frame, p) → p.tokens ≠ [] →
      (k.faulted frame = false → exec (.resumedReentry c x) s = .next (s.returnParked c frame).tick) ∧
      (k.faulted frame = true → exec (.resumedReentry c x) s = .next s.tick)) ∧
    (∀ x frame p c1 d u, k.waitingPark x = some (frame, p) → p.tokens = [] → k.faulted frame = false →
      positionsFree (k.ctx x) p = true → d = (k.ctx x).shift p →
      c1 = { k with parks := sdel k.parks frame,
                    reqs := k.reqs ++ p.reqs.map (fun (q : MemReq) => { q with due := q.due + d }),
                    resps := k.resps ++ p.resps.map (fun (q : MemResp) => { q with due := q.due + d }) } →
      u = (s.setCore c (c1.setCtx x { (c1.ctx x).reenter p with
        holdFire := (c1.waitingPark x).isSome })).vacateTile c p.tile →
      (p.repairTrain = none → exec (.resumedReentry c x) s = .next (u.setCore c ((u.core c).retryFaulted x)).tick) ∧
      (∀ q t v, p.repair = some q → p.repairTrain = some t → v = u.applyRepair c x q t →
        exec (.resumedReentry c x) s = .next (v.setCore c ((v.core c).retryFaulted x)).tick)) ∧
    (∀ x frame p, k.waitingPark x = some (frame, p) → p.tokens = [] → positionsFree (k.ctx x) p = false →
      exec (.resumedReentry c x) s = .next s.tick) ∧
    (∀ x, (k.ctx x).stopWanted = true → (k.ctx x).insts = [] → (k.ctx x).slot = .resident → ∃ t,
      exec (.preciseStop c x) s = .next t ∧ (t.ctx c x).slot = .stopped ∧ (t.ctx c x).stopWanted = false ∧
      ((k.ctx x).hit ≠ none → (s.region (regionOf c)).launch ≠ none → (t.region (regionOf c)).held =
        (s.region (regionOf c)).held ++ [(Trap.engine 0 c x 0 0 0).cause]) ∧
      (∀ tag top second b u, (k.ctx x).hit = some (tag, top, second) → (k.ctx x).block = some b →
        u = s.setCtx c x { k.ctx x with slot := .stopped, stopWanted := false, hit := none } →
        t = ((u.record (regionOf c) c (recordQ0 3 c x 0 0 (frameOf tag) (bits tag 7 0) b.id) (recordQ2 top second 0) 0).raiseAsync
          (regionOf c) (Trap.engine 0 c x 0 0 0)).tick))

/-! ## Streams, memory requests, copies, counters -/

/-- R116 to R119, R32, R281: the head of a port's queue becomes active, or a barrier that is ready is passed; the generator of an
active stream makes the next access of the request it serves, and with none that of a first beat to come: a read whose checks pass
joins the bytes at hand, a write whose checks pass is made; a request that is not a stream's makes its own, an update in its turn among
those that its vault has held (R366). Each access sends its packet (R290). -/
def Obligations.StreamHappenings : Prop :=
  ∀ (s : State) (c p : Nat),
    (∀ e rest, (s.core c).portQ p = e :: rest → e.barrier = none → e.active = false → (s.core c).frozen e = false →
      exec (.streamStart c p) s = .next (s.setPortQ c p ({ e with active := true } :: rest)).tick) ∧
    (∀ e rest n, (s.core c).portQ p = e :: rest → e.barrier = some n → (s.core c).barrierReady n = true →
      exec (.streamStart c p) s = .next (s.setCore c ((s.core c).passBarrier n)).tick) ∧
    (∀ e n r, (s.core c).activeEntry p = some e → (s.core c).portReq p = some (n, r) → r.ctx = e.ctx →
      isStreamReq s c r = true → (s.core c).faulted (frameOf r.tag) = false →
      (r.kind = .read → exec (.streamAccess c p) s = .next (readAccess s c p n r e).tick) ∧
      (r.kind ≠ .read → exec (.streamAccess c p) s = .next (writeAccess s c p n r e).tick) ∧
      (∀ addr ks f, addr = (patAddr e.pattern e.addend e.pos).toNat → r.kind = .read →
        e.buf.length < streamBytes (patFmt e.pattern) → e.pos < patTotal e.pattern →
        tryAccess s c r.ctx addr (2 ^ patSize e.pattern) .read (patObject e.pattern) e.waited = .ok ks →
        f = { e with buf := e.buf ++ ks.map (fun k => (s.readByte k, s.poison.contains (k / 8))), pos := e.pos + 1,
                     stopped := false, err := none, waited := Waited.reset, tried := false } →
        f.buf.length < streamBytes (patFmt e.pattern) → f.pos < patTotal e.pattern →
        exec (.streamAccess c p) s = .next ((s.setHead c p f).askElement c (patClass e.pattern) ks false).tick) ∧
      (∀ addr a rest ks, addr = (patAddr e.pattern e.addend e.pos).toNat → r.kind ≠ .read → r.accs = a :: rest → rest ≠ [] →
        e.pos < patTotal e.pattern →
        tryAccess s c r.ctx addr a.size .write (patObject e.pattern) e.waited = .ok ks →
        exec (.streamAccess c p) s = .next ((((s.ctxWrite c addr ks (toBytes a.size a.value) a.poison).setHead c p
          { e with pos := e.pos + 1, stopped := false, err := none, waited := Waited.reset }).setReq c n
          { r with accs := rest, got := r.got ++ [(a.lane, 0, a.poison)] }).askElement c (patClass e.pattern) ks true).tick)) ∧
    (∀ e ks, (s.core c).activeEntry p = some e → (s.core c).portReq p = none → e.barrier = none →
      (s.core c).frozen e = false → ((s.core c).ctx e.ctx).readsAhead p = true → patWrites e.pattern = false → e.firstReady = false →
      tryAccess s c e.ctx (patAddr e.pattern e.addend e.pos).toNat (2 ^ patSize e.pattern) .read (patObject e.pattern)
        e.waited = .ok ks →
      exec (.streamAccess c p) s = .next ((s.setHead c p { e with
        buf := e.buf ++ ks.map (fun k => (s.readByte k, s.poison.contains (k / 8))), pos := e.pos + 1,
        waited := Waited.reset }).askElement c (patClass e.pattern) ks false).tick) ∧
    (∀ n r, (s.core c).reqs[n]? = some r → isStreamReq s c r = false → (s.core c).faulted (frameOf r.tag) = false →
      ((s.core c).reqs.take n).any (fun q => q.ctx == r.ctx && q.idx == r.idx) = false →
      (r.accs = [] → exec (.memoryRequest c n) s = .next (s.answer c n r (reqTrain r) false).tick) ∧
      (∀ a rest q port ks, r.accs = a :: rest → r.port = some port → (s.core c).activeEntry port = some q → a.size ≠ 0 →
        tryAccess s c r.ctx a.addr.toNat a.bytes (a.want r.kind) (patObject q.pattern) r.waited = .ok ks →
        ((a.want r.kind ≠ .atomic ∨ atomicGoes s r.heldAt ks = true) →
          exec (.memoryRequest c n) s = .next (answerIfDone (performAcc (s.askElement c (patClass q.pattern) ks (r.kind != .read)) c n
            { r with heldAt := none } q a ks) c n).tick) ∧
        (a.want r.kind = .atomic → atomicGoes s r.heldAt ks = false →
          exec (.memoryRequest c n) s = .next (s.setReq c n { r with heldAt := heldPlace s r.heldAt ks }).tick)))

/-- The ring's next slot is filled with the tile of a copy that is done: the tile is ready and the write pointer steps (R131, R254). -/
def fillRing (s : State) (c x r t : Nat) : State :=
  let s1 := s.readyTile c t
  let k := s1.ctx c x
  (s1.setCtx c x (k.setRing r { k.ring r with wp := ((k.ring r).wp + 1) % 65536, tiles := (k.ring r).tiles ++ [((k.ring r).wp, t)] })).setEvent
    (regionOf c) 4

/-- R214, R249 to R254, R260, R284, R306, R366: a copy's head starts, and one with a ring-slot destination takes the tile its ring is
granted; a round serves the four classes, each of which grows its deficit by its quantum where its head does not wait; a chunk's
reads are made once its replies have come, and its writes as Table 10.2 stands then, an update in its turn among those that a vault
has held; the last chunk of a copy arrives at its counter, fills its ring slot, leaves its move source empty and enters its flags; a
reply moves its class's window, and the chunk's bytes are outstanding until its last; a cycle of a marked counter's home, where no
vault holds it, completes its phase where its arrivals reach its expectation. -/
def Obligations.CopyHappenings : Prop :=
  ∀ (s : State) (c : Nat) (u : CopyUnit), u = (s.core c).copy →
    (∀ cls, exec (.copyStart c cls) s = .next ((s.startHeads c cls 17).seekSlot c cls).tick) ∧
    (∀ cls q rest t v, (s.core c).copyQ cls = q :: rest → q.started = false → q.start s c = .go t v → v.ring = none →
      (t.core c).copyQ cls = q :: rest →
      exec (.copyStart c cls) s = .next (t.setHeadCopy c cls v).tick) ∧
    (exec (.copyRound c) s = .next (((((s.askSlots c).classTurn c 0).classTurn c 1).classTurn c 2).classTurn c 3).tick) ∧
    (∀ cls t, cls < 4 → t = (s.startHeads c cls 17).seekSlot c cls →
      ((t.core c).copyQ cls = [] → s.classTurn c cls =
        t.modCopy c (fun v => { v with deficits := setNth v.deficits cls 0 })) ∧
      (∀ q rest, (t.core c).copyQ cls = q :: rest →
        (headWaits t c cls q = true → s.classTurn c cls = t) ∧
        (headWaits t c cls q = false → s.classTurn c cls = (t.modCopy c (fun v => { v with
          deficits := setNth v.deficits cls (nth 0 v.deficits cls + 1024 * nth 0 v.quanta cls) })).serveClass c cls 4096))) ∧
    (∀ n h q, u.chunks[n]? = some h → u.find h.copy = some q → h.fetched = false →
      (q.readsWait s c h = true → exec (.chunkPerformed c n) s = .next s.tick) ∧
      (q.readsWait s c h = false → exec (.chunkPerformed c n) s = .next (s.setChunk c n { h with
        fetched := true, ops := (h.ops.zip h.srcs).map (fun p => p.1.fetch s p.2) }).tick)) ∧
    (∀ n h q, u.chunks[n]? = some h → u.find h.copy = some q → h.fetched = true →
      (mustFollow u.chunks n h = true → exec (.chunkPerformed c n) s = .next s.tick) ∧
      (mustFollow u.chunks n h = false → (h.vaultHeld s = true ∨ atomicGoes s h.heldAt h.updateKeys = false) →
        exec (.chunkPerformed c n) s = .next (s.setChunk c n { h with heldAt := heldPlace s h.heldAt h.updateKeys }).tick) ∧
      (∀ f d addr, mustFollow u.chunks n h = false → h.vaultHeld s = false → atomicGoes s h.heldAt h.updateKeys = true →
        h.held = false → q.landCheck s c h = .fault f d addr →
        exec (.chunkPerformed c n) s = .next (s.failChunk c n q h f d addr).tick)) ∧
    (∀ n h q s1 s2 ts fl, u.chunks[n]? = some h → u.find h.copy = some q → h.fetched = true →
      mustFollow u.chunks n h = false → h.vaultHeld s = false → atomicGoes s h.heldAt h.updateKeys = true →
      (h.held = true ∨ q.landCheck s c h = .ok) → q.landOps c s (q.joinLines s c h.ops) = (s1, [], fl) →
      { q with flags := q.flags ||| fl }.arrivals c { h with heldAt := none }
        (s1.modCopy c (fun v => v.modify q.uid (fun d => { d with flags := d.flags ||| fl }))) h.targets = (s2, [], ts) →
      (((dropNth u.chunks n).any (fun e => e.copy == q.uid) = true ∨ (q.allIssued = false ∧ q.cancelled = false)) →
        exec (.chunkPerformed c n) s = .next (s2.dropChunk c n { h with heldAt := none }).tick) ∧
      (∀ s3 s4, (dropNth u.chunks n).any (fun e => e.copy == q.uid) = false → q.allIssued = true → q.cancelled = false →
        q.entry = none →
        s3 = (match q.ring, q.slotTile with
          | some r, some t => fillRing s2 c q.ctx r t
          | _, _ => s2) →
        s4 = (match q.moveTile with
          | some m => s3.vacateTile c m
          | none => s3) →
        exec (.chunkPerformed c n) s = .next (((s4.setCtx c q.ctx ((s4.ctx c q.ctx).enterFlags (q.flags ||| fl))).dropChunk c n
          { h with heldAt := none }).modCopy c (fun v => { v with flying := v.flying.filter (fun d => d.uid != q.uid) })).tick)) ∧
    (∀ (q : Copy) h ds, (q.signal = none → q.arrivals c h s ds = (s, [], [])) ∧
      (∀ d off k ks, ds = [d] → q.signal = some (0, off) → q.entry = none → h.lostAt.contains d = false →
        walkHeld s (.context d q.ctx) off 16 = false → resolve s (.context d q.ctx) off 16 .atomic = .ok (k :: ks) →
        tileCheck (s.core d) q.ctx off 16 true = .ok → vaultHeld s (k :: ks) = false → s.poisonedAt (k :: ks) = false →
        s.marked k = true → q.arrivals c h s ds = (s.cycle k h.bytes, [], []))) ∧
    (∀ (x r t : Nat) (g : Ring), g = (s.ctx c x).ring r → ((fillRing s c x r t).tile c t).state = .ready ∧
      ((fillRing s c x r t).ctx c x).ring r = { g with wp := (g.wp + 1) % 65536, tiles := g.tiles ++ [(g.wp, t)] } ∧
      (fillRing s c x r t).mem = s.mem) ∧
    (∀ cls q rest r w k t, (s.core c).copyQ cls = q :: rest → q.started = true → q.entry = none → q.ring = some r →
      q.slotTile = none → q.asked = true → w = slotWait ((s.ctx c q.ctx).ring r) q.ctx r cls →
      (s.core c).takeGrant w.key = some (t, k) →
      s.seekSlot c cls = (s.setCore c k).setHeadCopy c cls { q with slotTile := some t, slotOff := 32 * (s.tile c t).base }) ∧
    (∀ cls n m p, s.replyAt c cls n m = some p → exec (.copyReply c cls n m) s = .next (s.replied p).tick ∧
      s.replied p = (s.delivered p).copyReply p.dst p.chunk cls n (m == 1)) ∧
    (∀ id cls n cls0 bytes left w half plain, sfind u.owing id = some (cls0, bytes, left) → w = nth 0 u.windows cls →
      half = nth 0 u.sinceHalf cls + n → plain = nth 0 u.sinceMark cls + n →
      (∀ v, v = ((s.copyReply c id cls n true).core c).copy →
        (half < w → v.windows = setNth u.windows cls w ∧ v.sinceHalf = setNth u.sinceHalf cls half) ∧
        (w ≤ half → v.windows = setNth u.windows cls (Nat.max 2048 (w / 2)) ∧ v.sinceHalf = setNth u.sinceHalf cls 0) ∧
        v.sinceMark = setNth u.sinceMark cls 0) ∧
      (∀ v, v = ((s.copyReply c id cls n false).core c).copy → v.sinceHalf = setNth u.sinceHalf cls half ∧
        (plain < w → v.windows = setNth u.windows cls w ∧ v.sinceMark = setNth u.sinceMark cls plain) ∧
        (w ≤ plain → v.windows = setNth u.windows cls (Nat.min 32768 (w + 2048)) ∧
          v.sinceMark = setNth u.sinceMark cls (plain - w))) ∧
      (∀ m v, v = ((s.copyReply c id cls n m).core c).copy →
        (2 ≤ left → v.outstanding = u.outstanding) ∧
        (left ≤ 1 → (∀ h ∈ u.chunks, h.id ≠ id) →
          v.outstanding = setNth u.outstanding cls (nth 0 u.outstanding cls - bytes)))) ∧
    (∀ k, (s.marked k = true → vaultHeld s (counterKeys k) = false → exec (.phaseCompletion k) s = .next (s.cycle k 0).tick) ∧
      (s.marked k = false ∨ vaultHeld s (counterKeys k) = true → exec (.phaseCompletion k) s = .next s.tick))

/-! ## Collectives, debug hold, saving and restoring -/

/-- R300 to R304, R281, R358: with every participant's record at the reducers an agreeing collective delivers its result to each
participant that takes it and every id is free, and waits while the vault of a destination is held (R281); a watch that reaches
collwd frees the id and traps; debug-hold asks every resident context for a precise stop and its release lets the watches count
on. That the control cores run on meanwhile, and that the release changes no core, is log 23. -/
def Obligations.CollectiveAndHoldHappenings : Prop :=
  ∀ (s : State) (r cid : Nat),
    (∀ k rs all, s.collOf r cid = some k → rs = scopeRegions (collScope k.c0) r →
      all = rs.filterMap (fun q => (s.collOf q cid).map (fun c => (q, c))) → collScope k.c0 ≠ 7 → collOp k.c0 = 0 →
      all.length = rs.length → (∀ p ∈ all, collScope p.2.c0 = collScope k.c0 ∧ nth 0 p.2.words 3 = nth 0 k.words 3 ∧
        collKey p.2.c0 = collKey k.c0) →
      ((∃ p ∈ all, vaultHeld s p.2.dest = true) → exec (.collectiveComplete r cid) s = .next s.tick) ∧
      ((∀ p ∈ all, vaultHeld s p.2.dest = false) → ∀ res, res = reduceTree (collFn k.c0) (collFmt k.c0) (collCount k.c0) 5 (all.map (fun p => p.2.data)) →
      exec (.collectiveComplete r cid) s = .next (all.foldl (fun t p => t.deliverColl p.2 res)
        (all.foldl (fun t p => t.dropColl p.1 p.2) s)).tick)) ∧
    (∀ k, (s.region r).colls.find? (fun q => !q.freed && collId q.c0 == cid) = some k → s.die.debugHold = false →
      bits (s.region r).collwd.toNat 47 0 ≠ 0 → bits (s.region r).collwd.toNat 47 0 ≤ k.elapsed s.ticks.toNat →
      exec (.collTimeout r cid) s = .next ((s.setRegion r { s.region r with
        colls := (s.region r).colls.map (fun q => if q = k then { q with freed := true } else q) }).raiseAsync r
          (Trap.engine FaultCode.collTimeout.code 0 0 0 0 0)).tick) ∧
    (∃ t, exec .debugHold s = .next t ∧ t.die.debugHold = true ∧ t.mem = s.mem ∧ t.regions = s.regions ∧
      (∀ c x, (s.ctx c x).slot = .resident → (t.ctx c x).stopWanted = true ∧ (t.ctx c x).slot = .resident)) ∧
    (s.die.debugHold = true → ∃ t, exec .debugHoldRelease s = .next t ∧ t.die.debugHold = false ∧ t.cores = s.cores ∧
      t.mem = s.mem)

/-- R336, R342, R280, R281: the save engine writes the next piece of an image with its poison, where no home it writes is held,
then its seal word last, once no running order reads the image's tiles, and the slot is vacant; a piece that goes to its own place
in the image is written there, one that is hosted elsewhere with its host in the image's map, and the cursor steps after it; a
merge that waited for its tiles goes on once they are free. -/
def Obligations.SaveAndRestoreHappenings : Prop :=
  ∀ (s : State) (c : Nat),
    (∀ x v d, (s.core c).saves.find? (fun (e : Nat × Saving) => !e.2.stopped && e.2.cursor < e.2.image.length) = some (x, v) →
      s.div c v.entry = some d → (pieceHeld s c v d = true → exec (.savePieceWrite c) s = .next s.tick) ∧
      (pieceHeld s c v d = false → exec (.savePieceWrite c) s = .next (savePiece s c x v d).tick ∧
        (∀ i n kc km kh, i = v.cursor / 2048 → n = Nat.min 2048 (v.image.length - v.cursor) → v.cursor + n ≤ v.area →
          (2 ≤ i → hostPiece s c v.entry i n d = none) → imageKeys s c (d.image.toNat + 24) 4 = some kc →
          imageKeys s c (d.image.toNat + 64 + 4 * i) 4 = some km → imageKeys s c (d.image.toNat + 2048 * i) n = some kh →
          ∃ t u, t = s.storeMarked kh ((v.image.drop v.cursor).take n)
              ((range v.cursor n).map (fun j => d.poison.contains (j / 8))) ∧
            u = t.store kc (toBytes 4 (v.cursor + n)) ∧
            exec (.savePieceWrite c) s = .next (u.setCore c { u.core c with
              saves := sput (u.core c).saves x { v with cursor := v.cursor + n } }).tick) ∧
        (∀ i n m kh w kc km, i = v.cursor / 2048 → n = Nat.min 2048 (v.image.length - v.cursor) → v.cursor + n ≤ v.area →
          2 ≤ i → hostPiece s c v.entry i n d = some (m, kh, w) → imageKeys s c (d.image.toNat + 24) 4 = some kc →
          imageKeys s c (d.image.toNat + 64 + 4 * i) 4 = some km → ∃ t u,
            t = (w.storeMarked kh ((v.image.drop v.cursor).take n)
              ((range v.cursor n).map (fun j => d.poison.contains (j / 8)))).store km (toBytes 4 m) ∧
            u = t.store kc (toBytes 4 (v.cursor + n)) ∧
            exec (.savePieceWrite c) s = .next (u.setCore c { u.core c with
              saves := sput (u.core c).saves x { v with cursor := v.cursor + n } }).tick))) ∧
    (∀ x v d l ks, (s.core c).saves.find? (fun (e : Nat × Saving) => !e.2.stopped && e.2.cursor == e.2.image.length) =
        some (x, v) →
      s.div c v.entry = some d → ((s.core c).ordersRead v.entry = true → exec (.saveSeal c) s = .next s.tick) ∧
      ((s.core c).ordersRead v.entry = false → (s.region (regionOf c)).launch = some l → imageHeld s c d.image.toNat 8 = false →
      imageKeys s c d.image.toNat 8 = some ks →
      exec (.saveSeal c) s = .next ((vacate (s.store ks (toBytes 8 (2 ^ 63 + 2 ^ 32 * l.id + 2 ^ 16 * d.cxid))) c x d).setEvent
        (regionOf c) 5).tick)) ∧
    (∀ x n ptr e d image log, (s.core c).restore = some (x, n, ptr) →
      restoreOperands s (regionOf c) c x ptr = .ok (e, d, image, log) → tilesFree (s.core c) (imageTiles image) = true →
      exec (.restoreMerge c) s = .next ((mergeImage s c x e ptr d image log).complete (regionOf c)))

/-! ## The package -/

/-- R360 to R364: a cold reset with a manifest that passes every step boots, and one that fails leaves the stacks without
power; a warm reset of a running package keeps DRAM and the translation state it says, ends every launch and runs bring-up
again; the boot of a stopped package goes on at once with a manifest that passes the checks of R360 (log 57), over the signed text
that log 97 names; an attestation report is 104 signed bytes and a signature, whose value is a free function of them (log 11). The
registers that `Core.reset` holds and the spec gives no reset value for are log 2. -/
def Obligations.ResetsAndAttestation : Prop :=
  (∀ (s : State), ∃ t, exec .coldReset s = .next t ∧ t.mem = [] ∧ t.regions = [] ∧ (∀ c, t.core c = Core.reset) ∧ t.marks = [] ∧
    t.die.nor = s.die.nor ∧ t.die.keyHash = s.die.keyHash ∧ t.die.minVersion = s.die.minVersion ∧
    (t.die.boot = .running ↔ (s.die.accepts s.die.nor && imagesOk s.die.nor) = true) ∧
    (t.die.boot = .running → t.die.powered = true) ∧ (t.die.boot ≠ .running → t.die.powered = false)) ∧
  (∀ (s : State), s.die.boot = .running → ∃ t, exec .warmReset s = .next t ∧ t.die.boot = .running ∧ t.regions = [] ∧
    (∀ c, t.core c = Core.reset) ∧ (∀ k, k < 2 ^ 45 → memRead t.mem k = memRead s.mem k) ∧
    (∀ k, 2 ^ 45 ≤ k → memRead t.mem k = Config.unlistedByte)) ∧
  (∀ (s : State) (m : Manifest), s.die.boot = .stopped →
    (s.die.accepts m = false → exec (.recoveryManifest m) s = .next (s.notify (.refused 1)).tick) ∧
    (s.die.accepts m = true → ∃ t, exec (.recoveryManifest m) s = .next t ∧ t.die.nor = m ∧ t.mem = s.mem ∧ t.regions = s.regions ∧
      (imagesOk m = true → t.die.boot = .running ∧ t.die.powered = true) ∧
      (imagesOk m = false → t.die.boot = .stopped ∧ t.die.powered = false))) ∧
  (∀ (d : Die) (m : Manifest), d.accepts m = true → m.key.length = 32 ∧ m.sig.length = 7856 ∧ Config.sha256 m.key = d.keyHash ∧
    d.minVersion ≤ m.version ∧ Config.slhDsaVerify m.key (signedText m) m.sig = true) ∧
  (∀ (s : State) (nonce : Nat), ∃ sig, exec (.attestationReport nonce) s =
      .next (s.notify (.report (reportText s.die nonce ++ sig))).tick ∧ sig.length = 16224 ∧
    (reportText s.die nonce).length = 104)

/-- R366, R367, R280: lane repair holds a vault, then switches the lane and logs it, with what the switch finds uncorrectable in that
vault poisoned; a move within the layer's range sets its
point; above 95 degrees the point falls to the layer's lowest; at 105 compute power is removed and every launch ends. -/
def Obligations.RepairAndPower : Prop :=
  ∀ (s : State),
    (∀ v lane spare, s.die.powered = false → exec (.laneRepair v lane spare) s = .next s.tick) ∧
    (∀ v lane spare, v < 4096 → s.die.powered = true → ∃ t, exec (.laneRepair v lane spare) s = .next t ∧ t.mem = s.mem ∧ t.regions = s.regions ∧
      ((s.vault v).repair = none → (t.vault v).held = true ∧ (t.vault v).repair = some (lane, spare) ∧
        (t.vault v).lanes = (s.vault v).lanes ∧ t.cores = s.cores ∧ t.poison = s.poison) ∧
      (∀ l, (s.vault v).repair = some l → (∀ n ∈ s.poison, n ∈ t.poison) ∧
        (∀ n ∈ t.poison, n ∈ s.poison ∨ n / 2 ^ 24 % 4096 = v) ∧ (t.vault v).held = false ∧ (t.vault v).repair = none ∧
        (t.vault v).lanes = (s.vault v).lanes ++ [l] ∧ (t.vault v).log = (s.vault v).log ++ [l])) ∧
    (∀ layer mv, (s.die.powered = true → layerMin layer ≤ mv → mv ≤ 750 → exec (.dvfsMove layer mv) s = .next (s.setPoint layer mv).tick) ∧
      (s.die.powered = false ∨ mv < layerMin layer ∨ 750 < mv → exec (.dvfsMove layer mv) s = .next s.tick)) ∧
    (∀ layer temp, ∃ t, exec (.thermalThrottle layer temp) s = .next t ∧ sfind t.die.temp layer = some temp ∧
      t.mem = s.mem ∧ t.cores = s.cores ∧ t.regions = s.regions ∧
      (s.die.powered = true → 95 < temp → sfind t.die.mv layer = some (layerMin layer)) ∧
      (s.die.powered = false ∨ temp ≤ 95 → t.die.mv = s.die.mv)) ∧
    (∀ layer temp, ∃ t, exec (.thermalTrip layer temp) s = .next t ∧
      (s.die.powered = true → 105 ≤ temp → t.die.powered = false ∧ t.die.boot = .unpowered ∧ t.regions = [] ∧ t.cores = []) ∧
      (s.die.powered = false ∨ temp < 105 → t.mem = s.mem ∧ t.cores = s.cores ∧ t.regions = s.regions ∧ t.die.powered = s.die.powered))

/-- R15, R16, R363, R364: an application core and an endpoint reach the physical memory of their package and the device
registers; poison is refused; an application core's atomic reads and writes an aligned word once (which atomics these are is log 27);
an application core's token enters the network. -/
def Obligations.AccessesFromTheDie : Prop :=
  ∀ (s : State), s.die.boot = .running →
    (∀ addr data p ks, data ≠ [] → addr / 2 ^ 60 = 8 → iommuOf s.die (addr % 2 ^ 60) data.length = some p →
      dieKeys p data.length = some ks → vaultHeld s ks = false →
      exec (.endpointDma 1 addr data) s = .next (s.store ks data).tick ∧
      (s.poisonedAt ks = false → exec (.endpointDma 0 addr data) s = .next (s.notify (.read addr (s.readKeys ks))).tick) ∧
      (s.poisonedAt ks = true → exec (.endpointDma 0 addr data) s =
        .next (s.notify (.refused FaultCode.protection.code)).tick)) ∧
    (∀ addr data ks, data ≠ [] → dieFault addr data.length = none → ¬(addr / 2 ^ 60 = 15 ∧ bit (addr % 2 ^ 60) 59 = true) →
      dieKeys (addr % 2 ^ 60) data.length = some ks → vaultHeld s ks = false →
      exec (.applicationCoreAccess 1 addr data) s = .next (s.store ks data).tick ∧
      (s.poisonedAt ks = false → exec (.applicationCoreAccess 0 addr data) s =
        .next (s.notify (.read addr (s.readKeys ks))).tick) ∧
      (∀ op n, 2 ≤ op → n = data.length → (n = 4 ∨ n = 8) → addr % n = 0 → s.poisonedAt ks = false →
        exec (.applicationCoreAccess op addr data) s = .next ((s.notify (.read addr (s.readKeys ks))).rmw ks
          (toBytes n (appAmo op (8 * n) (s.readNat ks) (ofBytes data)))).tick)) ∧
    (∀ addr data f, data ≠ [] → dieFault addr data.length = some f →
      exec (.applicationCoreAccess 0 addr data) s = .next (s.notify (.refused f.code)).tick ∧
      exec (.applicationCoreAccess 1 addr data) s = .next (s.notify (.refused f.code)).tick) ∧
    (∀ addr n, (addr / 2 ^ 60 ≤ 3 → dieFault addr n = some .protection) ∧
      (4 ≤ addr / 2 ^ 60 → addr / 2 ^ 60 ≠ 8 → addr / 2 ^ 60 ≠ 15 → dieFault addr n = some .translation) ∧
      (addr / 2 ^ 60 = 8 ∨ addr / 2 ^ 60 = 15 → bits (addr % 2 ^ 60) 58 45 ≠ 0 → dieFault addr n = some .translation)) ∧
    (∀ addr data, addr / 2 ^ 60 = 15 → bit (addr % 2 ^ 60) 59 = true → data ≠ [] → dieFault addr data.length = none →
      exec (.applicationCoreAccess 1 addr data) s =
        .next (deviceWrite s (addr % 2 ^ 60) data.length (ofBytes data)).tick ∧
      exec (.applicationCoreAccess 0 addr data) s =
        .next (s.notify (.read addr (toBytes data.length (deviceRead s (addr % 2 ^ 60) data.length)))).tick) ∧
    (∀ off v, bit off 59 = true → exec (.deviceRegisterWrite off v) s = .next (deviceWrite s off 8 v).tick) ∧
    (∀ h data u, u = { tokenOf h [] with mark := 0, payload := ((data.take (tokenOf h []).inl) ++
        List.replicate (lenBytes (tokenOf h []).len) 0).take (lenBytes (tokenOf h []).len) } →
      (appSendFault u = none → exec (.applicationCoreTokenSend h data) s = .next (s.send appDie u).tick) ∧
      (∀ f, appSendFault u = some f → exec (.applicationCoreTokenSend h data) s = .next (s.notify (.refused f.code)).tick))
end

