-- ==== Sys2Proof/Laws/Sparse.lean ====
section
/-! SUPPORT. Laws of sparse tables. -/
namespace Sys2Proof.Machine

@[simp] theorem sget_sput_same {α : Type} (d : α) (t : Sparse α) (k : Nat) (v : α) : sget d (sput t k v) k = v := by
  induction t with
  | nil => simp [sput, sget]
  | cons e l ih =>
    simp only [sput]
    split
    · simp_all [sget]
    · split <;> simp_all [sget]

theorem sget_sput_ne {α : Type} (d : α) (t : Sparse α) {j k : Nat} (v : α) (h : j ≠ k) :
    sget d (sput t k v) j = sget d t j := by
  induction t with
  | nil => simp [sput, sget, h]
  | cons e l ih =>
    simp only [sput]
    split
    · simp_all [sget]
    · split <;> simp_all [sget]

@[simp] theorem sfind_sput_same {α : Type} (t : Sparse α) (k : Nat) (v : α) : sfind (sput t k v) k = some v := by
  induction t with
  | nil => simp [sput, sfind]
  | cons e l ih =>
    simp only [sput]
    split
    · simp_all [sfind]
    · split <;> simp_all [sfind]

theorem sfind_sput_ne {α : Type} (t : Sparse α) {j k : Nat} (v : α) (h : j ≠ k) : sfind (sput t k v) j = sfind t j := by
  induction t with
  | nil => simp [sput, sfind, h]
  | cons e l ih =>
    simp only [sput]
    split
    · simp_all [sfind]
    · split <;> simp_all [sfind]

@[simp] theorem sget_sdel_same {α : Type} (d : α) (t : Sparse α) (k : Nat) : sget d (sdel t k) k = d := by
  induction t with
  | nil => simp [sdel, sget]
  | cons e l ih => simp only [sdel]; split <;> simp_all [sget]

theorem sget_sdel_ne {α : Type} (d : α) (t : Sparse α) {j k : Nat} (h : j ≠ k) : sget d (sdel t k) j = sget d t j := by
  induction t with
  | nil => simp [sdel]
  | cons e l ih => simp only [sdel]; split <;> simp_all [sget]

@[simp] theorem sfind_sdel_same {α : Type} (t : Sparse α) (k : Nat) : sfind (sdel t k) k = none := by
  induction t with
  | nil => simp [sdel, sfind]
  | cons e l ih => simp only [sdel]; split <;> simp_all [sfind]

theorem sfind_sdel_ne {α : Type} (t : Sparse α) {j k : Nat} (h : j ≠ k) : sfind (sdel t k) j = sfind t j := by
  induction t with
  | nil => simp [sdel]
  | cons e l ih => simp only [sdel]; split <;> simp_all [sfind]

theorem mem_range {lo n k : Nat} : k ∈ range lo n ↔ lo ≤ k ∧ k < lo + n := by
  induction n generalizing lo with
  | zero => simp [range]
  | succ n ih => simp [range, ih]; omega

@[simp] theorem length_range (lo n : Nat) : (range lo n).length = n := by
  induction n generalizing lo with
  | zero => rfl
  | succ n ih => simp [range, ih]

@[simp] theorem length_toBytes (n w : Nat) : (toBytes n w).length = n := by
  induction n generalizing w with
  | zero => rfl
  | succ n ih => simp [toBytes, ih]

/-- The little-endian bytes of a number give it back, modulo their width. -/
theorem ofBytes_toBytes (n w : Nat) : ofBytes (toBytes n w) = w % 256 ^ n := by
  induction n generalizing w with
  | zero => simp [toBytes, ofBytes, Nat.mod_one]
  | succ n ih => simp only [toBytes, ofBytes, ih, Nat.pow_succ', Nat.mod_mul]

end Sys2Proof.Machine
end

