-- ==== Sys2Proof/Laws/Memory.lean ====
section
/-! SUPPORT. Laws of memory: reads after writes, and the canonical form that every memory operation keeps. -/
namespace Sys2Proof.Machine

/-! ## One byte -/

@[simp] theorem memRead_memWrite_same (m : List Host.Cell) (k : Nat) (v : Byte) : memRead (memWrite m k v) k = v := by
  unfold memRead memWrite; split <;> simp_all

theorem memRead_memWrite_ne (m : List Host.Cell) {j k : Nat} (v : Byte) (h : j ≠ k) :
    memRead (memWrite m k v) j = memRead m j := by
  unfold memRead memWrite; split <;> simp [sget_sput_ne, sget_sdel_ne, h]

/-! ## The canonical form -/

/-- Every listed key is above a bound. -/
def above' (b : Nat) (m : List Host.Cell) : Prop := ∀ c ∈ m, b < c.1

theorem keysRise_cons {a : Nat} {v : Byte} {m : List Host.Cell} (h : keysRise ((a, v) :: m) = true) :
    above' a m ∧ keysRise m = true := by
  induction m generalizing a v with
  | nil => simp [above', keysRise]
  | cons c l ih =>
    obtain ⟨b, w⟩ := c
    simp only [keysRise, Bool.and_eq_true, decide_eq_true_eq] at h
    refine ⟨?_, h.2⟩
    intro d hd
    rcases List.mem_cons.1 hd with rfl | hd
    · exact h.1
    · exact Nat.lt_trans h.1 ((ih h.2).1 d hd)

theorem keysRise_of {a : Nat} {v : Byte} {m : List Host.Cell} (ha : above' a m) (h : keysRise m = true) :
    keysRise ((a, v) :: m) = true := by
  cases m with
  | nil => rfl
  | cons c l => obtain ⟨b, w⟩ := c; simp only [keysRise, Bool.and_eq_true, decide_eq_true_eq]; exact ⟨ha (b, w) (by simp), h⟩

theorem sput_above {b k : Nat} {v : Byte} {m : List Host.Cell} (hb : b < k) (h : above' b m) : above' b (sput m k v) := by
  induction m with
  | nil => intro c hc; simp [sput] at hc; simpa [hc] using hb
  | cons e l ih =>
    intro c hc
    simp only [sput] at hc
    split at hc
    · rcases List.mem_cons.1 hc with rfl | hc
      · exact hb
      · exact h c hc
    · split at hc
      · rcases List.mem_cons.1 hc with rfl | hc
        · exact hb
        · exact h c (List.mem_cons_of_mem _ hc)
      · rcases List.mem_cons.1 hc with rfl | hc
        · exact h _ (by simp)
        · exact ih (fun d hd => h d (List.mem_cons_of_mem _ hd)) c hc

theorem sdel_mem {α : Type} {t : Sparse α} {k : Nat} {c : Nat × α} (h : c ∈ sdel t k) : c ∈ t := by
  induction t with
  | nil => simp [sdel] at h
  | cons e l ih =>
    simp only [sdel] at h
    split at h
    · exact List.mem_cons_of_mem _ (ih h)
    · rcases List.mem_cons.1 h with rfl | h
      · simp
      · exact List.mem_cons_of_mem _ (ih h)

theorem sput_mem {α : Type} {t : Sparse α} {k : Nat} {v : α} {c : Nat × α} (h : c ∈ sput t k v) : c = (k, v) ∨ c ∈ t := by
  induction t with
  | nil => simp [sput] at h; exact .inl h
  | cons e l ih =>
    simp only [sput] at h
    split at h
    · rcases List.mem_cons.1 h with rfl | h
      · exact .inl rfl
      · exact .inr h
    · split at h
      · rcases List.mem_cons.1 h with rfl | h
        · exact .inl rfl
        · exact .inr (List.mem_cons_of_mem _ h)
      · rcases List.mem_cons.1 h with rfl | h
        · exact .inr (by simp)
        · rcases ih h with h | h
          · exact .inl h
          · exact .inr (List.mem_cons_of_mem _ h)

theorem keysRise_sput {m : List Host.Cell} {k : Nat} {v : Byte} (h : keysRise m = true) : keysRise (sput m k v) = true := by
  induction m with
  | nil => rfl
  | cons e l ih =>
    obtain ⟨a, w⟩ := e
    have hc := keysRise_cons h
    simp only [sput]
    split
    · rename_i hlt
      refine keysRise_of ?_ h
      intro c hc'
      rcases List.mem_cons.1 hc' with rfl | hc'
      · exact hlt
      · exact Nat.lt_trans hlt (hc.1 c hc')
    · split
      · rename_i heq; subst heq; exact keysRise_of hc.1 hc.2
      · exact keysRise_of (sput_above (by omega) hc.1) (ih hc.2)

theorem keysRise_filter {m : List Host.Cell} (p : Host.Cell → Bool) (h : keysRise m = true) :
    keysRise (m.filter p) = true := by
  induction m with
  | nil => rfl
  | cons e l ih =>
    obtain ⟨a, w⟩ := e
    have hc := keysRise_cons h
    simp only [List.filter]
    split
    · exact keysRise_of (fun c hm => hc.1 c (List.mem_filter.1 hm).1) (ih hc.2)
    · exact ih hc.2

theorem sdel_eq_filter (m : List Host.Cell) (k : Nat) : sdel m k = m.filter (fun c => k != c.1) := by
  induction m with
  | nil => rfl
  | cons e l ih =>
    obtain ⟨a, w⟩ := e
    simp only [sdel, List.filter_cons, ih]
    by_cases h : k = a <;> simp [h]

theorem memWf_filter {m : List Host.Cell} (p : Host.Cell → Bool) (h : memWf m = true) : memWf (m.filter p) = true := by
  simp only [memWf, Bool.and_eq_true, List.all_eq_true] at h ⊢
  exact ⟨keysRise_filter p h.1, fun c hc => h.2 c (List.mem_filter.1 hc).1⟩

/-- A byte write keeps the canonical form. -/
theorem memWf_memWrite {m : List Host.Cell} (k : Nat) (v : Byte) (h : memWf m = true) : memWf (memWrite m k v) = true := by
  unfold memWrite
  split
  · rw [sdel_eq_filter]; exact memWf_filter _ h
  · rename_i hv
    simp only [memWf, Bool.and_eq_true, List.all_eq_true] at h ⊢
    refine ⟨keysRise_sput h.1, fun c hc => ?_⟩
    rcases sput_mem hc with rfl | hc
    · simpa using hv
    · exact h.2 c hc

/-! ## Many bytes -/

theorem writeKeys_wf (ks bs : List Nat) (s : State) (h : memWf s.mem = true) : memWf (s.writeKeys ks bs).mem = true := by
  induction ks generalizing bs s with
  | nil => simpa [State.writeKeys] using h
  | cons k ks ih =>
    cases bs with
    | nil => simpa [State.writeKeys] using h
    | cons b bs => exact ih bs _ (memWf_memWrite _ _ h)

/-- Bytes that are not written read as before. -/
theorem writeKeys_readByte (ks bs : List Nat) (s : State) (k : Nat) (h : k ∉ ks) :
    (s.writeKeys ks bs).readByte k = s.readByte k := by
  induction ks generalizing bs s with
  | nil => simp [State.writeKeys]
  | cons j ks ih =>
    cases bs with
    | nil => simp [State.writeKeys]
    | cons b bs =>
      simp only [List.mem_cons, not_or] at h
      rw [State.writeKeys, ih bs _ h.2]
      simp [State.readByte, State.writeByte, memRead_memWrite_ne, h.1]

theorem store_wf (ks bs : List Nat) (s : State) (h : memWf s.mem = true) : memWf (s.store ks bs).mem = true :=
  writeKeys_wf ks bs s h

theorem store_readByte (ks bs : List Nat) (s : State) (k : Nat) (h : k ∉ ks) : (s.store ks bs).readByte k = s.readByte k :=
  writeKeys_readByte ks bs s k h

theorem storeAll_wf (l : List BufStore) (s : State) (h : memWf s.mem = true) : memWf (s.storeAll l).mem = true := by
  induction l generalizing s with
  | nil => exact h
  | cons b l ih => exact ih _ (store_wf _ _ _ h)

theorem drain_wf (s : State) (r : Nat) (h : memWf s.mem = true) : memWf (s.drain r).mem = true := storeAll_wf _ _ h

theorem reset_wf : memWf State.reset.mem = true := rfl

end Sys2Proof.Machine
end

