-- ==== Sys2Proof/Laws/State.lean ====
section
/-! SUPPORT. One lemma a field for each update of the state. -/
namespace Sys2Proof.Machine

/-! ## setRegion -/

@[simp] theorem setRegion_mem (s : State) (r : Nat) (v : Region) : (s.setRegion r v).mem = s.mem := rfl

@[simp] theorem setRegion_poison (s : State) (r : Nat) (v : Region) : (s.setRegion r v).poison = s.poison := rfl

@[simp] theorem setRegion_marks (s : State) (r : Nat) (v : Region) : (s.setRegion r v).marks = s.marks := rfl

@[simp] theorem setRegion_regions (s : State) (r : Nat) (v : Region) : (s.setRegion r v).regions = sput s.regions r v := rfl

@[simp] theorem setRegion_cores (s : State) (r : Nat) (v : Region) : (s.setRegion r v).cores = s.cores := rfl

@[simp] theorem setRegion_quadSplit (s : State) (r : Nat) (v : Region) : (s.setRegion r v).quadSplit = s.quadSplit := rfl

@[simp] theorem setRegion_sectorSplit (s : State) (r : Nat) (v : Region) : (s.setRegion r v).sectorSplit = s.sectorSplit := rfl

@[simp] theorem setRegion_ports (s : State) (r : Nat) (v : Region) : (s.setRegion r v).ports = s.ports := rfl

@[simp] theorem setRegion_queues (s : State) (r : Nat) (v : Region) : (s.setRegion r v).queues = s.queues := rfl

@[simp] theorem setRegion_arrivals (s : State) (r : Nat) (v : Region) : (s.setRegion r v).arrivals = s.arrivals := rfl

@[simp] theorem setRegion_sent (s : State) (r : Nat) (v : Region) : (s.setRegion r v).sent = s.sent := rfl

@[simp] theorem setRegion_expect (s : State) (r : Nat) (v : Region) : (s.setRegion r v).expect = s.expect := rfl

@[simp] theorem setRegion_undelivered (s : State) (r : Nat) (v : Region) : (s.setRegion r v).undelivered = s.undelivered := rfl

@[simp] theorem setRegion_waitingSend (s : State) (r : Nat) (v : Region) : (s.setRegion r v).waitingSend = s.waitingSend := rfl

@[simp] theorem setRegion_clocks (s : State) (r : Nat) (v : Region) : (s.setRegion r v).clocks = s.clocks := rfl

@[simp] theorem setRegion_lastDone (s : State) (r : Nat) (v : Region) : (s.setRegion r v).lastDone = s.lastDone := rfl

@[simp] theorem setRegion_ticks (s : State) (r : Nat) (v : Region) : (s.setRegion r v).ticks = s.ticks := rfl

@[simp] theorem setRegion_die (s : State) (r : Nat) (v : Region) : (s.setRegion r v).die = s.die := rfl

@[simp] theorem setRegion_agenda (s : State) (r : Nat) (v : Region) : (s.setRegion r v).agenda = s.agenda := rfl

@[simp] theorem setRegion_turn (s : State) (r : Nat) (v : Region) : (s.setRegion r v).turn = s.turn := rfl

@[simp] theorem setRegion_cur (s : State) (r : Nat) (v : Region) : (s.setRegion r v).cur = s.cur := rfl

@[simp] theorem setRegion_free (s : State) (r : Nat) (v : Region) : (s.setRegion r v).free = s.free := rfl

@[simp] theorem setRegion_vcFlits (s : State) (r : Nat) (v : Region) : (s.setRegion r v).vcFlits = s.vcFlits := rfl

/-! ## setCore -/

@[simp] theorem setCore_mem (s : State) (c : Nat) (v : Core) : (s.setCore c v).mem = s.mem := rfl

@[simp] theorem setCore_poison (s : State) (c : Nat) (v : Core) : (s.setCore c v).poison = s.poison := rfl

@[simp] theorem setCore_marks (s : State) (c : Nat) (v : Core) : (s.setCore c v).marks = s.marks := rfl

@[simp] theorem setCore_regions (s : State) (c : Nat) (v : Core) : (s.setCore c v).regions = s.regions := rfl

@[simp] theorem setCore_cores (s : State) (c : Nat) (v : Core) : (s.setCore c v).cores = sput s.cores c v := rfl

@[simp] theorem setCore_quadSplit (s : State) (c : Nat) (v : Core) : (s.setCore c v).quadSplit = s.quadSplit := rfl

@[simp] theorem setCore_sectorSplit (s : State) (c : Nat) (v : Core) : (s.setCore c v).sectorSplit = s.sectorSplit := rfl

@[simp] theorem setCore_ports (s : State) (c : Nat) (v : Core) : (s.setCore c v).ports = s.ports := rfl

@[simp] theorem setCore_queues (s : State) (c : Nat) (v : Core) : (s.setCore c v).queues = s.queues := rfl

@[simp] theorem setCore_arrivals (s : State) (c : Nat) (v : Core) : (s.setCore c v).arrivals = s.arrivals := rfl

@[simp] theorem setCore_sent (s : State) (c : Nat) (v : Core) : (s.setCore c v).sent = s.sent := rfl

@[simp] theorem setCore_expect (s : State) (c : Nat) (v : Core) : (s.setCore c v).expect = s.expect := rfl

@[simp] theorem setCore_undelivered (s : State) (c : Nat) (v : Core) : (s.setCore c v).undelivered = s.undelivered := rfl

@[simp] theorem setCore_waitingSend (s : State) (c : Nat) (v : Core) : (s.setCore c v).waitingSend = s.waitingSend := rfl

@[simp] theorem setCore_clocks (s : State) (c : Nat) (v : Core) : (s.setCore c v).clocks = s.clocks := rfl

@[simp] theorem setCore_lastDone (s : State) (c : Nat) (v : Core) : (s.setCore c v).lastDone = s.lastDone := rfl

@[simp] theorem setCore_ticks (s : State) (c : Nat) (v : Core) : (s.setCore c v).ticks = s.ticks := rfl

@[simp] theorem setCore_die (s : State) (c : Nat) (v : Core) : (s.setCore c v).die = s.die := rfl

@[simp] theorem setCore_agenda (s : State) (c : Nat) (v : Core) : (s.setCore c v).agenda = s.agenda := rfl

@[simp] theorem setCore_turn (s : State) (c : Nat) (v : Core) : (s.setCore c v).turn = s.turn := rfl

@[simp] theorem setCore_cur (s : State) (c : Nat) (v : Core) : (s.setCore c v).cur = s.cur := rfl

@[simp] theorem setCore_free (s : State) (c : Nat) (v : Core) : (s.setCore c v).free = s.free := rfl

@[simp] theorem setCore_vcFlits (s : State) (c : Nat) (v : Core) : (s.setCore c v).vcFlits = s.vcFlits := rfl

/-! ## setCtx -/

@[simp] theorem setCtx_mem (s : State) (c x : Nat) (v : Ctx) : (s.setCtx c x v).mem = s.mem := rfl

@[simp] theorem setCtx_poison (s : State) (c x : Nat) (v : Ctx) : (s.setCtx c x v).poison = s.poison := rfl

@[simp] theorem setCtx_marks (s : State) (c x : Nat) (v : Ctx) : (s.setCtx c x v).marks = s.marks := rfl

@[simp] theorem setCtx_regions (s : State) (c x : Nat) (v : Ctx) : (s.setCtx c x v).regions = s.regions := rfl

@[simp] theorem setCtx_cores (s : State) (c x : Nat) (v : Ctx) : (s.setCtx c x v).cores = sput s.cores c ((s.core c).setCtx x v) := rfl

@[simp] theorem setCtx_quadSplit (s : State) (c x : Nat) (v : Ctx) : (s.setCtx c x v).quadSplit = s.quadSplit := rfl

@[simp] theorem setCtx_sectorSplit (s : State) (c x : Nat) (v : Ctx) : (s.setCtx c x v).sectorSplit = s.sectorSplit := rfl

@[simp] theorem setCtx_ports (s : State) (c x : Nat) (v : Ctx) : (s.setCtx c x v).ports = s.ports := rfl

@[simp] theorem setCtx_queues (s : State) (c x : Nat) (v : Ctx) : (s.setCtx c x v).queues = s.queues := rfl

@[simp] theorem setCtx_arrivals (s : State) (c x : Nat) (v : Ctx) : (s.setCtx c x v).arrivals = s.arrivals := rfl

@[simp] theorem setCtx_sent (s : State) (c x : Nat) (v : Ctx) : (s.setCtx c x v).sent = s.sent := rfl

@[simp] theorem setCtx_expect (s : State) (c x : Nat) (v : Ctx) : (s.setCtx c x v).expect = s.expect := rfl

@[simp] theorem setCtx_undelivered (s : State) (c x : Nat) (v : Ctx) : (s.setCtx c x v).undelivered = s.undelivered := rfl

@[simp] theorem setCtx_waitingSend (s : State) (c x : Nat) (v : Ctx) : (s.setCtx c x v).waitingSend = s.waitingSend := rfl

@[simp] theorem setCtx_clocks (s : State) (c x : Nat) (v : Ctx) : (s.setCtx c x v).clocks = s.clocks := rfl

@[simp] theorem setCtx_lastDone (s : State) (c x : Nat) (v : Ctx) : (s.setCtx c x v).lastDone = s.lastDone := rfl

@[simp] theorem setCtx_ticks (s : State) (c x : Nat) (v : Ctx) : (s.setCtx c x v).ticks = s.ticks := rfl

@[simp] theorem setCtx_die (s : State) (c x : Nat) (v : Ctx) : (s.setCtx c x v).die = s.die := rfl

@[simp] theorem setCtx_agenda (s : State) (c x : Nat) (v : Ctx) : (s.setCtx c x v).agenda = s.agenda := rfl

@[simp] theorem setCtx_turn (s : State) (c x : Nat) (v : Ctx) : (s.setCtx c x v).turn = s.turn := rfl

@[simp] theorem setCtx_cur (s : State) (c x : Nat) (v : Ctx) : (s.setCtx c x v).cur = s.cur := rfl

@[simp] theorem setCtx_free (s : State) (c x : Nat) (v : Ctx) : (s.setCtx c x v).free = s.free := rfl

@[simp] theorem setCtx_vcFlits (s : State) (c x : Nat) (v : Ctx) : (s.setCtx c x v).vcFlits = s.vcFlits := rfl

/-! ## setX -/

@[simp] theorem setX_mem (s : State) (r n : Nat) (v : Word) : (s.setX r n v).mem = s.mem := rfl

@[simp] theorem setX_poison (s : State) (r n : Nat) (v : Word) : (s.setX r n v).poison = s.poison := rfl

@[simp] theorem setX_marks (s : State) (r n : Nat) (v : Word) : (s.setX r n v).marks = s.marks := rfl

@[simp] theorem setX_regions (s : State) (r n : Nat) (v : Word) : (s.setX r n v).regions = sput s.regions r ((s.region r).setX n v) := rfl

@[simp] theorem setX_cores (s : State) (r n : Nat) (v : Word) : (s.setX r n v).cores = s.cores := rfl

@[simp] theorem setX_quadSplit (s : State) (r n : Nat) (v : Word) : (s.setX r n v).quadSplit = s.quadSplit := rfl

@[simp] theorem setX_sectorSplit (s : State) (r n : Nat) (v : Word) : (s.setX r n v).sectorSplit = s.sectorSplit := rfl

@[simp] theorem setX_ports (s : State) (r n : Nat) (v : Word) : (s.setX r n v).ports = s.ports := rfl

@[simp] theorem setX_queues (s : State) (r n : Nat) (v : Word) : (s.setX r n v).queues = s.queues := rfl

@[simp] theorem setX_arrivals (s : State) (r n : Nat) (v : Word) : (s.setX r n v).arrivals = s.arrivals := rfl

@[simp] theorem setX_sent (s : State) (r n : Nat) (v : Word) : (s.setX r n v).sent = s.sent := rfl

@[simp] theorem setX_expect (s : State) (r n : Nat) (v : Word) : (s.setX r n v).expect = s.expect := rfl

@[simp] theorem setX_undelivered (s : State) (r n : Nat) (v : Word) : (s.setX r n v).undelivered = s.undelivered := rfl

@[simp] theorem setX_waitingSend (s : State) (r n : Nat) (v : Word) : (s.setX r n v).waitingSend = s.waitingSend := rfl

@[simp] theorem setX_clocks (s : State) (r n : Nat) (v : Word) : (s.setX r n v).clocks = s.clocks := rfl

@[simp] theorem setX_lastDone (s : State) (r n : Nat) (v : Word) : (s.setX r n v).lastDone = s.lastDone := rfl

@[simp] theorem setX_ticks (s : State) (r n : Nat) (v : Word) : (s.setX r n v).ticks = s.ticks := rfl

@[simp] theorem setX_die (s : State) (r n : Nat) (v : Word) : (s.setX r n v).die = s.die := rfl

@[simp] theorem setX_agenda (s : State) (r n : Nat) (v : Word) : (s.setX r n v).agenda = s.agenda := rfl

@[simp] theorem setX_turn (s : State) (r n : Nat) (v : Word) : (s.setX r n v).turn = s.turn := rfl

@[simp] theorem setX_cur (s : State) (r n : Nat) (v : Word) : (s.setX r n v).cur = s.cur := rfl

@[simp] theorem setX_free (s : State) (r n : Nat) (v : Word) : (s.setX r n v).free = s.free := rfl

@[simp] theorem setX_vcFlits (s : State) (r n : Nat) (v : Word) : (s.setX r n v).vcFlits = s.vcFlits := rfl

/-! ## tick -/

@[simp] theorem tick_mem (s : State) : (s.tick).mem = s.mem := rfl

@[simp] theorem tick_poison (s : State) : (s.tick).poison = s.poison := rfl

@[simp] theorem tick_marks (s : State) : (s.tick).marks = s.marks := rfl

@[simp] theorem tick_regions (s : State) : (s.tick).regions = s.regions := rfl

@[simp] theorem tick_cores (s : State) : (s.tick).cores = s.cores := rfl

@[simp] theorem tick_quadSplit (s : State) : (s.tick).quadSplit = s.quadSplit := rfl

@[simp] theorem tick_sectorSplit (s : State) : (s.tick).sectorSplit = s.sectorSplit := rfl

@[simp] theorem tick_ports (s : State) : (s.tick).ports = s.ports := rfl

@[simp] theorem tick_queues (s : State) : (s.tick).queues = s.queues := rfl

@[simp] theorem tick_arrivals (s : State) : (s.tick).arrivals = s.arrivals := rfl

@[simp] theorem tick_sent (s : State) : (s.tick).sent = s.sent := rfl

@[simp] theorem tick_expect (s : State) : (s.tick).expect = s.expect := rfl

@[simp] theorem tick_undelivered (s : State) : (s.tick).undelivered = s.undelivered := rfl

@[simp] theorem tick_waitingSend (s : State) : (s.tick).waitingSend = s.waitingSend := rfl

@[simp] theorem tick_clocks (s : State) : (s.tick).clocks = s.clocks := rfl

@[simp] theorem tick_lastDone (s : State) : (s.tick).lastDone = s.lastDone := rfl

@[simp] theorem tick_ticks (s : State) : (s.tick).ticks = s.ticks + 1 := rfl

@[simp] theorem tick_die (s : State) : (s.tick).die = s.die := rfl

@[simp] theorem tick_agenda (s : State) : (s.tick).agenda = s.agenda := rfl

@[simp] theorem tick_turn (s : State) : (s.tick).turn = s.turn := rfl

@[simp] theorem tick_cur (s : State) : (s.tick).cur = s.cur := rfl

@[simp] theorem tick_free (s : State) : (s.tick).free = s.free := rfl

@[simp] theorem tick_vcFlits (s : State) : (s.tick).vcFlits = s.vcFlits := rfl

/-! ## notify -/

@[simp] theorem notify_mem (s : State) (n : Notice) : (s.notify n).mem = s.mem := rfl

@[simp] theorem notify_poison (s : State) (n : Notice) : (s.notify n).poison = s.poison := rfl

@[simp] theorem notify_marks (s : State) (n : Notice) : (s.notify n).marks = s.marks := rfl

@[simp] theorem notify_regions (s : State) (n : Notice) : (s.notify n).regions = s.regions := rfl

@[simp] theorem notify_cores (s : State) (n : Notice) : (s.notify n).cores = s.cores := rfl

@[simp] theorem notify_quadSplit (s : State) (n : Notice) : (s.notify n).quadSplit = s.quadSplit := rfl

@[simp] theorem notify_sectorSplit (s : State) (n : Notice) : (s.notify n).sectorSplit = s.sectorSplit := rfl

@[simp] theorem notify_ports (s : State) (n : Notice) : (s.notify n).ports = s.ports := rfl

@[simp] theorem notify_queues (s : State) (n : Notice) : (s.notify n).queues = s.queues := rfl

@[simp] theorem notify_arrivals (s : State) (n : Notice) : (s.notify n).arrivals = s.arrivals := rfl

@[simp] theorem notify_sent (s : State) (n : Notice) : (s.notify n).sent = s.sent := rfl

@[simp] theorem notify_expect (s : State) (n : Notice) : (s.notify n).expect = s.expect := rfl

@[simp] theorem notify_undelivered (s : State) (n : Notice) : (s.notify n).undelivered = s.undelivered := rfl

@[simp] theorem notify_waitingSend (s : State) (n : Notice) : (s.notify n).waitingSend = s.waitingSend := rfl

@[simp] theorem notify_clocks (s : State) (n : Notice) : (s.notify n).clocks = s.clocks := rfl

@[simp] theorem notify_lastDone (s : State) (n : Notice) : (s.notify n).lastDone = s.lastDone := rfl

@[simp] theorem notify_ticks (s : State) (n : Notice) : (s.notify n).ticks = s.ticks := rfl

@[simp] theorem notify_die (s : State) (n : Notice) : (s.notify n).die = { s.die with notices := s.die.notices ++ [n] } := rfl

@[simp] theorem notify_agenda (s : State) (n : Notice) : (s.notify n).agenda = s.agenda := rfl

@[simp] theorem notify_turn (s : State) (n : Notice) : (s.notify n).turn = s.turn := rfl

@[simp] theorem notify_cur (s : State) (n : Notice) : (s.notify n).cur = s.cur := rfl

@[simp] theorem notify_free (s : State) (n : Notice) : (s.notify n).free = s.free := rfl

@[simp] theorem notify_vcFlits (s : State) (n : Notice) : (s.notify n).vcFlits = s.vcFlits := rfl

/-! ## writeByte -/

@[simp] theorem writeByte_mem (s : State) (k v : Nat) : (s.writeByte k v).mem = memWrite s.mem k (BitVec.ofNat 8 v) := rfl

@[simp] theorem writeByte_poison (s : State) (k v : Nat) : (s.writeByte k v).poison = s.poison := rfl

@[simp] theorem writeByte_marks (s : State) (k v : Nat) : (s.writeByte k v).marks = s.marks := rfl

@[simp] theorem writeByte_regions (s : State) (k v : Nat) : (s.writeByte k v).regions = s.regions := rfl

@[simp] theorem writeByte_cores (s : State) (k v : Nat) : (s.writeByte k v).cores = s.cores := rfl

@[simp] theorem writeByte_quadSplit (s : State) (k v : Nat) : (s.writeByte k v).quadSplit = s.quadSplit := rfl

@[simp] theorem writeByte_sectorSplit (s : State) (k v : Nat) : (s.writeByte k v).sectorSplit = s.sectorSplit := rfl

@[simp] theorem writeByte_ports (s : State) (k v : Nat) : (s.writeByte k v).ports = s.ports := rfl

@[simp] theorem writeByte_queues (s : State) (k v : Nat) : (s.writeByte k v).queues = s.queues := rfl

@[simp] theorem writeByte_arrivals (s : State) (k v : Nat) : (s.writeByte k v).arrivals = s.arrivals := rfl

@[simp] theorem writeByte_sent (s : State) (k v : Nat) : (s.writeByte k v).sent = s.sent := rfl

@[simp] theorem writeByte_expect (s : State) (k v : Nat) : (s.writeByte k v).expect = s.expect := rfl

@[simp] theorem writeByte_undelivered (s : State) (k v : Nat) : (s.writeByte k v).undelivered = s.undelivered := rfl

@[simp] theorem writeByte_waitingSend (s : State) (k v : Nat) : (s.writeByte k v).waitingSend = s.waitingSend := rfl

@[simp] theorem writeByte_clocks (s : State) (k v : Nat) : (s.writeByte k v).clocks = s.clocks := rfl

@[simp] theorem writeByte_lastDone (s : State) (k v : Nat) : (s.writeByte k v).lastDone = s.lastDone := rfl

@[simp] theorem writeByte_ticks (s : State) (k v : Nat) : (s.writeByte k v).ticks = s.ticks := rfl

@[simp] theorem writeByte_die (s : State) (k v : Nat) : (s.writeByte k v).die = s.die := rfl

@[simp] theorem writeByte_agenda (s : State) (k v : Nat) : (s.writeByte k v).agenda = s.agenda := rfl

@[simp] theorem writeByte_turn (s : State) (k v : Nat) : (s.writeByte k v).turn = s.turn := rfl

@[simp] theorem writeByte_cur (s : State) (k v : Nat) : (s.writeByte k v).cur = s.cur := rfl

@[simp] theorem writeByte_free (s : State) (k v : Nat) : (s.writeByte k v).free = s.free := rfl

@[simp] theorem writeByte_vcFlits (s : State) (k v : Nat) : (s.writeByte k v).vcFlits = s.vcFlits := rfl

/-! ## unmark -/

@[simp] theorem unmark_mem (s : State) (lo hi : Nat) : (s.unmark lo hi).mem = s.mem := rfl

@[simp] theorem unmark_poison (s : State) (lo hi : Nat) : (s.unmark lo hi).poison = s.poison := rfl

@[simp] theorem unmark_marks (s : State) (lo hi : Nat) : (s.unmark lo hi).marks = s.marks.filter (fun m => !(lo ≤ m && m < hi)) := rfl

@[simp] theorem unmark_regions (s : State) (lo hi : Nat) : (s.unmark lo hi).regions = s.regions := rfl

@[simp] theorem unmark_cores (s : State) (lo hi : Nat) : (s.unmark lo hi).cores = s.cores := rfl

@[simp] theorem unmark_quadSplit (s : State) (lo hi : Nat) : (s.unmark lo hi).quadSplit = s.quadSplit := rfl

@[simp] theorem unmark_sectorSplit (s : State) (lo hi : Nat) : (s.unmark lo hi).sectorSplit = s.sectorSplit := rfl

@[simp] theorem unmark_ports (s : State) (lo hi : Nat) : (s.unmark lo hi).ports = s.ports := rfl

@[simp] theorem unmark_queues (s : State) (lo hi : Nat) : (s.unmark lo hi).queues = s.queues := rfl

@[simp] theorem unmark_arrivals (s : State) (lo hi : Nat) : (s.unmark lo hi).arrivals = s.arrivals := rfl

@[simp] theorem unmark_sent (s : State) (lo hi : Nat) : (s.unmark lo hi).sent = s.sent := rfl

@[simp] theorem unmark_expect (s : State) (lo hi : Nat) : (s.unmark lo hi).expect = s.expect := rfl

@[simp] theorem unmark_undelivered (s : State) (lo hi : Nat) : (s.unmark lo hi).undelivered = s.undelivered := rfl

@[simp] theorem unmark_waitingSend (s : State) (lo hi : Nat) : (s.unmark lo hi).waitingSend = s.waitingSend := rfl

@[simp] theorem unmark_clocks (s : State) (lo hi : Nat) : (s.unmark lo hi).clocks = s.clocks := rfl

@[simp] theorem unmark_lastDone (s : State) (lo hi : Nat) : (s.unmark lo hi).lastDone = s.lastDone := rfl

@[simp] theorem unmark_ticks (s : State) (lo hi : Nat) : (s.unmark lo hi).ticks = s.ticks := rfl

@[simp] theorem unmark_die (s : State) (lo hi : Nat) : (s.unmark lo hi).die = s.die := rfl

@[simp] theorem unmark_agenda (s : State) (lo hi : Nat) : (s.unmark lo hi).agenda = s.agenda := rfl

@[simp] theorem unmark_turn (s : State) (lo hi : Nat) : (s.unmark lo hi).turn = s.turn := rfl

@[simp] theorem unmark_cur (s : State) (lo hi : Nat) : (s.unmark lo hi).cur = s.cur := rfl

@[simp] theorem unmark_free (s : State) (lo hi : Nat) : (s.unmark lo hi).free = s.free := rfl

@[simp] theorem unmark_vcFlits (s : State) (lo hi : Nat) : (s.unmark lo hi).vcFlits = s.vcFlits := rfl

/-! ## Poison -/

@[simp] theorem countErrors_mem (us : List Nat) (s : State) :
    (us.foldl (fun t u => t.countEvent (eventCore (8 * u)) 12 0 1) s).mem = s.mem := by
  induction us generalizing s with
  | nil => rfl
  | cons u us ih => exact ih _

@[simp] theorem countErrors_poison (us : List Nat) (s : State) :
    (us.foldl (fun t u => t.countEvent (eventCore (8 * u)) 12 0 1) s).poison = s.poison := by
  induction us generalizing s with
  | nil => rfl
  | cons u us ih => exact ih _

@[simp] theorem countErrors_marks (us : List Nat) (s : State) :
    (us.foldl (fun t u => t.countEvent (eventCore (8 * u)) 12 0 1) s).marks = s.marks := by
  induction us generalizing s with
  | nil => rfl
  | cons u us ih => exact ih _

@[simp] theorem countErrors_regions (us : List Nat) (s : State) :
    (us.foldl (fun t u => t.countEvent (eventCore (8 * u)) 12 0 1) s).regions = s.regions := by
  induction us generalizing s with
  | nil => rfl
  | cons u us ih => exact ih _

@[simp] theorem countErrors_quadSplit (us : List Nat) (s : State) :
    (us.foldl (fun t u => t.countEvent (eventCore (8 * u)) 12 0 1) s).quadSplit = s.quadSplit := by
  induction us generalizing s with
  | nil => rfl
  | cons u us ih => exact ih _

@[simp] theorem countErrors_sectorSplit (us : List Nat) (s : State) :
    (us.foldl (fun t u => t.countEvent (eventCore (8 * u)) 12 0 1) s).sectorSplit = s.sectorSplit := by
  induction us generalizing s with
  | nil => rfl
  | cons u us ih => exact ih _

@[simp] theorem countErrors_ports (us : List Nat) (s : State) :
    (us.foldl (fun t u => t.countEvent (eventCore (8 * u)) 12 0 1) s).ports = s.ports := by
  induction us generalizing s with
  | nil => rfl
  | cons u us ih => exact ih _

@[simp] theorem countErrors_queues (us : List Nat) (s : State) :
    (us.foldl (fun t u => t.countEvent (eventCore (8 * u)) 12 0 1) s).queues = s.queues := by
  induction us generalizing s with
  | nil => rfl
  | cons u us ih => exact ih _

@[simp] theorem countErrors_arrivals (us : List Nat) (s : State) :
    (us.foldl (fun t u => t.countEvent (eventCore (8 * u)) 12 0 1) s).arrivals = s.arrivals := by
  induction us generalizing s with
  | nil => rfl
  | cons u us ih => exact ih _

@[simp] theorem countErrors_sent (us : List Nat) (s : State) :
    (us.foldl (fun t u => t.countEvent (eventCore (8 * u)) 12 0 1) s).sent = s.sent := by
  induction us generalizing s with
  | nil => rfl
  | cons u us ih => exact ih _

@[simp] theorem countErrors_expect (us : List Nat) (s : State) :
    (us.foldl (fun t u => t.countEvent (eventCore (8 * u)) 12 0 1) s).expect = s.expect := by
  induction us generalizing s with
  | nil => rfl
  | cons u us ih => exact ih _

@[simp] theorem countErrors_undelivered (us : List Nat) (s : State) :
    (us.foldl (fun t u => t.countEvent (eventCore (8 * u)) 12 0 1) s).undelivered = s.undelivered := by
  induction us generalizing s with
  | nil => rfl
  | cons u us ih => exact ih _

@[simp] theorem countErrors_waitingSend (us : List Nat) (s : State) :
    (us.foldl (fun t u => t.countEvent (eventCore (8 * u)) 12 0 1) s).waitingSend = s.waitingSend := by
  induction us generalizing s with
  | nil => rfl
  | cons u us ih => exact ih _

@[simp] theorem countErrors_clocks (us : List Nat) (s : State) :
    (us.foldl (fun t u => t.countEvent (eventCore (8 * u)) 12 0 1) s).clocks = s.clocks := by
  induction us generalizing s with
  | nil => rfl
  | cons u us ih => exact ih _

@[simp] theorem countErrors_lastDone (us : List Nat) (s : State) :
    (us.foldl (fun t u => t.countEvent (eventCore (8 * u)) 12 0 1) s).lastDone = s.lastDone := by
  induction us generalizing s with
  | nil => rfl
  | cons u us ih => exact ih _

@[simp] theorem countErrors_ticks (us : List Nat) (s : State) :
    (us.foldl (fun t u => t.countEvent (eventCore (8 * u)) 12 0 1) s).ticks = s.ticks := by
  induction us generalizing s with
  | nil => rfl
  | cons u us ih => exact ih _

@[simp] theorem countErrors_die (us : List Nat) (s : State) :
    (us.foldl (fun t u => t.countEvent (eventCore (8 * u)) 12 0 1) s).die = s.die := by
  induction us generalizing s with
  | nil => rfl
  | cons u us ih => exact ih _

@[simp] theorem countErrors_agenda (us : List Nat) (s : State) :
    (us.foldl (fun t u => t.countEvent (eventCore (8 * u)) 12 0 1) s).agenda = s.agenda := by
  induction us generalizing s with
  | nil => rfl
  | cons u us ih => exact ih _

@[simp] theorem countErrors_turn (us : List Nat) (s : State) :
    (us.foldl (fun t u => t.countEvent (eventCore (8 * u)) 12 0 1) s).turn = s.turn := by
  induction us generalizing s with
  | nil => rfl
  | cons u us ih => exact ih _

@[simp] theorem countErrors_cur (us : List Nat) (s : State) :
    (us.foldl (fun t u => t.countEvent (eventCore (8 * u)) 12 0 1) s).cur = s.cur := by
  induction us generalizing s with
  | nil => rfl
  | cons u us ih => exact ih _

@[simp] theorem countErrors_free (us : List Nat) (s : State) :
    (us.foldl (fun t u => t.countEvent (eventCore (8 * u)) 12 0 1) s).free = s.free := by
  induction us generalizing s with
  | nil => rfl
  | cons u us ih => exact ih _

@[simp] theorem countErrors_vcFlits (us : List Nat) (s : State) :
    (us.foldl (fun t u => t.countEvent (eventCore (8 * u)) 12 0 1) s).vcFlits = s.vcFlits := by
  induction us generalizing s with
  | nil => rfl
  | cons u us ih => exact ih _

@[simp] theorem spoil_mem (s : State) (us : List Nat) : (s.spoil us).mem = s.mem := by simp [State.spoil]

@[simp] theorem spoil_poison (s : State) (us : List Nat) : (s.spoil us).poison = us.foldl insertNat s.poison := by simp [State.spoil]

@[simp] theorem spoil_marks (s : State) (us : List Nat) : (s.spoil us).marks = s.marks := by simp [State.spoil]

@[simp] theorem spoil_regions (s : State) (us : List Nat) : (s.spoil us).regions = s.regions := by simp [State.spoil]

@[simp] theorem spoil_quadSplit (s : State) (us : List Nat) : (s.spoil us).quadSplit = s.quadSplit := by simp [State.spoil]

@[simp] theorem spoil_sectorSplit (s : State) (us : List Nat) : (s.spoil us).sectorSplit = s.sectorSplit := by simp [State.spoil]

@[simp] theorem spoil_ports (s : State) (us : List Nat) : (s.spoil us).ports = s.ports := by simp [State.spoil]

@[simp] theorem spoil_queues (s : State) (us : List Nat) : (s.spoil us).queues = s.queues := by simp [State.spoil]

@[simp] theorem spoil_arrivals (s : State) (us : List Nat) : (s.spoil us).arrivals = s.arrivals := by simp [State.spoil]

@[simp] theorem spoil_sent (s : State) (us : List Nat) : (s.spoil us).sent = s.sent := by simp [State.spoil]

@[simp] theorem spoil_expect (s : State) (us : List Nat) : (s.spoil us).expect = s.expect := by simp [State.spoil]

@[simp] theorem spoil_undelivered (s : State) (us : List Nat) : (s.spoil us).undelivered = s.undelivered := by simp [State.spoil]

@[simp] theorem spoil_waitingSend (s : State) (us : List Nat) : (s.spoil us).waitingSend = s.waitingSend := by simp [State.spoil]

@[simp] theorem spoil_clocks (s : State) (us : List Nat) : (s.spoil us).clocks = s.clocks := by simp [State.spoil]

@[simp] theorem spoil_lastDone (s : State) (us : List Nat) : (s.spoil us).lastDone = s.lastDone := by simp [State.spoil]

@[simp] theorem spoil_ticks (s : State) (us : List Nat) : (s.spoil us).ticks = s.ticks := by simp [State.spoil]

@[simp] theorem spoil_die (s : State) (us : List Nat) : (s.spoil us).die = s.die := by simp [State.spoil]

@[simp] theorem spoil_agenda (s : State) (us : List Nat) : (s.spoil us).agenda = s.agenda := by simp [State.spoil]

@[simp] theorem spoil_turn (s : State) (us : List Nat) : (s.spoil us).turn = s.turn := by simp [State.spoil]

@[simp] theorem spoil_cur (s : State) (us : List Nat) : (s.spoil us).cur = s.cur := by simp [State.spoil]

@[simp] theorem spoil_free (s : State) (us : List Nat) : (s.spoil us).free = s.free := by simp [State.spoil]

@[simp] theorem spoil_vcFlits (s : State) (us : List Nat) : (s.spoil us).vcFlits = s.vcFlits := by simp [State.spoil]

@[simp] theorem poisonKeys_mem (s : State) (ks : List Nat) : (s.poisonKeys ks).mem = s.mem := by simp [State.poisonKeys]

@[simp] theorem poisonKeys_marks (s : State) (ks : List Nat) : (s.poisonKeys ks).marks = s.marks := by simp [State.poisonKeys]

@[simp] theorem poisonKeys_regions (s : State) (ks : List Nat) : (s.poisonKeys ks).regions = s.regions := by simp [State.poisonKeys]

@[simp] theorem poisonKeys_quadSplit (s : State) (ks : List Nat) : (s.poisonKeys ks).quadSplit = s.quadSplit := by simp [State.poisonKeys]

@[simp] theorem poisonKeys_sectorSplit (s : State) (ks : List Nat) : (s.poisonKeys ks).sectorSplit = s.sectorSplit := by simp [State.poisonKeys]

@[simp] theorem poisonKeys_ports (s : State) (ks : List Nat) : (s.poisonKeys ks).ports = s.ports := by simp [State.poisonKeys]

@[simp] theorem poisonKeys_queues (s : State) (ks : List Nat) : (s.poisonKeys ks).queues = s.queues := by simp [State.poisonKeys]

@[simp] theorem poisonKeys_arrivals (s : State) (ks : List Nat) : (s.poisonKeys ks).arrivals = s.arrivals := by simp [State.poisonKeys]

@[simp] theorem poisonKeys_sent (s : State) (ks : List Nat) : (s.poisonKeys ks).sent = s.sent := by simp [State.poisonKeys]

@[simp] theorem poisonKeys_expect (s : State) (ks : List Nat) : (s.poisonKeys ks).expect = s.expect := by simp [State.poisonKeys]

@[simp] theorem poisonKeys_undelivered (s : State) (ks : List Nat) : (s.poisonKeys ks).undelivered = s.undelivered := by simp [State.poisonKeys]

@[simp] theorem poisonKeys_waitingSend (s : State) (ks : List Nat) : (s.poisonKeys ks).waitingSend = s.waitingSend := by simp [State.poisonKeys]

@[simp] theorem poisonKeys_clocks (s : State) (ks : List Nat) : (s.poisonKeys ks).clocks = s.clocks := by simp [State.poisonKeys]

@[simp] theorem poisonKeys_lastDone (s : State) (ks : List Nat) : (s.poisonKeys ks).lastDone = s.lastDone := by simp [State.poisonKeys]

@[simp] theorem poisonKeys_ticks (s : State) (ks : List Nat) : (s.poisonKeys ks).ticks = s.ticks := by simp [State.poisonKeys]

@[simp] theorem poisonKeys_die (s : State) (ks : List Nat) : (s.poisonKeys ks).die = s.die := by simp [State.poisonKeys]

@[simp] theorem poisonKeys_agenda (s : State) (ks : List Nat) : (s.poisonKeys ks).agenda = s.agenda := by simp [State.poisonKeys]

@[simp] theorem poisonKeys_turn (s : State) (ks : List Nat) : (s.poisonKeys ks).turn = s.turn := by simp [State.poisonKeys]

@[simp] theorem poisonKeys_cur (s : State) (ks : List Nat) : (s.poisonKeys ks).cur = s.cur := by simp [State.poisonKeys]

@[simp] theorem poisonKeys_free (s : State) (ks : List Nat) : (s.poisonKeys ks).free = s.free := by simp [State.poisonKeys]

@[simp] theorem poisonKeys_vcFlits (s : State) (ks : List Nat) : (s.poisonKeys ks).vcFlits = s.vcFlits := by simp [State.poisonKeys]

/-! ## Bytes at keys -/

@[simp] theorem writeKeys_poison (ks bs : List Nat) (s : State) : (s.writeKeys ks bs).poison = s.poison := by
  induction ks generalizing bs s with
  | nil => simp [State.writeKeys]
  | cons k ks ih => cases bs <;> simp [State.writeKeys, ih]

@[simp] theorem writeKeys_marks (ks bs : List Nat) (s : State) : (s.writeKeys ks bs).marks = s.marks := by
  induction ks generalizing bs s with
  | nil => simp [State.writeKeys]
  | cons k ks ih => cases bs <;> simp [State.writeKeys, ih]

@[simp] theorem writeKeys_regions (ks bs : List Nat) (s : State) : (s.writeKeys ks bs).regions = s.regions := by
  induction ks generalizing bs s with
  | nil => simp [State.writeKeys]
  | cons k ks ih => cases bs <;> simp [State.writeKeys, ih]

@[simp] theorem writeKeys_cores (ks bs : List Nat) (s : State) : (s.writeKeys ks bs).cores = s.cores := by
  induction ks generalizing bs s with
  | nil => simp [State.writeKeys]
  | cons k ks ih => cases bs <;> simp [State.writeKeys, ih]

@[simp] theorem writeKeys_quadSplit (ks bs : List Nat) (s : State) : (s.writeKeys ks bs).quadSplit = s.quadSplit := by
  induction ks generalizing bs s with
  | nil => simp [State.writeKeys]
  | cons k ks ih => cases bs <;> simp [State.writeKeys, ih]

@[simp] theorem writeKeys_sectorSplit (ks bs : List Nat) (s : State) : (s.writeKeys ks bs).sectorSplit = s.sectorSplit := by
  induction ks generalizing bs s with
  | nil => simp [State.writeKeys]
  | cons k ks ih => cases bs <;> simp [State.writeKeys, ih]

@[simp] theorem writeKeys_ports (ks bs : List Nat) (s : State) : (s.writeKeys ks bs).ports = s.ports := by
  induction ks generalizing bs s with
  | nil => simp [State.writeKeys]
  | cons k ks ih => cases bs <;> simp [State.writeKeys, ih]

@[simp] theorem writeKeys_queues (ks bs : List Nat) (s : State) : (s.writeKeys ks bs).queues = s.queues := by
  induction ks generalizing bs s with
  | nil => simp [State.writeKeys]
  | cons k ks ih => cases bs <;> simp [State.writeKeys, ih]

@[simp] theorem writeKeys_arrivals (ks bs : List Nat) (s : State) : (s.writeKeys ks bs).arrivals = s.arrivals := by
  induction ks generalizing bs s with
  | nil => simp [State.writeKeys]
  | cons k ks ih => cases bs <;> simp [State.writeKeys, ih]

@[simp] theorem writeKeys_sent (ks bs : List Nat) (s : State) : (s.writeKeys ks bs).sent = s.sent := by
  induction ks generalizing bs s with
  | nil => simp [State.writeKeys]
  | cons k ks ih => cases bs <;> simp [State.writeKeys, ih]

@[simp] theorem writeKeys_expect (ks bs : List Nat) (s : State) : (s.writeKeys ks bs).expect = s.expect := by
  induction ks generalizing bs s with
  | nil => simp [State.writeKeys]
  | cons k ks ih => cases bs <;> simp [State.writeKeys, ih]

@[simp] theorem writeKeys_undelivered (ks bs : List Nat) (s : State) : (s.writeKeys ks bs).undelivered = s.undelivered := by
  induction ks generalizing bs s with
  | nil => simp [State.writeKeys]
  | cons k ks ih => cases bs <;> simp [State.writeKeys, ih]

@[simp] theorem writeKeys_waitingSend (ks bs : List Nat) (s : State) : (s.writeKeys ks bs).waitingSend = s.waitingSend := by
  induction ks generalizing bs s with
  | nil => simp [State.writeKeys]
  | cons k ks ih => cases bs <;> simp [State.writeKeys, ih]

@[simp] theorem writeKeys_clocks (ks bs : List Nat) (s : State) : (s.writeKeys ks bs).clocks = s.clocks := by
  induction ks generalizing bs s with
  | nil => simp [State.writeKeys]
  | cons k ks ih => cases bs <;> simp [State.writeKeys, ih]

@[simp] theorem writeKeys_lastDone (ks bs : List Nat) (s : State) : (s.writeKeys ks bs).lastDone = s.lastDone := by
  induction ks generalizing bs s with
  | nil => simp [State.writeKeys]
  | cons k ks ih => cases bs <;> simp [State.writeKeys, ih]

@[simp] theorem writeKeys_ticks (ks bs : List Nat) (s : State) : (s.writeKeys ks bs).ticks = s.ticks := by
  induction ks generalizing bs s with
  | nil => simp [State.writeKeys]
  | cons k ks ih => cases bs <;> simp [State.writeKeys, ih]

@[simp] theorem writeKeys_die (ks bs : List Nat) (s : State) : (s.writeKeys ks bs).die = s.die := by
  induction ks generalizing bs s with
  | nil => simp [State.writeKeys]
  | cons k ks ih => cases bs <;> simp [State.writeKeys, ih]

@[simp] theorem writeKeys_agenda (ks bs : List Nat) (s : State) : (s.writeKeys ks bs).agenda = s.agenda := by
  induction ks generalizing bs s with
  | nil => simp [State.writeKeys]
  | cons k ks ih => cases bs <;> simp [State.writeKeys, ih]

@[simp] theorem writeKeys_turn (ks bs : List Nat) (s : State) : (s.writeKeys ks bs).turn = s.turn := by
  induction ks generalizing bs s with
  | nil => simp [State.writeKeys]
  | cons k ks ih => cases bs <;> simp [State.writeKeys, ih]

@[simp] theorem writeKeys_cur (ks bs : List Nat) (s : State) : (s.writeKeys ks bs).cur = s.cur := by
  induction ks generalizing bs s with
  | nil => simp [State.writeKeys]
  | cons k ks ih => cases bs <;> simp [State.writeKeys, ih]

@[simp] theorem writeKeys_free (ks bs : List Nat) (s : State) : (s.writeKeys ks bs).free = s.free := by
  induction ks generalizing bs s with
  | nil => simp [State.writeKeys]
  | cons k ks ih => cases bs <;> simp [State.writeKeys, ih]

@[simp] theorem writeKeys_vcFlits (ks bs : List Nat) (s : State) : (s.writeKeys ks bs).vcFlits = s.vcFlits := by
  induction ks generalizing bs s with
  | nil => simp [State.writeKeys]
  | cons k ks ih => cases bs <;> simp [State.writeKeys, ih]

@[simp] theorem store_regions (s : State) (ks bs : List Nat) : (s.store ks bs).regions = s.regions := by simp [State.store]

@[simp] theorem store_cores (s : State) (ks bs : List Nat) : (s.store ks bs).cores = s.cores := by simp [State.store]

@[simp] theorem store_quadSplit (s : State) (ks bs : List Nat) : (s.store ks bs).quadSplit = s.quadSplit := by simp [State.store]

@[simp] theorem store_sectorSplit (s : State) (ks bs : List Nat) : (s.store ks bs).sectorSplit = s.sectorSplit := by simp [State.store]

@[simp] theorem store_ports (s : State) (ks bs : List Nat) : (s.store ks bs).ports = s.ports := by simp [State.store]

@[simp] theorem store_queues (s : State) (ks bs : List Nat) : (s.store ks bs).queues = s.queues := by simp [State.store]

@[simp] theorem store_arrivals (s : State) (ks bs : List Nat) : (s.store ks bs).arrivals = s.arrivals := by simp [State.store]

@[simp] theorem store_sent (s : State) (ks bs : List Nat) : (s.store ks bs).sent = s.sent := by simp [State.store]

@[simp] theorem store_expect (s : State) (ks bs : List Nat) : (s.store ks bs).expect = s.expect := by simp [State.store]

@[simp] theorem store_undelivered (s : State) (ks bs : List Nat) : (s.store ks bs).undelivered = s.undelivered := by simp [State.store]

@[simp] theorem store_waitingSend (s : State) (ks bs : List Nat) : (s.store ks bs).waitingSend = s.waitingSend := by simp [State.store]

@[simp] theorem store_clocks (s : State) (ks bs : List Nat) : (s.store ks bs).clocks = s.clocks := by simp [State.store]

@[simp] theorem store_lastDone (s : State) (ks bs : List Nat) : (s.store ks bs).lastDone = s.lastDone := by simp [State.store]

@[simp] theorem store_ticks (s : State) (ks bs : List Nat) : (s.store ks bs).ticks = s.ticks := by simp [State.store]

@[simp] theorem store_die (s : State) (ks bs : List Nat) : (s.store ks bs).die = s.die := by simp [State.store]

@[simp] theorem store_agenda (s : State) (ks bs : List Nat) : (s.store ks bs).agenda = s.agenda := by simp [State.store]

@[simp] theorem store_turn (s : State) (ks bs : List Nat) : (s.store ks bs).turn = s.turn := by simp [State.store]

@[simp] theorem store_cur (s : State) (ks bs : List Nat) : (s.store ks bs).cur = s.cur := by simp [State.store]

@[simp] theorem store_free (s : State) (ks bs : List Nat) : (s.store ks bs).free = s.free := by simp [State.store]

@[simp] theorem store_vcFlits (s : State) (ks bs : List Nat) : (s.store ks bs).vcFlits = s.vcFlits := by simp [State.store]

@[simp] theorem store_mem (s : State) (ks bs : List Nat) : (s.store ks bs).mem = (s.writeKeys ks bs).mem := rfl

@[simp] theorem storeAll_regions (l : List BufStore) (s : State) : (s.storeAll l).regions = s.regions := by
  induction l generalizing s with
  | nil => rfl
  | cons b l ih => simp [State.storeAll, ih]

@[simp] theorem storeAll_cores (l : List BufStore) (s : State) : (s.storeAll l).cores = s.cores := by
  induction l generalizing s with
  | nil => rfl
  | cons b l ih => simp [State.storeAll, ih]

@[simp] theorem storeAll_quadSplit (l : List BufStore) (s : State) : (s.storeAll l).quadSplit = s.quadSplit := by
  induction l generalizing s with
  | nil => rfl
  | cons b l ih => simp [State.storeAll, ih]

@[simp] theorem storeAll_sectorSplit (l : List BufStore) (s : State) : (s.storeAll l).sectorSplit = s.sectorSplit := by
  induction l generalizing s with
  | nil => rfl
  | cons b l ih => simp [State.storeAll, ih]

@[simp] theorem storeAll_ports (l : List BufStore) (s : State) : (s.storeAll l).ports = s.ports := by
  induction l generalizing s with
  | nil => rfl
  | cons b l ih => simp [State.storeAll, ih]

@[simp] theorem storeAll_queues (l : List BufStore) (s : State) : (s.storeAll l).queues = s.queues := by
  induction l generalizing s with
  | nil => rfl
  | cons b l ih => simp [State.storeAll, ih]

@[simp] theorem storeAll_arrivals (l : List BufStore) (s : State) : (s.storeAll l).arrivals = s.arrivals := by
  induction l generalizing s with
  | nil => rfl
  | cons b l ih => simp [State.storeAll, ih]

@[simp] theorem storeAll_sent (l : List BufStore) (s : State) : (s.storeAll l).sent = s.sent := by
  induction l generalizing s with
  | nil => rfl
  | cons b l ih => simp [State.storeAll, ih]

@[simp] theorem storeAll_expect (l : List BufStore) (s : State) : (s.storeAll l).expect = s.expect := by
  induction l generalizing s with
  | nil => rfl
  | cons b l ih => simp [State.storeAll, ih]

@[simp] theorem storeAll_undelivered (l : List BufStore) (s : State) : (s.storeAll l).undelivered = s.undelivered := by
  induction l generalizing s with
  | nil => rfl
  | cons b l ih => simp [State.storeAll, ih]

@[simp] theorem storeAll_waitingSend (l : List BufStore) (s : State) : (s.storeAll l).waitingSend = s.waitingSend := by
  induction l generalizing s with
  | nil => rfl
  | cons b l ih => simp [State.storeAll, ih]

@[simp] theorem storeAll_clocks (l : List BufStore) (s : State) : (s.storeAll l).clocks = s.clocks := by
  induction l generalizing s with
  | nil => rfl
  | cons b l ih => simp [State.storeAll, ih]

@[simp] theorem storeAll_lastDone (l : List BufStore) (s : State) : (s.storeAll l).lastDone = s.lastDone := by
  induction l generalizing s with
  | nil => rfl
  | cons b l ih => simp [State.storeAll, ih]

@[simp] theorem storeAll_ticks (l : List BufStore) (s : State) : (s.storeAll l).ticks = s.ticks := by
  induction l generalizing s with
  | nil => rfl
  | cons b l ih => simp [State.storeAll, ih]

@[simp] theorem storeAll_die (l : List BufStore) (s : State) : (s.storeAll l).die = s.die := by
  induction l generalizing s with
  | nil => rfl
  | cons b l ih => simp [State.storeAll, ih]

@[simp] theorem storeAll_agenda (l : List BufStore) (s : State) : (s.storeAll l).agenda = s.agenda := by
  induction l generalizing s with
  | nil => rfl
  | cons b l ih => simp [State.storeAll, ih]

@[simp] theorem storeAll_turn (l : List BufStore) (s : State) : (s.storeAll l).turn = s.turn := by
  induction l generalizing s with
  | nil => rfl
  | cons b l ih => simp [State.storeAll, ih]

@[simp] theorem storeAll_cur (l : List BufStore) (s : State) : (s.storeAll l).cur = s.cur := by
  induction l generalizing s with
  | nil => rfl
  | cons b l ih => simp [State.storeAll, ih]

@[simp] theorem storeAll_free (l : List BufStore) (s : State) : (s.storeAll l).free = s.free := by
  induction l generalizing s with
  | nil => rfl
  | cons b l ih => simp [State.storeAll, ih]

@[simp] theorem storeAll_vcFlits (l : List BufStore) (s : State) : (s.storeAll l).vcFlits = s.vcFlits := by
  induction l generalizing s with
  | nil => rfl
  | cons b l ih => simp [State.storeAll, ih]

@[simp] theorem drain_regions (s : State) (r : Nat) : (s.drain r).regions = sput s.regions r { s.region r with stores := (s.region r).stores.drop (s.going r).length } := by simp [State.drain]

@[simp] theorem drain_cores (s : State) (r : Nat) : (s.drain r).cores = s.cores := by simp [State.drain]

@[simp] theorem drain_quadSplit (s : State) (r : Nat) : (s.drain r).quadSplit = s.quadSplit := by simp [State.drain]

@[simp] theorem drain_sectorSplit (s : State) (r : Nat) : (s.drain r).sectorSplit = s.sectorSplit := by simp [State.drain]

@[simp] theorem drain_ports (s : State) (r : Nat) : (s.drain r).ports = s.ports := by simp [State.drain]

@[simp] theorem drain_queues (s : State) (r : Nat) : (s.drain r).queues = s.queues := by simp [State.drain]

@[simp] theorem drain_arrivals (s : State) (r : Nat) : (s.drain r).arrivals = s.arrivals := by simp [State.drain]

@[simp] theorem drain_sent (s : State) (r : Nat) : (s.drain r).sent = s.sent := by simp [State.drain]

@[simp] theorem drain_expect (s : State) (r : Nat) : (s.drain r).expect = s.expect := by simp [State.drain]

@[simp] theorem drain_undelivered (s : State) (r : Nat) : (s.drain r).undelivered = s.undelivered := by simp [State.drain]

@[simp] theorem drain_waitingSend (s : State) (r : Nat) : (s.drain r).waitingSend = s.waitingSend := by simp [State.drain]

@[simp] theorem drain_clocks (s : State) (r : Nat) : (s.drain r).clocks = s.clocks := by simp [State.drain]

@[simp] theorem drain_lastDone (s : State) (r : Nat) : (s.drain r).lastDone = s.lastDone := by simp [State.drain]

@[simp] theorem drain_ticks (s : State) (r : Nat) : (s.drain r).ticks = s.ticks := by simp [State.drain]

@[simp] theorem drain_die (s : State) (r : Nat) : (s.drain r).die = s.die := by simp [State.drain]

@[simp] theorem drain_agenda (s : State) (r : Nat) : (s.drain r).agenda = s.agenda := by simp [State.drain]

@[simp] theorem drain_turn (s : State) (r : Nat) : (s.drain r).turn = s.turn := by simp [State.drain]

@[simp] theorem drain_cur (s : State) (r : Nat) : (s.drain r).cur = s.cur := by simp [State.drain]

@[simp] theorem drain_free (s : State) (r : Nat) : (s.drain r).free = s.free := by simp [State.drain]

@[simp] theorem drain_vcFlits (s : State) (r : Nat) : (s.drain r).vcFlits = s.vcFlits := by simp [State.drain]

/-! ## Lookups -/

@[simp] theorem setRegion_region_same (s : State) (r : Nat) (v : Region) : (s.setRegion r v).region r = v := by
  simp [State.region]

theorem setRegion_region_ne (s : State) {q r : Nat} (v : Region) (h : q ≠ r) : (s.setRegion r v).region q = s.region q := by
  simp [State.region, sget_sput_ne, h]

@[simp] theorem setRegion_core (s : State) (r c : Nat) (v : Region) : (s.setRegion r v).core c = s.core c := rfl

@[simp] theorem setCore_core_same (s : State) (c : Nat) (v : Core) : (s.setCore c v).core c = v := by simp [State.core]

theorem setCore_core_ne (s : State) {b c : Nat} (v : Core) (h : b ≠ c) : (s.setCore c v).core b = s.core b := by
  simp [State.core, sget_sput_ne, h]

@[simp] theorem setCore_region (s : State) (c r : Nat) (v : Core) : (s.setCore c v).region r = s.region r := rfl

@[simp] theorem setCtx_ctx_same (s : State) (c x : Nat) (v : Ctx) : (s.setCtx c x v).ctx c x = v := by
  simp [State.ctx, State.setCtx, Core.ctx, Core.setCtx]

@[simp] theorem setCtx_region (s : State) (c x r : Nat) (v : Ctx) : (s.setCtx c x v).region r = s.region r := rfl

@[simp] theorem tick_region (s : State) (r : Nat) : s.tick.region r = s.region r := rfl

@[simp] theorem tick_core (s : State) (c : Nat) : s.tick.core c = s.core c := rfl

@[simp] theorem store_region (s : State) (ks bs : List Nat) (r : Nat) : (s.store ks bs).region r = s.region r := by
  simp [State.region]

@[simp] theorem store_core (s : State) (ks bs : List Nat) (c : Nat) : (s.store ks bs).core c = s.core c := by
  simp [State.core]

@[simp] theorem drain_core (s : State) (r c : Nat) : (s.drain r).core c = s.core c := by simp [State.core]

@[simp] theorem drain_region_same (s : State) (r : Nat) : (s.drain r).region r =
    { s.region r with stores := (s.region r).stores.drop (s.going r).length } := by
  simp [State.region]

theorem drain_region_ne (s : State) {q r : Nat} (h : q ≠ r) : (s.drain r).region q = s.region q := by
  simp [State.region, sget_sput_ne, h]

/-- Where no buffered store is held, all of them go (R96). -/
theorem going_of_drains {s : State} {r : Nat} (h : s.drains r = true) : s.going r = (s.region r).stores := by
  simp only [State.drains, List.all_eq_true] at h
  simp only [State.going]
  generalize (s.region r).stores = l at h
  induction l with
  | nil => rfl
  | cons b l ih =>
    simp only [List.takeWhile, h b List.mem_cons_self, ih (fun c hc => h c (List.mem_cons_of_mem _ hc))]

/-- Then none is left. -/
theorem drain_region_of_drains {s : State} {r : Nat} (h : s.drains r = true) :
    (s.drain r).region r = { s.region r with stores := [] } := by simp [going_of_drains h]

/-! ## Registers (R83) -/

@[simp] theorem getX_zero (s : State) (r : Nat) : s.getX r 0 = 0 := rfl

/-- A register write sets its register and, for x0, nothing. -/
theorem setX_getX (s : State) (r n m : Nat) (v : Word) :
    (s.setX r n v).getX r m = if m = n ∧ n ≠ 0 then v else s.getX r m := by
  by_cases hn : n = 0
  · subst hn; simp [State.setX, State.getX, Region.setX]
  · by_cases h : m = n
    · subst h; simp [State.setX, State.getX, Region.setX, Region.getX, hn]
    · simp [State.setX, State.getX, Region.setX, Region.getX, hn, h, sget_sput_ne]

@[simp] theorem setX_core (s : State) (r n c : Nat) (v : Word) : (s.setX r n v).core c = s.core c := rfl

end Sys2Proof.Machine
end

