-- ==== Sys2Proof/Laws/Control.lean ====
section
/-! SUPPORT. What the shared operations of control-core words and commands can do, each said once. -/
namespace Sys2Proof.Machine

/-! ## Results that may stop -/

/-- A sequence of two steps completes exactly where both do. -/
theorem res_bind_ok {α β : Type} {x : Res α} {f : α → Res β} {b : β} : (x >>= f) = .ok b ↔ ∃ a, x = .ok a ∧ f a = .ok b := by
  cases x with
  | error e => simp [bind, Except.bind]
  | ok a => simp [bind, Except.bind]

/-- A sequence stops in its first step or in its second. -/
theorem res_bind_error {α β : Type} {x : Res α} {f : α → Res β} {e : Stop} :
    (x >>= f) = .error e ↔ x = .error e ∨ ∃ a, x = .ok a ∧ f a = .error e := by
  cases x with
  | error e => simp [bind, Except.bind]
  | ok a => simp [bind, Except.bind]

@[simp] theorem need_true (f : FaultCode) : need true f = .ok () := rfl

@[simp] theorem need_false (f : FaultCode) : need false f = .error (.trap (Trap.word f)) := rfl

@[simp] theorem await_true : await true = .ok () := rfl

@[simp] theorem await_false : await false = .error .wait := rfl

theorem need_ok {c : Bool} {f : FaultCode} : need c f = .ok () ↔ c = true := by cases c <;> simp

theorem await_ok {c : Bool} : await c = .ok () ↔ c = true := by cases c <;> simp

/-- A privileged word passes its check exactly in privileged mode (R84). -/
theorem needPrivileged_ok {s : State} {r : Nat} : needPrivileged s r = .ok () ↔ (s.region r).mode = .privileged := by
  simp [needPrivileged, need_ok]

/-- A mask operand that passes names a nonempty set of the launch's cores (R111), none of which a token of the region is under way to
(R112). -/
theorem maskOperand_ok {s : State} {r a : Nat} {cs : List Nat} (h : maskOperand s r a = .ok cs) :
    (s.getX r a).toNat < 65536 ∧ (s.getX r a).toNat ≠ 0 ∧
      ((maskList (s.getX r a).toNat 16).all (fun i => bit (s.region r).mask i)) = true ∧
      cs = maskCores r (s.getX r a).toNat ∧ cs.all (fun c => !s.tokensTo r c) = true := by
  obtain ⟨_, h1, h⟩ := res_bind_ok.mp h
  obtain ⟨_, h2, h⟩ := res_bind_ok.mp h
  have h1 := need_ok.mp h1
  simp only [Bool.and_eq_true, decide_eq_true_eq, bne_iff_ne] at h1
  obtain ⟨_, h3, h⟩ := res_bind_ok.mp h
  obtain rfl := Except.ok.inj h
  exact ⟨h1.1, h1.2, need_ok.mp h2, rfl, await_ok.mp h3⟩

/-- A core operand that passes names a core of the launch's mask (R111), to which no token of the region is under way (R112). -/
theorem coreOperand_ok {s : State} {r i c : Nat} (h : coreOperand s r i = .ok c) :
    bit (s.region r).mask i = true ∧ c = coreOf r i ∧ s.tokensTo r c = false := by
  obtain ⟨_, h1, h⟩ := res_bind_ok.mp h
  obtain ⟨_, h2, h⟩ := res_bind_ok.mp h
  obtain rfl := Except.ok.inj h
  exact ⟨need_ok.mp h1, rfl, by simpa using await_ok.mp h2⟩

/-- A register operand with zero upper bits is its value (R111). -/
theorem lowOperand_ok {v : Word} {n k : Nat} (h : lowOperand v n = .ok k) : v.toNat < 2 ^ n ∧ k = v.toNat := by
  obtain ⟨_, h1, h⟩ := res_bind_ok.mp h
  exact ⟨by simpa using need_ok.mp h1, (Except.ok.inj h).symm⟩

/-! ## The end of a word -/

/-- Completing a word changes the issuing region and the clock alone. -/
@[simp] theorem complete_mem (s : State) (r : Nat) : (s.complete r).mem = s.mem := rfl

@[simp] theorem complete_poison (s : State) (r : Nat) : (s.complete r).poison = s.poison := rfl

@[simp] theorem complete_marks (s : State) (r : Nat) : (s.complete r).marks = s.marks := rfl

@[simp] theorem complete_cores (s : State) (r : Nat) : (s.complete r).cores = s.cores := rfl

@[simp] theorem complete_core (s : State) (r c : Nat) : (s.complete r).core c = s.core c := rfl

@[simp] theorem complete_die (s : State) (r : Nat) : (s.complete r).die = s.die := rfl

@[simp] theorem complete_turn (s : State) (r : Nat) : (s.complete r).turn = s.turn := rfl

@[simp] theorem complete_ticks (s : State) (r : Nat) : (s.complete r).ticks = s.ticks + 1 := rfl

@[simp] theorem complete_region_same (s : State) (r : Nat) : (s.complete r).region r = (s.region r).completed := by
  simp [State.complete]

theorem complete_region_ne (s : State) {q r : Nat} (h : q ≠ r) : (s.complete r).region q = s.region q := by
  simp [State.complete, setRegion_region_ne, h]

/-- A waiting word changes nothing but the mark that it waits, and the clock (R113). -/
@[simp] theorem wait_region_same (s : State) (r : Nat) : (s.wait r).region r = { s.region r with waiting := true } := by
  simp [State.wait]

@[simp] theorem wait_mem (s : State) (r : Nat) : (s.wait r).mem = s.mem := rfl

@[simp] theorem wait_cores (s : State) (r : Nat) : (s.wait r).cores = s.cores := rfl

/-- End processing changes pc, the loop stack and what marks a waiting word alone (R105). -/
theorem completed_frame (g : Region) : ∃ d ls p, g.completed =
    { g with depth := d, loops := ls, pc := p, waiting := false, heldAt := none, sendSince := none } :=
  ⟨_, _, _, rfl⟩

/-- End processing never deepens the loop stack (R105). -/
theorem endCheck_depth (a : Word) (n : Nat) (ls : Sparse LoopEntry) : (endCheck a n ls).1 ≤ n := by
  induction n generalizing ls with
  | zero => exact Nat.le_refl 0
  | succ n ih =>
    simp only [endCheck]
    split
    · split
      · exact Nat.le_refl _
      · exact Nat.le_succ_of_le (ih _)
    · exact Nat.le_refl _

/-- A word that ends no loop moves pc to the next word. -/
theorem endCheck_next (a : Word) (n : Nat) (ls : Sparse LoopEntry)
    (h : a ≠ (sget { start := 0, len := 0, count := 0 } ls n).last) : endCheck a (n + 1) ls = (n + 1, ls, a + 4) := by
  simp only [endCheck, if_neg h]

/-- Unwinding never deepens the loop stack (R108). -/
theorem unwind_le (t : Word) (n : Nat) (ls : Sparse LoopEntry) : unwind t n ls ≤ n := by
  induction n with
  | zero => exact Nat.le_refl 0
  | succ n ih =>
    simp only [unwind]
    split
    · exact Nat.le_refl _
    · exact Nat.le_succ_of_le ih

/-! ## The three ends of a word -/

@[simp] theorem finish_ok (s u : State) (r : Nat) : finish s r (.ok u) = .next (u.complete r) := rfl

@[simp] theorem finish_trap (s : State) (r : Nat) (t : Trap) :
    finish s r (.error (.trap t)) = .next (s.takeTrap r (s.region r).pc t).tick := rfl

@[simp] theorem finish_wait (s : State) (r : Nat) : finish s r (.error .wait) = .next (s.wait r) := rfl

/-- A word completes, traps with no effect of its own, or waits; it never stops the machine (R85, R113). -/
theorem finish_cases (s : State) (r : Nat) (x : Res State) : ∃ t, finish s r x = .next t ∧
    ((∃ u, x = .ok u ∧ t = u.complete r) ∨ (∃ c, x = .error (.trap c) ∧ t = (s.takeTrap r (s.region r).pc c).tick) ∨
      (x = .error .wait ∧ t = s.wait r)) := by
  match x with
  | .ok u => exact ⟨_, rfl, .inl ⟨u, rfl, rfl⟩⟩
  | .error (.trap c) => exact ⟨_, rfl, .inr (.inl ⟨c, rfl, rfl⟩)⟩
  | .error .wait => exact ⟨_, rfl, .inr (.inr ⟨rfl, rfl⟩)⟩

/-- The same for a word that sets pc itself. -/
theorem finishJump_cases (s : State) (r : Nat) (x : Res State) : ∃ t, finishJump s r x = .next t ∧
    ((∃ u, x = .ok u ∧ t = u.tick) ∨ (∃ c, x = .error (.trap c) ∧ t = (s.takeTrap r (s.region r).pc c).tick) ∨
      (x = .error .wait ∧ t = s.wait r)) := by
  match x with
  | .ok u => exact ⟨_, rfl, .inl ⟨u, rfl, rfl⟩⟩
  | .error (.trap c) => exact ⟨_, rfl, .inr (.inl ⟨c, rfl, rfl⟩)⟩
  | .error .wait => exact ⟨_, rfl, .inr (.inr ⟨rfl, rfl⟩)⟩

/-- A command on the state whose buffered stores have all been performed (R98). -/
theorem command_of {s d : State} (h : s.drains s.turn = true) (hd : d = s.drain s.turn) (f : State → Res State) :
    command s f = finish d s.turn (f d) := by simp [command, h, hd]

/-- A command waits for a buffered store whose home is held (R281). -/
theorem command_waits {s : State} (h : s.drains s.turn = false) (f : State → Res State) :
    command s f = .next ((s.drain s.turn).wait s.turn) := by simp [command, h]

/-! ## Causes and events -/

/-- Raising an asynchronous cause changes its region alone. -/
@[simp] theorem raiseAsync_mem (s : State) (r : Nat) (t : Trap) : (s.raiseAsync r t).mem = s.mem := by
  simp only [State.raiseAsync]; split <;> rfl

@[simp] theorem raiseAsync_cores (s : State) (r : Nat) (t : Trap) : (s.raiseAsync r t).cores = s.cores := by
  simp only [State.raiseAsync]; split <;> rfl

theorem raiseAsync_region_ne (s : State) {q r : Nat} (t : Trap) (h : q ≠ r) : (s.raiseAsync r t).region q = s.region q := by
  simp only [State.raiseAsync]; split
  · rfl
  · exact setRegion_region_ne _ _ h

/-- Setting an event bit changes its region alone. -/
@[simp] theorem setEvent_mem (s : State) (r b : Nat) : (s.setEvent r b).mem = s.mem := by
  simp only [State.setEvent]; split <;> rfl

@[simp] theorem setEvent_cores (s : State) (r b : Nat) : (s.setEvent r b).cores = s.cores := by
  simp only [State.setEvent]; split <;> rfl

theorem setEvent_region_ne (s : State) {q r : Nat} (b : Nat) (h : q ≠ r) : (s.setEvent r b).region q = s.region q := by
  simp only [State.setEvent]; split
  · rfl
  · exact setRegion_region_ne _ _ h

/-! ## Buffered stores (R95) -/

/-- Performing a region's buffered stores leaves every byte that none of them holds. -/
theorem storeAll_readByte (l : List BufStore) (s : State) (k : Nat) (h : ∀ b ∈ l, k ∉ b.keys) :
    (s.storeAll l).readByte k = s.readByte k := by
  induction l generalizing s with
  | nil => rfl
  | cons b l ih =>
    simp only [State.storeAll]
    rw [ih _ (fun c hc => h c (List.mem_cons_of_mem _ hc)), store_readByte _ _ _ _ (h b List.mem_cons_self)]

theorem drain_readByte (s : State) (r k : Nat) (h : ∀ b ∈ (s.region r).stores, k ∉ b.keys) :
    (s.drain r).readByte k = s.readByte k :=
  storeAll_readByte _ _ _ (fun b hb => h b ((List.takeWhile_sublist _).subset hb))

end Sys2Proof.Machine
end

