-- ==== Sys2Proof/Laws/Network.lean ====
section
/-! SUPPORT. One lemma a field for each update of the network, and what a packet's way into it can do. -/
namespace Sys2Proof.Machine

/-! ## setPort -/

@[simp] theorem setPort_mem (s : State) (p : Nat) (v : NetPort) : (s.setPort p v).mem = s.mem := rfl

@[simp] theorem setPort_poison (s : State) (p : Nat) (v : NetPort) : (s.setPort p v).poison = s.poison := rfl

@[simp] theorem setPort_marks (s : State) (p : Nat) (v : NetPort) : (s.setPort p v).marks = s.marks := rfl

@[simp] theorem setPort_regions (s : State) (p : Nat) (v : NetPort) : (s.setPort p v).regions = s.regions := rfl

@[simp] theorem setPort_cores (s : State) (p : Nat) (v : NetPort) : (s.setPort p v).cores = s.cores := rfl

@[simp] theorem setPort_quadSplit (s : State) (p : Nat) (v : NetPort) : (s.setPort p v).quadSplit = s.quadSplit := rfl

@[simp] theorem setPort_sectorSplit (s : State) (p : Nat) (v : NetPort) : (s.setPort p v).sectorSplit = s.sectorSplit := rfl

@[simp] theorem setPort_ports (s : State) (p : Nat) (v : NetPort) : (s.setPort p v).ports = sput s.ports p v := rfl

@[simp] theorem setPort_queues (s : State) (p : Nat) (v : NetPort) : (s.setPort p v).queues = s.queues := rfl

@[simp] theorem setPort_arrivals (s : State) (p : Nat) (v : NetPort) : (s.setPort p v).arrivals = s.arrivals := rfl

@[simp] theorem setPort_sent (s : State) (p : Nat) (v : NetPort) : (s.setPort p v).sent = s.sent := rfl

@[simp] theorem setPort_expect (s : State) (p : Nat) (v : NetPort) : (s.setPort p v).expect = s.expect := rfl

@[simp] theorem setPort_undelivered (s : State) (p : Nat) (v : NetPort) : (s.setPort p v).undelivered = s.undelivered := rfl

@[simp] theorem setPort_waitingSend (s : State) (p : Nat) (v : NetPort) : (s.setPort p v).waitingSend = s.waitingSend := rfl

@[simp] theorem setPort_clocks (s : State) (p : Nat) (v : NetPort) : (s.setPort p v).clocks = s.clocks := rfl

@[simp] theorem setPort_lastDone (s : State) (p : Nat) (v : NetPort) : (s.setPort p v).lastDone = s.lastDone := rfl

@[simp] theorem setPort_ticks (s : State) (p : Nat) (v : NetPort) : (s.setPort p v).ticks = s.ticks := rfl

@[simp] theorem setPort_die (s : State) (p : Nat) (v : NetPort) : (s.setPort p v).die = s.die := rfl

@[simp] theorem setPort_agenda (s : State) (p : Nat) (v : NetPort) : (s.setPort p v).agenda = s.agenda := rfl

@[simp] theorem setPort_turn (s : State) (p : Nat) (v : NetPort) : (s.setPort p v).turn = s.turn := rfl

@[simp] theorem setPort_cur (s : State) (p : Nat) (v : NetPort) : (s.setPort p v).cur = s.cur := rfl

@[simp] theorem setPort_free (s : State) (p : Nat) (v : NetPort) : (s.setPort p v).free = s.free := rfl

@[simp] theorem setPort_vcFlits (s : State) (p : Nat) (v : NetPort) : (s.setPort p v).vcFlits = s.vcFlits := rfl

/-! ## Packets -/

@[simp] theorem place_mem (s : State) (p : Packet) : (s.place p).mem = s.mem := by
  unfold State.place; split <;> rfl

@[simp] theorem place_poison (s : State) (p : Packet) : (s.place p).poison = s.poison := by
  unfold State.place; split <;> rfl

@[simp] theorem place_marks (s : State) (p : Packet) : (s.place p).marks = s.marks := by
  unfold State.place; split <;> rfl

@[simp] theorem place_regions (s : State) (p : Packet) : (s.place p).regions = s.regions := by
  unfold State.place; split <;> rfl

@[simp] theorem place_cores (s : State) (p : Packet) : (s.place p).cores = s.cores := by
  unfold State.place; split <;> rfl

@[simp] theorem place_quadSplit (s : State) (p : Packet) : (s.place p).quadSplit = s.quadSplit := by
  unfold State.place; split <;> rfl

@[simp] theorem place_sectorSplit (s : State) (p : Packet) : (s.place p).sectorSplit = s.sectorSplit := by
  unfold State.place; split <;> rfl

@[simp] theorem place_ports (s : State) (p : Packet) : (s.place p).ports = s.ports := by
  unfold State.place; split <;> rfl

@[simp] theorem place_sent (s : State) (p : Packet) : (s.place p).sent = s.sent := by
  unfold State.place; split <;> rfl

@[simp] theorem place_expect (s : State) (p : Packet) : (s.place p).expect = s.expect := by
  unfold State.place; split <;> rfl

@[simp] theorem place_undelivered (s : State) (p : Packet) : (s.place p).undelivered = s.undelivered := by
  unfold State.place; split <;> rfl

@[simp] theorem place_waitingSend (s : State) (p : Packet) : (s.place p).waitingSend = s.waitingSend := by
  unfold State.place; split <;> rfl

@[simp] theorem place_clocks (s : State) (p : Packet) : (s.place p).clocks = s.clocks := by
  unfold State.place; split <;> rfl

@[simp] theorem place_lastDone (s : State) (p : Packet) : (s.place p).lastDone = s.lastDone := by
  unfold State.place; split <;> rfl

@[simp] theorem place_ticks (s : State) (p : Packet) : (s.place p).ticks = s.ticks := by
  unfold State.place; split <;> rfl

@[simp] theorem place_die (s : State) (p : Packet) : (s.place p).die = s.die := by
  unfold State.place; split <;> rfl

@[simp] theorem place_agenda (s : State) (p : Packet) : (s.place p).agenda = s.agenda := by
  unfold State.place; split <;> rfl

@[simp] theorem place_turn (s : State) (p : Packet) : (s.place p).turn = s.turn := by
  unfold State.place; split <;> rfl

@[simp] theorem place_cur (s : State) (p : Packet) : (s.place p).cur = s.cur := by
  unfold State.place; split <;> rfl

@[simp] theorem place_free (s : State) (p : Packet) : (s.place p).free = s.free := by
  unfold State.place; split <;> rfl

@[simp] theorem place_vcFlits (s : State) (p : Packet) : (s.place p).vcFlits = s.vcFlits := by
  unfold State.place; split <;> rfl

@[simp] theorem inject_mem (s : State) (p : Packet) : (s.inject p).mem = s.mem := by simp [State.inject]

@[simp] theorem inject_poison (s : State) (p : Packet) : (s.inject p).poison = s.poison := by simp [State.inject]

@[simp] theorem inject_marks (s : State) (p : Packet) : (s.inject p).marks = s.marks := by simp [State.inject]

@[simp] theorem inject_regions (s : State) (p : Packet) : (s.inject p).regions = s.regions := by simp [State.inject]

@[simp] theorem inject_cores (s : State) (p : Packet) : (s.inject p).cores = s.cores := by simp [State.inject]

@[simp] theorem inject_quadSplit (s : State) (p : Packet) : (s.inject p).quadSplit = s.quadSplit := by simp [State.inject]

@[simp] theorem inject_sectorSplit (s : State) (p : Packet) : (s.inject p).sectorSplit = s.sectorSplit := by simp [State.inject]

@[simp] theorem inject_ports (s : State) (p : Packet) : (s.inject p).ports = s.ports := by simp [State.inject]

@[simp] theorem inject_expect (s : State) (p : Packet) : (s.inject p).expect = s.expect := by simp [State.inject]

@[simp] theorem inject_waitingSend (s : State) (p : Packet) : (s.inject p).waitingSend = s.waitingSend := by simp [State.inject]

@[simp] theorem inject_clocks (s : State) (p : Packet) : (s.inject p).clocks = s.clocks := by simp [State.inject]

@[simp] theorem inject_lastDone (s : State) (p : Packet) : (s.inject p).lastDone = s.lastDone := by simp [State.inject]

@[simp] theorem inject_ticks (s : State) (p : Packet) : (s.inject p).ticks = s.ticks := by simp [State.inject]

@[simp] theorem inject_die (s : State) (p : Packet) : (s.inject p).die = s.die := by simp [State.inject]

@[simp] theorem inject_agenda (s : State) (p : Packet) : (s.inject p).agenda = s.agenda := by simp [State.inject]

@[simp] theorem inject_turn (s : State) (p : Packet) : (s.inject p).turn = s.turn := by simp [State.inject]

@[simp] theorem inject_cur (s : State) (p : Packet) : (s.inject p).cur = s.cur := by simp [State.inject]

@[simp] theorem inject_free (s : State) (p : Packet) : (s.inject p).free = s.free := by simp [State.inject]

@[simp] theorem inject_vcFlits (s : State) (p : Packet) : (s.inject p).vcFlits = s.vcFlits := by simp [State.inject]

@[simp] theorem sendPacket_mem (s : State) (p : Packet) : (s.sendPacket p).mem = s.mem := by
  unfold State.sendPacket; split <;> simp

@[simp] theorem sendPacket_poison (s : State) (p : Packet) : (s.sendPacket p).poison = s.poison := by
  unfold State.sendPacket; split <;> simp

@[simp] theorem sendPacket_marks (s : State) (p : Packet) : (s.sendPacket p).marks = s.marks := by
  unfold State.sendPacket; split <;> simp

@[simp] theorem sendPacket_regions (s : State) (p : Packet) : (s.sendPacket p).regions = s.regions := by
  unfold State.sendPacket; split <;> simp

@[simp] theorem sendPacket_cores (s : State) (p : Packet) : (s.sendPacket p).cores = s.cores := by
  unfold State.sendPacket; split <;> simp

@[simp] theorem sendPacket_quadSplit (s : State) (p : Packet) : (s.sendPacket p).quadSplit = s.quadSplit := by
  unfold State.sendPacket; split <;> simp

@[simp] theorem sendPacket_sectorSplit (s : State) (p : Packet) : (s.sendPacket p).sectorSplit = s.sectorSplit := by
  unfold State.sendPacket; split <;> simp

@[simp] theorem sendPacket_ports (s : State) (p : Packet) : (s.sendPacket p).ports = s.ports := by
  unfold State.sendPacket; split <;> simp

@[simp] theorem sendPacket_expect (s : State) (p : Packet) : (s.sendPacket p).expect = s.expect := by
  unfold State.sendPacket; split <;> simp

@[simp] theorem sendPacket_clocks (s : State) (p : Packet) : (s.sendPacket p).clocks = s.clocks := by
  unfold State.sendPacket; split <;> simp

@[simp] theorem sendPacket_lastDone (s : State) (p : Packet) : (s.sendPacket p).lastDone = s.lastDone := by
  unfold State.sendPacket; split <;> simp

@[simp] theorem sendPacket_ticks (s : State) (p : Packet) : (s.sendPacket p).ticks = s.ticks := by
  unfold State.sendPacket; split <;> simp

@[simp] theorem sendPacket_die (s : State) (p : Packet) : (s.sendPacket p).die = s.die := by
  unfold State.sendPacket; split <;> simp

@[simp] theorem sendPacket_agenda (s : State) (p : Packet) : (s.sendPacket p).agenda = s.agenda := by
  unfold State.sendPacket; split <;> simp

@[simp] theorem sendPacket_turn (s : State) (p : Packet) : (s.sendPacket p).turn = s.turn := by
  unfold State.sendPacket; split <;> simp

@[simp] theorem sendPacket_cur (s : State) (p : Packet) : (s.sendPacket p).cur = s.cur := by
  unfold State.sendPacket; split <;> simp

@[simp] theorem sendPacket_free (s : State) (p : Packet) : (s.sendPacket p).free = s.free := by
  unfold State.sendPacket; split <;> simp

@[simp] theorem sendPacket_vcFlits (s : State) (p : Packet) : (s.sendPacket p).vcFlits = s.vcFlits := by
  unfold State.sendPacket; split <;> simp

/-- A packet leaves at once, or waits at its source behind what waits there (R290). -/
theorem sendPacket_cases (s : State) (p : Packet) :
    (s.canSend p.src p.dst = true ∧ s.sendPacket p = s.inject p) ∨
    (s.canSend p.src p.dst = false ∧ s.sendPacket p =
      { s with waitingSend := { p with stayed := true, since := s.ticks.toNat } :: s.waitingSend }) := by
  unfold State.sendPacket
  cases h : s.canSend p.src p.dst
  · exact .inr ⟨rfl, rfl⟩
  · exact .inl ⟨rfl, rfl⟩

@[simp] theorem sendPacket_region (s : State) (p : Packet) (r : Nat) : (s.sendPacket p).region r = s.region r := by
  simp [State.region]

@[simp] theorem sendPacket_core (s : State) (p : Packet) (c : Nat) : (s.sendPacket p).core c = s.core c := by
  simp [State.core]

end Sys2Proof.Machine
end

