-- ==== Sys2Proof/Laws/Residual.lean ====
section
/-! SUPPORT. The sizes of an element's record (R152, Table 11.1a). -/
namespace Sys2Proof.Machine

@[simp] theorem length_digitCodes (m : Nat) (v : Int) : (digitCodes m v).length = m := by simp [digitCodes]

/-- A group is 31 granules. -/
theorem length_elementGroup (b : Block) (i element adv : Nat) (mine : Nat → Bool) (l : Latch) (queue : Nat → List Timed) :
    (elementGroup b i element adv mine l queue).length = 32 * 31 := by
  simp only [elementGroup, List.length_append, length_toBytes, List.length_cons, List.length_nil, List.length_replicate]

end Sys2Proof.Machine
end

