-- ==== Sys2Proof/Tests/Slice0.lean ====
section
/-! SUPPORT. The model's own tests: words written out from the spec's encodings, ill-formed terms, a state and operands
that meet the hypotheses of each statement, and single steps with results worked out from the spec. -/
namespace Sys2Proof.Machine

/-- Bytes of a number stored at the region bank's offset. -/
def State.withBank (s : State) (off n v : Nat) : State := s.store (range (regionKey 0 off) n) (toBytes n v)

/-- The state with core 0. -/
def State.withCore (s : State) (c : Core) : State := s.setCore 0 c

end Sys2Proof.Machine

namespace Sys2Proof.Tests
open Sys2Proof Sys2Proof.Machine
set_option Elab.async false

/-- Whether a result is the given answer. -/
def okIs {ε α : Type} [DecidableEq α] (e : Except ε α) (v : α) : Bool :=
  match e with
  | .ok a => decide (a = v)
  | .error _ => false

theorem ok_of {ε α : Type} [DecidableEq α] {e : Except ε α} {v : α} (h : okIs e v = true) : e = .ok v := by
  cases e with
  | error x => cases h
  | ok a => exact congrArg Except.ok (of_decide_eq_true h)

/-- Whether a result is the given error. -/
def errIs {ε α : Type} [DecidableEq ε] (e : Except ε α) (v : ε) : Bool :=
  match e with
  | .ok _ => false
  | .error x => decide (x = v)

theorem err_of {ε α : Type} [DecidableEq ε] {e : Except ε α} {v : ε} (h : errIs e v = true) : e = .error v := by
  cases e with
  | error x => exact congrArg Except.error (of_decide_eq_true h)
  | ok a => cases h

/-- Whether a result is an answer with a property. -/
def okSat {ε α : Type} (e : Except ε α) (p : α → Bool) : Bool :=
  match e with
  | .ok a => p a
  | .error _ => false

theorem sat_of {ε α : Type} {e : Except ε α} {p : α → Bool} (h : okSat e p = true) : ∃ v, e = .ok v ∧ p v = true := by
  cases e with
  | error x => cases h
  | ok a => exact ⟨a, rfl, h⟩

/-- Why a word does not decode. -/
def refusal (k : WordKind) (w : Nat) : Option DecodeError :=
  match decodeWord k w with
  | .ok _ => none
  | .error e => some e

/-! ## Decoding -/

/-- Control-core words by Tables 3.1 to 3.4: add to slt. -/
theorem test_decode_control_0 :
  decodeTableWord 32 0x06AA6800 = some (.add 21 10 13) ∧
  decodeTableWord 32 0x06AA6801 = some (.sub 21 10 13) ∧
  decodeTableWord 32 0x06AA6802 = some (.and 21 10 13) ∧
  decodeTableWord 32 0x06AA6803 = some (.or 21 10 13) ∧
  decodeTableWord 32 0x06AA6804 = some (.xor 21 10 13) ∧
  decodeTableWord 32 0x06AA6805 = some (.sll 21 10 13) ∧
  decodeTableWord 32 0x06AA6806 = some (.srl 21 10 13) ∧
  decodeTableWord 32 0x06AA6807 = some (.sra 21 10 13) ∧
  decodeTableWord 32 0x06AA6808 = some (.mul 21 10 13) ∧
  decodeTableWord 32 0x06AA6809 = some (.mulh 21 10 13) ∧
  decodeTableWord 32 0x06AA680A = some (.mulhn 21 10 13) ∧
  decodeTableWord 32 0x06AA680B = some (.min 21 10 13) ∧
  decodeTableWord 32 0x06AA680C = some (.max 21 10 13) ∧
  decodeTableWord 32 0x06AA680D = some (.minn 21 10 13) ∧
  decodeTableWord 32 0x06AA680E = some (.maxn 21 10 13) ∧
  decodeTableWord 32 0x06AA680F = some (.slt 21 10 13) := by decide +kernel

/-- Control-core words by Tables 3.1 to 3.4: sltn to ldnB. -/
theorem test_decode_control_1 :
  decodeTableWord 32 0x06AA6810 = some (.sltn 21 10 13) ∧
  decodeTableWord 32 0x06AA0011 = some (.clz 21 10) ∧
  decodeTableWord 32 0x06AA0012 = some (.popc 21 10) ∧
  decodeTableWord 32 0x0AAA8123 = some (.addi 21 10 0x8123) ∧
  decodeTableWord 32 0x0EAA8123 = some (.andi 21 10 0x8123) ∧
  decodeTableWord 32 0x12AA8123 = some (.ori 21 10 0x8123) ∧
  decodeTableWord 32 0x16AA8123 = some (.xori 21 10 0x8123) ∧
  decodeTableWord 32 0x1AAA0035 = some (.slli 21 10 53) ∧
  decodeTableWord 32 0x1EAA0035 = some (.srli 21 10 53) ∧
  decodeTableWord 32 0x22AA0035 = some (.srai 21 10 53) ∧
  decodeTableWord 32 0x26A08123 = some (.lui 21 0x8123) ∧
  decodeTableWord 32 0x2AAA8123 = some (.ldB 21 10 0x8123) ∧
  decodeTableWord 32 0x2EAA8123 = some (.ldH 21 10 0x8123) ∧
  decodeTableWord 32 0x32AA8123 = some (.ldW 21 10 0x8123) ∧
  decodeTableWord 32 0x36AA8123 = some (.ldD 21 10 0x8123) ∧
  decodeTableWord 32 0x3AAA8123 = some (.ldnB 21 10 0x8123) := by decide +kernel

/-- Control-core words by Tables 3.1 to 3.4: ldnH to amoCas. -/
theorem test_decode_control_2 :
  decodeTableWord 32 0x3EAA8123 = some (.ldnH 21 10 0x8123) ∧
  decodeTableWord 32 0x42AA8123 = some (.ldnW 21 10 0x8123) ∧
  decodeTableWord 32 0x46AA8123 = some (.stB 21 10 0x8123) ∧
  decodeTableWord 32 0x4AAA8123 = some (.stH 21 10 0x8123) ∧
  decodeTableWord 32 0x4EAA8123 = some (.stW 21 10 0x8123) ∧
  decodeTableWord 32 0x52AA8123 = some (.stD 21 10 0x8123) ∧
  decodeTableWord 32 0x56AA6860 = some (.amoSwap 21 10 13 1 4) ∧
  decodeTableWord 32 0x56AA68E0 = some (.amoAdd 21 10 13 1 4) ∧
  decodeTableWord 32 0x56AA6960 = some (.amoAnd 21 10 13 1 4) ∧
  decodeTableWord 32 0x56AA69E0 = some (.amoOr 21 10 13 1 4) ∧
  decodeTableWord 32 0x56AA6A60 = some (.amoXor 21 10 13 1 4) ∧
  decodeTableWord 32 0x56AA6AE0 = some (.amoMax 21 10 13 1 4) ∧
  decodeTableWord 32 0x56AA6B60 = some (.amoMin 21 10 13 1 4) ∧
  decodeTableWord 32 0x56AA6BE0 = some (.amoMaxn 21 10 13 1 4) ∧
  decodeTableWord 32 0x56AA6C60 = some (.amoMinn 21 10 13 1 4) ∧
  decodeTableWord 32 0x56AA6CE0 = some (.amoCas 21 10 13 1 4) := by decide +kernel

/-- Control-core words by Tables 3.1 to 3.4: fence to fwait. -/
theorem test_decode_control_3 :
  decodeTableWord 32 0x58000003 = some (.fence 3) ∧
  decodeTableWord 32 0x5D4D00B5 = some (.beq 10 13 181) ∧
  decodeTableWord 32 0x614D00B5 = some (.bne 10 13 181) ∧
  decodeTableWord 32 0x654D00B5 = some (.blt 10 13 181) ∧
  decodeTableWord 32 0x694D00B5 = some (.bge 10 13 181) ∧
  decodeTableWord 32 0x6D4D00B5 = some (.bltn 10 13 181) ∧
  decodeTableWord 32 0x714D00B5 = some (.bgen 10 13 181) ∧
  decodeTableWord 32 0x740002D5 = some (.jal 0x2D5) ∧
  decodeTableWord 32 0x7AAA8123 = some (.jalr 21 10 0x8123) ∧
  decodeTableWord 32 0x7E496A00 = some (.loop 2 9 181) ∧
  decodeTableWord 32 0x82000000 = some (.lbrk 2) ∧
  decodeTableWord 32 0x86A00002 = some (.lcnt 21 2) ∧
  decodeTableWord 32 0x894D0015 = some (.tsend 10 13 21) ∧
  decodeTableWord 32 0x8AAD0100 = some (.trecv 21 13) ∧
  decodeTableWord 32 0x8AAD920E = some (.fopen 21 13 9 3 2) ∧
  decodeTableWord 32 0x89409300 = some (.fwait 10 9) := by decide +kernel

/-- Control-core words by Tables 3.1 to 3.4: apset to cpg. -/
theorem test_decode_control_4 :
  decodeTableWord 32 0x8C0D000B = some (.apset 13 11) ∧
  decodeTableWord 32 0x8C0D7105 = some (.apmod 13 7 5) ∧
  decodeTableWord 32 0x8D4D522D = some (.sbind 10 13 5 2 13) ∧
  decodeTableWord 32 0x8D4D0301 = some (.sbar 10 13 1) ∧
  decodeTableWord 32 0x8EA09400 = some (.sstat 21 9) ∧
  decodeTableWord 32 0x914D0002 = some (.bload 10 13 2) ∧
  decodeTableWord 32 0x91400102 = some (.bdrop 10 2) ∧
  decodeTableWord 32 0x90000200 = some (.lwait) ∧
  decodeTableWord 32 0x96AD9002 = some (.talloc 21 13 9 2) ∧
  decodeTableWord 32 0x95409106 = some (.trel 10 9 1 2) ∧
  decodeTableWord 32 0x96AD9204 = some (.tstate 21 13 9 1) ∧
  decodeTableWord 32 0x954093B2 = some (.ringinit 10 9 11 2) ∧
  decodeTableWord 32 0x96A094B2 = some (.ringwait 21 9 11 2) ∧
  decodeTableWord 32 0x940095B2 = some (.ringrel 9 11 2) ∧
  decodeTableWord 32 0x980D9002 = some (.cp 13 9 2) ∧
  decodeTableWord 32 0x980D9102 = some (.cpg 13 9 2) := by decide +kernel

/-- Control-core words by Tables 3.1 to 3.4: cps to cxsave. -/
theorem test_decode_control_5 :
  decodeTableWord 32 0x980D9202 = some (.cps 13 9 2) ∧
  decodeTableWord 32 0x980D9302 = some (.cpsa 13 9 2) ∧
  decodeTableWord 32 0x980D9402 = some (.cpm 13 9 2) ∧
  decodeTableWord 32 0x980D9502 = some (.cpbin 13 9 2) ∧
  decodeTableWord 32 0x99409606 = some (.cpcancel 10 9 1 2) ∧
  decodeTableWord 32 0x980D9700 = some (.cpq 13 9) ∧
  decodeTableWord 32 0x9D4D9002 = some (.pcinit 10 13 9 2) ∧
  decodeTableWord 32 0x9D4D9102 = some (.pcarrive 10 13 9 2) ∧
  decodeTableWord 32 0x9D4D9202 = some (.pcexpect 10 13 9 2) ∧
  decodeTableWord 32 0x9D4D9302 = some (.pcwait 10 13 9 2) ∧
  decodeTableWord 32 0xA00D0000 = some (.coll 13) ∧
  decodeTableWord 32 0xA1400100 = some (.collwait 10) ∧
  decodeTableWord 32 0xA540000E = some (.cxprio 10 3 2) ∧
  decodeTableWord 32 0xA5400102 = some (.cxpark 10 2) ∧
  decodeTableWord 32 0xA5400202 = some (.cxresume 10 2) ∧
  decodeTableWord 32 0xA54D9302 = some (.cxsave 10 13 9 2) := by decide +kernel

/-- Control-core words by Tables 3.1 to 3.4: cxrest to scorecardLatch. -/
theorem test_decode_control_6 :
  decodeTableWord 32 0xA40D9402 = some (.cxrest 13 9 2) ∧
  decodeTableWord 32 0xA40D9505 = some (.dvmap 13 9 5) ∧
  decodeTableWord 32 0xA400960B = some (.dvclr 9 11) ∧
  decodeTableWord 32 0xA94D0012 = some (.renter 10 13 1 2) ∧
  decodeTableWord 32 0xA9400112 = some (.rleave 10 1 2) ∧
  decodeTableWord 32 0xA80D0200 = some (.smark 13) ∧
  decodeTableWord 32 0xA80D9302 = some (.bkpt 13 9 2) ∧
  decodeTableWord 32 0xAC0000A5 = some (.trap 165) ∧
  decodeTableWord 32 0xAC000100 = some (.tret) ∧
  decodeTableWord 32 0xAD400202 = some (.mvfs 10 2) ∧
  decodeTableWord 32 0xAC0D0302 = some (.mvts 13 2) ∧
  decodeTableWord 32 0xAC000400 = some (.wfe) ∧
  decodeTableWord 32 0xAC0D0333 = some (.eventsClear 13) ∧
  decodeTableWord 32 0xAC0D1307 = some (.flagWordWrite 13 0x107) ∧
  decodeTableWord 32 0xAC0D0380 = some (.dselScorecardClear 13) ∧
  decodeTableWord 32 0xAD400281 = some (.scorecardLatch 10) := by decide +kernel

/-- Control-core words by Tables 3.1 to 3.4: layerClockLatch to translationRegisterWrite. -/
theorem test_decode_control_7 :
  decodeTableWord 32 0xAD4002A0 = some (.layerClockLatch 10) ∧
  decodeTableWord 32 0xAC0D0358 = some (.translationRegisterWrite 13 88) := by decide +kernel

/-- Fields of a fabric word, each with a value of its own. -/
def tFab : Fab :=
  { width := 2, mode := 1, accept := 0x91, ta := 0xC7, tb := 0x1FC, lsid := 17, delay := 9, pred := 1, imm := 0xABC }

/-- Words of kind ADD by Tables 3.5 and 3.7. -/
theorem test_decode_fabric_add :
  decodeTableWord 64 0x002322C7FE465ABC = some (.fAdd tFab) ∧
  decodeTableWord 64 0x006322C7FE465ABC = some (.fSub tFab) ∧
  decodeTableWord 64 0x00A322C7FE465ABC = some (.fNeg tFab) ∧
  decodeTableWord 64 0x00E322C7FE465ABC = some (.fAbs tFab) ∧
  decodeTableWord 64 0x012322C7FE465ABC = some (.fAbsdiff tFab) ∧
  decodeTableWord 64 0x016322C7FE465ABC = some (.fAddc tFab) := by decide +kernel

/-- Words of kind MUL by Tables 3.5 and 3.7. -/
theorem test_decode_fabric_mul :
  decodeTableWord 64 0x102322C7FE465ABC = some (.fMul tFab) ∧
  decodeTableWord 64 0x106322C7FE465ABC = some (.fFma tFab) ∧
  decodeTableWord 64 0x10A322C7FE465ABC = some (.fFms tFab) ∧
  decodeTableWord 64 0x10E322C7FE465ABC = some (.fFnma tFab) ∧
  decodeTableWord 64 0x112322C7FE465ABC = some (.fMulhi tFab) ∧
  decodeTableWord 64 0x116322C7FE465ABC = some (.fMulsc tFab) := by decide +kernel

/-- Words of kind CMP by Tables 3.5 and 3.7. -/
theorem test_decode_fabric_cmp :
  decodeTableWord 64 0x202322C7FE465ABC = some (.fCmpEq tFab) ∧
  decodeTableWord 64 0x206322C7FE465ABC = some (.fCmpNe tFab) ∧
  decodeTableWord 64 0x20A322C7FE465ABC = some (.fCmpLt tFab) ∧
  decodeTableWord 64 0x20E322C7FE465ABC = some (.fCmpLe tFab) ∧
  decodeTableWord 64 0x212322C7FE465ABC = some (.fCmpGt tFab) ∧
  decodeTableWord 64 0x216322C7FE465ABC = some (.fCmpGe tFab) ∧
  decodeTableWord 64 0x222322C7FE465ABC = some (.fCmpMin tFab) ∧
  decodeTableWord 64 0x226322C7FE465ABC = some (.fCmpMax tFab) ∧
  decodeTableWord 64 0x22A322C7FE465ABC = some (.fSign tFab) ∧
  decodeTableWord 64 0x22E322C7FE465ABC = some (.fThr tFab) ∧
  decodeTableWord 64 0x232322C7FE465ABC = some (.fClamp tFab) := by decide +kernel

/-- Words of kind BIT by Tables 3.5 and 3.7. -/
theorem test_decode_fabric_bit :
  decodeTableWord 64 0x302322C7FE465ABC = some (.fAnd tFab) ∧
  decodeTableWord 64 0x306322C7FE465ABC = some (.fOr tFab) ∧
  decodeTableWord 64 0x30A322C7FE465ABC = some (.fXor tFab) ∧
  decodeTableWord 64 0x30E322C7FE465ABC = some (.fNot tFab) ∧
  decodeTableWord 64 0x312322C7FE465ABC = some (.fShl tFab) ∧
  decodeTableWord 64 0x316322C7FE465ABC = some (.fShr tFab) ∧
  decodeTableWord 64 0x31A322C7FE465ABC = some (.fSra tFab) ∧
  decodeTableWord 64 0x31E322C7FE465ABC = some (.fPopc tFab) ∧
  decodeTableWord 64 0x322322C7FE465ABC = some (.fClz tFab) ∧
  decodeTableWord 64 0x326322C7FE465ABC = some (.fBsel tFab) := by decide +kernel

/-- Words of kind CVT by Tables 3.5 and 3.7. -/
theorem test_decode_fabric_cvt :
  decodeTableWord 64 0x402322C7FE465ABC = some (.fCvt tFab) ∧
  decodeTableWord 64 0x406322C7FE465ABC = some (.fRnd tFab) ∧
  decodeTableWord 64 0x40A322C7FE465ABC = some (.fResolve tFab) ∧
  decodeTableWord 64 0x40E322C7FE465ABC = some (.fQblk tFab) ∧
  decodeTableWord 64 0x412322C7FE465ABC = some (.fDqblk tFab) ∧
  decodeTableWord 64 0x416322C7FE465ABC = some (.fSat tFab) := by decide +kernel

/-- Words of kind FUNC by Tables 3.5 and 3.7. -/
theorem test_decode_fabric_func :
  decodeTableWord 64 0x502322C7FE465ABC = some (.fExp2 tFab) ∧
  decodeTableWord 64 0x506322C7FE465ABC = some (.fLog2 tFab) ∧
  decodeTableWord 64 0x50A322C7FE465ABC = some (.fRcp tFab) ∧
  decodeTableWord 64 0x50E322C7FE465ABC = some (.fRsqrt tFab) ∧
  decodeTableWord 64 0x512322C7FE465ABC = some (.fSqrt tFab) ∧
  decodeTableWord 64 0x516322C7FE465ABC = some (.fDiv tFab) ∧
  decodeTableWord 64 0x51A322C7FE465ABC = some (.fSigm tFab) ∧
  decodeTableWord 64 0x51E322C7FE465ABC = some (.fTanh tFab) := by decide +kernel

/-- Words of kind STEER by Tables 3.5 and 3.7. -/
theorem test_decode_fabric_steer :
  decodeTableWord 64 0x602322C7FE465ABC = some (.fSel tFab) ∧
  decodeTableWord 64 0x606322C7FE465ABC = some (.fRoute tFab) ∧
  decodeTableWord 64 0x60A322C7FE465ABC = some (.fMerge tFab) ∧
  decodeTableWord 64 0x60E322C7FE465ABC = some (.fFan tFab) ∧
  decodeTableWord 64 0x612322C7FE465ABC = some (.fFilt tFab) ∧
  decodeTableWord 64 0x616322C7FE465ABC = some (.fGate tFab) := by decide +kernel

/-- Words of kind RED by Tables 3.5 and 3.7. -/
theorem test_decode_fabric_red :
  decodeTableWord 64 0x702322C7FE465ABC = some (.fRedSum tFab) ∧
  decodeTableWord 64 0x706322C7FE465ABC = some (.fRedMax tFab) ∧
  decodeTableWord 64 0x70A322C7FE465ABC = some (.fRedMin tFab) ∧
  decodeTableWord 64 0x70E322C7FE465ABC = some (.fScan tFab) ∧
  decodeTableWord 64 0x712322C7FE465ABC = some (.fRecur tFab) ∧
  decodeTableWord 64 0x716322C7FE465ABC = some (.fKeyred tFab) := by decide +kernel

/-- Words of kind LD by Tables 3.5 and 3.7. -/
theorem test_decode_fabric_ld :
  decodeTableWord 64 0x802322C7FE465ABC = some (.fLd tFab) ∧
  decodeTableWord 64 0x806322C7FE465ABC = some (.fLdt tFab) ∧
  decodeTableWord 64 0x80A322C7FE465ABC = some (.fLdring tFab) ∧
  decodeTableWord 64 0x80E322C7FE465ABC = some (.fLdg tFab) ∧
  decodeTableWord 64 0x812322C7FE465ABC = some (.fLdver tFab) := by decide +kernel

/-- Words of kind ST by Tables 3.5 and 3.7. -/
theorem test_decode_fabric_st :
  decodeTableWord 64 0x902322C7FE465ABC = some (.fSt tFab) ∧
  decodeTableWord 64 0x906322C7FE465ABC = some (.fSta tFab) ∧
  decodeTableWord 64 0x90A322C7FE465ABC = some (.fStadd tFab) ∧
  decodeTableWord 64 0x90E322C7FE465ABC = some (.fStmax tFab) ∧
  decodeTableWord 64 0x912322C7FE465ABC = some (.fStbin tFab) := by decide +kernel

/-- Words of kind TAG by Tables 3.5 and 3.7. -/
theorem test_decode_fabric_tag :
  decodeTableWord 64 0xA02322C7FE465ABC = some (.fPush tFab) ∧
  decodeTableWord 64 0xA06322C7FE465ABC = some (.fPop tFab) ∧
  decodeTableWord 64 0xA0A322C7FE465ABC = some (.fInc tFab) ∧
  decodeTableWord 64 0xA0E322C7FE465ABC = some (.fEos tFab) ∧
  decodeTableWord 64 0xA12322C7FE465ABC = some (.fChk tFab) ∧
  decodeTableWord 64 0xA16322C7FE465ABC = some (.fCnt tFab) ∧
  decodeTableWord 64 0xA1A322C7FE465ABC = some (.fSeq tFab) ∧
  decodeTableWord 64 0xA1E322C7FE465ABC = some (.fMark tFab) ∧
  decodeTableWord 64 0xA22322C7FE465ABC = some (.fBget tFab) := by decide +kernel

/-- Words of kind ALLOC by Tables 3.5 and 3.7. -/
theorem test_decode_fabric_alloc :
  decodeTableWord 64 0xB02322C7FE465ABC = some (.fAlloc tFab) ∧
  decodeTableWord 64 0xB06322C7FE465ABC = some (.fRelease tFab) ∧
  decodeTableWord 64 0xB0A322C7FE465ABC = some (.fHandoff tFab) := by decide +kernel

/-- Fields of a matrix order, each with a value of its own. -/
def tOrder : MxOrder :=
  { m1 := 5, n1 := 127, k := 0xABCD, afmt := 6, bfmt := 3, ofmt := 5, mode := 2, accum := 1, bank := 1, base := 71, acoded := 0, bcoded := 1, tofab := 0, atile := 77, aoff := 0xFFF, btile := 3, boff := 0x801, dtile := 127, doff := 2, astile := 9, asoff := 0x123, bstile := 64, bsoff := 1, mtile := 33, moff := 0x3FF, cidx := 19, cport := 2, echo := 0x1122334455667788 }

/-- Matrix orders by Table 3.10. -/
theorem test_decode_orders :
  decodeTableWord 256 0x1122334455667788121238000143FFCE9AFFF06801FE002000BFEAF373AB4720 =
    some (.mMma tOrder) ∧
  decodeTableWord 256 0x1122334455667788121238000143FFCE9AFFF06801FE002010BFEAF373AB4720 =
    some (.mMmaSp tOrder) ∧
  decodeTableWord 256 0x1122334455667788121238000143FFCE9AFFF06801FE002020BFEAF373AB4720 =
    some (.mMmac tOrder) ∧
  decodeTableWord 256 0x1122334455667788121238000143FFCE9AFFF06801FE002030BFEAF373AB4720 =
    some (.mAccClr tOrder) ∧
  decodeTableWord 256 0x1122334455667788121238000143FFCE9AFFF06801FE002040BFEAF373AB4720 =
    some (.mAccRd tOrder) ∧
  decodeTableWord 256 0x1122334455667788121238000143FFCE9AFFF06801FE002040BFEAF373AB4730 =
    some (.mAccRdFabric { tOrder with tofab := 1 }) ∧
  decodeTableWord 256 0x1122334455667788121238000143FFCE9AFFF06801FE002050BFEAF373AB4720 =
    some (.mAccRdq tOrder) ∧
  decodeTableWord 256 0x1122334455667788121238000143FFCE9AFFF06801FE002060BFEAF373AB4720 =
    some (.mAccLd tOrder) ∧
  decodeTableWord 256 0x1122334455667788121238000143FFCE9AFFF06801FE002070BFEAF373AB4720 =
    some (.mMscLd tOrder) := by decide +kernel

/-- Reserved words are refused by name: the zero word, major 0x2C, a func of Table 3.3, a nonzero unused field, an atomic
operation, a scope, an empty loop body; a fabric kind, subop, mode and accept mask; a matrix opcode. -/
theorem test_decode_refuses :
  refusal .control 0 = some .reservedMajor ∧ refusal .control 0xB0000000 = some .reservedMajor ∧
  refusal .control 0x04000013 = some .reservedFunc ∧ refusal .control 0x04000811 = some .nonzeroField ∧
  refusal .control 0x54000500 = some .reservedAtomic ∧ refusal .control 0x54000030 = some .reservedScope ∧
  refusal .control 0x7C000000 = some .emptyLoopBody ∧ refusal .fabric 0xC0000200000000FF = some .reservedFabric ∧
  refusal .fabric 0x0180020000000000 = some .reservedFabric ∧ refusal .fabric 0x000C020000000000 = some .reservedMode ∧
  refusal .fabric 0 = some .emptyAccept ∧ refusal .order 0x8000000000000000 = some .reservedOrder := by decide +kernel
/-! ## Well-formedness: the least term of each constructor passes, and a term at each bound is refused -/

/-- Terms that are well formed. -/
theorem test_wf_accepts_0 : (
  [.add 0 0 0, .sub 0 0 0, .and 0 0 0, .or 0 0 0, .xor 0 0 0, .sll 0 0 0, .srl 0 0 0, .sra 0 0 0, .mul 0 0 0,
   .mulh 0 0 0, .mulhn 0 0 0, .min 0 0 0, .max 0 0 0, .minn 0 0 0, .maxn 0 0 0, .slt 0 0 0, .sltn 0 0 0, .clz 0 0,
   .popc 0 0, .addi 0 0 0, .andi 0 0 0, .ori 0 0 0, .xori 0 0 0, .slli 0 0 0, .srli 0 0 0, .srai 0 0 0, .lui 0 0,
   .ldB 0 0 0, .ldH 0 0 0, .ldW 0 0 0, .ldD 0 0 0, .ldnB 0 0 0, .ldnH 0 0 0, .ldnW 0 0 0, .stB 0 0 0, .stH 0 0 0,
   .stW 0 0 0, .stD 0 0 0, .amoSwap 0 0 0 0 0, .amoAdd 0 0 0 0 0, .amoAnd 0 0 0 0 0, .amoOr 0 0 0 0 0,
   .amoXor 0 0 0 0 0, .amoMax 0 0 0 0 0, .amoMin 0 0 0 0 0, .amoMaxn 0 0 0 0 0, .amoMinn 0 0 0 0 0,
   .amoCas 0 0 0 0 0, .fence 0, .beq 0 0 0, .bne 0 0 0, .blt 0 0 0, .bge 0 0 0, .bltn 0 0 0, .bgen 0 0 0, .jal 0,
   .jalr 0 0 0, .loop 0 0 1, .lbrk 0, .lcnt 0 0] : List Instr).all (fun i => i.wf) = true := by decide +kernel

/-- Terms that are well formed. -/
theorem test_wf_accepts_1 : (
  [.storeBufferDrain 0, .tsend 0 0 0, .trecv 0 0, .fopen 0 0 0 0 0, .fwait 0 0, .apset 0 0, .apmod 0 0 0,
   .sbind 0 0 0 0 0, .sbar 0 0 0, .sstat 0 0, .bload 0 0 0, .bdrop 0 0, .talloc 0 0 0 0, .trel 0 0 0 0,
   .tstate 0 0 0 0, .ringinit 0 0 0 0, .ringwait 0 0 0 0, .ringrel 0 0 0, .cp 0 0 0, .cpg 0 0 0, .cps 0 0 0,
   .cpsa 0 0 0, .cpm 0 0 0, .cpbin 0 0 0, .cpcancel 0 0 0 0, .cpq 0 0, .pcinit 0 0 0 0, .pcarrive 0 0 0 0,
   .pcexpect 0 0 0 0, .pcwait 0 0 0 0, .coll 0, .collwait 0, .cxprio 0 0 0, .cxpark 0 0, .cxresume 0 0,
   .cxsave 0 0 0 0, .cxrest 0 0 0, .dvmap 0 0 0, .dvclr 0 0, .renter 0 0 0 0, .rleave 0 0 0, .smark 0, .bkpt 0 0 0,
   .trap 0, .mvfs 0 0, .mvts 0 0, .eventsClear 0, .flagWordWrite 0 0x100, .dselScorecardClear 0, .scorecardLatch 0,
   .layerClockLatch 0, .translationRegisterWrite 0 0x050, .deviceRegisterWrite 0 0, .orderCompletion 0 0,
   .launchStart 0, .launchEnd 0, .tokenDelivery 0 0, .fire 0 0 0, .beatSelect 0, .fallbackReturn 0 0] : List Instr).all (fun i => i.wf) = true := by decide +kernel

/-- Terms that are well formed. -/
theorem test_wf_accepts_2 : (
  [.contextAged 0 0, .lateOperandArrival 0 0, .instanceCommit 0 0, .frameRetire 0 0, .takeTrap 0,
   .waitingCommandResume 0, .streamStart 0 0, .streamAccess 0 0, .allocDeadlock 0, .spillBankMove 0 0,
   .registerBankSwap 0 0, .bankHandover 0 0, .framePark 0 0, .faultRecordDelivery 0, .faultMessage 0, .verdict 0,
   .resumedReentry 0 0, .preciseStop 0 0, .copyStart 0 0, .copyRound 0, .chunkPerformed 0 0, .copyReply 0 0 0 0,
   .memoryRequest 0 0, .promotion 0 0, .flitReplay 0, .linkRetrainFailure 0, .collectiveComplete 0 0,
   .collTimeout 0 0, .savePieceWrite 0, .saveSeal 0, .restoreMerge 0, .attestationReport 0, .laneRepair 0 0 0,
   .dvfsMove 0 0, .thermalThrottle 0 0, .thermalTrip 0 0, .endpointDma 0 0 [], .applicationCoreAccess 0 0 [],
   .applicationCoreTokenSend 0 [], .packageLinkRetrain 0] : List Instr).all (fun i => i.wf) = true := by decide +kernel

/-- One operand at its bound: not well formed. -/
theorem test_wf_refuses_0 : (
  [.add 32 0 0, .add 0 32 0, .add 0 0 32, .sub 32 0 0, .sub 0 32 0, .sub 0 0 32, .and 32 0 0, .and 0 32 0,
   .and 0 0 32, .or 32 0 0, .or 0 32 0, .or 0 0 32, .xor 32 0 0, .xor 0 32 0, .xor 0 0 32, .sll 32 0 0, .sll 0 32 0,
   .sll 0 0 32, .srl 32 0 0, .srl 0 32 0, .srl 0 0 32, .sra 32 0 0, .sra 0 32 0, .sra 0 0 32, .mul 32 0 0,
   .mul 0 32 0, .mul 0 0 32, .mulh 32 0 0, .mulh 0 32 0, .mulh 0 0 32, .mulhn 32 0 0, .mulhn 0 32 0, .mulhn 0 0 32,
   .min 32 0 0, .min 0 32 0, .min 0 0 32, .max 32 0 0, .max 0 32 0, .max 0 0 32, .minn 32 0 0, .minn 0 32 0,
   .minn 0 0 32, .maxn 32 0 0, .maxn 0 32 0, .maxn 0 0 32, .slt 32 0 0, .slt 0 32 0, .slt 0 0 32, .sltn 32 0 0,
   .sltn 0 32 0, .sltn 0 0 32, .clz 32 0, .clz 0 32, .popc 32 0, .popc 0 32, .addi 32 0 0, .addi 0 32 0,
   .addi 0 0 65536, .andi 32 0 0, .andi 0 32 0] : List Instr).all (fun i => !i.wf) = true := by decide +kernel

/-- One operand at its bound: not well formed. -/
theorem test_wf_refuses_1 : (
  [.andi 0 0 65536, .ori 32 0 0, .ori 0 32 0, .ori 0 0 65536, .xori 32 0 0, .xori 0 32 0, .xori 0 0 65536,
   .slli 32 0 0, .slli 0 32 0, .slli 0 0 64, .srli 32 0 0, .srli 0 32 0, .srli 0 0 64, .srai 32 0 0, .srai 0 32 0,
   .srai 0 0 64, .lui 32 0, .lui 0 65536, .ldB 32 0 0, .ldB 0 32 0, .ldB 0 0 65536, .ldH 32 0 0, .ldH 0 32 0,
   .ldH 0 0 65536, .ldW 32 0 0, .ldW 0 32 0, .ldW 0 0 65536, .ldD 32 0 0, .ldD 0 32 0, .ldD 0 0 65536, .ldnB 32 0 0,
   .ldnB 0 32 0, .ldnB 0 0 65536, .ldnH 32 0 0, .ldnH 0 32 0, .ldnH 0 0 65536, .ldnW 32 0 0, .ldnW 0 32 0,
   .ldnW 0 0 65536, .stB 32 0 0, .stB 0 32 0, .stB 0 0 65536, .stH 32 0 0, .stH 0 32 0, .stH 0 0 65536, .stW 32 0 0,
   .stW 0 32 0, .stW 0 0 65536, .stD 32 0 0, .stD 0 32 0, .stD 0 0 65536, .amoSwap 32 0 0 0 0, .amoSwap 0 32 0 0 0,
   .amoSwap 0 0 32 0 0, .amoSwap 0 0 0 2 0, .amoSwap 0 0 0 0 6, .amoAdd 32 0 0 0 0, .amoAdd 0 32 0 0 0,
   .amoAdd 0 0 32 0 0, .amoAdd 0 0 0 2 0] : List Instr).all (fun i => !i.wf) = true := by decide +kernel

/-- One operand at its bound: not well formed. -/
theorem test_wf_refuses_2 : (
  [.amoAdd 0 0 0 0 6, .amoAnd 32 0 0 0 0, .amoAnd 0 32 0 0 0, .amoAnd 0 0 32 0 0, .amoAnd 0 0 0 2 0,
   .amoAnd 0 0 0 0 6, .amoOr 32 0 0 0 0, .amoOr 0 32 0 0 0, .amoOr 0 0 32 0 0, .amoOr 0 0 0 2 0, .amoOr 0 0 0 0 6,
   .amoXor 32 0 0 0 0, .amoXor 0 32 0 0 0, .amoXor 0 0 32 0 0, .amoXor 0 0 0 2 0, .amoXor 0 0 0 0 6,
   .amoMax 32 0 0 0 0, .amoMax 0 32 0 0 0, .amoMax 0 0 32 0 0, .amoMax 0 0 0 2 0, .amoMax 0 0 0 0 6,
   .amoMin 32 0 0 0 0, .amoMin 0 32 0 0 0, .amoMin 0 0 32 0 0, .amoMin 0 0 0 2 0, .amoMin 0 0 0 0 6,
   .amoMaxn 32 0 0 0 0, .amoMaxn 0 32 0 0 0, .amoMaxn 0 0 32 0 0, .amoMaxn 0 0 0 2 0, .amoMaxn 0 0 0 0 6,
   .amoMinn 32 0 0 0 0, .amoMinn 0 32 0 0 0, .amoMinn 0 0 32 0 0, .amoMinn 0 0 0 2 0, .amoMinn 0 0 0 0 6,
   .amoCas 32 0 0 0 0, .amoCas 0 32 0 0 0, .amoCas 0 0 32 0 0, .amoCas 0 0 0 2 0, .amoCas 0 0 0 0 6, .fence 6,
   .beq 32 0 0, .beq 0 32 0, .beq 0 0 65536, .bne 32 0 0, .bne 0 32 0, .bne 0 0 65536, .blt 32 0 0, .blt 0 32 0,
   .blt 0 0 65536, .bge 32 0 0, .bge 0 32 0, .bge 0 0 65536, .bltn 32 0 0, .bltn 0 32 0, .bltn 0 0 65536,
   .bgen 32 0 0, .bgen 0 32 0, .bgen 0 0 65536] : List Instr).all (fun i => !i.wf) = true := by decide +kernel

/-- One operand at its bound: not well formed. -/
theorem test_wf_refuses_3 : (
  [.jal (2 ^ 26), .jalr 32 0 0, .jalr 0 32 0, .jalr 0 0 65536, .loop 4 0 1, .loop 0 32 1, .loop 0 0 1024,
   .loop 0 0 0, .lbrk 4, .lcnt 32 0, .lcnt 0 4, .storeBufferDrain 256, .tsend 32 0 0, .tsend 0 32 0, .tsend 0 0 32,
   .trecv 32 0, .trecv 0 32, .fopen 32 0 0 0 0, .fopen 0 32 0 0 0, .fopen 0 0 16 0 0, .fopen 0 0 0 8 0,
   .fopen 0 0 0 0 4, .fwait 32 0, .fwait 0 16, .apset 32 0, .apset 0 16, .apmod 32 0 0, .apmod 0 16 0, .apmod 0 0 16,
   .sbind 32 0 0 0 0, .sbind 0 32 0 0 0, .sbind 0 0 16 0 0, .sbind 0 0 0 4 0, .sbind 0 0 0 0 16, .sbar 32 0 0,
   .sbar 0 32 0, .sbar 0 0 2, .sstat 32 0, .sstat 0 16, .bload 32 0 0, .bload 0 32 0, .bload 0 0 4, .bdrop 32 0,
   .bdrop 0 4, .talloc 32 0 0 0, .talloc 0 32 0 0, .talloc 0 0 16 0, .talloc 0 0 0 4, .trel 32 0 0 0, .trel 0 16 0 0,
   .trel 0 0 2 0, .trel 0 0 0 4, .tstate 32 0 0 0, .tstate 0 32 0 0, .tstate 0 0 16 0, .tstate 0 0 0 2,
   .ringinit 32 0 0 0, .ringinit 0 16 0 0, .ringinit 0 0 16 0, .ringinit 0 0 0 4] : List Instr).all (fun i => !i.wf) = true := by decide +kernel

/-- One operand at its bound: not well formed. -/
theorem test_wf_refuses_4 : (
  [.ringwait 32 0 0 0, .ringwait 0 16 0 0, .ringwait 0 0 16 0, .ringwait 0 0 0 4, .ringrel 16 0 0, .ringrel 0 16 0,
   .ringrel 0 0 4, .cp 32 0 0, .cp 0 16 0, .cp 0 0 4, .cpg 32 0 0, .cpg 0 16 0, .cpg 0 0 4, .cps 32 0 0, .cps 0 16 0,
   .cps 0 0 4, .cpsa 32 0 0, .cpsa 0 16 0, .cpsa 0 0 4, .cpm 32 0 0, .cpm 0 16 0, .cpm 0 0 4, .cpbin 32 0 0,
   .cpbin 0 16 0, .cpbin 0 0 4, .cpcancel 32 0 0 0, .cpcancel 0 16 0 0, .cpcancel 0 0 2 0, .cpcancel 0 0 0 4,
   .cpq 32 0, .cpq 0 16, .pcinit 32 0 0 0, .pcinit 0 32 0 0, .pcinit 0 0 16 0, .pcinit 0 0 0 4, .pcarrive 32 0 0 0,
   .pcarrive 0 32 0 0, .pcarrive 0 0 16 0, .pcarrive 0 0 0 4, .pcexpect 32 0 0 0, .pcexpect 0 32 0 0,
   .pcexpect 0 0 16 0, .pcexpect 0 0 0 4, .pcwait 32 0 0 0, .pcwait 0 32 0 0, .pcwait 0 0 16 0, .pcwait 0 0 0 4,
   .coll 32, .collwait 32, .cxprio 32 0 0, .cxprio 0 8 0, .cxprio 0 0 4, .cxpark 32 0, .cxpark 0 4, .cxresume 32 0,
   .cxresume 0 4, .cxsave 32 0 0 0, .cxsave 0 32 0 0, .cxsave 0 0 16 0, .cxsave 0 0 0 4] : List Instr).all (fun i => !i.wf) = true := by decide +kernel

/-- One operand at its bound: not well formed. -/
theorem test_wf_refuses_5 : (
  [.cxrest 32 0 0, .cxrest 0 16 0, .cxrest 0 0 4, .dvmap 32 0 0, .dvmap 0 16 0, .dvmap 0 0 16, .dvclr 16 0,
   .dvclr 0 16, .renter 32 0 0 0, .renter 0 32 0 0, .renter 0 0 2 0, .renter 0 0 0 4, .rleave 32 0 0, .rleave 0 2 0,
   .rleave 0 0 4, .smark 32, .bkpt 32 0 0, .bkpt 0 16 0, .bkpt 0 0 4, .trap 256, .mvfs 32 0, .mvfs 0 4096,
   .mvfs 0 0x081, .mvfs 0 0x0A0, .mvts 32 0, .mvts 0 4096, .mvts 0 0x033, .mvts 0 0x080, .mvts 0 0x050,
   .mvts 0 0x058, .mvts 0 0x100, .mvts 0 0x13F, .eventsClear 32, .flagWordWrite 32 0x100, .flagWordWrite 0 0,
   .flagWordWrite 0 255, .dselScorecardClear 32, .scorecardLatch 32, .layerClockLatch 32,
   .translationRegisterWrite 32 0x050, .translationRegisterWrite 0 0, .translationRegisterWrite 0 79,
   .deviceRegisterWrite (2 ^ 60) 0, .deviceRegisterWrite 0 (2 ^ 64), .orderCompletion 4096 0, .orderCompletion 0 3,
   .launchStart 256, .launchEnd 256, .tokenDelivery 4352 0, .fire 4096 0 0, .fire 0 4 0, .fire 0 0 (2 ^ 64),
   .beatSelect 4096, .fallbackReturn 4096 0, .fallbackReturn 0 4, .contextAged 4096 0, .contextAged 0 4,
   .lateOperandArrival 4096 0, .lateOperandArrival 0 4, .instanceCommit 4096 0] : List Instr).all (fun i => !i.wf) = true := by decide +kernel

/-- One operand at its bound: not well formed. -/
theorem test_wf_refuses_6 : (
  [.instanceCommit 0 4, .frameRetire 4096 0, .frameRetire 0 256, .takeTrap 256, .waitingCommandResume 256,
   .streamStart 4096 0, .streamStart 0 16, .streamAccess 4096 0, .streamAccess 0 16, .allocDeadlock 4096,
   .spillBankMove 4096 0, .spillBankMove 0 32, .registerBankSwap 4096 0, .registerBankSwap 0 256,
   .bankHandover 4096 0, .bankHandover 0 4, .framePark 4096 0, .framePark 0 256, .faultRecordDelivery 256,
   .faultMessage 256, .verdict 4096, .resumedReentry 4096 0, .resumedReentry 0 4, .preciseStop 4096 0,
   .preciseStop 0 4, .copyStart 4096 0, .copyStart 0 4, .copyRound 4096, .chunkPerformed 4096 0,
   .copyReply 4096 0 0 0, .copyReply 0 4 0 0, .copyReply 0 0 0 2, .memoryRequest 4096 0, .promotion 0 8,
   .flitReplay 16, .linkRetrainFailure 16, .collectiveComplete 256 0, .collectiveComplete 0 256, .collTimeout 256 0,
   .collTimeout 0 256, .savePieceWrite 4096, .saveSeal 4096, .restoreMerge 4096, .attestationReport (2 ^ 256),
   .laneRepair 4096 0 0, .laneRepair 0 256 0, .laneRepair 0 0 16, .dvfsMove 8 0, .thermalThrottle 8 0,
   .thermalTrip 8 0, .endpointDma 2 0 [], .endpointDma 0 (2 ^ 64) [], .endpointDma 0 0 [256],
   .applicationCoreAccess 2 0 [], .applicationCoreAccess 0 (2 ^ 64) [], .applicationCoreAccess 0 0 [256],
   .applicationCoreTokenSend (2 ^ 128) [], .applicationCoreTokenSend 0 [256], .packageLinkRetrain 16] : List Instr).all (fun i => !i.wf) = true := by decide +kernel

/-- A field of a fabric word at its bound. -/
theorem test_wf_fab : tFab.wf = true ∧ ([
   { tFab with accept := 0 },
   { tFab with accept := 256 },
   { tFab with width := 4 },
   { tFab with mode := 6 },
   { tFab with ta := 512 },
   { tFab with tb := 512 },
   { tFab with lsid := 32 },
   { tFab with delay := 16 },
   { tFab with pred := 4 },
   { tFab with imm := 4096 }] : List Fab).all (fun w => !w.wf) = true := by decide +kernel

/-- A field of a matrix order at its bound, and the to-fabric bit of the two drains. -/
theorem test_wf_order : tOrder.wf = true ∧ ([
   { tOrder with m1 := 128 },
   { tOrder with n1 := 128 },
   { tOrder with k := 65536 },
   { tOrder with afmt := 8 },
   { tOrder with bfmt := 8 },
   { tOrder with ofmt := 8 },
   { tOrder with mode := 8 },
   { tOrder with accum := 2 },
   { tOrder with bank := 2 },
   { tOrder with base := 256 },
   { tOrder with acoded := 2 },
   { tOrder with bcoded := 2 },
   { tOrder with tofab := 2 },
   { tOrder with atile := 128 },
   { tOrder with aoff := 8192 },
   { tOrder with btile := 128 },
   { tOrder with boff := 8192 },
   { tOrder with dtile := 128 },
   { tOrder with doff := 8192 },
   { tOrder with astile := 128 },
   { tOrder with asoff := 8192 },
   { tOrder with bstile := 128 },
   { tOrder with bsoff := 8192 },
   { tOrder with mtile := 128 },
   { tOrder with moff := 1024 },
   { tOrder with cidx := 32 },
   { tOrder with cport := 4 },
   { tOrder with echo := 2 ^ 64 }] : List MxOrder).all (fun o => !o.wf) = true ∧
  (Instr.mAccRd { tOrder with tofab := 1 }).wf = false ∧ (Instr.mAccRdFabric tOrder).wf = false := by decide +kernel

/-- Every fabric constructor checks its fields. -/
theorem test_wf_fabric_words : ((fun (w : Fab) => (
  [.fAdd w, .fSub w, .fNeg w, .fAbs w, .fAbsdiff w, .fAddc w, .fMul w, .fFma w, .fFms w, .fFnma w, .fMulhi w,
   .fMulsc w, .fCmpEq w, .fCmpNe w, .fCmpLt w, .fCmpLe w, .fCmpGt w, .fCmpGe w, .fCmpMin w, .fCmpMax w, .fSign w,
   .fThr w, .fClamp w, .fAnd w, .fOr w, .fXor w, .fNot w, .fShl w, .fShr w, .fSra w, .fPopc w, .fClz w, .fBsel w,
   .fCvt w, .fRnd w, .fResolve w, .fQblk w, .fDqblk w, .fSat w, .fExp2 w, .fLog2 w, .fRcp w, .fRsqrt w, .fSqrt w,
   .fDiv w, .fSigm w, .fTanh w, .fSel w, .fRoute w, .fMerge w, .fFan w, .fFilt w, .fGate w, .fRedSum w, .fRedMax w,
   .fRedMin w, .fScan w, .fRecur w, .fKeyred w, .fLd w, .fLdt w, .fLdring w, .fLdg w, .fLdver w, .fSt w, .fSta w,
   .fStadd w, .fStmax w, .fStbin w, .fPush w, .fPop w, .fInc w, .fEos w, .fChk w, .fCnt w, .fSeq w, .fMark w,
   .fBget w, .fAlloc w, .fRelease w, .fHandoff w] : List Instr)) { tFab with mode := 7 }).all (fun i => !i.wf) = true := by decide +kernel

/-- Every matrix constructor checks its fields. -/
theorem test_wf_matrix_orders : ((fun (o : MxOrder) => ([
  .mMma o, .mMmaSp o, .mMmac o, .mAccClr o, .mAccRd o, .mAccRdFabric o, .mAccRdq o, .mAccLd o, .mMscLd o] : List Instr))
    { tOrder with m1 := 128 }).all (fun i => !i.wf) = true := by decide +kernel
/-! ## States for witnesses -/

/-- A region that runs a launch on all its cores, unprivileged, with a handler. -/
def runs : Region :=
  { Region.reset with launch := some placedLaunch, pc := 0x2000000000000000, tvec := 0x2000000000000100 }

/-- Region 0 runs with these general registers. -/
def user (x : Sparse Word) : State := { State.reset with regions := [(0, { runs with x := x })] }

/-- The package with its vault 0 held by a lane repair. -/
def heldDie : Die := { Die.reset with vaults := [(0, { Vault.reset with held := true })] }

/-- The same in privileged mode. -/
def super (x : Sparse Word) : State := { State.reset with regions := [(0, { runs with x := x, mode := .privileged })] }

/-! ## Witnesses: decoding, steps and reset -/

def wWord : State := State.reset.withFetchWord 32 0x20A5003F

theorem witness_step_issue :
    wWord.agenda = .issue 0 :: [] ∧ CanIssue { wWord with agenda := [] } 0 ∧ fetchKeys wWord 0 = .ok (range (regionKey 0 0) 4) ∧
    ccPoisoned wWord 0 (range (regionKey 0 0) 4) = false ∧
    decodeWord .control (ofBytes (wWord.ccRead 0 (range (regionKey 0 0) 4))) = .ok (.srai 5 5 63) := by
  repeat' apply And.intro
  all_goals first | decide +kernel | exact ok_of (by decide +kernel)

def wTurn : State := { wWord with agenda := [] }

theorem witness_step_turn :
    wTurn.agenda = [] ∧ CanIssue wTurn wTurn.turn ∧ fetchKeys wTurn wTurn.turn = .ok (range (regionKey 0 0) 4) ∧
    ccPoisoned wTurn wTurn.turn (range (regionKey 0 0) 4) = false ∧
    decodeWord .control (ofBytes (wTurn.ccRead wTurn.turn (range (regionKey 0 0) 4))) = .ok (.srai 5 5 63) := by
  repeat' apply And.intro
  all_goals first | decide +kernel | exact ok_of (by decide +kernel)

/-- `neg` of i32 trains, sent nowhere. -/
def wFabWord : Nat := 2 * 2 ^ 54 + 3 * 2 ^ 52 + 2 ^ 41 + 31 * 2 ^ 18

def wElement : State := State.reset.withFetchWord 64 wFabWord

theorem witness_step_element :
    wElement.agenda = .element 0 0 0 :: [] ∧ (wElement.ctx 0 0).block.isSome = true ∧
    ((wElement.ctx 0 0).block.getD default).words[0]? = some wFabWord ∧
    decodeWord .fabric wFabWord = .ok (.fNeg
      { width := 3, mode := 0, accept := 1, ta := 0, tb := 0, lsid := 31, delay := 0, pred := 0, imm := 0 }) := by
  repeat' apply And.intro
  all_goals first | decide +kernel | exact ok_of (by decide +kernel)

def wOrder : State := State.reset.withFetchWord 256 (3 * 2 ^ 60)

theorem witness_step_order :
    wOrder.agenda = .order 0 0 :: [] ∧
    (wOrder.core 0).mx.headOrder 0 = some { word := 3 * 2 ^ 60, ctx := 0, bad := false, entry := none } ∧
    decodeWord .order (3 * 2 ^ 60) = .ok (.mAccClr (orderFields (3 * 2 ^ 60))) := by
  repeat' apply And.intro
  all_goals first | decide +kernel | exact ok_of (by decide +kernel)

theorem witness_step_event :
    ({ State.reset with agenda := [.event .debugHold] } : State).agenda = .event .debugHold :: [] ∧
    encodeWord .debugHold = none := by decide +kernel

def wBadPc : State := { State.reset with regions := [(0, { runs with pc := 0x4000000000000000 })] }

theorem witness_fetch_fault :
    wBadPc.agenda = [] ∧ CanIssue wBadPc wBadPc.turn ∧ fetchKeys wBadPc wBadPc.turn = .error (.protection, false) ∧
    (wBadPc.region wBadPc.turn).pc.toNat / 2 ^ 60 ≠ 2 ∧ (wBadPc.region wBadPc.turn).pc.toNat / 2 ^ 60 ≠ 8 := by
  repeat' apply And.intro
  all_goals first | decide +kernel | exact err_of (by decide +kernel)

theorem witness_fetch_illegal :
    (user []).agenda = [] ∧ CanIssue (user []) (user []).turn ∧
    fetchKeys (user []) (user []).turn = .ok (range (regionKey 0 0) 4) ∧
    ccPoisoned (user []) (user []).turn (range (regionKey 0 0) 4) = false ∧
    decodeWord .control (ofBytes ((user []).ccRead (user []).turn (range (regionKey 0 0) 4))) =
      .error .reservedMajor := by
  repeat' apply And.intro
  all_goals first | decide +kernel | exact ok_of (by decide +kernel) | exact err_of (by decide +kernel)

theorem witness_fetch_held :
    let s : State := { State.reset with regions := [(0, { runs with held := [(Trap.word .illegal).cause] })] }
    s.agenda = [] ∧ (s.region s.turn).launch ≠ none ∧ s.die.boot = .running ∧ s.takes s.turn = true := by
  decide +kernel

/-- A fetch from window 0x8 while the vault of the range table is held. -/
theorem witness_fetch_waits :
    let s : State := { State.reset with
      regions := [(0, { runs with pc := 0x8000000000000000, rtab := [(0, BitVec.ofNat 64 (2 ^ 63 + 4096))] })]
      die := heldDie }
    s.agenda = [] ∧ (s.region s.turn).launch ≠ none ∧ s.die.boot = .running ∧ s.takes s.turn = false ∧
    fetchHeld s s.turn = true := by
  decide +kernel

theorem witness_round_trip :
    (Instr.srai 5 5 63).wf = true ∧ encodeWord (.srai 5 5 63) = some (.control, 0x20A5003F) ∧
    encode (.srai 5 5 63) = some (.control, [0x3F, 0x00, 0xA5, 0x20]) := by decide +kernel

theorem witness_sound_step : State.reset.Sound ∧ step State.reset = .next State.reset.tick := ⟨rfl, rfl⟩

theorem witness_unprivileged :
    encodeWord (.mvts 3 0x001) = some (.control, 0xAC030301) ∧
    ((user []).region (user []).turn).mode = .unprivileged ∧ Continues (exec (.mvts 3 0x001) (user [])) :=
  ⟨by decide +kernel, by decide +kernel, _, rfl⟩

theorem witness_general_registers : (1 : Nat) ≠ 0 ∧ (2 : Nat) ≠ 1 := by decide

/-! ## Witnesses: integer words, loads, stores, atomics -/

def wAlu : State := user [(5, 7), (6, 0x8000000000000000)]

theorem witness_alu : wAlu.getX wAlu.turn 5 = 7 ∧ wAlu.getX wAlu.turn 6 = 0x8000000000000000 := by decide +kernel

/-- The word at pc is `slli` with imm16 [6] set. -/
def wBadShift : State := { State.reset.withFetchWord 32 0x18A50040 with agenda := [] }

theorem witness_reserved_immediate :
    (0x18A50040 : Nat) < 2 ^ 32 ∧ 0x18A50040 = ofBytes (wBadShift.ccRead wBadShift.turn (range (regionKey 0 0) 4)) ∧
    6 ≤ 0x18A50040 / 2 ^ 26 ∧ 0x18A50040 / 2 ^ 26 ≤ 8 ∧ bits 0x18A50040 15 6 ≠ 0 ∧ wBadShift.agenda = [] ∧
    CanIssue wBadShift wBadShift.turn ∧
    fetchKeys wBadShift wBadShift.turn = .ok (range (regionKey 0 0) 4) ∧
    ccPoisoned wBadShift wBadShift.turn (range (regionKey 0 0) 4) = false := by
  repeat' apply And.intro
  all_goals first | decide +kernel | exact ok_of (by decide +kernel)

theorem witness_reserved_lui : (0x24A50000 : Nat) / 2 ^ 26 = 9 ∧ bits 0x24A50000 20 16 ≠ 0 ∧
    0x24A50000 = ofBytes (({ State.reset.withFetchWord 32 0x24A50000 with agenda := [] } : State).ccRead 0
      (range (regionKey 0 0) 4)) := by decide +kernel

/-- x3 points 8 bytes past the last byte of the region bank's window part. -/
def wLoad : State := user [(3, 0x2000000000400000), (4, 0x1122334455667788)]

theorem witness_load (i n : Nat) (h : (i = 0xFFFF ∧ n = 1) ∨ (i = 0xFFFE ∧ n = 2) ∨ (i = 0xFFFC ∧ n = 4) ∨
    (i = 0xFFF8 ∧ n = 8)) :
    let ea := (wLoad.getX wLoad.turn 3 + (BitVec.ofNat 16 i).signExtend 64).toNat
    let m := orderDevice wLoad wLoad.turn ea
    let ks := range (regionKey 0 (2 ^ 22 - n)) n
    deviceReady wLoad wLoad.turn ea = true ∧ walkHeld m (.control wLoad.turn) ea n = false ∧
    resolve m (.control wLoad.turn) ea n .read = .ok ks ∧ resolve m (.control wLoad.turn) ea n .write = .ok ks ∧
    ea / 2 ^ 60 ≠ 15 ∧ vaultHeld m ks = false ∧ ccPoisoned m wLoad.turn ks = false ∧
    (wLoad.region wLoad.turn).stores.length < 8 ∧ wLoad.bufferRoom wLoad.turn = true := by
  rcases h with ⟨rfl, rfl⟩ | ⟨rfl, rfl⟩ | ⟨rfl, rfl⟩ | ⟨rfl, rfl⟩ <;> (repeat' apply And.intro) <;>
    first | decide +kernel | exact ok_of (by decide +kernel)

/-- A full store buffer whose oldest store goes to a held vault. -/
def wFull : State :=
  { State.reset with
    regions := [(0, { runs with x := [(3, 0x2000000000000040)], stores := List.replicate 8 { keys := [5], bytes := [9] } })]
    die := heldDie }

theorem witness_store_waits (n : Nat) (h : n = 1 ∨ n = 2 ∨ n = 4 ∨ n = 8) :
    let ea := (wFull.getX wFull.turn 3 + (BitVec.ofNat 16 0).signExtend 64).toNat
    let m := orderDevice wFull wFull.turn ea
    deviceReady wFull wFull.turn ea = true ∧ walkHeld m (.control wFull.turn) ea n = false ∧
    resolve m (.control wFull.turn) ea n .write = .ok (range (regionKey 0 0x40) n) ∧ ea / 2 ^ 60 ≠ 15 ∧
    wFull.bufferRoom wFull.turn = false := by
  rcases h with rfl | rfl | rfl | rfl <;> (repeat' apply And.intro) <;>
    first | decide +kernel | exact ok_of (by decide +kernel)

def wDevice : State := super [(3, 0xF800000000000000), (4, 0xF000000000000000)]

theorem witness_device_access :
    let ea := (wDevice.getX wDevice.turn 3 + (BitVec.ofNat 16 0).signExtend 64).toNat
    let m := orderDevice wDevice wDevice.turn ea
    deviceReady wDevice wDevice.turn ea = true ∧ walkHeld m (.control wDevice.turn) ea 8 = false ∧
    resolve m (.control wDevice.turn) ea 8 .read = .ok [] ∧ resolve m (.control wDevice.turn) ea 8 .write = .ok [] ∧
    ea / 2 ^ 60 = 15 ∧ bit ea 59 = true := by
  repeat' apply And.intro
  all_goals first | decide +kernel | exact ok_of (by decide +kernel)

theorem witness_physical_access :
    let ea := (wDevice.getX wDevice.turn 4 + (BitVec.ofNat 16 0).signExtend 64).toNat
    let m := orderDevice wDevice wDevice.turn ea
    deviceReady wDevice wDevice.turn ea = true ∧ walkHeld m (.control wDevice.turn) ea 8 = false ∧
    resolve m (.control wDevice.turn) ea 8 .write = .ok (range 0 8) ∧ ea / 2 ^ 60 = 15 ∧ bit ea 59 = false ∧
    vaultHeld m (range 0 8) = false ∧ ccPoisoned m wDevice.turn (range 0 8) = false := by
  repeat' apply And.intro
  all_goals first | decide +kernel | exact ok_of (by decide +kernel)

/-- A load of a device register behind a buffered store: the store is performed first. -/
theorem witness_device_frame :
    let s : State := { wDevice with regions := [(0, { wDevice.region 0 with stores := [{ keys := [5], bytes := [9] }] })] }
    let ea := (s.getX s.turn 3 + (BitVec.ofNat 16 0).signExtend 64).toNat
    let m := orderDevice s s.turn ea
    ea / 2 ^ 60 = 15 ∧ deviceReady s s.turn ea = true ∧ walkHeld m (.control s.turn) ea 8 = false ∧
    resolve m (.control s.turn) ea 8 .read = .ok [] ∧ vaultHeld m [] = false ∧ m.readByte 5 = 9 ∧
    (∀ b ∈ (s.region s.turn).stores, (6 : Nat) ∉ b.keys) ∧ ∃ t, exec (.ldD 1 3 0) s = .next t := by
  repeat' apply And.intro
  all_goals first | decide +kernel | exact ok_of (by decide +kernel) | exact ⟨_, rfl⟩

theorem witness_one_register_frame :
    (∃ t, exec (.add 1 5 6) wAlu = .next t) ∧ (∃ t, exec (.ldD 1 3 0xFFF8) wLoad = .next t) := ⟨⟨_, rfl⟩, _, rfl⟩

theorem witness_performed_store :
    (range (regionKey 0 0) 8).length = (toBytes 8 0x1122334455667788).length ∧ (range (regionKey 0 0) 8).Nodup ∧
    (∀ b ∈ toBytes 8 0x1122334455667788, b < 256) ∧ regionKey 0 0 % 8 = 0 := by decide +kernel

theorem witness_access_fault :
    let s := user [(3, 0xFFFFFFFFFFFFFFFF)]
    let ea := (s.getX s.turn 3 + (BitVec.ofNat 16 1).signExtend 64).toNat
    let m := orderDevice s s.turn ea
    ea = 0 ∧ deviceReady s s.turn ea = true ∧ (∀ n, walkHeld m (.control s.turn) ea n = false) ∧
    resolve m (.control s.turn) ea 1 .read = .error (.protection, false) ∧
    resolve m (.control s.turn) ea 8 .write = .error (.protection, false) := by
  repeat' apply And.intro
  all_goals first | decide +kernel | exact err_of (by decide +kernel) | exact fun n => rfl

def wPoison : State := { wLoad with poison := [regionKey 0 (2 ^ 22 - 8) / 8] }

theorem witness_poison_load :
    let ea := (wPoison.getX wPoison.turn 3 + (BitVec.ofNat 16 0xFFF8).signExtend 64).toNat
    let ks := range (regionKey 0 (2 ^ 22 - 8)) 8
    ea / 2 ^ 60 ≠ 15 ∧ (∀ n, walkHeld wPoison (.control wPoison.turn) ea n = false) ∧ vaultHeld wPoison ks = false ∧ ccPoisoned wPoison wPoison.turn ks = true ∧
    resolve wPoison (.control wPoison.turn) ea 8 .read = .ok ks := by
  repeat' apply And.intro
  all_goals first | decide +kernel | exact ok_of (by decide +kernel) | exact fun n => rfl

/-- An address for each clause on windows, at the clause's bounds. -/
theorem witness_windows :
    (0x1FFFFFFFFFFFFFFF : Nat) / 2 ^ 60 ≤ 1 ∧ (0xFFFFFFFFFFFFFFFF : Nat) / 2 ^ 60 = 15 ∧
    ((user []).region 0).mode = .unprivileged ∧ 4 ≤ (0x4000000000000000 : Nat) / 2 ^ 60 ∧
    (0x4000000000000000 : Nat) / 2 ^ 60 ≠ 8 ∧ (0x4000000000000000 : Nat) / 2 ^ 60 ≠ 15 ∧
    (user []).regionEnd 0 ≤ 0x2000000000400000 % 2 ^ 60 ∧
    0x20000000003FFFF8 % 2 ^ 60 + 8 ≤ (user []).regionEnd 0 ∧ (user []).regionEnd 0 ≤ 2 ^ 22 ∧
    (user []).sectorEnd 0 ≤ 0x3000000000400000 % 2 ^ 60 ∧
    0x30000000003FFFF8 % 2 ^ 60 + 8 ≤ (user []).sectorEnd 0 ∧ (user []).sectorEnd 0 ≤ 2 ^ 23 ∧
    (user []).regionEnd 0 < 0x20000000003FFFFC % 2 ^ 60 + 8 ∧ (user []).sectorEnd 0 < 0x30000000003FFFFC % 2 ^ 60 + 8 ∧
    (0x800FFFFFFFFFFFF8 : Nat) / 2 ^ 60 = 8 ∧ 0x800FFFFFFFFFFFF8 % 2 ^ 60 + 8 ≤ 2 ^ 52 ∧ 2 ^ 52 < 0x800FFFFFFFFFFFFC % 2 ^ 60 + 8 ∧
    ((super []).region 0).mode = .privileged ∧ bits (0xF000200000000000 % 2 ^ 60) 58 45 ≠ 0 ∧
    bits (0xF00000000000000C % 2 ^ 60 + 4 - 1) 58 45 = 0 ∧ bits (0xF00000000000000C % 2 ^ 60) 58 45 = 0 ∧
    bit (0xF00000000000000C % 2 ^ 60) 59 = false ∧ bit (0xF80000000000000C % 2 ^ 60) 59 = true := by decide +kernel

/-- A split that no launch makes puts the end of window 0x2 at its last byte, so an access can leave the window. -/
theorem witness_straddle :
    let s : State := { State.reset with quadSplit := [(0, 2 ^ 60)], regions := [(0, { runs with regionSplit := 2 ^ 60 })] }
    let addr : Nat := 0x2FFFFFFFFFFFFFFC
    windowOf s (.control 0) (addr / 2 ^ 60) = .ok (s.regionEnd 0, regionKey 0 0) ∧ addr % 2 ^ 60 < s.regionEnd 0 ∧ addr / 2 ^ 60 ≠ 15 ∧
    (addr + 8 - 1) % 2 ^ 64 / 2 ^ 60 ≠ addr / 2 ^ 60 := by
  repeat' apply And.intro
  all_goals first | decide +kernel | exact ok_of (by decide +kernel) | rfl

def wAtomic : State := user [(3, 0x20000000003FFFF8), (6, 0xFFFFFFFF), (5, 3)]

theorem witness_atomic (w n : Nat) (h : (w = 0 ∧ n = 4) ∨ (w = 1 ∧ n = 8)) :
    let ea := (wAtomic.getX wAtomic.turn 3).toNat
    let ks := range (regionKey 0 (2 ^ 22 - 8)) n
    n = (if w = 0 then 4 else 8) ∧ ea % n = 0 ∧ ea / 2 ^ 60 ≠ 15 ∧ wAtomic.drains wAtomic.turn = true ∧
    wAtomic.drain wAtomic.turn = wAtomic ∧ walkHeld wAtomic (.control wAtomic.turn) ea n = false ∧
    resolve wAtomic (.control wAtomic.turn) ea n .atomic = .ok ks ∧
    atomicGoes wAtomic (wAtomic.region wAtomic.turn).heldAt ks = true ∧
    (wAtomic.drain wAtomic.turn).poisonedAt ks = false := by
  rcases h with ⟨rfl, rfl⟩ | ⟨rfl, rfl⟩ <;> (repeat' apply And.intro) <;>
    first | decide +kernel | exact ok_of (by decide +kernel)

/-- Misaligned, window 0xF, a failed check, a poisoned word, an earlier store that is held. -/
theorem witness_atomic_faults :
    (user []).drains 0 = true ∧ (user []).drain 0 = user [] ∧ wPoison.drains 0 = true ∧ wPoison.drain 0 = wPoison ∧
    walkHeld (user []) (.control 0) 0x2000000000400000 8 = false ∧
    walkHeld wPoison (.control 0) 0x20000000003FFFF8 8 = false ∧
    (0x2000000000000040 : Nat) % 8 = 0 ∧ (0x2000000000000040 : Nat) / 2 ^ 60 ≠ 15 ∧ wFull.drains wFull.turn = false ∧
    (0x2000000000000006 : Nat) % 4 ≠ 0 ∧ (0xF000000000000002 : Nat) % 4 ≠ 0 ∧ (0xF000000000000002 : Nat) / 2 ^ 60 = 15 ∧ (0xF000000000000000 : Nat) % 8 = 0 ∧ (0xF000000000000000 : Nat) / 2 ^ 60 = 15 ∧
    resolve (user []) (.control 0) 0x2000000000400000 8 .atomic = .error (.translation, false) ∧
    (wPoison.drain wPoison.turn).poisonedAt (range (regionKey 0 (2 ^ 22 - 8)) 8) = true ∧
    resolve wPoison (.control wPoison.turn) 0x20000000003FFFF8 8 .atomic = .ok (range (regionKey 0 (2 ^ 22 - 8)) 8) ∧
    atomicGoes wPoison (wPoison.region wPoison.turn).heldAt (range (regionKey 0 (2 ^ 22 - 8)) 8) = true := by
  repeat' apply And.intro
  all_goals first | decide +kernel | exact ok_of (by decide +kernel) | exact err_of (by decide +kernel)

/-- Region 0 maps the first page of window 0x8 onto physical page 0, with every right; the range table is in the second
page. -/
def wMapped : State :=
  { State.reset with
    regions := [(0, { runs with rtab := [(0, BitVec.ofNat 64 (2 ^ 63 + 4096))], x := [(3, 0x8000000000000000)] })]
    mem := ((State.reset.store (range 4096 32) (toBytes 32 (0xF * 2 ^ 60 + 4095 * 2 ^ 64)))).mem
    die := heldDie }

/-- The same with the page in vault 1, which is held. -/
def wFar : State :=
  { State.reset with
    regions := [(0, { runs with rtab := [(0, BitVec.ofNat 64 (2 ^ 63 + 4096))], x := [(3, 0x8000000000000000)] })]
    mem := (State.reset.store (range 4096 32) (toBytes 32 (0xF * 2 ^ 60 + 4095 * 2 ^ 64 + 2 ^ 27 * 2 ^ 128))).mem
    die := { Die.reset with vaults := [(1, { Vault.reset with held := true })] } }

/-- An atomic whose tables are held by a lane repair, and one whose home alone is. -/
theorem witness_atomic_held :
    walkHeld wMapped (.control wMapped.turn) 0x8000000000000000 8 = true ∧ wFar.drains 0 = true ∧ wFar.drain 0 = wFar ∧
    walkHeld wFar (.control wFar.turn) 0x8000000000000000 8 = false ∧
    resolve wFar (.control wFar.turn) 0x8000000000000000 8 .atomic = .ok (range (2 ^ 27) 8) ∧
    atomicGoes wFar (wFar.region wFar.turn).heldAt (range (2 ^ 27) 8) = false := by
  repeat' apply And.intro
  all_goals first | decide +kernel | exact ok_of (by decide +kernel)

theorem witness_fence_and_drain :
    2 ≤ 2 ∧ 1 < 2 ∧ (user []).drains 0 = true ∧ wFull.drains 0 = false ∧ (wFull.region 0).stores =
      { keys := [5], bytes := [9] } :: List.replicate 7 { keys := [5], bytes := [9] } ∧ vaultHeld wFull [5] = true ∧
    vaultHeld (user []) [5] = false ∧ ((user []).region 0).stores = [] ∧ ((user []).region 0).owed = [] ∧
    (let s : State := { State.reset with regions := [(0, { runs with owed := [(0x2000000000000040, 7)] })] };
      (s.region 0).stores = [] ∧ (s.region 0).owed = (0x2000000000000040, 7) :: [] ∧
      s.statusReady 0 (0x2000000000000040 : Word).toNat = true) ∧ ((user []).region 0).recs = [] ∧ (wFull.region 0).owed = [] ∧
    (wFull.region 0).recs = [] ∧
    (let s : State := { State.reset with regions := [(0, { runs with recs := [(0x8000, 1, 2, 3)] })] };
      (s.region 0).stores = [] ∧ (s.region 0).owed = [] ∧ (s.region 0).recs = (0x8000, 1, 2, 3) :: [] ∧
      vaultHeld s (physKeys 0x8000 32) = false ∧ vaultHeld { s with die := heldDie } (physKeys 0x8000 32) = true) := by decide +kernel

/-! ## Witnesses: branches and loops -/

theorem witness_branches :
    let s := user [(1, 1), (2, 0xFFFFFFFFFFFFFFFF)]
    let x := s.getX s.turn 1
    let y := s.getX s.turn 2
    (x == x) = true ∧ (x == y) = false ∧ (x != y) = true ∧ (x != x) = false ∧ y.slt x = true ∧ x.slt y = false ∧
    (!x.slt y) = true ∧ (!y.slt x) = false ∧ x.ult y = true ∧ y.ult x = false ∧ (!y.ult x) = true ∧ (!x.ult y) = false := by
  decide +kernel

theorem witness_jalr :
    let s := user [(1, 0x2000000000000010)]
    (s.getX s.turn 1 + (BitVec.ofNat 16 0xFFFC).signExtend 64).extractLsb' 0 2 = 0 ∧ (1 : Nat) ≠ 0 ∧
    (s.getX s.turn 1 + (BitVec.ofNat 16 1).signExtend 64).extractLsb' 0 2 ≠ 0 := by decide +kernel

def wLoops : State :=
  { State.reset with regions := [(0, { runs with
      x := [(9, 3)], depth := 1, loops := [(0, { start := 0x2000000000000000, len := 8, count := 2 })] })] }

theorem witness_loop :
    let g := wLoops.region wLoops.turn
    (1 : Nat) = g.depth ∧ 1 < 4 ∧ (wLoops.getX wLoops.turn 9).toNat < 2 ^ 48 ∧
    g.pc.toNat + 4 * 7 ≤ (g.loopAt (g.depth - 1)).last.toNat ∧
    (g.depth ≠ 0 ∧ (g.loopAt (g.depth - 1)).last.toNat < g.pc.toNat + 4 * 8) ∧ 0 < g.depth ∧ g.depth ≤ 1 := by
  decide +kernel

theorem witness_empty_loop : (0x7C480000 : Nat) < 2 ^ 32 ∧ 0x7C480000 / 2 ^ 26 = 0x1F ∧ bits 0x7C480000 18 9 = 0 := by
  decide

/-- The last word of a one-word body, in an earlier and in the last iteration, and another word. -/
theorem witness_end_processing :
    let e : LoopEntry := { start := 0x2000000000000004, len := 1, count := 2 }
    let ls : Sparse LoopEntry := [(0, e)]
    e = sget { start := 0, len := 0, count := 0 } ls 0 ∧ (0x2000000000000004 : Word) = e.start + BitVec.ofNat 64 (4 * (e.len - 1)) ∧
    2 ≤ e.count ∧ (0x2000000000000008 : Word) ≠ e.start + BitVec.ofNat 64 (4 * (e.len - 1)) ∧
    sget { start := 0, len := 0, count := 0 } [(0, { e with count := 1 })] 0 = { e with count := 1 } := by decide +kernel

theorem witness_unwind :
    let ls : Sparse LoopEntry := [(0, { start := 0x2000000000000004, len := 4, count := 2 }),
      (1, { start := 0x2000000000000008, len := 1, count := 2 })]
    unwind 0x200000000000000C 2 ls = 0 + 1 ∧ unwind 0x200000000000000C 2 ls ≤ 1 ∧ 1 < 2 := by decide +kernel

/-! ## Witnesses: traps and state registers -/

theorem witness_traps :
    ((user []).region 0).mode = .unprivileged ∧ ((user []).region 0).tvec ≠ 0 ∧ ((super []).region 0).mode = .privileged ∧
    (State.reset.region 0).tvec = 0 ∧ (State.reset.region 0).mode = .unprivileged := by decide +kernel

theorem witness_cause :
    let t : Trap := { fault := 255, poison := true, core := 15, ctx := 3, source := 2, instr := 31, code := 255, info := 7,
                      infoH := 8, extra := 0 }
    t.fault < 256 ∧ t.instr < 32 ∧ t.source < 4 ∧ t.ctx < 4 ∧ t.core < 16 ∧ t.code < 256 ∧ t.extra = 0 := by decide

theorem witness_tret :
    let g := ((super []).drain (super []).turn).region (super []).turn
    (super []).drains (super []).turn = true ∧ (user []).drains (user []).turn = true ∧ g.mode = .privileged ∧ savedOk g.saved = true ∧ g.tpc.toNat % 4 = 0 ∧ savedOk (sput g.saved 0 5) = false := by
  decide +kernel

theorem witness_trap_then_return :
    (runs.depth ≤ 4 ∧ ∀ l, l < runs.depth → False) ∧ (wLoops.region 0).depth ≤ 4 ∧
    1 ≤ ((wLoops.region 0).loopAt 0).len ∧ ((wLoops.region 0).loopAt 0).len < 1024 ∧
    1 ≤ ((wLoops.region 0).loopAt 0).count ∧ ((wLoops.region 0).loopAt 0).count < 2 ^ 48 ∧
    ((wLoops.region 0).loopAt 0).start.toNat % 4 = 0 := by
  refine ⟨⟨by decide, fun l h => absurd h (Nat.not_lt_zero l)⟩, ?_⟩
  decide +kernel

theorem witness_privileged_register : readable 0x001 = true ∧ privilegedReg 0x001 = true ∧ readOnly 0x001 = false := by
  decide +kernel

/-- Core 1's context 0 is switched out; a read of core 1 by a launch of core 0 alone. -/
def wSwitched : State := (user []).setCore 1 { Core.reset with ctxs := [(0, { Ctx.reset with slot := .vacant })] }

theorem witness_flag_words :
    let s : State := { State.reset with regions := [(0, { runs with launch := some { words := [BitVec.ofNat 64 (2 ^ 32)] } })] }
    0 ≤ (0x13F : Nat) ∧ coreOperand (user []) 0 15 = .ok 15 ∧ switchedOut (user []) 15 3 = false ∧
    flagOperand (user []) 0 0x13F = .ok () ∧ coreOperand wSwitched 0 1 = .ok 1 ∧ switchedOut wSwitched 1 0 = true ∧
    wSwitched.drains 0 = true ∧ bit (s.region 0).mask 15 = false ∧ s.drains 0 = true := by
  repeat' apply And.intro
  all_goals first | decide +kernel | exact ok_of (by decide +kernel)

theorem witness_state_registers :
    readable 0x060 = true ∧ privilegedReg 0x060 = false ∧ readOnly 0x060 = false ∧ readable 0xFFF = false ∧ readOnly 0x030 = true ∧
    writeStateReg ((super []).drain 0) 0 0x060 5 = .ok ((super []).setRegion 0
      { (super []).region 0 with tdest := 5 }) ∧
    (0x100 : Nat) % 4 = 0 ∧ (0x102 : Nat) % 4 ≠ 0 ∧ (0x3F : Nat) / 512 = 0 ∧ 0x3F / 64 % 4 = 0 ∧ (0x3F : Nat) / 256 = 0 ∧
    (0x13F : Nat) / 512 = 0 ∧ (0x13F : Nat) / 64 % 4 = 0 ∧ (0x13F : Nat) / 256 = 1 ∧
    translationValueOk (translationAlign 0x050) 0 = true ∧ translationValueOk (translationAlign 0x050) 1 = false := by
  repeat' apply And.intro
  all_goals first | decide +kernel | exact ok_of (by decide +kernel)

theorem witness_events :
    (user []).drains 0 = true ∧ wFull.drains wFull.turn = false ∧
    ((user []).region 0).events = 0 ∧
    (({ State.reset with regions := [(0, { runs with events := 4 })] } : State).region 0).events ≠ 0 := by decide +kernel

/-! ## Witnesses: stream, block, frame and token commands -/

/-- A block of one word, loaded. -/
def wBlock : Block :=
  { id := 3, storeMask := 0, prio := 1, rank := 0, dbg := 2, nout := 0, after := 0, words := [wFabWord], params := [],
    addr := 0, place := [0], ins := [0], outs := [1] }

/-- Core 0 holds the block in context 0. -/
def wCore : Core := { Core.reset with ctxs := [(0, { Ctx.reset with slot := .resident, block := some wBlock })] }

def wHost : State := (user [(1, 1), (2, 0xFFFF), (3, 0x2000000000000040)]).withCore wCore

/-- The record at bank offset 0x40 is zero; the one at 0x80 names a size of 2^7 bytes. -/
def wRecords : State := wHost.withBank (0xA0 : Nat) 8 (2 ^ 64 - 1)

theorem witness_apset :
    let d := wRecords.drain wRecords.turn
    wRecords.drains wRecords.turn = true ∧
    (d.getX 0 3).toNat % 64 = 0 ∧ recordRead d 0 0x2000000000000040 64 = .ok (List.replicate 64 0) ∧
    patOk (wordsOf 8 (List.replicate 64 0)) = true ∧
    (∃ bs, recordRead d 0 0x2000000000000080 64 = .ok bs ∧ (!patOk (wordsOf 8 bs)) = true) ∧
    (0x2000000000000041 : Nat) % 64 ≠ 0 := by
  repeat' apply And.intro
  all_goals first | decide +kernel | exact ok_of (by decide +kernel) | exact sat_of (by decide +kernel)

theorem witness_apmod :
    patMod (runs.ap 0) 9 0xFFFF = some (patPut (runs.ap 0) 4 48 16 0xFFFF) ∧
    patOk (patPut (runs.ap 0) 4 48 16 0xFFFF) = true ∧ 10 ≤ 10 := by decide +kernel

theorem witness_ports :
    let d := wHost.drain wHost.turn
    wHost.drains wHost.turn = true ∧
    maskOperand d 0 1 = .ok [0] ∧ ctxOperand d [0] 0 = .ok () ∧
    (∀ c ∈ [0], (d.ctx c 0).block ≠ none ∧ ((d.core c).portQ 15).length < 4) ∧
    sbarOperands d 1 2 = .ok ([0], range 0 16) ∧ (d.region 0).bars = [] ∧
    (∀ c ∈ [0], ∀ p ∈ range 0 16, ((d.core c).portQ p).length < 4) ∧ coreOperand d 0 15 = .ok 15 := by
  repeat' apply And.intro
  all_goals first | decide +kernel | exact ok_of (by decide +kernel)

theorem witness_sbar_wait :
    let s : State := { State.reset with regions := [(0, { runs with x := [(1, 1), (2, 1)], bars := [(0, 5)] })] }
    let d := s.drain s.turn
    s.drains s.turn = true ∧
    sbarOperands d 1 2 = .ok ([0], [0]) ∧ (d.region 0).bars ≠ [] ∧
    (∀ p ∈ (d.region 0).bars, (d.core p.1).hasBarrier p.2 = false) := by
  repeat' apply And.intro
  all_goals first | decide +kernel | exact ok_of (by decide +kernel)

/-- A block image of one word at bank offset 0x100. -/
def wImage : State := (user [(1, 1), (3, 0x2000000000000100)]).withBank 0x110 8 wFabWord

theorem witness_bload :
    let d := wImage.drain wImage.turn
    wImage.drains wImage.turn = true ∧
    maskOperand d 0 1 = .ok [0] ∧ ctxOperand d [0] 0 = .ok () ∧ (∀ c ∈ [0], (d.ctx c 0).block = none) ∧
    readImage d 0 (d.getX 0 3).toNat 0 0 = .ok [0, 0, wFabWord] ∧
    ∃ u, loadAll (blockOf (d.getX 0 3) [0, 0, wFabWord]) 0 [0] d = .ok u ∧ true = true := by
  repeat' apply And.intro
  all_goals first | decide +kernel | exact ok_of (by decide +kernel) | exact sat_of (by decide +kernel)

theorem witness_blocks :
    let d := wHost.drain wHost.turn
    wHost.drains wHost.turn = true ∧
    maskOperand d 0 1 = .ok [0] ∧ ctxOperand d [0] 0 = .ok () ∧ 0 ∈ [0] ∧ (d.ctx 0 0).block ≠ none ∧
    (∀ c ∈ [0], (d.core c).hasFrames 0 = false) ∧ d.liveFrames 0 = false := by
  repeat' apply And.intro
  all_goals first | decide +kernel | exact ok_of (by decide +kernel)

/-- A frame of context 0 in its first bank. -/
def wFrame : Frame := Frame.fresh 0 2 0 wBlock none 0 [] 0

def wLive : State := (user [(1, 1)]).withCore { wCore with frames := [(0, wFrame)] }

theorem witness_live_frames : (wLive.drain wLive.turn).liveFrames wLive.turn = true ∧
    ((wLive.drain wLive.turn).core 0).frame (((wLive.drain wLive.turn).getX 0 0).toNat % 256) ≠ none := by decide +kernel

theorem witness_fopen :
    let d := wHost.drain wHost.turn
    wHost.drains wHost.turn = true ∧
    coreOperand d 0 0 = .ok 0 ∧ ctxOperand d [0] 0 = .ok () ∧ (d.ctx 0 0).block = some wBlock ∧
    openRecord d 0 (d.getX 0 0).toNat = .ok (none, 0, []) ∧ (d.core 0).freeFrame = some 0 ∧
    (d.core 0).placeBank 0 = some (0, none) ∧ (d.ctx 0 1).block = none ∧
    (d.core 0).frame ((d.getX 0 0).toNat % 256) = none := by
  repeat' apply And.intro
  all_goals first | decide +kernel | exact ok_of (by decide +kernel)

theorem witness_fopen_full :
    let s := (user []).withCore { wCore with frames := (range 0 256).map (fun n => (n, wFrame)) }
    let d := s.drain s.turn
    s.drains s.turn = true ∧
    coreOperand d 0 0 = .ok 0 ∧ ctxOperand d [0] 0 = .ok () ∧ (d.ctx 0 0).block = some wBlock ∧
    openRecord d 0 (d.getX 0 0).toNat = .ok (none, 0, []) ∧ (d.core 0).freeFrame = none := by
  repeat' apply And.intro
  all_goals first | decide +kernel | exact ok_of (by decide +kernel)

/-- x2 holds a header with length code 1 and one valid byte; x3 points at its payload. -/
def wToken : State := user [(2, 0x100000001), (3, 0x2000000000000040)]

theorem witness_tsend :
    let d := wToken.drain wToken.turn
    let h (a b : Nat) : Nat := 2 ^ 64 * (d.getX 0 a).toNat + (d.getX 0 b).toNat
    let u (a b : Nat) : Token := { tokenOf (h a b) [] with mark := 0 }
    wToken.drains wToken.turn = true ∧
    tsendFault ((d.region 0).mode == .privileged) (u 0 0) 0 = none ∧ (u 0 0).len = 0 ∧
    bit (d.region 0).tdest.toNat 6 = false ∧ d.canSend (mailbox 0) (u 0 0).dest = true ∧
    tsendFault ((d.region 0).mode == .privileged) (u 0 2) 3 = none ∧ 64 = lenBytes (u 0 2).len ∧
    (d.getX 0 3).toNat % 16 = 0 ∧ loadBytes d 0 (d.getX 0 3).toNat 64 = .ok 0 ∧
    d.canSend (mailbox 0) (u 0 2).dest = true ∧
    tsendFault ((d.region 0).mode == .privileged) (u 0 0) 1 = some .illegal := by
  repeat' apply And.intro
  all_goals first | decide +kernel | exact ok_of (by decide +kernel)

/-- A message with no payload, and one with a byte of it. -/
def wMessages : State :=
  { State.reset with regions := [(0, { runs with
      x := [(3, 0x2000000000000040)]
      msgs := [tokenOf 0x100000001 (7 :: List.replicate 63 0), tokenOf 0 []] })] }

theorem witness_trecv :
    let d := wMessages.drain wMessages.turn
    wMessages.drains wMessages.turn = true ∧
    (d.region 0).msgs = tokenOf 0x100000001 (7 :: List.replicate 63 0) :: [tokenOf 0 []] ∧
    (tokenOf 0 []).len = 0 ∧ (tokenOf 0x100000001 []).len ≠ 0 ∧ d.getX 0 3 ≠ 0 ∧
    (tokenOf 0x100000001 []).kind = .data ∧ d.getX 0 0 = 0 ∧
    (∃ e, storePayload d 0 (d.getX 0 3).toNat [7] = .ok e ∧ true = true) ∧
    ((user []).region 0).msgs = [] := by
  repeat' apply And.intro
  all_goals first | decide +kernel | exact sat_of (by decide +kernel)

/-! ## Witnesses: tiles, rings, copies -/

/-- The request of a `talloc` of one granule with one reader. -/
def wWait : Wait :=
  { pool := 0, rank := 0, size := 1, readers := 1, aon := false, owner := 0, who := .talloc, age := 0, frame := 0 }

/-- A filling and a ready tile of context 0. -/
def wTiles : Sparse Tile :=
  [(0, { Tile.reset with state := .filling, producer := .talloc, readers := 1, size := 1 }),
   (1, { Tile.reset with state := .ready, readers := 1, size := 1, base := 1 }),
   (2, { Tile.reset with state := .draining, size := 1, base := 2 })]

def wAlloc (c : Core) : State :=
  (user [(1, 1), (2, 0x1000), (4, 2)]).withCore { c with
    pools := [(0, 64), (64, 0), (64, 0), (64, 0)], tiles := wTiles }

theorem witness_talloc_granted :
    let s := wAlloc { wCore with grants := [(2048, 5)] }
    let d := s.drain s.turn
    s.drains s.turn = true ∧
    coreOperand d 0 0 = .ok 0 ∧ tallocOperands d 2 0 0 = .ok (0, wWait) ∧
    ((d.core 0).takeGrant wWait.key).map (·.1) = some 5 := by
  repeat' apply And.intro
  all_goals first | decide +kernel | exact ok_of (by decide +kernel)

theorem witness_talloc_asks :
    let d := (wAlloc wCore).drain (wAlloc wCore).turn
    (wAlloc wCore).drains (wAlloc wCore).turn = true ∧
    coreOperand d 0 0 = .ok 0 ∧ tallocOperands d 2 0 0 = .ok (0, wWait) ∧ (d.core 0).takeGrant wWait.key = none ∧
    (d.core 0).waits.any (fun v => v.key == wWait.key) = false ∧
    (d.request 0 wWait).isSome = true ∧
    ([wWait].any (fun v => v.key == wWait.key) = true) := by
  repeat' apply And.intro
  all_goals first | decide +kernel | exact ok_of (by decide +kernel)

/-- A request that finds 64 others waits for a place. -/
theorem witness_talloc_full :
    let d := wAlloc { wCore with waits := List.replicate 64 { wWait with who := .alloc 0 0 } }
    (d.core 0).waits.any (fun v => v.key == wWait.key) = false ∧ (d.request 0 wWait).isNone = true := by decide +kernel

theorem witness_tiles :
    let d := (wAlloc wCore).drain (wAlloc wCore).turn
    (wAlloc wCore).drains (wAlloc wCore).turn = true ∧
    ctxOperand d [0] 0 = .ok () ∧ (d.getX 0 1).toNat % 128 = 1 ∧ (d.tile 0 1).owner = 0 ∧ (d.tile 0 1).state = .ready ∧
    (d.tile 0 1).readers ≠ 0 ∧ (d.tile 0 0).owner = 0 ∧ (d.tile 0 0).state = .filling ∧
    (d.tile 0 0).producer = .talloc ∧ (d.getX 0 4).toNat % 128 = 2 ∧ (d.tile 0 2).state = .draining := by
  repeat' apply And.intro
  all_goals first | decide +kernel | exact ok_of (by decide +kernel)

/-- Ring 0 holds slots 0 and 1, of which the first is taken; x1 asks for a ring of one reader. -/
def wRing : Ring := { Ring.reset with setup := true, readers := 1, size := 1, slots := 2, wp := 2, kp := 1, fp := 0,
                                      tiles := [(0, 1), (1, 0)] }

def wRings : State :=
  (user [(1, 0x40000)]).withCore { wCore with
    tiles := wTiles, pools := [(0, 64)]
    ctxs := [(0, { Ctx.reset with slot := .resident, block := some wBlock, rings := [(0, wRing)] })] }

theorem witness_rings :
    let d := wRings.drain wRings.turn
    wRings.drains wRings.turn = true ∧
    coreOperand d 0 0 = .ok 0 ∧ ctxOperand d [0] 0 = .ok () ∧ (d.ctx 0 0).ring 0 = wRing ∧
    (ringOf (d.getX 0 1).toNat).isSome = true ∧ wRing.held ≠ 0 ∧ wRing.filled ≠ 0 ∧ (d.core 0).ringFires 0 0 = false ∧
    wRing.fp ≠ wRing.kp ∧
    (d.tile 0 (wRing.tileOf wRing.fp)).state = .ready ∧
    (d.tile 0 (wRing.tileOf wRing.fp)).readers ≠ 0 ∧
    ((d.ctx 0 0).ring 15).held = 0 ∧ ((d.ctx 0 0).ring 15).filled = 0 ∧ ((d.ctx 0 0).ring 15).fp = ((d.ctx 0 0).ring 15).kp ∧
    ringFloorOk (d.core 0) 0 15 ((ringOf (d.getX 0 1).toNat).getD default) = true := by
  repeat' apply And.intro
  all_goals first | decide +kernel | exact ok_of (by decide +kernel)

/-- A copy of `n` bytes, command `op`: a record of four words. -/
def wCopyRecord (op : Nat) : List Word :=
  [BitVec.ofNat 64 (op * 2 ^ 60), 0x2000000000000000, 0x2000000000001000, 16]

/-- A record for each copy command that passes its checks. -/
theorem witness_copy_records :
    copyRecordOk (wCopyRecord 0) 0 0xFFFF = true ∧ copyRecordOk (wCopyRecord 1) 1 0xFFFF = true ∧
    copyRecordOk (wCopyRecord 2) 2 0xFFFF = true ∧ copyRecordOk (wCopyRecord 3) 3 0xFFFF = true ∧
    copyRecordOk [BitVec.ofNat 64 (4 * 2 ^ 60), 0x2000000000000000, 0x2000000000001000, 0x100000010] 4 0xFFFF = true ∧
    copyRecordOk [BitVec.ofNat 64 (5 * 2 ^ 60 + 5), 0x2000000000000000, 0, 16] 5 0xFFFF = true ∧
    copyRecordOk (wCopyRecord 0) 1 0xFFFF = false := by decide +kernel

def wCopyState : State := ((user [(3, 0x2000000000000040), (5, 0x02FF0302)]).withCore wCore).withBank 0x58 8 16

theorem witness_copy_command :
    let d := wCopyState.drain wCopyState.turn
    wCopyState.drains wCopyState.turn = true ∧
    (d.getX 0 3).toNat % 32 = 0 ∧ (0x2000000000000041 : Nat) % 32 ≠ 0 ∧
    (∃ bs, recordRead d 0 (d.getX 0 3).toNat 32 = .ok bs ∧
      (copyRecordOk (wordsOf 4 bs) 0 (d.region 0).mask && decide (bs.length = 32)) = true) ∧
    coreOperand d 0 0 = .ok 0 ∧ ctxOperand d [0] 0 = .ok () ∧ (d.ctx 0 0).block ≠ none ∧
    ((d.core 0).copyQ 0).length < 16 := by
  repeat' apply And.intro
  all_goals first | decide +kernel | exact ok_of (by decide +kernel) | exact sat_of (by decide +kernel)

/-- A copy of context 0 with id 0 in queue 0. -/
def wCopy : Copy :=
  { uid := 4, words := wCopyRecord 0, ctx := 0, seqIdx := 31, started := true, stopped := true, asked := false,
    slotTile := none, slotOff := 0, moveTile := none, pos := 0, roff := 0, src := [], dst := [], table := [], flags := 0,
    allIssued := false, cancelled := false, entry := none, waited := Waited.reset }

def wCopying (chunks : List Chunk) : State :=
  (user [(5, 0x02FF0302)]).withCore { wCore with
    copy := { CopyUnit.reset with queues := [(0, [wCopy]), (1, List.replicate 16 wCopy)], chunks := chunks } }

theorem witness_cpcancel :
    let d := (wCopying []).drain 0
    let e := (wCopying [{ (default : Chunk) with copy := 4, bytes := 8 }]).drain 0
    (wCopying []).drains 0 = true ∧
    coreOperand d 0 0 = .ok 0 ∧ (d.getX 0 0).toNat = 0 ∧ ctxOperand d [0] 0 = .ok () ∧ (d.region 0).cancelling = none ∧
    (d.core 0).findCopy 0 0 = some wCopy ∧ (d.core 0).findCopy 1 0 = none ∧
    ((d.cancelCopy 0 wCopy).core 0).copy.flying.any (fun q => q.uid == wCopy.uid) = false ∧
    ((e.cancelCopy 0 wCopy).core 0).copy.flying.any (fun q => q.uid == wCopy.uid) = true ∧
    16 ≤ ((d.core 0).copyQ 1).length := by
  repeat' apply And.intro
  all_goals first | decide +kernel | exact ok_of (by decide +kernel)

theorem witness_cpq : (((wCopying []).drain 0).getX 0 5).toNat = 2 + 2 ^ 8 * 3 + 2 ^ 16 * 255 + 2 ^ 24 * 2 := by
  decide +kernel

/-! ## Witnesses: phase counters, collectives, contexts -/

/-- A marked counter at bank offset 0x40. -/
def wCounter : State :=
  { user [(1, 0x2000000000000040), (2, 1), (3, 0x2000000000000050)] with marks := [regionKey 0 0x40] }

theorem witness_phase :
    let d := wCounter.drain wCounter.turn
    wCounter.drains wCounter.turn = true ∧
    bit ((d.getX 0 2).toNat / 2 ^ 32) 0 = false ∧ bits ((d.getX 0 2).toNat / 2 ^ 32) 18 18 = 0 ∧
    counterOperand d 0 1 0 0 false = .ok (regionKey 0 0x40) ∧ 1 ≤ (d.getX 0 2).toNat ∧ (d.getX 0 2).toNat < 2 ^ 32 ∧
    d.poisonedAt (counterKeys (regionKey 0 0x40)) = false ∧ d.marked (regionKey 0 0x40) = true ∧
    (d.counter (regionKey 0 0x40)).phase ≠ (d.getX 0 2).toNat ∧ (d.counter (regionKey 0 0x40)).phase = (d.getX 0 0).toNat ∧
    counterOperand d 0 3 0 0 false = .ok (regionKey 0 0x50) ∧ d.marked (regionKey 0 0x50) = false := by
  repeat' apply And.intro
  all_goals first | decide +kernel | exact ok_of (by decide +kernel)

/-- An all-reduce of one f32 element over the sector of four regions; the record is at bank offset 0x40. -/
def wColl : State :=
  ((user [(3, 0x2000000000000040), (6, 256)]).withBank 0x40 8 (3 * 2 ^ 54 + 2 ^ 57 + 1)).withBank 0x48 8 0x2000000000000100
    |>.withBank 0x50 8 0x2000000000000200

theorem witness_coll :
    let d := wColl.drain wColl.turn
    wColl.drains wColl.turn = true ∧
    (d.getX 0 3).toNat % 32 = 0 ∧
    (∃ bs, recordRead d 0 (d.getX 0 3).toNat 32 = .ok bs ∧ (collRecordOk d 0 (wordsOf 4 bs) &&
      decide (collCount (nth 0 (wordsOf 4 bs) 0).toNat = 1)) = true) ∧
    (∃ ks, vectorKeys d 0 0x2000000000000100 .read 8192 4 = .ok ks ∧ (!vaultHeld d ks) = true) ∧
    (∃ ks, vectorKeys d 0 0x2000000000000200 .write 8192 4 = .ok ks ∧ true = true) ∧
    ((d.region 0).colls.filter (fun k => !k.freed)).length < 4 ∧ (d.getX 0 0).toNat = 0 ∧
    (d.region 0).colls.any (fun k => !k.freed && collId k.c0 == 0) = false := by
  repeat' apply And.intro
  all_goals first | decide +kernel | exact sat_of (by decide +kernel)

/-- Four collectives under way. -/
theorem witness_coll_full :
    let k (n : Nat) : Coll := { words := [BitVec.ofNat 64 (n * 2 ^ 46)], data := [], dest := [], start := 0, paused := 0, freed := false }
    let g : Region := { runs with colls := [k 1, k 2, k 3, k 4] }
    4 ≤ (g.colls.filter (fun k => !k.freed)).length ∧ g.colls.any (fun k => !k.freed && collId k.c0 == 4) = true := by
  decide +kernel

theorem witness_context_slots :
    let d := wHost.drain wHost.turn
    wHost.drains wHost.turn = true ∧
    maskOperand d 0 1 = .ok [0] ∧ ctxOperand d [0] 0 = .ok () ∧ (∀ c ∈ [0], (d.ctx c 0).block ≠ none) ∧
    (∀ c ∈ [0], (d.ctx c 0).slot ≠ .empty ∧ (d.ctx c 0).slot ≠ .vacant) ∧
    (∃ c ∈ [0], (d.ctx c 0).slot ≠ .stopped) ∧
    (∀ c ∈ [0], ((wHost.withCore { Core.reset with ctxs := [(0, { Ctx.reset with slot := .stopped })] }).ctx c 0).slot =
      .stopped) ∧
    (∃ u, resumeAll 0 [0] d = .ok u ∧ true = true) ∧
    (∃ c ∈ [0], ((wHost.withCore { Core.reset with ctxs := [(0, { Ctx.reset with slot := .vacant })] }).ctx c 0).slot =
      .vacant) := by
  repeat' apply And.intro
  all_goals first | decide +kernel | exact ok_of (by decide +kernel) | exact sat_of (by decide +kernel)

/-- Region 0, privileged, maps 1 MiB of window 0x8 onto physical 0x100000; x1 asks for a save as cxid 7 with two pages, and
x3 points at the first page. -/
def wGlobal (c : Core) (m : List Host.Cell) : State :=
  ({ State.reset with
      regions := [(0, { runs with mode := .privileged, rtab := [(0, BitVec.ofNat 64 (2 ^ 63 + 4096))],
                                  x := [(1, 0x200000007), (3, 0x8000000000000000)] })]
      mem := m } : State).withCore c

/-- The range table's entry. -/
def wRange : List Host.Cell :=
  (State.reset.store (range 4096 32) (toBytes 32 (0xF * 2 ^ 60 + (2 ^ 20 - 1) * 2 ^ 64 + 2 ^ 20 * 2 ^ 128))).mem

theorem witness_cxsave :
    let d := (wGlobal wCore wRange).drain 0
    let v := (d.getX 0 1).toNat
    let ptr := (d.getX 0 3).toNat
    (wGlobal wCore wRange).drains 0 = true ∧
    (d.region 0).mode = .privileged ∧ coreOperand d 0 0 = .ok 0 ∧ bits v 31 16 = 0 ∧ bits v 63 48 = 0 ∧
    2 ≤ bits v 47 32 ∧ bits v 47 32 ≤ 256 ∧ ptr / 2 ^ 60 = 8 ∧ ptr % 4096 = 0 ∧ sfind (d.core 0).saves 0 = none ∧
    (d.ctx 0 0).slot = .resident ∧ (d.core 0).freeEntry = some 0 ∧ (d.region 0).launch = some placedLaunch := by
  repeat' apply And.intro
  all_goals first | decide +kernel | exact ok_of (by decide +kernel)

/-- The diversion entry of an image whose pages are at the start of window 0x8. -/
def wDivert : Divert :=
  { slot := 0, full := false, cxid := 0, seq := 0, image := 0x8000000000000000, proof := 0x8000000000004000, size := 1,
    used := 0, since := 0, pipe := Ctx.reset, frames := [], parks := [], tiles := [], waits := [], entries := [], reqs := [],
    verdicts := [], resps := [], grants := [], faults := [], poison := [], banks := [], groups := [], dropping := false }

def wAbsent : Core :=
  { Core.reset with ctxs := [(0, { Ctx.reset with slot := .vacant })], divs := [(0, wDivert)] }

/-- A sealed image of core 0 and slot 0 with one section: a tile record. -/
def wSealed (c : Core) : State :=
  wGlobal c (((({ State.reset with mem := wRange } : State).store (range (2 ^ 20) 8) (toBytes 8 (2 ^ 63))).store
    (range (2 ^ 20 + 16) 8) (toBytes 8 4144)).store (range (2 ^ 20 + 4096) 8) (toBytes 8 (32 * 2 ^ 32 + 5))).mem

theorem witness_cxrest :
    let d := (wSealed wAbsent).drain 0
    (wSealed wAbsent).drains 0 = true ∧
    ∃ v, restoreOperands d 0 0 0 (d.getX 0 3).toNat = .ok v ∧ tilesFree (d.core 0) (imageTiles v.2.2.1) = true :=
  ⟨by decide +kernel, sat_of (by decide +kernel)⟩

theorem witness_cxrest_waits :
    let d := (wSealed { wAbsent with tiles := wTiles }).drain 0
    (wSealed { wAbsent with tiles := wTiles }).drains 0 = true ∧
    ∃ v, restoreOperands d 0 0 0 (d.getX 0 3).toNat = .ok v ∧ (!tilesFree (d.core 0) (imageTiles v.2.2.1)) = true :=
  ⟨by decide +kernel, sat_of (by decide +kernel)⟩

/-- A proof record at the start of window 0x8. -/
def wProof : State :=
  wGlobal wAbsent (((({ State.reset with mem := wRange } : State).store (range (2 ^ 20) 32)
    (toBytes 32 (2 ^ 63 + 2 ^ 64 * 0x8000000000000000 + 2 ^ 128 * 0x8000000000004000 + 2 ^ 240))))).mem

theorem witness_dvmap :
    let d := wProof.drain 0
    let ptr := (d.getX 0 3).toNat
    wProof.drains 0 = true ∧
    ptr % 32 = 0 ∧ d.div 0 0 = some wDivert ∧
    ({ wDivert with proof := 0x8000000000004020 } : Divert).proof.toNat ≠ 0x8000000000004000 ∧
    ({ wDivert with used := 1 } : Divert).used ≠ 0 ∧
    ∃ bs, recordRead d 0 ptr 32 = .ok bs ∧ (bit (itemWord bs 0) 63 && bits (itemWord bs 0) 62 61 == wDivert.slot &&
      bits (itemWord bs 0) 47 32 == wDivert.cxid && bits (itemWord bs 0) 31 0 == wDivert.seq &&
      itemWord bs 1 == wDivert.image.toNat && decide (wDivert.used ≤ bits (itemWord bs 3) 63 48) &&
      bits (itemWord bs 3) 63 48 != 0 && itemWord bs 2 == wDivert.proof.toNat && wDivert.used == 0 &&
      itemWord bs 2 / 2 ^ 60 == 8 && itemWord bs 2 % 32 == 0) = true := by
  repeat' apply And.intro
  all_goals first | decide +kernel | exact sat_of (by decide +kernel)

theorem witness_dvclr :
    let d := wProof.drain 0
    wProof.drains 0 = true ∧
    d.div 0 1 = none ∧ d.div 0 0 = some wDivert ∧ imageHeld d 0 wDivert.image.toNat 8 = false ∧
    resolve d (.control 0) wDivert.image.toNat 8 .write = .ok (range (2 ^ 20) 8) ∧
    ((startClear d 0 0 wDivert).core 0).workOf 0 = false := by
  repeat' apply And.intro
  all_goals first | decide +kernel | exact ok_of (by decide +kernel)

theorem witness_debug :
    let d := wHost.drain wHost.turn
    wHost.drains wHost.turn = true ∧
    (d.getX 0 2).toNat < 2 ^ 16 ∧ (d.region 0).rstack.length < 16 ∧ 1 < ({ runs with rstack := [0, 5] } : Region).rstack.length ∧
    (∀ q ∈ [0], (d.ctx q 0).block ≠ none) ∧ (∀ q ∈ [0], (d.ctx q 0).stackNow.length < 16) ∧
    (∀ q ∈ [0], 1 < ((wHost.withCore { Core.reset with ctxs := [(0, { Ctx.reset with rstack := [0, 5] })] }).ctx q 0).stackNow.length) ∧
    (d.getX 0 2).toNat < 2 ^ 32 ∧ bits (d.getX 0 0).toNat 30 0 = 0 ∧ coreOperand d 0 0 = .ok 0 := by
  repeat' apply And.intro
  all_goals first | decide +kernel | exact ok_of (by decide +kernel)

/-! ## Witnesses: the digit fabric -/

/-- A fabric word with its width from the tag and no fallback. -/
def fword (kind sub accept imm pred : Nat) : Nat :=
  kind * 2 ^ 60 + sub * 2 ^ 54 + 3 * 2 ^ 52 + accept * 2 ^ 41 + 31 * 2 ^ 18 + pred * 2 ^ 12 + imm

/-- A train that is at its port. -/
def at0 (k : TokenKind) (fmt : Nat) (lanes : List Lane) : Timed :=
  { due := 0, inst := 0, src := 0, lf := [], train := { kind := k, fmt := fmt, lanes := lanes, tag := 0 } }

/-- A train of sixteen equal i32 lanes. -/
def ints (v : Int) : Timed := at0 .data 0 (List.replicate 16 (.int v v))

/-- A train of thirty-two equal i32 lanes: a full one. -/
def full (v : Int) : Timed := at0 .data 0 (List.replicate 32 (.int v v))

/-- A block of one word. -/
def blk (w : Nat) : Block := { wBlock with words := [w], params := List.replicate 8 0 }

/-- Core 0 with one word in context 0 and trains at its ports. -/
def coreWith (w : Nat) (qs : Sparse (List Timed)) (es : Sparse Elem) : Core :=
  { Core.reset with ctxs := [(0, { Ctx.reset with slot := .resident, block := some (blk w), queues := qs, elems := es })] }

def fab (w : Nat) (qs : Sparse (List Timed)) (es : Sparse Elem) : State := State.reset.withCore (coreWith w qs es)

def wNeg : Nat := fword 0 2 1 0 0

/-- `neg` with a data train. -/
theorem witness_compute_data :
    Fires (fab wNeg [(0, [ints 5])] []) (fab wNeg [(0, [ints 5])] []) (fwordOf wNeg) 0 0 0 (blk wNeg) [(0, ints 5)] ∧
    (∀ h ∈ [(0, ints 5)], h.2.train.kind ≠ .eos) ∧ (∃ h ∈ [(0, ints 5)], governs (fwordOf wNeg) h.1 = none) ∧
    firingKind [(0, ints 5)] = .data ∧ headAt [(0, ints 5)] 0 = some (ints 5) ∧ (ints 5).lf = [] ∧
    cancellable (blk wNeg) 0 = false ∧
    (addSub 2 { w := fwordOf wNeg, b := blk wNeg, fmt := 0, a := some (ints 5).train, pb := none, c := none, p := none,
                st := (fab wNeg [(0, [ints 5])] []).lfsr 0 0 0 }).err = none := by
  unfold Fires
  repeat' apply And.intro
  all_goals decide +kernel

/-- `neg` with a null train, and with EOS. -/
theorem witness_compute_kinds :
    Fires (fab wNeg [(0, [at0 .null 0 []])] []) (fab wNeg [(0, [at0 .null 0 []])] []) (fwordOf wNeg) 0 0 0 (blk wNeg) [(0, at0 .null 0 [])] ∧
    firingKind [(0, at0 .null 0 [])] ≠ .data ∧
    Fires (fab wNeg [(0, [at0 .eos 0 []])] []) (fab wNeg [(0, [at0 .eos 0 []])] []) (fwordOf wNeg) 0 0 0 (blk wNeg) [(0, at0 .eos 0 [])] ∧
    (∀ h ∈ [(0, at0 .eos 0 [])], h.2.train.kind = .eos) := by
  unfold Fires
  repeat' apply And.intro
  all_goals decide +kernel

def wCvt : Nat := fword 4 0 1 0x12 0

/-- `cvt` of i32 with its own pattern kept, to bf16: a fault. -/
theorem witness_compute_fault :
    Fires (fab wCvt [(0, [ints 5])] []) (fab wCvt [(0, [ints 5])] []) (fwordOf wCvt) 0 0 0 (blk wCvt) [(0, ints 5)] ∧
    (∃ h ∈ [(0, ints 5)], governs (fwordOf wCvt) h.1 = none) ∧ firingKind [(0, ints 5)] = .data ∧
    cancellable (blk wCvt) 0 = false ∧
    (cvt { w := fwordOf wCvt, b := blk wCvt, fmt := 0, a := some (ints 5).train, pb := none, c := none, p := none,
           st := (fab wCvt [(0, [ints 5])] []).lfsr 0 0 0 }).err = some .formatUnaccepted := by
  unfold Fires
  repeat' apply And.intro
  all_goals decide +kernel

theorem witness_integer_lanes :
    let x : FArg := { w := fwordOf wNeg, b := blk wNeg, fmt := 0, a := some (ints 5).train, pb := some (ints (-7)).train,
                      c := some (ints 2).train, p := none, st := 0 }
    isInt x.fmt = true ∧ x.p = none ∧ 15 < lanesOf x.fmt ∧ laneAt x.a 15 = some (.int 5 5) ∧
    laneAt x.pb 15 = some (.int (-7) (-7)) ∧ laneAt x.c 15 = some (.int 2 2) ∧ 15 < lanesOf (intTag (laneBits x.fmt)) ∧
    x.w.uns = false ∧ (fwordOf (fword 2 0 1 512 0)).uns = true := by
  decide +kernel

theorem witness_unaccepted :
    let s := fab wNeg [] []
    (fwordOf (fword 8 1 1 0 0)).isMem = true ∧ (fwordOf wNeg).f.lsid = 31 ∧
    (fwordOf (wNeg - 31 * 2 ^ 18)).isMem = false ∧ (fwordOf (wNeg - 31 * 2 ^ 18)).f.lsid ≠ 31 ∧
    (at0 .data 1 []).src ≠ returnedMark ∧ (s.ctx 0 0).trapBit fSteered = none := by decide +kernel

def wRoute : Nat := fword 6 1 1 0 3

/-- `route` with a true decision; EOS on every port; `filt` with all lanes kept and with none. -/
theorem witness_steer :
    Fires (fab wRoute [(0, [ints 5]), (3, [ints 1])] []) (fab wRoute [(0, [ints 5]), (3, [ints 1])] []) (fwordOf wRoute) 0 0 0 (blk wRoute) [(0, ints 5), (3, ints 1)] ∧
    (∃ h ∈ [(0, ints 5), (3, ints 1)], h.2.train.kind ≠ .eos) ∧ (trainAt [(0, ints 5), (3, ints 1)] 3).kind = .data ∧
    (trainAt [(0, ints 5), (3, ints 1)] 0).kind = .data ∧ decision (ints 1).train = true ∧
    decision (ints 0).train = false ∧ (∀ h ∈ [(0, at0 .eos 0 [])], h.2.train.kind = .eos) ∧ TokenKind.null ≠ .data ∧
    firingKind [(0, ints 5), (3, ints 1)] = .data ∧ firingKind [(0, ints 5), (3, ints 0)] = .data ∧
    (let n (p : Timed) : Nat := ((range 0 (lanesOf 0)).filter (fun j => (full 5).train.lane j != .absent &&
      (intOf (govLane p.train (laneBits 0) j)).1 != 0)).length;
      lanesOf 0 ≤ n (full 1) ∧ n (full 0) < lanesOf 0) ∧ 5 < lanesOf (ints 5).train.fmt ∧
    govLane (ints 1).train (laneBits 0) 5 ≠ .absent ∧ (ints 5).train.lane 5 ≠ .absent ∧ (at0 .data 0 []).train.lane 5 = .absent := by
  unfold Fires
  repeat' apply And.intro
  all_goals decide +kernel

def wSum : Nat := fword 7 0 1 0 0

/-- `sum`: its first train, and EOS after a train. -/
theorem witness_reduction :
    Fires (fab wSum [(0, [ints 5])] []) (fab wSum [(0, [ints 5])] []) (fwordOf wSum) 0 0 0 (blk wSum) [(0, ints 5)] ∧
    (((fab wSum [(0, [ints 5])] []).ctx 0 0).elem 0).poisoned = false ∧
    (∃ h ∈ [(0, ints 5)], h.2.train.kind ≠ .eos) ∧ (ints 5).train.kind = .data ∧ (∃ l ∈ (ints 5).train.lanes, l ≠ .absent) ∧
    (((fab wSum [(0, [ints 5])] []).ctx 0 0).elem 0).started = false ∧
    Fires (fab wSum [(0, [at0 .eos 0 []])] [(0, { Elem.reset with started := true })]) (fab wSum [(0, [at0 .eos 0 []])] [(0, { Elem.reset with started := true })]) (fwordOf wSum) 0 0 0 (blk wSum)
      [(0, at0 .eos 0 [])] ∧ bit (fwordOf wSum).imm 8 = false ∧
    (let m : Elem := { Elem.reset with started := true }; m.limit = (ints 5).train.fmt ∧ m.poisoned = false) ∧
    (∀ l ∈ (at0 .data 0 [.absent]).train.lanes, l = .absent) ∧ (at0 .null 0 []).train.kind = .null ∧
    (at0 .poison 0 []).train.kind = .poison ∧ ({ Elem.reset with poisoned := true } : Elem).poisoned = true ∧
    ([Lane.int 5 5][0]? = some (.int 5 5) ∧ [Lane.absent][0]? = some .absent) := by
  unfold Fires
  repeat' apply And.intro
  all_goals decide +kernel

/-- A run of `keyred` goes on, and ends at another key; two lanes of one key fill no train. -/
theorem witness_keyred :
    let m : Elem := { Elem.reset with runVal := some (.int 5 5), runKey := some (.int 1 1) }
    let r := (range 0 (lanesOf 0)).foldl (fun r j => if (ints 5).train.lane j = .absent ∨
      readLane 0 (fwordOf wSum).uns ((ints 1).train.lane j) = .absent then r else runStep 0 0 r
        (redLane (fwordOf wSum) 0 0 ((ints 5).train.lane j)) (readLane 0 (fwordOf wSum).uns ((ints 1).train.lane j))) (m, 0)
    m.runVal = some (.int 5 5) ∧ m.runKey = some (.int 1 1) ∧ (intOf (.int 1 1)).1 = (intOf (.int 1 1)).1 ∧
    (intOf (.int 1 1)).1 ≠ (intOf (.int 2 2)).1 ∧ firingKind [(0, ints 5), (1, ints 1)] = .data ∧
    r.1.acc.length < lanesOf 0 ∧ r.1.poisoned = false := by decide +kernel

/-- `recur` whose output is its own recurrence train. -/
def wRecur : Nat := fword 7 4 1 0 0 + 0x83 * 2 ^ 32

def wScan : Nat := fword 7 3 1 0 0

theorem witness_recurrence (w : Nat) (a : Timed) (h : (w = wScan ∨ w = wRecur) ∧ (a = ints 5 ∨ a = at0 .eos 0 [])) :
    let s := fab w [(0, [a])] []
    let k := s.ctx 0 0
    s.cur = { core := 0, ctx := 0, idx := 0 } ∧ k.block = some (blk w) ∧ k.slot = .resident ∧ k.steer = none ∧
    0 < (blk w).count ∧ (blk w).isFallback 0 = false ∧ (drainRecur s 0 0 0).freshElem 0 0 0 = s ∧ k.head 0 0 = some a ∧
    k.fixOf 0 a.inst = none ∧ (k.elem 0).ended = false ∧ badPort (fwordOf w) (firingTag (fwordOf w) [(0, a)]) [(0, a)] = none ∧
    (k.elem 0).count < bits (fwordOf w).f.imm 7 5 + 1 := by
  rcases h with ⟨rfl | rfl, rfl | rfl⟩ <;> decide +kernel

/-- The recurrence port is fed in the one block and not in the other; from the second train on it has its train. -/
theorem witness_recurrence_fed :
    (blk wScan).fed 0 3 = false ∧ (blk wRecur).fed 0 3 = true ∧
    (let s := fab wRecur [(0, [ints 5]), (3, [ints 6])] [(0, { Elem.reset with count := 1 })]
      let t := s.modCtx 0 0 (fun k => { k with insts := [{ (default : Inst) with id := 0 }] })
      bits (fwordOf wRecur).f.imm 7 5 + 1 ≤ ((t.ctx 0 0).elem 0).count ∧ (t.ctx 0 0).head 0 3 = some (ints 6) ∧
      badPort (fwordOf wRecur) (firingTag (fwordOf wRecur) [(0, ints 5)]) [(0, ints 5), (3, ints 6)] = none ∧
      (drainRecur t 0 0 0).freshElem 0 0 0 = t) := by decide +kernel

/-- A recurrence: its trains at position 0 and at position 1, a lane of q there and not, a poison and a null train. -/
theorem witness_recurrence_sends :
    let s := fab wRecur [(0, [ints 5]), (3, [ints 6])] []
    let m := (s.ctx 0 0).elem 0
    headAt [(0, ints 5)] 0 = some (ints 5) ∧ firingTag (fwordOf wRecur) [(0, ints 5)] = 0 ∧
    recurTrain (fwordOf wRecur) (blk wRecur) 0 m.count 0 none = some (fullTrain 0 (initialLane (fwordOf wRecur) (blk wRecur) 0)) ∧
    recurTrain (fwordOf wRecur) (blk wRecur) 0 1 0 (some (ints 6)) = some (ints 6).train ∧
    ((ints 5).train.kind == .poison || m.poisoned || (some (ints 6).train).any (fun t => t.kind == .poison)) = false ∧
    ((at0 .poison 0 []).train.kind == .poison) = true ∧ (at0 .null 0 []).train.kind = .null ∧ (ints 5).train.kind = .data ∧
    (ints 6).train.lane 3 ≠ .absent ∧ (at0 .data 0 []).train.lane 3 = .absent ∧ 3 < lanesOf 0 ∧ lanesOf 0 = 31 + 1 ∧
    (ints 5).train.lane 0 ≠ .absent := by decide +kernel

/-- An element of another instance is at rest for the train's. -/
theorem witness_fresh_element :
    let s := fab wNeg [(0, [{ ints 5 with inst := 1 }])] [(0, { Elem.reset with count := 3 })]
    (s.ctx 0 0).head 0 0 = some { ints 5 with inst := 1 } ∧ ((s.ctx 0 0).elem 0).inst ≠ 1 ∧
    ((s.freshElem 0 0 0).ctx 0 0).elem 0 = { Elem.reset with inst := 1 } ∧ ((State.reset.ctx 0 0).head 0 0).isNone = true := by
  decide +kernel

def wPush : Nat := fword 10 0 1 2 0

theorem witness_tag :
    Fires (fab wPush [(0, [ints 5])] []) (fab wPush [(0, [ints 5])] []) (fwordOf wPush) 0 0 0 (blk wPush) [(0, ints 5)] ∧
    tagEffect (fwordOf wPush) (blk wPush) 2 0x0500000000000003 = .ok 0x0500000000000300 ∧
    tagEffect (fwordOf wPush) (blk wPush) 1 0x0500000000000003 = .error .tagDepth ∧
    bits (fwordOf wPush).imm 2 0 ≤ 2 ∧ (1 : Nat) ≤ bits (fwordOf wPush).imm 2 0 ∧
    (range 0 7).all (fun j => decide (j + 1 < 2) || tagField 0x0500000000000003 j == 0 || j == 0) = true := by
  unfold Fires
  repeat' apply And.intro
  all_goals first | decide +kernel | exact ok_of (by decide +kernel) | exact err_of (by decide +kernel)

def wSeq : Nat := fword 10 6 1 0 0

/-- The core's own attach point has sixteen undelivered packets to itself. -/
def wQueue : State := { State.reset with undelivered := [(pairKey 0 0, 16)] }

/-- `seq` to slot 32 on integers, with its packet free to go and not; `inc` of field 3 in a frame of depth 4; a decision of eos; a count
that is and is not reached; an instance whose frame register is read. -/
theorem witness_seq :
    let b := blk wSeq
    let p : Block := { b with params := [4] }
    let s := State.reset.modCtx 0 0 (fun k => { k with insts := [{ (default : Inst) with id := 0 }] })
    (wQueue.seqMay 0 (seqToken (fwordOf wSeq) { b with params := [32] } 0 0 0 (ints 5).train) = false) ∧
    decision (ints 1).train = true ∧ decision (ints 0).train = false ∧
    bits (p.param 0) 31 0 ≤ 3 + 1 ∧ 0 + 1 < bits (p.param 0) 31 0 ∧
    ((s.ctx 0 0).inst (instOf [(0, ints 5)])).isSome = true ∧ (∀ h ∈ [(0, at0 .eos 0 [])], h.2.train.kind = .eos) ∧
    (8 ≤ bits ((blk wSeq).param (bits (fwordOf wSeq).imm 7 0)) 13 10 ∨ isInt (ints 5).train.fmt = true) ∧
    bits ((blk wSeq).param (bits (fwordOf wSeq).imm 7 0)) 13 10 < 8 ∧ isInt (at0 .data 1 []).train.fmt = false ∧
    State.reset.seqMay 0 (seqToken (fwordOf wSeq) (blk wSeq) 0 0 0 (ints 5).train) = true ∧
    (fwordOf (fword 10 2 1 3 0)).sub = 2 ∧ bits (fwordOf (fword 10 2 1 3 0)).imm 2 0 < 4 ∧ (3 : Nat) < 7 := by
  decide +kernel

/-- A context's element with a memory word, the port's stream active. -/
def memAt (w : Nat) (qs : Sparse (List Timed)) (m : Elem) (p : List Word) : State :=
  State.reset.withCore { coreWith w qs [(0, m)] with
    ports := [(0, [{ newEntry 0 p 0 with active := true }])], tiles := wTiles }

def memElem (w : Nat) : MemElem := { w := fwordOf w, c := 0, x := 0, i := 0, b := blk w }

def wLd : Nat := fword 8 0 1 0 0

/-- A read pattern of 64-byte trains of i32, and one of a table of four-byte elements. -/
def wPattern : List Word := [0x2000000000000000, 3, 0, 0, BitVec.ofNat 64 (6 * 2 ^ 45), 0, 0, 0]

def wTable : List Word := [0x2000000000000000, 15, 0, 0, BitVec.ofNat 64 (2 * 2 ^ 45), 0, 0, 0]

theorem witness_ld :
    let s := memAt wLd [] { Elem.reset with active := true } wPattern
    let e := memElem wLd
    LoadAt s s e ∧ (s.core e.c).activeEntry e.port = some { newEntry 0 wPattern 0 with active := true } ∧ e.x = 0 ∧
    patWrites wPattern = false ∧ ldFmtOk e.w wPattern = true ∧ e.after s = some s := by
  unfold LoadAt MemElemAt
  repeat' apply And.intro
  all_goals decide +kernel

def wLdt : Nat := fword 8 1 1 0 0

def wLdver : Nat := fword 8 4 1 0 0

/-- A descriptor train of tile 1. -/
def wDesc : Timed := { ints 0 with train := descTrain 0 1 }

/-- The instance that the tile words of these witnesses work for is in flight: its trains are of use. -/
def withInst (s : State) : State := s.modCtx 0 0 (fun k => { k with insts := [{ (default : Inst) with id := 0 }] })

/-- `MayRead` as a Boolean. -/
def mayRead (e : MemElem) (s : State) : Bool :=
  (e.readGate s (tileKeys e (e.elem s)).length
    (decide ((e.elem s).limit ≤ (e.elem s).pos + (tileKeys e (e.elem s)).length))).isNone

theorem mayRead_iff (e : MemElem) (s : State) : mayRead e s = true ↔ MayRead e s := Option.isNone_iff_eq_none

theorem witness_ldt (w : Nat) (h : w = wLdt ∨ w = wLdver) :
    let s := withInst (memAt w [(0, [wDesc])] Elem.reset wPattern)
    let e := memElem w
    let v := wrapInt 32 (intOf (wDesc.train.lane 0)).1
    ∃ s1, e.beginTile s wDesc.inst (descTile v) (descGranule v) = .ok s1 ∧ (decide (s.cur = { core := e.c, ctx := e.x, idx := e.i } ∧
      (s.ctx e.c e.x).block = some e.b ∧ (s.ctx e.c e.x).slot = .resident ∧ (s.ctx e.c e.x).steer = none ∧ e.i < e.b.count ∧
      e.b.isFallback e.i = false ∧ (e.elem (e.clean s)).started = false ∧ s = (e.clean s).freshElem e.c e.x e.i ∧ (e.elem s).next ≤ (s.ctx e.c e.x).adv ∧
      (e.elem s).started = false ∧ (s.ctx e.c e.x).head e.i 0 = some wDesc ∧ (s.ctx e.c e.x).fixOf e.i wDesc.inst = none ∧
      wDesc.train.kind = .data ∧ portVerdict e.w (bits e.w.imm 7 5) 0 wDesc.train = .ok ∧
      e.w.accepts (bits e.w.imm 7 5) = true ∧ wDesc.train.lane 0 ≠ .absent ∧ descOk v = true) &&
      mayRead e (s1.modCtx e.c e.x (fun k => k.pop e.i 0)) &&
      (e.after (s1.modCtx e.c e.x (fun k => k.pop e.i 0))).isSome) = true := by
  rcases h with rfl | rfl <;> exact sat_of (by decide +kernel)

def wLdring : Nat := fword 8 2 1 0 0

theorem witness_ldring :
    let s := memAt wLdring [] { Elem.reset with active := true, tile := 1 } wPattern
    let e := memElem wLdring
    LoadAt s s e ∧ (e.elem s).started = false ∧ e.w.accepts (bits e.w.imm 7 5) = true ∧
    (∃ s1, e.beginTile s (e.elem s).inst (e.elem s).tile 0 = .ok s1 ∧ (mayRead e s1 && (e.after s1).isSome) = true) ∧
    (let t := memAt wLdring [] { Elem.reset with active := true, tile := 1, pos := 32, limit := 64, started := true } wPattern;
      (e.elem t).started = true ∧ MayRead e t ∧ e.after t = some t) := by
  unfold LoadAt MemElemAt MayRead
  repeat' apply And.intro
  all_goals first | decide +kernel | exact sat_of (by decide +kernel)

theorem witness_read_on (w : Nat) (h : w = wLdt ∨ w = wLdver) :
    let s := memAt w [] { Elem.reset with active := true, started := true, count := 1, tile := 1, pos := 32, limit := 64 } wPattern
    let e := memElem w
    LoadAt s s e ∧ (e.elem s).started = true ∧ MayRead e s ∧ e.after s = some s ∧ (e.elem s).count = 1 := by
  unfold LoadAt MemElemAt MayRead
  rcases h with rfl | rfl <;> (repeat' apply And.intro) <;> decide +kernel

def wLdg : Nat := fword 8 3 1 0 0

theorem witness_ldg (a : Timed) (h : a = ints 15 ∨ a = ints 16) :
    let s := memAt wLdg [(0, [a])] Elem.reset wTable
    let e := memElem wLdg
    let q : PortEntry := { newEntry 0 wTable 0 with active := true }
    MemFires s s e [(0, a)] a q ∧ a.train.kind = .data ∧ e.w.accepts (patFmt wTable) = true ∧
    laneBits (patFmt wTable) = laneBits a.train.fmt ∧ 2 ^ patSize wTable = laneBits (patFmt wTable) / 8 ∧
    (a = ints 15 → ∀ p ∈ indexLanes e.w.uns a.train, 0 ≤ p.2 ∧ p.2 < (patCount wTable 0 : Int)) ∧
    (a = ints 16 → ∃ p ∈ indexLanes e.w.uns a.train, p.2 < 0 ∨ (patCount wTable 0 : Int) ≤ p.2) := by
  unfold MemFires Fires
  rcases h with rfl | rfl <;> (repeat' apply And.intro) <;> first | decide +kernel | (intro; decide +kernel)

/-- A table of i8 elements, which the word does not take. -/
theorem witness_ldg_format :
    let p : List Word := [0x2000000000000000, 15, 0, 0, BitVec.ofNat 64 (2 ^ 42), 0, 0, 0]
    let s := memAt wLdg [(0, [ints 15])] Elem.reset p
    let e := memElem wLdg
    MemFires s s e [(0, ints 15)] (ints 15) { newEntry 0 p 0 with active := true } ∧ (ints 15).train.kind = .data ∧
    e.w.accepts (patFmt p) = false := by
  unfold MemFires Fires
  repeat' apply And.intro
  all_goals decide +kernel

def wSt : Nat := fword 9 0 1 0 0

/-- A stream of writes. -/
def wWrites : List Word := [0x2000000000000000, 31, 0, 0, BitVec.ofNat 64 (2 * 2 ^ 45 + 2 ^ 41), 0, 0, 0]

/-- Bins of four-byte counts. -/
def wBins : List Word := [0x2000000000000000, 15 * 2 ^ 16 + 3, 0, 0, BitVec.ofNat 64 (2 * 2 ^ 45), 0, 0, 0]

/-- ST words with trains at their ports and a frame with `n` stores open. -/
def wStore (sub n : Nat) (hs : List (Nat × Timed)) (p : List Word) : State :=
  let s := memAt (fword 9 sub 1 0 0) (hs.map (fun h => (h.1, [h.2]))) Elem.reset p
  s.withCore { s.core 0 with frames := [(0, { wFrame with stores := n })] }

/-- Each ST word with room for its requests and without. -/
theorem witness_stores (sub : Nat) (hs : List (Nat × Timed)) (p : List Word)
    (h : (sub = 0 ∧ hs = [(0, ints 7)] ∧ p = wWrites) ∨ ((sub = 1 ∨ sub = 2 ∨ sub = 3) ∧ hs = [(0, ints 7), (1, ints 3)] ∧
      p = wTable) ∨ (sub = 4 ∧ hs = [(0, ints 7), (1, ints 3)] ∧ p = wBins)) :
    let e := memElem (fword 9 sub 1 0 0)
    let q : PortEntry := { newEntry 0 p 0 with active := true }
    let s := wStore sub 0 hs p
    let js := storeLanes e.w (dataHeads hs)
    let n (t : State) : Nat :=
      let accs := stAccesses e.w (ints 7).train q (storeIndex e.w (dataHeads hs)) (storeItems e.w (dataHeads hs) js (t.lfsr 0 0 0)).1
      if sub ≤ 1 then lineCount (stPointers t 0 e.port e.w q accs) else accs.length
    MemFires s s e hs (ints 7) q ∧ MemFires (wStore sub 1023 hs p) (wStore sub 1023 hs p) e hs (ints 7) q ∧
    (∀ h ∈ dataHeads hs, h.2.train.kind ≠ .null) ∧ (sub = 0 → (e.elem s).busy = false ∧ patWrites p = true) ∧
    (sub ≠ 0 → (trainAt (dataHeads hs) 1).kind = .data ∧ ∀ j ∈ js, 0 ≤ storeIndex e.w (dataHeads hs) j ∧
      storeIndex e.w (dataHeads hs) j < (patCount p (if sub = 4 then 1 else 0) : Int)) ∧
    stFmtOk e.w 0 p = true ∧ (s.core 0).frame (frameOf (tagOf hs)) = some { wFrame with stores := 0 } ∧ 0 + n s ≤ 1023 ∧
    1023 < 1023 + n (wStore sub 1023 hs p) ∧
    (s.ctx 0 0).trapBit (storeItems e.w (dataHeads hs) js (s.lfsr 0 0 0)).2.1 = none := by
  unfold MemFires Fires
  rcases h with ⟨rfl, rfl, rfl⟩ | ⟨rfl | rfl | rfl, rfl, rfl⟩ | ⟨rfl, rfl, rfl⟩ <;> (repeat' apply And.intro) <;>
    first | decide +kernel | (intro; decide +kernel)

/-- An index outside the table, and the trains that make no access: EOS, a null train, a poison index. -/
theorem witness_st :
    let hs := [(0, ints 7), (1, ints 16)]
    let e := memElem (fword 9 1 1 0 0)
    let q : PortEntry := { newEntry 0 wTable 0 with active := true }
    ((wStore 1 0 hs wTable).core e.c).activeEntry e.port = some q ∧ (∀ h ∈ dataHeads hs, h.2.train.kind = .data) ∧ dataHeads hs ≠ [] ∧
    stFmtOk e.w (trainAt (dataHeads hs) 0).fmt q.pattern = true ∧ 1 ≤ e.w.sub ∧
    (trainAt (dataHeads hs) 1).kind = .data ∧
    (∃ j ∈ storeLanes e.w (dataHeads hs), storeIndex e.w (dataHeads hs) j < 0 ∨
      (patCount q.pattern (if e.w.sub = 4 then 1 else 0) : Int) ≤ storeIndex e.w (dataHeads hs) j) ∧
    (let ps := [(0, at0 .poison 0 []), (1, ints 3)];
      firingKind (dataHeads ps) = .poison ∧ (∀ h ∈ dataHeads ps, h.2.train.kind ≠ .null) ∧ (∃ h ∈ ps, h.2.train.kind ≠ .eos) ∧
      (trainAt (dataHeads ps) 1).kind ≠ .poison) ∧
    (∀ h ∈ [(0, at0 .eos 0 [])], h.2.train.kind = .eos) ∧ (∃ h ∈ dataHeads [(0, at0 .null 0 [])], h.2.train.kind = .null) ∧
    (∃ h ∈ [(0, ints 7), (1, at0 .poison 0 [])], h.2.train.kind ≠ .eos) ∧
    (∀ h ∈ dataHeads [(0, ints 7), (1, at0 .poison 0 [])], h.2.train.kind ≠ .null) ∧
    (trainAt (dataHeads [(0, ints 7), (1, at0 .poison 0 [])]) 1).kind = .poison ∧
    (trainAt (dataHeads [(0, at0 .null 0 [])]) 0).kind ≠ .data := by decide +kernel

def wAllocWord : Nat := fword 11 0 1 0 0

theorem witness_alloc :
    let s := fab wAllocWord [(0, [ints 5])] []
    let key := (allocWait (blk wAllocWord) (fwordOf wAllocWord) 0 0 (instOf [(0, ints 5)]) (ints 5).train.tag).key
    Fires s s (fwordOf wAllocWord) 0 0 0 (blk wAllocWord) [(0, ints 5)] ∧ (∃ h ∈ [(0, ints 5)], h.2.train.kind ≠ .eos) ∧
    (ints 5).train.kind = .data ∧ (s.core 0).takeGrant key = none ∧
    (({ s.core 0 with waits := [{ wWait with who := .alloc 0 0 }] } : Core).waits.any (fun v => v.key == key)) = true ∧
    (({ s.core 0 with grants := [(key, 3)] } : Core).takeGrant key).map (·.1) = some 3 ∧ (ints 5).train.lane 0 ≠ .absent ∧
    (s.core 0).waits.any (fun v => v.key == key) = false ∧ (s.core 0).waits.length < 64 ∧
    (let k : Core := { s.core 0 with waits := List.replicate 64 wWait };
      k.waits.any (fun v => v.key == key) = false ∧ 64 ≤ k.waits.length) := by
  unfold Fires
  repeat' apply And.intro
  all_goals decide +kernel

theorem witness_eos_closes : (wLive.core 0).frame 0 = some wFrame ∧ wFrame.eosCh.contains 31 = false := by decide +kernel

/-! ## Witnesses: the matrix engine -/

/-- A `acc.clr` of one column, and a `mma` of a reserved format. -/
def mxState (w ctx : Nat) : State :=
  State.reset.withCore { wCore with
    mx := { Matrix.reset with queue := [{ word := w, ctx := ctx, bad := false, entry := none }] } }

theorem witness_matrix_order :
    let s := mxState (3 * 2 ^ 60) 0
    let q : QOrder := { word := 3 * 2 ^ 60, ctx := 0, bad := false, entry := none }
    s.cur = { core := 0, ctx := 0, idx := 0 } ∧ (s.core 0).mx.headOrder 0 = some q ∧
    orderCheck s 0 q 3 (orderFields q.word) false = .go ∧
    orderCheck s 0 { q with bad := true } 3 (orderFields q.word) false = .refuse .illegal ∧
    orderCheck s 0 { q with entry := some 0 } 3 (orderFields q.word) false = .wait ∧ 0 ∈ (orderFields q.word).cols ∧
    1 ∉ (orderFields q.word).cols := by decide +kernel

theorem witness_matrix_completion :
    let r : Running := { bank := 1, opcode := 3, ctx := 0, order := orderFields (3 * 2 ^ 60), ops := [], trains := [], lfs := [], reads := [],
                         poison := false, incomplete := false, flags := 0, mpoison := none, sparse := none, entry := none }
    let s := State.reset.withCore { wCore with mx := { Matrix.reset with running := [r] } }
    findIdx (fun (q : Running) => q.bank == 1) 0 (s.core 0).mx.running = some (0, r) ∧ r.bank = 1 ∧
    landOrder 0 r s r.ops = (s, []) ∧ r.trains = [] ∧ r.mpoison = none ∧ r.sparse = none ∧ r.flags = 0 := by
  repeat' apply And.intro
  all_goals decide +kernel

/-! ## Witnesses: launches, network, firing -/

/-- A launch record of every core, at the start of the region's window. -/
def wRecord : List Word := [BitVec.ofNat 64 (0xFFFF * 2 ^ 32), 0x2000000000000000, 5, 0, 0, 0, 0, 0]

theorem witness_launch_start :
    let s : State := { State.reset with regions := [(0, { Region.reset with launches := [wRecord] })] }
    let g := s.region 0
    g.launches = wRecord :: [] ∧ g.launch = none ∧ s.die.boot = .running ∧ g.owed = [] ∧ recordBad s 0 { words := wRecord } = false ∧
    (sectorFor s 0 { words := wRecord }).isSome = true ∧ recordBad s 0 { words := List.replicate 8 0 } = true := by decide +kernel

theorem witness_launch_end :
    let s : State := { State.reset with regions := [(0, { runs with
      atLwait := true, waiting := true, held := [(Trap.word .illegal).cause] })] }
    (s.region 0).launch ≠ none ∧ (s.region 0).atLwait = true ∧ s.liveFrames 0 = false ∧ s.takes 0 = true ∧
    (s.region 0).waiting = true := by decide +kernel

/-- A token to slot 0 of core 1, and one to the mailbox of region 0. -/
def wTokCore : Token := tokenOf (2 ^ 52) []

def wTokMail : Token := tokenOf (36 * 2 ^ 46) []

def wArrived : State :=
  { State.reset with arrivals := [(1, [packetOf 0 wTokCore]), (4096, [packetOf 0 wTokMail])] }

theorem witness_delivery :
    wArrived.arrived 1 0 = some (packetOf 0 wTokCore) ∧ (acceptToken wArrived 1 wTokCore).isSome = true ∧ (9 : Nat) < 2 ^ 16 ∧
    wArrived.arrived 4096 0 = some (packetOf 0 wTokMail) ∧ (acceptMail wArrived 0 0 wTokMail).isSome = true := by
  decide +kernel

/-- An order at a core whose order queue holds eight. -/
theorem witness_delivery_refused :
    let t : Token := tokenOf (2 ^ 52 + 32 * 2 ^ 46 + 2 ^ 32 + 32) (List.replicate 64 0)
    let s : State := { State.reset with
      arrivals := [(1, [packetOf 0 t])]
      cores := [(1, { Core.reset with mx := { Matrix.reset with
        queue := List.replicate 8 { word := 0, ctx := 0, bad := false, entry := none } } })] }
    s.arrived 1 0 = some (packetOf 0 t) ∧ 1 < 4096 ∧ acceptToken s 1 t = none := by decide +kernel

/-- A reply that has come to core 0's copy unit, and one to a control core. -/
def wReply (src bytes : Nat) : Packet := (askPacket src 9 1 1 0 bytes 5).answer 0

/-- A request that has come to core 9, whose vault is not held; to vault 9, which is; a mailbox whose launch queue is full. -/
theorem witness_delivered_packets :
    let ask := askPacket 0 9 1 0 1 0 0
    let s : State := { State.reset with arrivals := [(0, [wReply 0 64]), (4096, [wReply 4096 0]), (9, [ask])] }
    let t : State := { s with die := { Die.reset with vaults := [(9, { Vault.reset with held := true })] } }
    let n : Packet := { packetOf appDie wTokMail with tok := { wTokMail with port := 3, len := 1, inl := 64, payload := List.replicate 64 0 } }
    let u : State := { State.reset with
      arrivals := [(4096, [n])]
      regions := [(0, { Region.reset with launches := List.replicate 4 [] })] }
    s.arrived 0 0 = some (wReply 0 64) ∧ (wReply 0 64).reply = true ∧ (wReply 0 64).bytes ≠ 0 ∧
    s.arrived 4096 0 = some (wReply 4096 0) ∧ (wReply 4096 0).reply = true ∧ (wReply 4096 0).bytes = 0 ∧
    s.arrived 9 0 = some ask ∧ ask.reply = false ∧ ask.ask = some 1 ∧ (s.vault ask.dst).held = false ∧ ask.dst < 4096 ∧
    t.arrived 9 0 = some ask ∧ (t.vault ask.dst).held = true ∧ u.arrived 4096 0 = some n ∧ n.reply = false ∧ n.ask = none ∧
    acceptMail u 0 n.src n.tok = none ∧ s.replyAt 0 1 64 0 = some (wReply 0 64) := by decide +kernel

theorem witness_promotion :
    let p := packetOf 0 wTokCore
    let port := p.path.headD 0
    let s : State := { State.reset with ticks := 64, queues := [(3, [p])] }
    (3, p) ∈ headsAt s port ∧ p.vc = 0 ∧ p.promoted = false ∧ p.since + 64 ≤ s.ticks.toNat ∧
    (∀ e ∈ headsAt s port, e.2.vc = p.vc → e.2.promoted = false → e.2.since + 64 ≤ s.ticks.toNat →
      e = (3, p) ∨ p.since < e.2.since) ∧
    (let u := s.setPort port { s.port port with left := [8, 4, 2, 1] };
      nextPacket u port = some p ∧ queued u = 0 + 1) ∧ readyHeads State.reset port = [] := by decide +kernel

/-- A pair that may send, and one with sixteen packets under way. -/
theorem witness_sending :
    let p := packetOf 0 wTokCore
    State.reset.canSend p.src p.dst = true ∧
    ({ State.reset with undelivered := [(pairKey p.src p.dst, 16)] } : State).canSend p.src p.dst = false := by decide +kernel

/-- A frame whose entry token has come. -/
def wStored : Stored := { tok := tokenOf 0 [], spilled := false, held := false, beat := 0 }

def wReady : State :=
  State.reset.withCore { coreWith wNeg [] [] with frames := [(0, wFrame)], store := [wStored], beat := 1 }

theorem witness_fire :
    canFire (wReady.core 0) 0 0 = true ∧ (wReady.ctx 0 0).block = some (blk wNeg) ∧
    (wReady.core 0).frame (frameOf 0) = some wFrame ∧
    (wReady.core 0).entryTokens 0 0 (blk wNeg).entries = some [wStored] := by decide +kernel

theorem witness_beat :
    let s := State.reset.withCore (coreWith wNeg [(0, [ints 1])] [])
    (0 < 4 ∧ 0 ∈ selected ({ s.core 0 with ctxs := [(0, { s.ctx 0 0 with insts := [default] })] } : Core)) ∧
    1 ∉ selected (s.core 0) ∧ (s.core 0).touched = [] ∧ ({ s.core 0 with touched := [2] } : Core).touched ≠ [] := by decide +kernel

theorem witness_fallback :
    ({ Ctx.reset with steer := some { idx := 0, port := 0, fb := 1, train := (ints 1).train, asked := false } } : Ctx).steer =
      some { idx := 0, port := 0, fb := 1, train := (ints 1).train, asked := false } := by decide

theorem witness_late_answer :
    let r : MemResp := { (default : MemResp) with ctx := 0 }
    findIdx (fun q : MemResp => q.ctx == 0) 0 ([r] : List MemResp) = some (0, r) := by decide +kernel

/-- An instance that owes nothing but its exit, which has come. -/
def wInst : Inst := { (default : Inst) with exits := [((ints 1).train, 0)] }

def wCommit : State :=
  State.reset.withCore { wCore with
    frames := [(0, { wFrame with inflight := 1 })]
    ctxs := [(0, { Ctx.reset with slot := .resident, block := some wBlock, insts := [wInst] })] }

theorem witness_commit :
    (wCommit.ctx 0 0).block = some wBlock ∧ (wCommit.ctx 0 0).insts = wInst :: [] ∧
    (wCommit.core 0).frame (frameOf wInst.tag) = some { wFrame with inflight := 1 } ∧
    (wCommit.core 0).faulted (frameOf wInst.tag) = false ∧ commits (wCommit.core 0) 0 wBlock wInst = true ∧
    actAll 0 0 (wInst.acts.foldl (fun l a => insertAct a l) []) (wInst.tiles.foldl (fun s t => s.commitTile 0 t) wCommit) =
      .ok wCommit := by
  repeat' apply And.intro
  all_goals first | decide +kernel | exact ok_of (by decide +kernel)

theorem witness_retire :
    let f : Frame := { wFrame with sinks := 0 }
    let s := State.reset.withCore { wCore with frames := [(0, f)] }
    (s.core 0).frame 0 = some f ∧ f.state = .opened ∧ f.sinks = 0 ∧ f.stores = 0 ∧ f.inflight = 0 ∧
    (s.core 0).faulted 0 = false ∧ (s.core 0).lateTokens 0 = some [] ∧
    (∀ e ∈ (s.core 0).store, frameOf e.tok.tag = 0 → e.beat = (s.core 0).beat) ∧ (∀ e ∈ (s.core 0).offends, frameOf e.tok.tag ≠ 0) ∧
    (let k : Core := { wCore with frames := [(0, f)], store := [wStored], beat := 1 };
      k.lateTokens 0 = some [] ∧ k.store.find? (fun t => frameOf t.tok.tag == 0 && t.beat != k.beat) = some wStored) ∧
    (let k : Core := { wCore with frames := [(0, f)], dropped := [wStored] }; k.lateTokens 0 = some [wStored.tok]) ∧
    (s.tile 0 0).pool < 4 := by decide +kernel

theorem witness_bank_handover :
    let f : Frame := { wFrame with bank := 4 }
    let s := State.reset.withCore { wCore with frames := [(9, f)] }
    let k := (s.core 0).freeMoved 0
    (range 0 4).find? (fun b => !k.bankUsed 0 b) = some 0 ∧ (9, f) ∈ k.frames ∧ f.ctx = 0 ∧ f.bank = 4 ∧
    (∀ g ∈ k.frames, g.2.ctx = 0 → g.2.bank = 4 → g = (9, f) ∨ f.opened < g.2.opened ∨
      (f.opened = g.2.opened ∧ 9 < g.1)) := by decide +kernel

theorem witness_bank_swap :
    let f : Frame := { wFrame with bank := 4 }
    let t : Stored := { wStored with tok := tokenOf (2 ^ 64 * 2 ^ 56) [] }
    let s := State.reset.withCore { coreWith wNeg [] [] with frames := [(0, wFrame), (1, f)], store := [t], beat := 1 }
    (s.core 0).frame 1 = some f ∧ f.bank = 4 ∧ f.rests ≤ (s.core 0).beat ∧ matched (s.core 0) f.ctx (2 ^ 56 * 1) = true ∧
    (0, wFrame) ∈ (s.core 0).frames ∧ wFrame.ctx = f.ctx ∧ wFrame.bank < 4 ∧ wFrame.inflight = 0 ∧
    wFrame.rests ≤ (s.core 0).beat ∧
    (∀ q ∈ (s.core 0).frames, q.2.ctx = f.ctx → q.2.bank < 4 → q.2.inflight = 0 → q.2.rests ≤ (s.core 0).beat →
      q = (0, wFrame) ∨ wFrame.lastFire < q.2.lastFire ∨ (wFrame.lastFire = q.2.lastFire ∧ 0 < q.1)) := by
  decide +kernel

theorem witness_spill_move :
    let p : Spill := { ctx := 0, frame := 0, inBank := false, place := 0, half := 0 }
    let k : Core := { wCore with
      spill := [(0, p)]
      mx := { Matrix.reset with queue := [{ word := 3 * 2 ^ 60, ctx := 0, bad := false, entry := none }] } }
    let s := State.reset.withCore k
    let wants := fun col => (s.core 0).mx.queue.any (fun q =>
        128 * (orderFields q.word).bank + (orderFields q.word).base ≤ col &&
          col ≤ 128 * (orderFields q.word).bank + (orderFields q.word).base + (orderFields q.word).n1)
    sfind (s.core 0).spill 0 = some p ∧ p.inBank = false ∧ wants p.place = true ∧
    (s.core 0).spillPlace p.ctx wants = some { p with place := 1 } := by decide +kernel

/-- The watch has run out: an alloc word waits, a `talloc` waits, nothing waits. -/
theorem witness_alloc_deadlock :
    65536 ≤ ({ wCore with dead := 65536 } : Core).dead ∧
    (let w : Wait := { wWait with who := .alloc 0 0 }; oldestWait [w] = some w ∧ w.who = .alloc 0 0) ∧
    oldestWait [wWait] = some wWait ∧ wWait.who = .talloc ∧
    (let k : Core := { wCore with frames := [(0, wFrame)] }; k.waits = [] ∧ (range 0 4).find? k.hasFrames = some 0 ∧
      ((k.ctx 0).inst 0) = none) ∧
    (({ Ctx.reset with insts := [{ (default : Inst) with id := 0 }] } : Ctx).inst 0).isSome = true := by decide +kernel

/-! ## Witnesses: faults, streams, copies, collectives -/

/-- A fault of frame 0 of context 0. -/
def wFault : FaultRec :=
  { fault := 5, seq := 0, core := 0, ctx := 0, instr := 0, detail := 0, tag := 0, addr := 0, rtop := 0, rsecond := 0 }

theorem witness_park :
    let s := State.reset.withCore { wCore with
      frames := [(0, wFrame)], faults := [(0, wFault)], pools := [(0, 64), (64, 0), (64, 0), (64, 0)] }
    (s.core 0).frame 0 = some wFrame ∧ reported (s.core 0).faults 0 = some wFault ∧ wFrame.state = .opened ∧
    (s.core 0).faults.any (fun g => g.1 < 0 && g.2.ctx == wFrame.ctx) = false ∧
    (parkFrame s 0 0 wFrame wFault).isSome = true := by decide +kernel

/-- hsel names context 0 of core 1, frame 0. -/
theorem witness_fault_delivery :
    let h : FaultRec := { wFault with hsel := 0x81000000 }
    let s : State := { State.reset with
      regions := [(0, { runs with records := [h], messages := [wFault] })]
      cores := [(1, { wCore with frames := [(0, wFrame)] })] }
    (s.region 0).records = h :: [] ∧ toHandler s 0 h = true ∧
    toHandler (user []) 0 wFault = false ∧ (s.region 0).messages = wFault :: [] ∧ (s.region 0).msgs.length < 16 ∧
    (s.region 0).launch ≠ none := by decide +kernel

/-- A parked frame's image. -/
def wPark : Park := { (default : Park) with before := wFrame }

/-- A verdict token for frame 0 of core 0: its action in bits 31 and 30. -/
def wVerdict (act : Nat) : Token := tokenOf (37 * 2 ^ 46 + act * 2 ^ 30) []

def wParked (act : Nat) : Core :=
  { wCore with frames := [(0, { wFrame with state := .parked, fault := some wFault })], parks := [(0, wPark)],
               verdicts := [wVerdict act] }

theorem witness_verdict :
    verdictFits 0 0 (wParked 1) (wVerdict 1) = true ∧
    (wParked 1).frame (frameOf (wVerdict 1).tag) = some { wFrame with state := .parked, fault := some wFault } ∧
    sfind (wParked 1).parks (frameOf (wVerdict 1).tag) = some wPark ∧
    declines ((wParked 0).ctx 0).block (wVerdict 0).verdict wFault.instr wPark.offend.isSome = true ∧
    declines ((wParked 1).ctx 0).block (wVerdict 1).verdict wFault.instr wPark.offend.isSome = false ∧
    bits (wVerdict 1).verdict 31 30 ≠ 2 ∧ bits (wVerdict 2).verdict 31 30 = 2 ∧
    declines ((wParked 2).ctx 0).block (wVerdict 2).verdict wFault.instr wPark.offend.isSome = false ∧
    verdictFits 0 0 wCore (wVerdict 1) = false ∧ sfind wCore.parks (frameOf (wVerdict 1).tag) = none ∧
    wPark.captured ≤ (wParked 1).beat ∧ (wParked 1).beat < ({ wPark with captured := 4 } : Park).captured := by decide +kernel

theorem witness_reentry :
    let p : Park := { wPark with resumed := true }
    let k : Core := { wCore with parks := [(0, p)] }
    k.waitingPark 0 = some (0, p) ∧ p.tokens = [] ∧ k.faulted 0 = false ∧ positionsFree (k.ctx 0) p = true ∧ p.repairTrain = none ∧
    (let q : Park := { p with repair := some wFault, repairTrain := some (ints 1).train };
      q.repair = some wFault ∧ q.repairTrain = some (ints 1).train) ∧
    ({ p with tokens := [wStored.tok] } : Park).tokens ≠ [] ∧ ({ k with faults := [(0, wFault)] } : Core).faulted 0 = true ∧
    positionsFree ({ Ctx.reset with queues := [(0, [ints 1])] } : Ctx) { p with queues := [(0, [ints 2])] } = false := by decide +kernel

theorem witness_stop :
    let k : Ctx := { Ctx.reset with slot := .resident, stopWanted := true, hit := some (0, 1, 0), block := some wBlock }
    k.stopWanted = true ∧ k.insts = [] ∧ k.slot = .resident ∧ k.hit = some (0, 1, 0) ∧ k.block = some wBlock ∧ ((user []).region (regionOf 0)).launch ≠ none := by
  decide +kernel

theorem witness_stream_start :
    let e := newEntry 0 wPattern 0
    let k : Core := { wCore with ports := [(0, [e]), (1, [{ e with barrier := some 3 }])] }
    k.portQ 0 = e :: [] ∧ e.barrier = none ∧ e.active = false ∧ k.frozen e = false ∧ k.portQ 1 = { e with barrier := some 3 } :: [] ∧
    k.barrierReady 3 = true := by decide +kernel

/-- A request of the `ld` word of a block for its active stream. -/
def wReq (k : ReqKind) (accs : List Access) : MemReq :=
  { kind := k, ctx := 0, idx := 0, inst := 0, fmt := 0, mode := 0, uns := false, accs := accs, tag := 0, due := 2, last := false,
    lines := 0, entry := none, port := some 0, got := [], flags := 0, poison := false, waited := Waited.reset }

def wReqState (w : Nat) (r : MemReq) : State :=
  let s := memAt w [] { Elem.reset with active := true } wTable
  s.withCore { s.core 0 with reqs := [r] }

def wTableAll : List Word := [0x2000000000000000, 15, 0, 0, BitVec.ofNat 64 (0xFFFF * 2 ^ 48 + 2 * 2 ^ 45), 0, 0, 0]

/-- The table's stream on port 0, and requests of the element of `w`. -/
def wStream (w : Nat) (rs : List MemReq) : State :=
  let s := memAt w [] { Elem.reset with active := true } wTable
  s.withCore { s.core 0 with reqs := rs, ports := [(0, [{ newEntry 0 wTableAll 0 with active := true }])] }

/-- A word of four bytes to be written. -/
def wItem : Access := { addr := 0, size := 4, value := 9, poison := false, lane := 0, item := .absent }

/-- A read whose train wants more bytes, a write of the first of two words, and a read ahead of a first beat. -/
theorem witness_stream_access :
    let e : PortEntry := { newEntry 0 wTableAll 0 with active := true }
    let s := wStream wLd [wReq .read []]
    let t := wStream wSt [wReq .write [wItem, wItem]]
    let ks := range (regionKey 0 0) 4
    (s.core 0).activeEntry 0 = some e ∧ (s.core 0).portReq 0 = some (0, wReq .read []) ∧ isStreamReq s 0 (wReq .read []) = true ∧
    (s.core 0).faulted (frameOf 0) = false ∧ (wReq .read []).kind = .read ∧ e.buf.length < streamBytes (patFmt e.pattern) ∧
    e.pos < patTotal e.pattern ∧
    tryAccess s 0 0 (patAddr e.pattern e.addend e.pos).toNat 4 .read (patObject e.pattern) e.waited = .ok ks ∧
    4 < streamBytes (patFmt e.pattern) ∧ 1 < patTotal e.pattern ∧
    (t.core 0).portReq 0 = some (0, wReq .write [wItem, wItem]) ∧ isStreamReq t 0 (wReq .write [wItem, wItem]) = true ∧
    (wReq .write [wItem, wItem]).accs = wItem :: [wItem] ∧ [wItem] ≠ [] ∧
    tryAccess t 0 0 (patAddr e.pattern e.addend e.pos).toNat 4 .write (patObject e.pattern) e.waited = .ok ks ∧
    ((wStream wLd []).core 0).portReq 0 = none ∧ e.barrier = none ∧
    ((wStream wLd []).core 0).frozen e = false ∧ (((wStream wLd []).core 0).ctx e.ctx).readsAhead 0 = true ∧ patWrites e.pattern = false ∧ e.firstReady = false ∧
    tryAccess (wStream wLd []) 0 0 (patAddr e.pattern e.addend e.pos).toNat (2 ^ patSize e.pattern) .read (patObject e.pattern)
      e.waited = .ok ks := by
  repeat' apply And.intro
  all_goals first | decide +kernel | exact ok_of (by decide +kernel)

/-- One read of four bytes at the start of the region bank. -/
def wAccess : Access := { addr := 0x2000000000000000, size := 4, value := 0, poison := false, lane := 0, item := .absent }

theorem witness_memory_request :
    let s0 := wReqState wLdg (wReq .read [wAccess])
    let q : PortEntry := { newEntry 0 wTableAll 0 with active := true }
    let s := s0.withCore { s0.core 0 with ports := [(0, [q])] }
    (s.core 0).reqs[0]? = some (wReq .read [wAccess]) ∧ isStreamReq s 0 (wReq .read [wAccess]) = false ∧
    (s.core 0).faulted (frameOf 0) = false ∧
    ((s.core 0).reqs.take 0).any (fun q => q.ctx == 0 && q.idx == 0) = false ∧ (s.core 0).activeEntry 0 = some q ∧ wAccess.size ≠ 0 ∧
    tryAccess s 0 0 wAccess.addr.toNat wAccess.bytes (wAccess.want .read) (patObject q.pattern) Waited.reset =
      .ok (range (regionKey 0 0) 4) ∧ (wReq .read []).accs = [] ∧ wAccess.want .read ≠ .atomic ∧ wAccess.want .add = .atomic ∧
    atomicGoes s none (range (regionKey 0 0) 4) = true ∧
    atomicGoes (s.setCore 1 { Core.reset with reqs := [{ wReq .add [wAccess] with heldAt := some (0, 0) }] }) none (range 64 4) = false := by
  repeat' apply And.intro
  all_goals first | decide +kernel | exact ok_of (by decide +kernel)

/-- A chunk that is not its copy's last, and one that is; one whose reads are still to make. -/
def wChunk : Chunk := { (default : Chunk) with copy := 4, bytes := 64, fetched := true }

theorem witness_chunk :
    let s := wCopying [wChunk, wChunk]
    let u := (s.core 0).copy
    u.chunks[0]? = some wChunk ∧ u.find wChunk.copy = some wCopy ∧ wChunk.fetched = true ∧ mustFollow u.chunks 0 wChunk = false ∧
    wChunk.vaultHeld s = false ∧ atomicGoes s wChunk.heldAt wChunk.updateKeys = true ∧ wChunk.held = false ∧
    (wCopy.landCheck s 0 wChunk == .ok) = true ∧ wCopy.landOps 0 s (wCopy.joinLines s 0 wChunk.ops) = (s, [], 0) ∧
    ({ wCopy with flags := 0 }.arrivals 0 { wChunk with heldAt := none }
      (s.modCopy 0 (fun v => v.modify wCopy.uid (fun d => { d with flags := d.flags ||| 0 }))) wChunk.targets).2 = ([], []) ∧
    (dropNth u.chunks 0).any (fun e => e.copy == wCopy.uid) = true ∧
    (let q := { wCopy with allIssued := true };
      (dropNth [wChunk] 0).any (fun e => e.copy == q.uid) = false ∧ q.allIssued = true ∧ q.cancelled = false ∧ q.entry = none) ∧
    ({ wChunk with fetched := false } : Chunk).fetched = false ∧ wCopy.readsWait s 0 { wChunk with fetched := false } = false ∧
    wCopy.readsWait { s with die := heldDie } 0 { wChunk with srcs := [[5]] } = true ∧
    ({ wChunk with ops := [.write [5] [1] [false]] } : Chunk).vaultHeld { s with die := heldDie } = true ∧
    mustFollow [{ wChunk with ops := [.write [5] [1] [false]] }, wChunk] 1 { wChunk with ops := [.write [5] [1] [false]] } = true := by
  decide +kernel

/-- A multicast's chunk whose tile is the target's no more; an arrival at a marked counter in a tile of the context; a ring that is
granted a slot. -/
theorem witness_chunk_ends :
    let h : Chunk := { wChunk with ops := [.write [spadKey 0 0] [1] [false]], lostAt := [0] }
    let s := wCopying []
    let k : Core := { wCore with tiles := [(1, { Tile.reset with state := .ready, base := 0, size := 1 })] }
    let t : State := { State.reset.withCore k with marks := [spadKey 0 0] }
    let q : Copy := { wCopy with words := [BitVec.ofNat 64 (2 ^ 42)] }
    let r : Copy := { wCopy with words := [BitVec.ofNat 64 (2 ^ 47)], asked := true }
    let w := slotWait ((s.ctx 0 0).ring 0) 0 0 0
    (wCopy.landCheck s 0 h == .fault .translation 0 0) = true ∧ wCopy.signal = none ∧ q.signal = some (0, 0) ∧
    walkHeld t (.context 0 0) 0 16 = false ∧ resolve t (.context 0 0) 0 16 .atomic = .ok (range (spadKey 0 0) 16) ∧
    tileCheck (t.core 0) 0 0 16 true = .ok ∧ vaultHeld t (range (spadKey 0 0) 16) = false ∧
    t.poisonedAt (range (spadKey 0 0) 16) = false ∧ t.marked (spadKey 0 0) = true ∧ r.ring = some 0 ∧ r.started = true ∧
    r.slotTile = none ∧ r.asked = true ∧ (({ wCore with grants := [(w.key, 3)] } : Core).takeGrant w.key).isSome = true := by
  repeat' apply And.intro
  all_goals first | decide +kernel | exact ok_of (by decide +kernel)

/-- Replies of 64 bytes: within a window's data, at a halving, and at a growth; the chunk's last and another; the heads that a
round finds, and one that starts. -/
theorem witness_copy_reply :
    let u : CopyUnit := { CopyUnit.reset with outstanding := [128, 0, 0, 0], owing := [(5, 0, 64, 1), (6, 0, 64, 2)] }
    let s := wCopying []
    let q := { wCopy with started := false, stopped := false }
    let t := s.withCore { wCore with copy := { CopyUnit.reset with queues := [(0, [{ q with started := true }])] } }
    sfind u.owing 5 = some (0, 64, 1) ∧ sfind u.owing 6 = some (0, 64, 2) ∧ (∀ h ∈ u.chunks, h.id ≠ 5) ∧
    nth 0 u.windows 0 ≤ nth 0 u.sinceHalf 0 + 64 ∧ nth 0 u.sinceMark 0 + 64 < nth 0 u.windows 0 ∧
    nth 0 ({ u with sinceHalf := [0, 0, 0, 0] } : CopyUnit).sinceHalf 0 + 64 < nth 0 u.windows 0 ∧
    nth 0 u.windows 0 ≤ nth 0 ({ u with sinceMark := [32704, 0, 0, 0] } : CopyUnit).sinceMark 0 + 64 ∧
    (((s.startHeads 0 2 17).seekSlot 0 2).core 0).copyQ 2 = [] ∧
    (((s.startHeads 0 0 17).seekSlot 0 0).core 0).copyQ 0 = wCopy :: [] ∧
    headWaits ((s.startHeads 0 0 17).seekSlot 0 0) 0 0 wCopy = true ∧
    (((t.startHeads 0 0 17).seekSlot 0 0).core 0).copyQ 0 = { q with started := true } :: [] ∧
    headWaits ((t.startHeads 0 0 17).seekSlot 0 0) 0 0 { q with started := true } = false ∧ q.ring = none ∧
    q.start s 0 = .go s { q with started := true } := by
  repeat' apply And.intro
  all_goals first | decide +kernel | rfl

theorem witness_phase_completion : wCounter.marked (regionKey 0 0x40) = true ∧
    vaultHeld wCounter (counterKeys (regionKey 0 0x40)) = false ∧ State.reset.marked 0 = false := by decide +kernel

/-- The four regions of a sector have the same collective under way. -/
def wPart : Coll :=
  { words := [BitVec.ofNat 64 (3 * 2 ^ 54 + 2 ^ 57 + 1), 0, 0, 0], data := [some 0], dest := [], start := 0, paused := 0,
    freed := false }

theorem witness_collective :
    let g : Region := { runs with colls := [wPart] }
    let s : State := { State.reset with regions := [(0, g), (1, g), (2, g), (3, g)] }
    let rs := scopeRegions (collScope wPart.c0) 0
    let all := rs.filterMap (fun q => (s.collOf q 0).map (fun c => (q, c)))
    s.collOf 0 0 = some wPart ∧ collScope wPart.c0 ≠ 7 ∧ collOp wPart.c0 = 0 ∧ all.length = rs.length ∧
    (∀ p ∈ all, collScope p.2.c0 = collScope wPart.c0 ∧ nth 0 p.2.words 3 = nth 0 wPart.words 3 ∧
      collKey p.2.c0 = collKey wPart.c0) ∧ (∀ p ∈ all, vaultHeld s p.2.dest = false) ∧
    vaultHeld { s with die := heldDie } ({ wPart with dest := [5] } : Coll).dest = true := by decide +kernel

theorem witness_coll_timeout :
    let s : State := { State.reset with ticks := 5, regions := [(0, { runs with colls := [wPart], collwd := 5 })] }
    (s.region 0).colls.find? (fun q => !q.freed && collId q.c0 == 0) = some wPart ∧ s.die.debugHold = false ∧
    bits (s.region 0).collwd.toNat 47 0 ≠ 0 ∧ bits (s.region 0).collwd.toNat 47 0 ≤ wPart.elapsed s.ticks.toNat := by
  decide +kernel

theorem witness_debug_hold : ((State.reset.withCore wCore).ctx 0 0).slot = .resident ∧
    ({ Die.reset with debugHold := true } : Die).debugHold = true := by decide +kernel

def wSaving : Saving := { entry := 0, area := 8192, image := [1, 2, 3], cursor := 0, stopped := false }

theorem witness_save_piece :
    let s := wGlobal { wAbsent with saves := [(0, wSaving)] } wRange
    (s.core 0).saves.find? (fun (e : Nat × Saving) => !e.2.stopped && e.2.cursor < e.2.image.length) = some (0, wSaving) ∧
    s.div 0 wSaving.entry = some wDivert ∧ pieceHeld s 0 wSaving wDivert = false ∧
    pieceHeld { s with die := heldDie } 0 wSaving wDivert = true ∧
    wSaving.cursor + Nat.min 2048 (wSaving.image.length - wSaving.cursor) ≤ wSaving.area ∧ ¬ 2 ≤ wSaving.cursor / 2048 ∧
    imageKeys s 0 (wDivert.image.toNat + 24) 4 = some (range (2 ^ 20 + 24) 4) ∧
    imageKeys s 0 (wDivert.image.toNat + 64 + 4 * 0) 4 = some (range (2 ^ 20 + 64) 4) ∧
    imageKeys s 0 (wDivert.image.toNat + 2048 * 0) 3 = some (range (2 ^ 20) 3) ∧
    (let v : Saving := { wSaving with cursor := 4096, image := List.replicate 4100 0 };
      v.cursor + Nat.min 2048 (v.image.length - v.cursor) ≤ v.area ∧ 2 ≤ v.cursor / 2048 ∧
      (hostPiece { s with regions := [(0, { s.region 0 with regionSplit := 4 })] } 0 v.entry 2 4 wDivert).isSome = true) := by decide +kernel

theorem witness_save_seal :
    let v : Saving := { wSaving with cursor := 3 }
    let s := wGlobal { wAbsent with saves := [(0, v)] } wRange
    (s.core 0).saves.find? (fun (e : Nat × Saving) => !e.2.stopped && e.2.cursor == e.2.image.length) = some (0, v) ∧
    s.div 0 v.entry = some wDivert ∧ (s.core 0).ordersRead v.entry = false ∧ imageHeld s 0 wDivert.image.toNat 8 = false ∧
    (s.region (regionOf 0)).launch = some placedLaunch ∧ imageKeys s 0 wDivert.image.toNat 8 = some (range (2 ^ 20) 8) ∧
    ({ wAbsent with mx := { Matrix.reset with running := [{ (default : Running) with reads := [1], entry := some v.entry }] } } :
      Core).ordersRead v.entry = true := by decide +kernel

theorem witness_restore_merge :
    let s := wSealed { wAbsent with restore := some (0, 0, 0x8000000000000000) }
    (s.core 0).restore = some (0, 0, 0x8000000000000000) ∧
    ∃ v, restoreOperands s (regionOf 0) 0 0 0x8000000000000000 = .ok v ∧
      tilesFree (s.core 0) (imageTiles v.2.2.1) = true := by
  repeat' apply And.intro
  all_goals first | decide +kernel | exact sat_of (by decide +kernel)

/-! ## Witnesses: the package -/

theorem witness_resets : State.reset.die.boot = .running ∧ ({ Die.reset with boot := .stopped } : Die).boot = .stopped ∧
    2 ^ 45 - 1 < 2 ^ 45 ∧ 2 ^ 45 ≤ 2 ^ 45 ∧ Die.reset.accepts { (default : Manifest) with key := [] } = false := by decide

theorem witness_repair : (State.reset.vault 0).repair = none ∧
    (({ State.reset with die := { Die.reset with vaults := [(0, { Vault.reset with repair := some (3, 1) })] } } : State).vault
      0).repair = some (3, 1) ∧ layerMin 0 ≤ 750 ∧ 750 < 751 ∧ layerMin 0 - 1 < layerMin 0 ∧ State.reset.die.powered = true ∧
    ({ Die.reset with powered := false } : Die).powered = false ∧ 95 < 96 ∧ 105 ≤ 105 := by
  decide +kernel

theorem witness_die_access :
    let s : State := { State.reset with die := { Die.reset with iommu := [(0, 64, 8)] } }
    s.die.boot = .running ∧ ([1] : List Nat) ≠ [] ∧ (0x8000000000000007 : Nat) / 2 ^ 60 = 8 ∧
    iommuOf s.die (0x8000000000000007 % 2 ^ 60) 1 = some 71 ∧ dieKeys 71 1 = some [71] ∧ vaultHeld s [71] = false ∧
    s.poisonedAt [71] = false ∧ ({ s with poison := [8] } : State).poisonedAt [71] = true ∧
    dieKeys (0xF00000000000000A % 2 ^ 60) 1 = some [10] ∧ dieFault 0xF00000000000000A 1 = none ∧
    vaultHeld s [10] = false ∧ s.poisonedAt [10] = false ∧ dieFault 0x4000000000000000 1 = some .translation ∧
    dieFault 0xF800000000000000 1 = none ∧ (0x3FFFFFFFFFFFFFFF : Nat) / 2 ^ 60 ≤ 3 ∧ 4 ≤ (0x4000000000000000 : Nat) / 2 ^ 60 ∧
    (0x4000000000000000 : Nat) / 2 ^ 60 ≠ 8 ∧ bits (0x8000200000000000 % 2 ^ 60) 58 45 ≠ 0 ∧ bit (0xF00000000000000A % 2 ^ 60) 59 = false ∧
    (0xF800000000000000 : Nat) / 2 ^ 60 = 15 ∧ bit (0xF800000000000000 % 2 ^ 60) 59 = true ∧
    0xF000000000000008 % 4 = 0 ∧ dieFault 0xF000000000000008 4 = none ∧ (2 : Nat) ≤ 10 ∧ appSendFault (tokenOf 0 []) = none ∧ appSendFault (tokenOf (38 * 2 ^ 46) []) = some .illegal := by decide +kernel

/-! ## Single steps -/

/-- The next state of an outcome, else the state after reset. -/
def after (o : Host.Outcome State Fault Refusal) : State :=
  match o with
  | .next t => t
  | _ => State.reset

/-- R94's worked example: the word holds 3, x5 holds 3 and x6 0xFFFFFFFF. -/
theorem test_amo_cas :
    let s := (user [(5, 3), (6, 0xFFFFFFFF), (7, 0x2000000000000040)]).withBank 0x40 4 3
    let t := after (exec (.amoCas 5 7 6 0 4) s)
    t.readNat (range (regionKey 0 0x40) 4) = 0xFFFFFFFF ∧ t.getX 0 5 = 3 := by decide +kernel

/-- R94's worked example with x5 holding 4. -/
theorem test_amo_cas_differs :
    let s := (user [(5, 4), (6, 0xFFFFFFFF), (7, 0x2000000000000040)]).withBank 0x40 4 3
    let t := after (exec (.amoCas 5 7 6 0 4) s)
    t.readNat (range (regionKey 0 0x40) 4) = 3 ∧ t.getX 0 5 = 3 := by decide +kernel

/-- A 32-bit old word is sign-extended (R93). -/
theorem test_amo_add_wraps :
    let s := (user [(6, 2), (7, 0x2000000000000040)]).withBank 0x40 4 0xFFFFFFFF
    let t := after (exec (.amoAdd 5 7 6 0 0) s)
    t.readNat (range (regionKey 0 0x40) 4) = 1 ∧ t.getX 0 5 = 0xFFFFFFFFFFFFFFFF := by decide +kernel

/-- xd = xa: the address uses the old xa (R89). -/
theorem test_ld_same_register :
    (after (exec (.ldB 3 3 0xFFFF) ((user [(3, 0x2000000000000041)]).withBank 0x40 1 0x80))).getX 0 3 =
      0xFFFFFFFFFFFFFF80 := by decide +kernel

/-- A store is seen by its own core and not yet in memory (R95). -/
theorem test_st_forwards :
    let t := after (exec (.stH 4 3 0) (user [(3, 0x2000000000000040), (4, 0x1234)]))
    t.ccRead 0 (range (regionKey 0 0x40) 2) = [0x34, 0x12] ∧ t.readByte (regionKey 0 0x40) = 0 := by decide +kernel

/-- A taken branch goes back 4 words (R45, R100). -/
theorem test_branch_back :
    ((after (exec (.bne 1 0 0xFFFC) (user [(1, 1)]))).region 0).pc = 0x1FFFFFFFFFFFFFF0 := by decide +kernel

/-- The placed word runs as the first instruction after reset. -/
theorem test_with_fetch_word :
    ((after (step (State.reset.withFetchWord 32 0x74000028))).region 0).pc = 0x20000000000000A0 ∧
    (after (step (State.reset.withFetchWord 32 0x74000028))).getX 0 1 = 0x2000000000000004 := by decide +kernel

/-- `loop` with 3 iterations, and the end of its one-word body: back to the start with 2 left (R104, R105). -/
theorem test_loop :
    let t := after (exec (.loop 0 9 1) (user [(9, 3)]))
    let u := after (exec (.addi 1 1 1) t)
    (t.region 0).depth = 1 ∧ (t.region 0).pc = 0x2000000000000004 ∧ (u.region 0).pc = 0x2000000000000004 ∧
    ((u.region 0).loopAt 0).count = 2 ∧ u.getX 0 1 = 1 := by decide +kernel

/-- `trap` enters the handler with source 10, and `tret` comes back to the next word (R132 to R134). -/
theorem test_trap_and_return :
    let t := after (exec (.trap 0x5A) (user []))
    let u := after (exec .tret t)
    (t.region 0).pc = 0x2000000000000100 ∧ (t.region 0).mode = .privileged ∧
    (t.region 0).tcause = 0x00005A0200000000 ∧ (u.region 0).pc = 0x2000000000000004 ∧
    (u.region 0).mode = .unprivileged := by decide +kernel

/-- `mulh` of the most negative number by itself: 2^62. -/
theorem test_mulh :
    (after (exec (.mulh 1 2 2) (user [(2, 0x8000000000000000)]))).getX 0 1 = 0x4000000000000000 := by decide +kernel

/-- `sra` by 63 of a negative number. -/
theorem test_sra :
    (after (exec (.sra 1 2 3) (user [(2, 0x8000000000000000), (3, 0x7F)]))).getX 0 1 = 0xFFFFFFFFFFFFFFFF := by decide +kernel

/-- An i32 sum of trains of 7 and −9: every lane is −2 (R166). -/
theorem test_add_lanes :
    (match addSub 0 { w := fwordOf (fword 0 0 1 0 0), b := blk wNeg, fmt := 0, a := some (ints 7).train,
                      pb := some (ints (-9)).train, c := none, p := none, st := 0 } with
     | r => (intOf (nth .absent r.lanes 0)).1) = -2 := by decide +kernel

/-- The digit codes of R141's worked example: lanes x, w and their sum. -/
theorem test_digit_codes :
    digitCodes 2 60 ++ digitCodes 2 0 = [3, 12, 0, 0] ∧ digitCodes 2 (-129) ++ digitCodes 2 48 = [24, 31, 3, 0] ∧
    digitCodes 2 11 ++ digitCodes 2 (-7) = [0, 0b01011, 0, 0b11001] := by decide +kernel

/-- A train of i32 ones shows digit 1 in the last slice of each lane's beat 1, and zeros in beat 0 (R138). -/
theorem test_beat_codes :
    let t : Train := { kind := .data, fmt := 0, lanes := List.replicate 32 (freshInt 8 1), tag := 0 }
    (beatCodes 1 t).take 8 = [0, 0, 0, 1, 0, 0, 0, 1] ∧ (beatCodes 0 t).take 4 = [0, 0, 0, 0] ∧ (beatCodes 1 t).length = 128 := by
  decide +kernel

/-- An i32 lane of 16^8 - 1 has rail 1 and digit sum -1 (Table 7.2). -/
theorem test_int_rail :
    intRail 8 (intHi 8 (16 ^ 8 - 1)) = 1 ∧ laneBeats 8 (.int (16 ^ 8 - 1) (intHi 8 (16 ^ 8 - 1))) = some (0, -1) := by
  decide +kernel

/-- `neg` takes its train and leaves none at the port. -/
theorem test_neg_fires :
    ((after (exec (.fNeg (fwordOf wNeg).f) (fab wNeg [(0, [ints 5])] []))).ctx 0 0).queue 0 0 = [] := by decide +kernel

/-- `acc.clr` gives its column the zero word and its context (R320). -/
theorem test_acc_clr :
    let s := mxState (3 * 2 ^ 60) 0
    let t := after (exec (.mAccClr (orderFields (3 * 2 ^ 60))) (s.withCore { s.core 0 with
      mx := { (s.core 0).mx with acc := [(0, 7), (128, 9)] } }))
    (t.core 0).mx.word 0 0 = 0 ∧ (t.core 0).mx.word 1 0 = 9 := by decide +kernel

/-- `fopen` returns the lowest free frame number (R124). -/
theorem test_fopen :
    let t := after (exec (.fopen 5 0 0 2 0) (((user [(5, 77)]).withCore { wCore with frames := [(0, wFrame)] })))
    t.getX 0 5 = 1 ∧ ((t.core 0).frame 1).isSome = true := by decide +kernel

/-- `pcarrive` reaches the expectation: the phase flips and the arrivals start again (R284). -/
theorem test_pcarrive_completes :
    let s := wCounter.store (range (regionKey 0 0x40) 16)
      ({ phase := 0, e := 1, a := 0, trigger := 0 : PhaseCtr }.bytes)
    let t := after (exec (.pcarrive 1 2 0 0) { s with marks := [regionKey 0 0x40] })
    (t.counter (regionKey 0 0x40)).phase = 1 ∧ (t.counter (regionKey 0 0x40)).a = 0 := by decide +kernel

/-- A warm reset ends the launch (R364). -/
theorem test_warm_reset : ((after (exec .warmReset (user [(1, 5)]))).region 0).launch = none ∧
    (after (exec .warmReset (user [(1, 5)]))).getX 0 1 = 0 := by decide +kernel

end Sys2Proof.Tests
end

section
/-! The memory under the functions that never write it: each leaves it as it was. -/
namespace Sys2Proof.Machine

/-- A fold of updates that each leave one view of the state leaves that view. -/
theorem foldl_view {σ α β : Type} (view : σ → β) {f : σ → α → σ} (hf : ∀ s a, view (f s a) = view s) (l : List α)
    (s : σ) :
    view (l.foldl f s) = view s := by
  induction l generalizing s with
  | nil => rfl
  | cons a l ih => rw [List.foldl_cons, ih, hf]

@[simp] theorem foldl_mem {α : Type} {f : State → α → State} (hf : ∀ s a, (f s a).mem = s.mem) (l : List α)
    (s : State) :
    (l.foldl f s).mem = s.mem :=
  foldl_view State.mem hf l s

/-! ## The state's own operations -/

@[simp] theorem setFree_mem (s : State) (n : Nat) : (s.setFree n).mem = s.mem := by rfl

@[simp] theorem setTile_mem (s : State) (core n : Nat) (t : Tile) : (s.setTile core n t).mem = s.mem := by rfl

@[simp] theorem countEvent_mem (s : State) (core src ctx n : Nat) :
    (s.countEvent core src ctx n).mem = s.mem := by rfl

@[simp] theorem softErrors_mem (s : State) (core : Nat) : (s.softErrors core).mem = s.mem := by
  simp [State.softErrors]

@[simp] theorem touch_mem (s : State) (core : Nat) (qs : List Nat) : (s.touch core qs).mem = s.mem := by rfl

@[simp] theorem loseCopies_mem (s : State) (core n : Nat) : (s.loseCopies core n).mem = s.mem := by rfl

@[simp] theorem vacateTile_mem (s : State) (core n : Nat) : (s.vacateTile core n).mem = s.mem := by
  simp only [State.vacateTile]
  split <;> simp

@[simp] theorem record_mem (s : State) (r core : Nat) (q0 q2 q3 : Nat) : (s.record r core q0 q2 q3).mem = s.mem := by
  simp only [State.record]
  split
  · split
    · simp
    · rfl
  · simp

@[simp] theorem sampleOf_mem (s : State) (c x block : Nat) (n : Inst) (uncommitted : Bool) :
    (s.sampleOf c x block n uncommitted).mem = s.mem := by
  simp only [State.sampleOf]
  split
  · rfl
  · simp

@[simp] theorem sample_mem (s : State) (c x : Nat) (n : Inst) (uncommitted : Bool) :
    (s.sample c x n uncommitted).mem = s.mem := by
  simp [State.sample]

@[simp] theorem contextReset_mem (s : State) (c x : Nat) : (s.contextReset c x).mem = s.mem := by
  simp [State.contextReset]

@[simp] theorem discardCores_mem (cs : List Nat) (s : State) : (s.discardCores cs).mem = s.mem := by
  induction cs generalizing s with
  | nil => rfl
  | cons c cs ih => simp [State.discardCores, ih]

@[simp] theorem cleanCores_mem (cs : List Nat) (s : State) : (s.cleanCores cs).mem = s.mem := by
  induction cs generalizing s with
  | nil => rfl
  | cons c cs ih => simp [State.cleanCores, ih]

@[simp] theorem leave_mem (s : State) (r mask : Nat) : (s.leave r mask).mem = s.mem := by
  simp only [State.leave]
  split <;> simp

@[simp] theorem takeFree_mem (s : State) : s.takeFree.2.mem = s.mem := rfl

@[simp] theorem holdAtomic_mem (s : State) (r : Nat) (ks : List Nat) : (s.holdAtomic r ks).mem = s.mem := by rfl

/-! ## The network -/

@[simp] theorem sendSourced_mem (s : State) (since : Option Nat) (p : Packet) :
    (s.sendSourced since p).mem = s.mem := by
  simp [State.sendSourced]

@[simp] theorem send_mem (s : State) (src : Nat) (t : Token) : (s.send src t).mem = s.mem := by
  simp [State.send]

@[simp] theorem returnCredit_mem (s : State) (p : Packet) : (s.returnCredit p).mem = s.mem := by
  simp only [State.returnCredit]
  split
  · rfl
  · simp

@[simp] theorem freePair_mem (s : State) (p : Packet) : (s.freePair p).mem = s.mem := by
  simp only [State.freePair]
  split
  · simp
  · rfl

@[simp] theorem delivered_mem (s : State) (p : Packet) : (s.delivered p).mem = s.mem := by
  simp [State.delivered]

@[simp] theorem sendAsk_mem (s : State) (p : Packet) : (s.sendAsk p).mem = s.mem := by
  simp only [State.sendAsk]
  split
  · simp
  · split
    · simp
    · rfl

@[simp] theorem askControl_mem (s : State) (r home : Nat) (a : Access0) : (s.askControl r home a).mem = s.mem := by
  simp only [State.askControl]
  split <;> simp

@[simp] theorem askElement_mem (s : State) (core cls : Nat) (ks : List Nat) (write : Bool) :
    (s.askElement core cls ks write).mem = s.mem := by
  simp only [State.askElement]
  split
  · rfl
  · split <;> simp

@[simp] theorem askCopy_mem (s : State) (core cls chunk : Nat) (write : Bool) (qs : List (Nat × Nat)) :
    (s.askCopy core cls chunk write qs).mem = s.mem := by
  simp [State.askCopy]

@[simp] theorem serveAsk_mem (s : State) (p : Packet) (back : Nat) : (s.serveAsk p back).mem = s.mem := by
  simp only [State.serveAsk]
  split
  · rfl
  · simp

@[simp] theorem setLink_mem (s : State) (l : Nat) (v : Link) : (s.setLink l v).mem = s.mem := by rfl

@[simp] theorem enterLink_mem (s : State) (l : Nat) (p : Packet) : (s.enterLink l p).mem = s.mem := by
  simp only [State.enterLink]
  split <;> simp

@[simp] theorem sendOn_mem (s : State) (q : Nat) (p : Packet) : (s.sendOn q p).mem = s.mem := by
  simp only [State.sendOn]
  split <;> simp

@[simp] theorem roundLoop_mem (q n : Nat) (s : State) : (roundLoop q n s).mem = s.mem := by
  induction n generalizing s with
  | zero => rfl
  | succ n ih =>
    simp only [roundLoop]
    split <;> simp [ih]

/-! ## Tiles -/

theorem request_mem (s : State) (core : Nat) (w : Wait) : ∀ t ∈ s.request core w, t.mem = s.mem := by
  simp only [State.request]
  split <;> simp

@[simp] theorem releaseTile_mem (s : State) (core n : Nat) : (s.releaseTile core n).mem = s.mem := by
  simp only [State.releaseTile]
  split
  · split <;> simp
  · simp

@[simp] theorem beginRead_mem (s : State) (core n : Nat) : (s.beginRead core n).mem = s.mem := by rfl

@[simp] theorem endRead_mem (s : State) (core n : Nat) : (s.endRead core n).mem = s.mem := by
  simp only [State.endRead]
  split <;> simp

@[simp] theorem emptyAll_mem (s : State) (core : Nat) (ns : List Nat) : (s.emptyAll core ns).mem = s.mem := by
  simp [State.emptyAll]

@[simp] theorem readyTile_mem (s : State) (core n : Nat) : (s.readyTile core n).mem = s.mem := by
  simp [State.readyTile]

@[simp] theorem commitTile_mem (s : State) (core n : Nat) : (s.commitTile core n).mem = s.mem := by
  simp only [State.commitTile]
  split
  · rfl
  · split <;> simp

@[simp] theorem noteWrite_mem (s : State) (core off n : Nat) (poisoned : Bool) :
    (s.noteWrite core off n poisoned).mem = s.mem := by
  unfold State.noteWrite
  refine foldl_mem (fun t k => ?_) _ s
  dsimp only
  split
  · simp
  · split <;> split <;> simp
  · simp

/-! ## Elements -/

@[simp] theorem modCtx_mem (s : State) (c x : Nat) (f : Ctx → Ctx) : (s.modCtx c x f).mem = s.mem := by rfl

@[simp] theorem modInst_mem (s : State) (c x id : Nat) (f : Inst → Inst) : (s.modInst c x id f).mem = s.mem := by rfl

@[simp] theorem setElem_mem (s : State) (c x i : Nat) (e : Elem) : (s.setElem c x i e).mem = s.mem := by rfl

@[simp] theorem modFrame_mem (s : State) (c n : Nat) (f : Frame → Frame) : (s.modFrame c n f).mem = s.mem := by
  simp only [State.modFrame]
  split
  · simp
  · rfl

@[simp] theorem setLfsr_mem (s : State) (c x i st : Nat) : (s.setLfsr c x i st).mem = s.mem := by rfl

@[simp] theorem raiseFrame_mem (s : State) (c : Nat) (r : FaultRec) : (s.raiseFrame c r).mem = s.mem := by rfl

@[simp] theorem raise_mem (s : State) (c x i : Nat) (f : FaultCode) (detail tag addr : Nat) :
    (s.raise c x i f detail tag addr).mem = s.mem := by rfl

@[simp] theorem noteVerdict_mem (s : State) (c x inst ch : Nat) (t : Train) :
    (s.noteVerdict c x inst ch t).mem = s.mem := by
  simp only [State.noteVerdict]
  split
  · rfl
  · split
    · simp
    · split
      · split <;> simp
      · simp

@[simp] theorem closeSink_mem (s : State) (c frame ch : Nat) : (s.closeSink c frame ch).mem = s.mem := by
  simp [State.closeSink]

@[simp] theorem deliverReg_mem (e : Em) (c x i : Nat) (w : FWord) (inst : Nat) (t : Train) (r : Nat) :
    (deliverReg e c x i w inst t r).s.mem = e.s.mem := by
  simp only [deliverReg]
  split
  · rfl
  · rfl
  · simp
  · split <;> simp

@[simp] theorem sendExit_mem (s : State) (c : Nat) (n : Inst) (t : Train) (inl : Nat) :
    (sendExit s c n t inl).mem = s.mem := by
  simp only [sendExit]
  split
  · simp
  · rfl

@[simp] theorem deliverExit_mem (e : Em) (c x i : Nat) (w : FWord) (inst which : Nat) (t : Train) :
    (deliverExit e c x i w inst which t).s.mem = e.s.mem := by
  simp only [deliverExit]
  split
  · split
    · split <;> simp
    · simp
  · simp
  · split
    · rfl
    · split
      · rfl
      · simp

@[simp] theorem deliver_mem (b : Block) (w : FWord) (c x i inst now which : Nat) (t : Train) (lf : List (Option Nat))
    (e : Em) (tg : Target) : (deliver b w c x i inst now which t lf e tg).s.mem = e.s.mem := by
  simp only [deliver]
  split
  · rfl
  · simp
  · simp
  · split
    · simp
    · split
      · simp
      · split <;> simp

@[simp] theorem sendOuts_mem (b : Block) (w : FWord) (c x i inst now : Nat) (e : Em) (os : List Out) :
    (sendOuts b w c x i inst now e os).s.mem = e.s.mem := by
  induction os generalizing e with
  | nil => rfl
  | cons o os ih =>
    rw [sendOuts, ih]
    split <;> simp [foldl_view fun e : Em => e.s.mem]

/-- An element's outcome keeps the memory of the state before it, be it the fault or what the sending left. -/
@[simp] theorem settle_mem {s0 : State} {e : Em} (he : e.s.mem = s0.mem) (c x i : Nat) (w : FWord) (inst tag : Nat) :
    (settle s0 e c x i w inst tag).mem = s0.mem := by
  simp only [settle]
  split
  · simp
  · split
    · simp
    · assumption

@[simp] theorem settleFix_mem (e : Em) (c x inst : Nat) : (settleFix e c x inst).mem = e.s.mem := by rfl

@[simp] theorem popData_mem (s : State) (c x i : Nat) (hs : List (Nat × Timed)) :
    (s.popData c x i hs).mem = s.mem := by rfl

@[simp] theorem enterDrain_mem (s : State) (c x i : Nat) (t : Timed) : (s.enterDrain c x i t).mem = s.mem := by
  simp only [State.enterDrain]
  split
  · rfl
  · split <;> simp

@[simp] theorem popAll_mem (s : State) (c x i : Nat) (hs : List (Nat × Timed)) : (s.popAll c x i hs).mem = s.mem := by
  simp [State.popAll]

@[simp] theorem popPort_mem (s : State) (c x i p : Nat) (t : Timed) : (s.popPort c x i p t).mem = s.mem := by
  simp [State.popPort]

@[simp] theorem payFlags_mem {s t : State} (h : t.mem = s.mem) (c x i p : Nat) (hd : Timed) (f : Nat) :
    (s.payFlags c x i p hd f t).mem = s.mem := by
  simp only [State.payFlags]
  split
  · assumption
  · split
    · assumption
    · split
      · simp
      · assumption

@[simp] theorem payHead_mem {s t : State} (h : t.mem = s.mem) (c x i : Nat) (hs : List (Nat × Timed)) :
    (s.payHead c x i hs t).mem = s.mem := by
  simp only [State.payHead]
  split
  · split
    · assumption
    · simp [h]
  · assumption

@[simp] theorem restElem_mem (s : State) (c x i : Nat) : (s.restElem c x i).mem = s.mem := by rfl

@[simp] theorem freshElem_mem (s : State) (c x i : Nat) : (s.freshElem c x i).mem = s.mem := by
  simp only [State.freshElem]
  split
  · split
    · rfl
    · simp
  · rfl

@[simp] theorem latchIns_mem (w : FWord) (c x i now inst : Nat) (hs : List (Nat × Timed)) (e : Em) :
    (latchIns w c x i now inst hs e).s.mem = e.s.mem := by
  simp only [latchIns]
  split
  · rfl
  · simp

@[simp] theorem emitOne_mem {s0 s : State} (h : s.mem = s0.mem) (b : Block) (w : FWord) (c x i : Nat)
    (hs : List (Nat × Timed)) (flags : Nat) (outs : List Out) :
    (emitOne s0 s b w c x i hs flags outs).mem = s0.mem := by
  simp [emitOne, h]

@[simp] theorem passEos_mem (s : State) (b : Block) (w : FWord) (c x i fmt : Nat) (hs : List (Nat × Timed)) :
    (passEos s b w c x i fmt hs).mem = s.mem := by
  simp [passEos]

@[simp] theorem steer_mem (s : State) (w : FWord) (c x i p : Nat) (t : Timed) (v : TagVerdict) :
    (steer s w c x i p t v).mem = s.mem := by
  simp only [steer]
  split <;> simp

@[simp] theorem unfix_mem (s : State) (c x i inst : Nat) : (s.unfix c x i inst).mem = s.mem := by rfl

@[simp] theorem useFix_mem (s : State) (b : Block) (w : FWord) (c x i : Nat) (hs : List (Nat × Timed)) (t : Train) :
    (useFix s b w c x i hs t).mem = s.mem := by
  simp [useFix]

@[simp] theorem consumeOn_mem (s : State) (b : Block) (w : FWord) (c x i : Nat) (hs : List (Nat × Timed)) :
    (consumeOn s b w c x i hs).mem = s.mem := by
  simp only [consumeOn]
  split
  · split <;> simp
  · simp

@[simp] theorem truncate_mem (s : State) (w : FWord) (c x i : Nat) (hs : List (Nat × Timed)) :
    (truncate s w c x i hs).mem = s.mem := by
  simp [truncate]

@[simp] theorem notLate_mem (s : State) (c x i : Nat) : (s.notLate c x i).mem = s.mem := by
  simp only [State.notLate]
  split
  · split <;> simp
  · rfl

@[simp] theorem setLate_mem (s : State) (c x i why : Nat) : (s.setLate c x i why).mem = s.mem := by rfl

@[simp] theorem fireData_mem (w : FWord) (body : FArg → FOut) (s : State) (b : Block) (c x i : Nat)
    (hs : List (Nat × Timed)) : (fireData w body s b c x i hs).mem = s.mem := by
  simp only [fireData]
  split
  · simp
  · split <;> simp [apply_ite State.mem]

@[simp] theorem fireCompute_mem (w : FWord) (body : FArg → FOut) (s : State) (b : Block) (c x i : Nat) (hs : List
    (Nat × Timed)) :
    (fireCompute w body s b c x i hs).mem = s.mem := by
  simp only [fireCompute]
  split
  · simp
  · split
    · simp
    · split <;> simp

@[simp] theorem returnTrain_mem {s0 s : State} (h : s.mem = s0.mem) (w : FWord) (c x i : Nat) (t : Steer)
    (r : Option Train) (flags st : Nat) : (returnTrain s0 s w c x i t r flags st).mem = s0.mem := by
  simp only [returnTrain]
  split
  · assumption
  · split
    · assumption
    · simp [h, apply_ite State.mem]

/-- A fallback keeps the memory: what it leaves, waiting or giving back, is the memory of the state it took. -/
def Fallback.Keeps (s : State) : Fallback → Prop
  | .wait t => t.mem = s.mem
  | .fault _ => True
  | .back t _ _ _ => t.mem = s.mem

@[simp] theorem runFallback_mem {body : State → Steer → Timed → Fallback} {s : State}
    (hb : ∀ t h, (body s t h).Keeps s) (w : FWord) (c x i : Nat) : (runFallback w body s c x i).mem = s.mem := by
  simp only [runFallback]
  split
  · rfl
  · rename_i t _
    split
    · rfl
    · split
      · simp
      · rename_i h _
        split
        · simp
        · split
          · simp
          · have hk := hb t h
            split <;> rename_i hbody <;> rw [hbody] at hk
            · exact hk
            · simp
            · refine (returnTrain_mem ?_ ..).trans (modCtx_mem ..)
              simpa [Fallback.Keeps] using hk

theorem fallbackBody_keeps (w : FWord) (c x i : Nat) (b : Block) (body : FArg → FOut) (s : State) (r : Steer)
    (h : Timed) :
    (fallbackBody w c x i b body s r h).Keeps s := by
  simp only [fallbackBody]
  split <;> simp [Fallback.Keeps]

/-- What stands before an element's own work keeps the memory, where it is done already. -/
def Pre.Keeps (s : State) : Pre → Prop
  | .done t => t.mem = s.mem
  | _ => True

theorem prelude_keeps (w : FWord) (s : State) (c x i : Nat) : (prelude w s c x i).Keeps s := by
  simp only [prelude]
  repeat' split
  all_goals simp [Pre.Keeps]

theorem prelude_done_mem {w : FWord} {s t : State} {c x i : Nat} (h : prelude w s c x i = .done t) :
    t.mem = s.mem := by
  simpa [h, Pre.Keeps] using prelude_keeps w s c x i

/-! ## Streams -/

@[simp] theorem setPortQ_mem (s : State) (c p : Nat) (q : List PortEntry) : (s.setPortQ c p q).mem = s.mem := by rfl

@[simp] theorem setHead_mem (s : State) (c p : Nat) (e : PortEntry) : (s.setHead c p e).mem = s.mem := by rfl

@[simp] theorem freePort_mem (s : State) (c p : Nat) : (s.freePort c p).mem = s.mem := by
  simp [State.freePort]

@[simp] theorem setReq_mem (s : State) (c n : Nat) (r : MemReq) : (s.setReq c n r).mem = s.mem := by rfl

@[simp] theorem postReq_mem (s : State) (c : Nat) (r : MemReq) : (s.postReq c r).mem = s.mem := by rfl

@[simp] theorem settlePort_mem (s : State) (c : Nat) (p : Option Nat) : (s.settlePort c p).mem = s.mem := by
  simp only [State.settlePort]
  split
  · rfl
  · split
    · split
      · simp
      · rfl
    · rfl

@[simp] theorem answer_mem (s : State) (c n : Nat) (r : MemReq) (t : Train) (eosAfter : Bool) :
    (s.answer c n r t eosAfter).mem = s.mem := by
  simp [State.answer]

@[simp] theorem reqFault_mem (s : State) (c : Nat) (r : MemReq) (f : FaultCode) (addr : Nat) (poison : Bool) :
    (s.reqFault c r f addr poison).mem = s.mem := by
  simp [State.reqFault]

@[simp] theorem endSharers_mem (s : State) (c p : Nat) (r : MemReq) : (endSharers s c p r).mem = s.mem := by
  unfold endSharers
  split
  · rfl
  · refine foldl_mem (fun t j => ?_) _ s
    dsimp only
    split
    · simp
    · rfl

@[simp] theorem giveTrainTo_mem (s : State) (c p n : Nat) (r : MemReq) (e : PortEntry) (t : Train) :
    (giveTrainTo s c p n r e t).mem = s.mem := by
  simp only [giveTrainTo]
  split <;> simp

@[simp] theorem giveTrain_mem (s : State) (c p n : Nat) (r : MemReq) (e : PortEntry) :
    (giveTrain s c p n r e).mem = s.mem := by
  simp [giveTrain]

@[simp] theorem readAccess_mem (s : State) (c p n : Nat) (r : MemReq) (e : PortEntry) :
    (readAccess s c p n r e).mem = s.mem := by
  simp only [readAccess]
  split
  · simp
  · split
    · simp
    · simp
    · split <;> simp

@[simp] theorem markEnded_mem (s : State) (c p x : Nat) : (markEnded s c p x).mem = s.mem := by
  unfold markEnded
  split
  · rfl
  · refine foldl_mem (fun t j => ?_) _ s
    dsimp only
    split
    · simp
    · rfl

@[simp] theorem writeEnd_mem (s : State) (c p x : Nat) (e : PortEntry) : (writeEnd s c p x e).mem = s.mem := by
  simp only [writeEnd]
  split
  · simp
  · rfl

@[simp] theorem prefetch_mem (s : State) (c p : Nat) (e : PortEntry) : (prefetch s c p e).mem = s.mem := by
  simp only [prefetch]
  split
  · rfl
  · split <;> simp

@[simp] theorem placeBarrier_mem (ps : List Nat) (s : State) (c : Nat) : (placeBarrier ps s c).mem = s.mem := by
  simp [placeBarrier]

/-! ## Phase counters -/

@[simp] theorem noteKeys_mem (s : State) (ks : List Nat) (poisoned : Bool) :
    (s.noteKeys ks poisoned).mem = s.mem := by
  simp only [State.noteKeys]
  split
  · rfl
  · split
    · simp
    · rfl

@[simp] theorem register_mem (s : State) (trigger : Nat) : (s.register trigger).mem = s.mem := by
  simp only [State.register]
  split
  · rfl
  · simp

@[simp] theorem unregister_mem (s : State) (trigger : Nat) : (s.unregister trigger).mem = s.mem := by
  simp [State.unregister]

@[simp] theorem sameCycle_mem (s : State) (k : Nat) : (s.sameCycle k).1.mem = s.mem := by
  simp only [State.sameCycle]
  split
  · split <;> simp
  · rfl

@[simp] theorem askPhase_mem (s : State) (k : Nat) (a : Access0) : (s.askPhase k a).mem = s.mem := by
  simp [State.askPhase]

/-! ## Diversion -/

@[simp] theorem setDiv_mem (s : State) (core e : Nat) (d : Divert) : (s.setDiv core e d).mem = s.mem := by rfl

@[simp] theorem dropDiv_mem (s : State) (core e : Nat) : (s.dropDiv core e).mem = s.mem := by rfl

@[simp] theorem proofFull_mem (s : State) (core e : Nat) : (s.proofFull core e).mem = s.mem := by
  simp only [State.proofFull]
  split
  · rfl
  · split
    · rfl
    · simp

/-! ## Flow, reduction and tag words -/

@[simp] theorem seqSend_mem (s : State) (c x i : Nat) (t : Token) : (s.seqSend c x i t).mem = s.mem := by
  simp [State.seqSend]

@[simp] theorem seqWait_mem (s : State) (c x i : Nat) : (s.seqWait c x i).mem = s.mem := by rfl

@[simp] theorem passMark_mem (s : State) (w : FWord) (c x inst : Nat) : (s.passMark w c x inst).mem = s.mem := by
  simp only [State.passMark]
  split
  · split
    · simp
    · split <;> simp
  · simp

@[simp] theorem stepElem_mem (s : State) (b : Block) (w : FWord) (c x i : Nat) (hs : List (Nat × Timed)) (m : Elem)
    (flags : Nat) (outs : List Out) : (stepElem s b w c x i hs m flags outs).mem = s.mem := by
  simp [stepElem]

@[simp] theorem endElem_mem (s : State) (b : Block) (w : FWord) (c x i : Nat) (hs : List (Nat × Timed))
    (flags : Nat) (outs : List Out) :
    (endElem s b w c x i hs flags outs).mem = s.mem := by
  simp [endElem]

@[simp] theorem lockStep_mem (outs : TokenKind → List (Nat × Timed) → List Out) (w : FWord) (s : State) (b : Block)
    (c x i : Nat) (hs : List (Nat × Timed)) : (lockStep outs w s b c x i hs).mem = s.mem := by
  simp only [lockStep]
  split <;> simp

@[simp] theorem filtBody_mem (w : FWord) (s : State) (b : Block) (c x i : Nat) (hs : List (Nat × Timed)) :
    (filtBody w s b c x i hs).mem = s.mem := by
  simp only [filtBody]
  split
  · split <;> simp
  · split
    · simp
    · simp
    · split <;> simp

@[simp] theorem redBody_mem (op : Nat) (w : FWord) (s : State) (b : Block) (c x i : Nat) (hs : List (Nat × Timed)) :
    (redBody op w s b c x i hs).mem = s.mem := by
  simp only [redBody]
  split
  · split <;> simp
  · split
    · simp
    · split
      · simp
      · split <;> simp
    · simp

@[simp] theorem drainRecur_mem (s : State) (c x i : Nat) : (drainRecur s c x i).mem = s.mem := by
  simp only [drainRecur]
  split
  · rfl
  · split
    · simp
    · split
      · rfl
      · split <;> simp

@[simp] theorem recurFire_mem (scan : Bool) (w : FWord) (s : State) (b : Block) (c x i : Nat) (hs : List
    (Nat × Timed)) :
    (recurFire scan w s b c x i hs).mem = s.mem := by
  simp only [recurFire]
  split
  · split
    · simp
    · split
      · split <;> simp
      · simp
  · split
    · simp
    · split <;> simp

theorem flowFallback_keeps (w : FWord) (c x i : Nat) (b : Block) (s : State) (r : Steer) (h : Timed) :
    (flowFallback w c x i b s r h).Keeps s := by
  simp only [flowFallback]
  repeat' split
  all_goals simp [Fallback.Keeps]

@[simp] theorem keyredBody_mem (w : FWord) (s : State) (b : Block) (c x i : Nat) (hs : List (Nat × Timed)) :
    (keyredBody w s b c x i hs).mem = s.mem := by
  simp only [keyredBody]
  repeat' split
  all_goals simp

@[simp] theorem tagBody_mem (w : FWord) (s : State) (b : Block) (c x i : Nat) (hs : List (Nat × Timed)) :
    (tagBody w s b c x i hs).mem = s.mem := by
  simp only [tagBody]
  split
  · simp
  · split <;> simp

@[simp] theorem eosBody_mem (w : FWord) (s : State) (b : Block) (c x i : Nat) (hs : List (Nat × Timed)) :
    (eosBody w s b c x i hs).mem = s.mem := by
  simp only [eosBody]
  split
  · simp
  · split
    · simp
    · split <;> simp

@[simp] theorem cntBody_mem (w : FWord) (s : State) (b : Block) (c x i : Nat) (hs : List (Nat × Timed)) :
    (cntBody w s b c x i hs).mem = s.mem := by
  simp only [cntBody]
  split
  · split <;> simp
  · split
    · simp
    · split <;> simp
    · simp

@[simp] theorem seqBody_mem (w : FWord) (s : State) (b : Block) (c x i : Nat) (hs : List (Nat × Timed)) :
    (seqBody w s b c x i hs).mem = s.mem := by
  simp only [seqBody]
  split
  · simp
  · split
    · simp
    · split
      · simp
      · split <;> simp

@[simp] theorem markBody_mem (w : FWord) (s : State) (b : Block) (c x i : Nat) (hs : List (Nat × Timed)) :
    (markBody w s b c x i hs).mem = s.mem := by
  simp only [markBody]
  split <;> simp

@[simp] theorem bgetBody_mem (w : FWord) (s : State) (b : Block) (c x i : Nat) (hs : List (Nat × Timed)) :
    (bgetBody w s b c x i hs).mem = s.mem := by
  simp only [bgetBody]
  split
  · simp
  · split <;> simp

/-! ## Memory words and tile words -/

@[simp] theorem MemElem.fault_mem (e : MemElem) (s : State) (f : FaultCode) (tag : Nat) :
    (e.fault s f tag).mem = s.mem := by rfl

@[simp] theorem MemElem.emit_mem (e : MemElem) {s0 s : State} (h : s.mem = s0.mem) (now inst tag flags : Nat)
    (outs : List Out) (fixed : Bool) : (e.emit s0 s now inst tag flags outs fixed).mem = s0.mem := by
  simp only [MemElem.emit]
  split <;> simp [h]

@[simp] theorem MemElem.dropStale_mem (e : MemElem) (p n : Nat) (s : State) : (e.dropStale p n s).mem = s.mem := by
  induction n generalizing s with
  | zero => rfl
  | succ n ih =>
    simp only [MemElem.dropStale]
    split
    · split
      · simp [ih]
      · rfl
    · rfl

@[simp] theorem MemElem.clean_mem (e : MemElem) (s : State) : (e.clean s).mem = s.mem := by
  simp [MemElem.clean]

theorem MemElem.after_mem (e : MemElem) (s : State) : ∀ t ∈ e.after s, t.mem = s.mem := by
  simp only [MemElem.after]
  split
  · simp
  · split
    · simp
    · split
      · simp
      · split <;> simp

@[simp] theorem MemElem.endSource_mem (e : MemElem) (s : State) : (e.endSource s).mem = s.mem := by rfl

@[simp] theorem ldBody_mem (e : MemElem) (s : State) : (ldBody e s).mem = s.mem := by
  simp only [ldBody]
  split
  · simp
  · split
    · simp
    · split
      · split <;> simp
      · split
        · simp
        · split
          · simp
          · split
            · simp
            · split
              · simp
              · simp [MemElem.after_mem _ _ _ ‹_›]

@[simp] theorem MemElem.endTile_mem (e : MemElem) (s : State) : (e.endTile s).mem = s.mem := by
  simp only [MemElem.endTile]
  split
  · split
    · simp
    · rfl
  · split <;> simp

@[simp] theorem MemElem.tileOut_mem (e : MemElem) (s : State) (t : Train) (more fixed : Bool) :
    (e.tileOut s t more fixed).mem = s.mem := by
  simp [MemElem.tileOut, apply_ite State.mem]

@[simp] theorem MemElem.tileTrain_mem (e : MemElem) (s : State) (bs : List (Nat × Bool)) (more : Bool) :
    (e.tileTrain s bs more).mem = s.mem := by
  simp [MemElem.tileTrain]

theorem MemElem.readGate_mem (e : MemElem) (s : State) (n : Nat) (last : Bool) :
    ∀ t ∈ e.readGate s n last, t.mem = s.mem := by
  simp only [MemElem.readGate]
  split
  · simp
  · split
    · intro t ht
      obtain ⟨f, -, rfl⟩ := Option.map_eq_some_iff.1 ht
      simp
    · simp
    · simp

@[simp] theorem MemElem.readOn_mem (e : MemElem) (s : State) : (e.readOn s).mem = s.mem := by
  simp [MemElem.readOn]

@[simp] theorem MemElem.fixOn_mem (e : MemElem) (s : State) (t : Train) : (e.fixOn s t).mem = s.mem := by
  simp [MemElem.fixOn, apply_ite State.mem]

@[simp] theorem MemElem.readNext_mem (e : MemElem) (s : State) : (e.readNext s).mem = s.mem := by
  simp only [MemElem.readNext]
  split
  · simp
  · split
    · exact MemElem.readGate_mem _ _ _ _ _ ‹_›
    · split
      · rfl
      · simp [MemElem.after_mem _ _ _ ‹_›]

@[simp] theorem MemElem.verOut_mem (e : MemElem) (s : State) : (e.verOut s).mem = s.mem := by
  simp only [MemElem.verOut]
  split <;> simp

theorem MemElem.after_or_mem {e : MemElem} {s t : State} {p : Prop} [Decidable p]
    (h : (if p then e.after s else some s) = some t) : t.mem = s.mem := by
  split at h
  · exact e.after_mem s t h
  · cases h; rfl

@[simp] theorem MemElem.verRead_mem (e : MemElem) (s : State) : (e.verRead s).mem = s.mem := by
  simp only [MemElem.verRead]
  split
  · split
    · exact MemElem.readGate_mem _ _ _ _ _ ‹_›
    · rfl
    · simp [MemElem.after_or_mem ‹_›]
  · split
    · simp
    · split <;> simp

@[simp] theorem MemElem.kindTrainOut_mem (e : MemElem) (s : State) (inst : Nat) (t : Train) (fixed : Bool) :
    (e.kindTrainOut s inst t fixed).mem = s.mem := by
  simp [MemElem.kindTrainOut, apply_ite State.mem]

/-- The two ends of a state under way that may stop early. -/
def EndsKeep (s : State) : Except State State → Prop
  | .ok t => t.mem = s.mem
  | .error t => t.mem = s.mem

theorem MemElem.beginTile_keeps (e : MemElem) (s : State) (inst tile g : Nat) :
    EndsKeep s (e.beginTile s inst tile g) := by
  simp only [MemElem.beginTile]
  split
  · simp [EndsKeep]
  · split
    · simp [EndsKeep]
    · split <;> simp [EndsKeep]

theorem MemElem.beginTile_ok_mem {e : MemElem} {s t : State} {inst tile g : Nat}
    (h : e.beginTile s inst tile g = .ok t) :
    t.mem = s.mem := by
  simpa [h, EndsKeep] using e.beginTile_keeps s inst tile g

theorem MemElem.beginTile_error_mem {e : MemElem} {s t : State} {inst tile g : Nat}
    (h : e.beginTile s inst tile g = .error t) : t.mem = s.mem := by
  simpa [h, EndsKeep] using e.beginTile_keeps s inst tile g

@[simp] theorem tileBody_mem (e : MemElem) (s : State) : (tileBody e s).mem = s.mem := by
  unfold tileBody
  extract_lets s1 s2 k m fmt pop
  have hs : s2.mem = s.mem := by
    simp only [s2]
    split <;> simp [s1]
  have hpop (t : State) : (pop t).mem = t.mem := rfl
  clear_value s2 pop
  rw [← hs]
  split
  · rfl
  · split
    · split
      · simp
      · split
        · simp
        · split <;> simp
    · split
      · rfl
      · dsimp only
        split
        · simp [apply_ite State.mem, hpop]
        · simp
        · split
          · simp
          · split
            · simp
            · split
              · exact MemElem.beginTile_error_mem ‹_›
              · simp [apply_ite State.mem, hpop, MemElem.beginTile_ok_mem ‹_›]
        · split
          · rfl
          · simp [hpop, MemElem.after_mem _ _ _ ‹_›]

@[simp] theorem ringBody_mem (e : MemElem) (s : State) : (ringBody e s).mem = s.mem := by
  simp only [ringBody]
  split
  · simp
  · split
    · simp
    · split
      · simp
      · split
        · simp
        · split
          · simp
          · split
            · simp [MemElem.beginTile_error_mem ‹_›]
            · simp [MemElem.beginTile_ok_mem ‹_›]

theorem MemElem.entryGate_mem (e : MemElem) (s : State) (h : Timed) : ∀ t ∈ e.entryGate s h, t.mem = s.mem := by
  simp only [MemElem.entryGate]
  split
  · simp
  · split
    · simp
    · split <;> simp

@[simp] theorem MemElem.finishPort_mem (e : MemElem) (s : State) (inst : Nat) :
    (e.finishPort s inst).mem = s.mem := by
  simp only [MemElem.finishPort]
  split
  · rfl
  · split
    · split
      · split <;> simp
      · simp
    · split
      · split <;> simp
      · simp

@[simp] theorem memEos_mem (e : MemElem) (s : State) (hs : List (Nat × Timed)) (fmt : Nat) :
    (memEos e s hs fmt).mem = s.mem := by
  simp [memEos]

@[simp] theorem memPass_mem (e : MemElem) (s : State) (hs : List (Nat × Timed)) (k : TokenKind) (fmt : Nat) :
    (memPass e s hs k fmt).mem = s.mem := by
  simp [memPass]

@[simp] theorem ldgFire_mem (e : MemElem) (s : State) (hs : List (Nat × Timed)) : (ldgFire e s hs).mem = s.mem := by
  simp only [ldgFire]
  split
  · simp
  · split
    · simp
    · split
      · simp
      · split
        · simp
        · split
          · simp
          · split <;> simp

@[simp] theorem stPastEnd_mem (e : MemElem) (s : State) (hs : List (Nat × Timed)) (poison : Bool) (js : List Nat) :
    (stPastEnd e s hs poison js).mem = s.mem := by
  simp only [stPastEnd]
  split
  · simp
  · split <;> simp

@[simp] theorem storeNow_mem (e : MemElem) (s : State) (hs : List (Nat × Timed)) (q : PortEntry) (js : List Nat) :
    (storeNow e s hs q js).mem = s.mem := by
  simp only [storeNow]
  repeat' split
  all_goals simp

@[simp] theorem stFire_mem (e : MemElem) (s : State) (hs : List (Nat × Timed)) : (stFire e s hs).mem = s.mem := by
  simp only [stFire]
  split
  · simp
  · split
    · simp
    · split
      · simp
      · split
        · simp
        · split
          · simp
          · split
            · split
              · simp
              · split <;> simp
            · split <;> simp

@[simp] theorem lockStepMem_mem {fire : MemFire} (hf : ∀ e s hs, (fire e s hs).mem = s.mem) (e : MemElem)
    (s : State) :
    (lockStepMem fire e s).mem = s.mem := by
  simp only [lockStepMem]
  split
  · simp
  · split
    · simp [MemElem.entryGate_mem _ _ _ _ ‹_›]
    · split
      · simp [prelude_done_mem ‹_›, apply_ite State.mem]
      · simp [hf, apply_ite State.mem]
      · simp [apply_ite State.mem]

theorem fireFallback_keeps {fire : MemFire} (hf : ∀ e s hs, (fire e s hs).mem = s.mem) (e : MemElem) (s : State)
    (r : Steer) (h : Timed) : (fireFallback fire e s r h).Keeps s := by
  simp only [fireFallback]
  split
  · simp [hf, Fallback.Keeps]
  · split
    · simp [hf, Fallback.Keeps]
    · split <;> simp [hf, Fallback.Keeps]

theorem noFallback_keeps (e : MemElem) (s : State) (t : Steer) (k : Timed) : (noFallback e s t k).Keeps s := rfl

@[simp] theorem answerIfDone_mem (s : State) (c n : Nat) : (answerIfDone s c n).mem = s.mem := by
  simp only [answerIfDone]
  split
  · split
    · simp
    · rfl
  · rfl

@[simp] theorem setAwayReq_mem (s : State) (c n : Nat) (r : MemReq) : (s.setAwayReq c n r).mem = s.mem := by rfl

@[simp] theorem deliverResp_mem (s : State) (c n : Nat) (r : MemResp) : (deliverResp s c n r).mem = s.mem := by
  simp only [deliverResp]
  split
  · simp [apply_ite State.mem]
  · split <;> simp [apply_ite State.mem]

@[simp] theorem keepFaulted_mem (s t : State) (c n : Nat) (r : MemResp) : (s.keepFaulted t c n r).mem = t.mem := by
  simp only [State.keepFaulted]
  split
  · simp
  · rfl

@[simp] theorem retry_mem (s : State) (c x : Nat) (is : List Nat) : (s.retry c x is).mem = s.mem := by rfl

@[simp] theorem allocBody_mem (w : FWord) (s : State) (b : Block) (c x i : Nat) (hs : List (Nat × Timed)) :
    (allocBody w s b c x i hs).mem = s.mem := by
  simp only [allocBody]
  split
  · simp
  · split
    · simp
    · split
      · split <;> simp
      · split
        · simp
        · split
          · simp
          · exact request_mem _ _ _ _ ‹_›

theorem allocFallback_keeps (w : FWord) (c x i : Nat) (b : Block) (s : State) (r : Steer) (h : Timed) :
    (allocFallback w c x i b s r h).Keeps s := by
  simp only [allocFallback]
  split
  · simp [Fallback.Keeps]
  · split
    · simp [Fallback.Keeps]
    · split
      · simp [Fallback.Keeps]
      · exact request_mem _ _ _ _ ‹_›

@[simp] theorem tileActBody_mem (handoff : Bool) (w : FWord) (s : State) (b : Block) (c x i : Nat)
    (hs : List (Nat × Timed)) : (tileActBody handoff w s b c x i hs).mem = s.mem := by
  simp only [tileActBody]
  split
  · simp
  · split
    · simp
    · split <;> simp

theorem tileActFallback_keeps (handoff : Bool) (w : FWord) (c x i : Nat) (b : Block) (s : State) (r : Steer)
    (h : Timed) :
    (tileActFallback handoff w c x i b s r h).Keeps s := by
  simp only [tileActFallback]
  split <;> simp [Fallback.Keeps]

/-! ## Device registers -/

@[simp] theorem deviceWrite_mem (s : State) (off n v : Nat) : (deviceWrite s off n v).mem = s.mem := by
  simp only [deviceWrite]
  split
  · split
    · rfl
    · split
      · split
        · simp
        · rfl
      · split
        · split
          · simp
          · rfl
        · rfl
  · rfl

/-! ## The control core's accesses -/

@[simp] theorem askAccess_mem (s : State) (r ea n : Nat) (w : Want) (a : Access0) :
    (s.askAccess r ea n w a).mem = s.mem := by
  simp only [State.askAccess]
  split
  · split
    · rfl
    · simp
  · rfl

/-! ## Frames and instances -/

theorem loadAll_mem (b : Block) (x : Nat) (cs : List Nat) {s t : State} (h : loadAll b x cs s = .ok t) :
    t.mem = s.mem := by
  induction cs generalizing s with
  | nil => cases h; rfl
  | cons c cs ih =>
    simp only [loadAll] at h
    split at h
    · cases h
    · simpa using ih h

@[simp] theorem dropOn_mem (x : Nat) (s : State) (c : Nat) : (dropOn x s c).mem = s.mem := by
  simp only [dropOn]
  split
  · rfl
  · simp

@[simp] theorem selectBeat_mem (s : State) (core : Nat) : (selectBeat s core).mem = s.mem := by
  simp [selectBeat]

theorem actOn_mem {c x : Nat} {a : TileAct} {s t : State} (h : actOn c x a s = .ok t) : t.mem = s.mem := by
  simp only [actOn] at h
  split at h
  · cases h
  · split at h
    · cases h
    · split at h
      · cases h; simp
      · split at h <;> cases h
        simp

theorem actAll_mem (c x : Nat) (as : List TileAct) {s t : State} (h : actAll c x as s = .ok t) : t.mem = s.mem := by
  induction as generalizing s with
  | nil => cases h; rfl
  | cons a as ih =>
    simp only [actAll] at h
    split at h
    · cases h
    · rw [ih h, actOn_mem ‹_›]

@[simp] theorem commitInst_mem (s : State) (c x : Nat) (n : Inst) : (commitInst s c x n).mem = s.mem := by
  simp [commitInst]

@[simp] theorem lostDrain_mem (s : State) (c : Nat) (t : Token) : (s.lostDrain c t).mem = s.mem := by
  simp only [State.lostDrain]
  split
  · rfl
  · split <;> simp

@[simp] theorem strayToken_mem (s : State) (c : Nat) (t : Token) : (s.strayToken c t).mem = s.mem := by
  simp [State.strayToken]

/-! ## Allocation -/

@[simp] theorem raiseDeadlock_mem (s : State) (core : Nat) : (raiseDeadlock s core).mem = s.mem := by
  simp only [raiseDeadlock]
  split
  · split <;> simp
  · split
    · simp
    · rfl

/-! ## Collectives -/

@[simp] theorem dropColl_mem (s : State) (r : Nat) (k : Coll) : (s.dropColl r k).mem = s.mem := by rfl

/-! ## Copies -/

@[simp] theorem modCopy_mem (s : State) (core : Nat) (f : CopyUnit → CopyUnit) :
    (s.modCopy core f).mem = s.mem := by rfl

@[simp] theorem setCopyQ_mem (s : State) (core cls : Nat) (q : List Copy) :
    (s.setCopyQ core cls q).mem = s.mem := by rfl

@[simp] theorem setHeadCopy_mem (s : State) (core cls : Nat) (c : Copy) :
    (s.setHeadCopy core cls c).mem = s.mem := by rfl

@[simp] theorem copyTrap_mem (s : State) (core at' : Nat) (c : Copy) (f : FaultCode) (poison : Bool)
    (info infoH : Nat) :
    (s.copyTrap core at' c f poison info infoH).mem = s.mem := by
  simp [State.copyTrap]

@[simp] theorem enqueueCopy_mem (s : State) (core ctx seqIdx : Nat) (ws : List Word) :
    (s.enqueueCopy core ctx seqIdx ws).mem = s.mem := by rfl

theorem Copy.start_go_mem {c d : Copy} {s t : State} {core : Nat} (h : c.start s core = .go t d) : t.mem = s.mem := by
  simp only [Copy.start] at h
  split at h
  · cases h
  · cases h
  · split at h
    · cases h
    · split at h
      · cases h
      · split at h
        · split at h <;> cases h
          simp
        · cases h; rfl

@[simp] theorem startHeads_mem (s : State) (core cls n : Nat) : (s.startHeads core cls n).mem = s.mem := by
  induction n generalizing s with
  | zero => rfl
  | succ n ih =>
    simp only [State.startHeads]
    split
    · rfl
    · split
      · rfl
      · split
        · rfl
        · simp [Copy.start_go_mem ‹_›]
        · simp [ih]

@[simp] theorem seekSlot_mem (s : State) (core cls : Nat) : (s.seekSlot core cls).mem = s.mem := by
  simp only [State.seekSlot]
  split
  · rfl
  · split
    · rfl
    · split
      · rfl
      · split
        · split
          · simp
          · split
            · simp
            · split
              · simp [request_mem _ _ _ _ ‹_›]
              · simp
        · split
          · rfl
          · split
            · rfl
            · split
              · simp [request_mem _ _ _ _ ‹_›]
              · rfl

@[simp] theorem issueChunk_mem (s : State) (core cls : Nat) (c : Copy) : (s.issueChunk core cls c).1.mem = s.mem := by
  simp only [State.issueChunk]
  split <;> split <;> split <;> simp

@[simp] theorem serveClass_mem (s : State) (core cls n : Nat) : (s.serveClass core cls n).mem = s.mem := by
  induction n generalizing s with
  | zero => rfl
  | succ n ih =>
    simp only [State.serveClass]
    split
    · simp
    · split
      · simp
      · split
        · simp
        · simp [ih]

@[simp] theorem classTurn_mem (core : Nat) (s : State) (cls : Nat) : (State.classTurn core s cls).mem = s.mem := by
  simp only [State.classTurn]
  split
  · simp
  · split <;> simp

@[simp] theorem askSlots_mem (s : State) (core : Nat) : (s.askSlots core).mem = s.mem := by
  simp [State.askSlots]

@[simp] theorem Copy.enterFlags_mem (c : Copy) (s : State) (core flags : Nat) :
    (Copy.enterFlags c s core flags).mem = s.mem := by
  simp only [Copy.enterFlags]
  split
  · split
    · simp
    · rfl
  · simp

@[simp] theorem holdChunk_mem (s : State) (core n : Nat) (h : Chunk) : (s.holdChunk core n h).mem = s.mem := by rfl

@[simp] theorem settleChunk_mem (s : State) (core id : Nat) : (s.settleChunk core id).mem = s.mem := by
  simp only [State.settleChunk]
  split
  · split
    · simp
    · rfl
  · rfl

@[simp] theorem dropChunk_mem (s : State) (core n : Nat) (h : Chunk) : (s.dropChunk core n h).mem = s.mem := by
  simp [State.dropChunk]

@[simp] theorem setChunk_mem (s : State) (core n : Nat) (h : Chunk) : (s.setChunk core n h).mem = s.mem := by rfl

@[simp] theorem stopAt_mem (s : State) (core : Nat) (c : Copy) (h : Chunk) : (s.stopAt core c h).mem = s.mem := by
  simp only [State.stopAt]
  split
  · rfl
  · split <;> simp

@[simp] theorem failChunk_mem (s : State) (core n : Nat) (c : Copy) (h : Chunk) (f : FaultCode) (d addr : Nat) :
    (s.failChunk core n c h f d addr).mem = s.mem := by
  simp only [State.failChunk]
  split <;> simp

@[simp] theorem copyReply_mem (s : State) (core id cls n : Nat) (marked : Bool) :
    (s.copyReply core id cls n marked).mem = s.mem := by
  simp only [State.copyReply]
  split
  · rfl
  · split <;> split <;> simp

/-! ## Fetch and waiting commands -/

@[simp] theorem askFetch_mem (s : State) (r : Nat) : (s.askFetch r).mem = s.mem := by
  simp only [State.askFetch]
  split
  · simp
  · rfl

@[simp] theorem abandonOn_mem (r : Nat) (s : State) (i : Nat) : (abandonOn r s i).mem = s.mem := by
  simp [abandonOn]

@[simp] theorem abandonWaiting_mem (s : State) (r : Nat) : (abandonWaiting s r).mem = s.mem := by
  simp only [abandonWaiting, setRegion_mem]
  refine (foldl_mem ?_ _ _).trans (foldl_mem (abandonOn_mem r) _ _)
  exact fun _ _ => rfl

/-! ## Matrix banks -/

@[simp] theorem setMx_mem (s : State) (c : Nat) (m : Matrix) : (s.setMx c m).mem = s.mem := by rfl

@[simp] theorem orderTrap_mem (s : State) (c ctx cidx : Nat) (entry : Option Nat) (f : FaultCode) (info : Nat) :
    (s.orderTrap c ctx cidx entry f info).mem = s.mem := by
  simp [State.orderTrap]

@[simp] theorem refuseOrder_mem (s : State) (c : Nat) (q : QOrder) (f : FaultCode) :
    (refuseOrder s c q f).mem = s.mem := by
  simp [refuseOrder]

@[simp] theorem refuseUnknown_mem (s : State) (c bank : Nat) : (refuseUnknown s c bank).mem = s.mem := by
  simp only [refuseUnknown]
  split
  · rfl
  · split
    · rfl
    · simp

@[simp] theorem startOrder_mem (s : State) (c : Nat) (q : QOrder) (op : Nat) (o : MxOrder) (e : Effect) :
    (startOrder s c q op o e).mem = s.mem := by
  simp [startOrder]

@[simp] theorem enterOrderFlags_mem (s : State) (c : Nat) (r : Running) : (enterOrderFlags s c r).mem = s.mem := by
  simp only [enterOrderFlags]
  split <;> simp

@[simp] theorem orderFaults_mem (s : State) (c : Nat) (r : Running) : (orderFaults s c r).mem = s.mem := by
  simp only [orderFaults]
  split
  · split <;> split <;> simp
  · split
    · split <;> simp
    · split
      · simp
      · rfl

@[simp] theorem sendCompletion_mem (s : State) (c : Nat) (r : Running) : (sendCompletion s c r).mem = s.mem := by
  simp only [sendCompletion]
  split <;> simp

/-! ## Parking -/

@[simp] theorem refuse_mem (s : State) (c : Nat) (t : Token) : (s.refuse c t).mem = s.mem := by
  simp [State.refuse]

@[simp] theorem offend_mem (s : State) (c : Nat) (t : Token) : (s.offend c t).mem = s.mem := by
  simp [State.offend]

@[simp] theorem numberFault_mem (s : State) (r : Nat) (f : FaultRec) : (s.numberFault r f).1.mem = s.mem := by
  simp only [State.numberFault]
  split <;> simp

@[simp] theorem answered_mem (s : State) (c seq : Nat) : (s.answered c seq).mem = s.mem := by rfl

@[simp] theorem dropWaits_mem (c x : Nat) (ids : List Nat) (s : State) : (dropWaits c x ids s).mem = s.mem := by
  simp [dropWaits]

@[simp] theorem discardFrame_mem (s : State) (c frame : Nat) (f : Frame) (p : Park) :
    (discardFrame s c frame f p).mem = s.mem := by
  simp [discardFrame, -List.foldl_append]

@[simp] theorem returnTokens_mem (c : Nat) (f : Frame) (ts : List Token) (s : State) :
    (returnTokens c f ts s).1.mem = s.mem := by
  induction ts generalizing s with
  | nil => rfl
  | cons t ts ih =>
    simp only [returnTokens]
    split
    · simp [ih]
    · split
      · simp
      · split
        · simp [ih]
        · rfl

@[simp] theorem returnParked_mem (s : State) (c frame : Nat) : (s.returnParked c frame).mem = s.mem := by
  simp only [State.returnParked]
  split
  · simp
  · rfl

@[simp] theorem resumeFrame_mem (s : State) (c frame : Nat) (f : Frame) (p : Park) (rep : Nat) (t : Token)
    (r : FaultRec) :
    (resumeFrame s c frame f p rep t r).mem = s.mem := by
  simp [resumeFrame, -List.foldl_append]

@[simp] theorem repairReq_mem (s : State) (c n : Nat) (r : MemReq) (t : Train) :
    (repairReq s c n r t).mem = s.mem := by
  simp only [repairReq]
  split
  · split <;> simp
  · split
    · split <;> simp
    · simp

@[simp] theorem repairExit_mem (s : State) (c x : Nat) (n : Inst) (t : Train) :
    (repairExit s c x n t).mem = s.mem := by
  simp [repairExit]

@[simp] theorem applyRepair_mem (s : State) (c x : Nat) (r : FaultRec) (t : Train) :
    (s.applyRepair c x r t).mem = s.mem := by
  simp only [State.applyRepair]
  split
  · simp
  · split
    · simp
    · split
      · split
        · simp
        · split <;> simp
      · rfl

/-! ## Delivery -/

theorem acceptOrder_mem (s : State) (c : Nat) (t : Token) : ∀ u ∈ acceptOrder s c t, u.mem = s.mem := by
  simp only [acceptOrder]
  split
  · simp
  · split <;> simp

theorem acceptRecord_mem (s : State) (c : Nat) (t : Token) : ∀ u ∈ acceptRecord s c t, u.mem = s.mem := by
  simp only [acceptRecord]
  split
  · simp
  · split
    · simp
    · split <;> simp

@[simp] theorem refusedAt_mem (s : State) (c : Nat) (t : Token) : (refusedAt s c t).mem = s.mem := by
  simp only [refusedAt]
  split
  · split
    · split <;> split <;> simp
    · split <;> simp
  · split
    · split <;> simp
    · simp

@[simp] theorem tokenTaken_mem (s : State) (c : Nat) (t : Token) : (s.tokenTaken c t).mem = s.mem := by
  simp only [State.tokenTaken]
  split
  · split
    · simp
    · rfl
  · rfl

theorem acceptMail_mem (s : State) (r src : Nat) (t : Token) : ∀ u ∈ acceptMail s r src t, u.mem = s.mem := by
  simp only [acceptMail]
  split
  · simp
  · split
    · split <;> simp
    · simp

@[simp] theorem replied_mem (s : State) (p : Packet) : (s.replied p).mem = s.mem := by
  simp only [State.replied]
  split <;> simp

/-! ## Contexts -/

@[simp] theorem switchOut_mem (s : State) (c x cxid ptr area e : Nat) (l : Launch) :
    (switchOut s c x cxid ptr area e l).mem = s.mem := by rfl

theorem hostPiece_mem (s : State) (c e i n : Nat) (d : Divert) : ∀ p ∈ hostPiece s c e i n d, p.2.2.mem = s.mem := by
  simp only [hostPiece]
  split <;> simp

@[simp] theorem stopSave_mem (s : State) (c x : Nat) (v : Saving) (f : FaultCode) (info : Nat) :
    (stopSave s c x v f info).mem = s.mem := by
  simp [stopSave]

theorem nextHost_mem (s : State) (c : Nat) (v : Saving) (d : Divert) : ∀ p ∈ nextHost s c v d, p.2.2.mem = s.mem := by
  simp only [nextHost]
  split
  · simp
  · exact hostPiece_mem _ _ _ _ _ _

@[simp] theorem emptyTiles_mem (s : State) (c x : Nat) : (emptyTiles s c x).mem = s.mem := by
  simp [emptyTiles]

@[simp] theorem vacate_mem (s : State) (c x : Nat) (d : Divert) : (vacate s c x d).mem = s.mem := by
  simp [vacate]

@[simp] theorem freeHosted_mem (s : State) (c e : Nat) : (freeHosted s c e).mem = s.mem := by
  simp [freeHosted]

/-! ## Debugging -/

@[simp] theorem changeStacks_mem (s : State) (cs : Option (List Nat)) (ctx : Nat) (f : List Nat → List Nat) :
    (changeStacks s cs ctx f).mem = s.mem := by
  simp only [changeStacks]
  split <;> simp

/-! ## The package -/

@[simp] theorem replay_mem (n : Nat) (s : State) (p : Nat × Vault) : (replay n s p).mem = s.mem := by
  simp only [replay]
  split
  · simp
  · rfl

@[simp] theorem bringUp_mem (s : State) (n : Nat) : (s.bringUp n).mem = s.mem := by
  simp [State.bringUp]

@[simp] theorem start_mem (s : State) : s.start.mem = s.mem := by
  simp [State.start]

@[simp] theorem boot_mem (s : State) : s.boot.mem = s.mem := by
  simp only [State.boot]
  split
  · simp
  · rfl

@[simp] theorem setVault_mem (s : State) (v : Nat) (x : Vault) : (s.setVault v x).mem = s.mem := by rfl

@[simp] theorem poisonUnits_mem (s : State) (v : Nat) : (s.poisonUnits v).mem = s.mem := by
  simp [State.poisonUnits]

@[simp] theorem setPoint_mem (s : State) (layer mv : Nat) : (s.setPoint layer mv).mem = s.mem := by rfl

@[simp] theorem setTemp_mem (s : State) (layer temp : Nat) : (s.setTemp layer temp).mem = s.mem := by rfl

/-! ## State registers and clocks -/

theorem writeStateReg_mem {s t : State} {r n v : Nat} (h : writeStateReg s r n v = .ok t) : t.mem = s.mem := by
  simp only [writeStateReg] at h
  split at h
  · split at h <;> cases h
    simp
  · split at h <;> cases h
    simp

@[simp] theorem clocksOn_mem (s : State) (stack : Nat) : (s.clocksOn stack).mem = s.mem := by
  simp [State.clocksOn]

end Sys2Proof.Machine
end

section
/-! The memory under the functions that write it: each keeps its canonical form, as every write goes through
`writeKeys`. -/
namespace Sys2Proof.Machine

/-! ## Folds and pairs -/

/-- A fold of updates that each keep the memory's canonical form keeps it. -/
theorem foldl_wf {α : Type} {f : State → α → State} (hf : ∀ s a, memWf s.mem = true → memWf (f s a).mem = true)
    (l : List α) {s : State} (h : memWf s.mem = true) : memWf (l.foldl f s).mem = true := by
  induction l generalizing s with
  | nil => exact h
  | cons a l ih => exact ih (hf s a h)

theorem fst_wf {β : Type} {p : State × β} {t : State} {b : β} (h : memWf p.1.mem = true) (e : p = (t, b)) :
    memWf t.mem = true := by
  subst e; exact h

/-! ## The control core's stores, status words and traps -/

@[simp] theorem storeMarked_wf {s : State} (h : memWf s.mem = true) (ks bs : List Nat) (ps : List Bool) :
    memWf (s.storeMarked ks bs ps).mem = true := by
  simp only [State.storeMarked]
  split <;> simp [writeKeys_wf, h]

@[simp] theorem rmw_wf {s : State} (h : memWf s.mem = true) (ks bs : List Nat) : memWf (s.rmw ks bs).mem = true :=
  writeKeys_wf ks bs s h

@[simp] theorem drainOne_wf {s : State} (h : memWf s.mem = true) (r : Nat) : memWf (s.drainOne r).mem = true := by
  simp only [State.drainOne]
  split
  · assumption
  · split
    · assumption
    · simp [writeKeys_wf, h]

@[simp] theorem buffer_wf {s : State} (h : memWf s.mem = true) (r : Nat) (b : BufStore) :
    memWf (s.buffer r b).mem = true := by
  simp only [State.buffer]
  split
  · assumption
  · simp [h]

@[simp] theorem writeStatus_wf {s : State} (h : memWf s.mem = true) (r completion : Nat) (w : Word) :
    memWf (s.writeStatus r completion w).mem = true := by
  simp only [State.writeStatus]
  split
  · split
    · simp [drain_wf, h]
    · split <;> simp [writeKeys_wf, drain_wf, h]
  · simp [drain_wf, h]

@[simp] theorem payRecord_wf {s : State} (h : memWf s.mem = true) (r : Nat) : memWf (s.payRecord r).mem = true := by
  simp only [State.payRecord]
  split
  · assumption
  · split
    · assumption
    · simp [writeKeys_wf, h]

@[simp] theorem endLaunch_wf {s : State} (h : memWf s.mem = true) (r status fault : Nat) :
    memWf (s.endLaunch r status fault).mem = true := by
  simp only [State.endLaunch]
  split
  · assumption
  · simp [h]

@[simp] theorem payStatus_wf {s : State} (h : memWf s.mem = true) (r : Nat) : memWf (s.payStatus r).mem = true := by
  simp only [State.payStatus]
  split
  · assumption
  · split
    · simp [h]
    · assumption

@[simp] theorem escalate_wf {s : State} (h : memWf s.mem = true) (r fault : Nat) :
    memWf (s.escalate r fault).mem = true := by
  simp [State.escalate, h]

@[simp] theorem takeTrap_wf {s : State} (h : memWf s.mem = true) (r : Nat) (resume : Word) (t : Trap) :
    memWf (s.takeTrap r resume t).mem = true := by
  simp only [State.takeTrap]
  split
  · simp [h]
  · assumption

/-! ## Outcomes -/

/-- A word's result: where it is a state, its memory has the canonical form. -/
def ResWf (x : Res State) : Prop := ∀ t, x = .ok t → memWf t.mem = true

/-- An outcome: where it goes on, the next state's memory has the canonical form. -/
def NextWf (o : Host.Outcome State Fault Refusal) : Prop := ∀ t, o = .next t → memWf t.mem = true

@[simp] theorem resWf_ok (t : State) : ResWf (.ok t) ↔ memWf t.mem = true := by
  simp [ResWf]

@[simp] theorem resWf_error (e : Stop) : ResWf (.error e) := by
  simp [ResWf]

@[simp] theorem resWf_fail (f : FaultCode) : ResWf (fail f) := by
  simp [ResWf, fail]

@[simp] theorem resWf_bind {α : Type} (x : Res α) (f : α → Res State) :
    ResWf (x >>= f) ↔ ∀ a, x = .ok a → ResWf (f a) := by
  cases x <;> simp [ResWf, bind, Except.bind]

/-- A result that a further step takes up. -/
theorem resWf_bind_state {f : State → Res State} {x : Res State} (hx : ResWf x)
    (hf : ∀ t, memWf t.mem = true → ResWf (f t)) : ResWf (x >>= f) := by
  simp only [resWf_bind]
  exact fun t ht => hf t (hx t ht)

theorem nextWf_fault (f : Fault) : NextWf (.fault f) := by
  simp [NextWf]

@[simp] theorem nextWf_next (t : State) : NextWf (.next t) ↔ memWf t.mem = true := by
  simp [NextWf]

theorem finish_nextWf {s : State} (h : memWf s.mem = true) (r : Nat) {x : Res State} (hx : ResWf x) :
    NextWf (finish s r x) := by
  obtain ⟨t, ht, ⟨u, rfl, rfl⟩ | ⟨c, -, rfl⟩ | ⟨-, rfl⟩⟩ := finish_cases s r x
  · simpa using hx
  · simp [ht, h]
  · simp [ht, h]

theorem finishJump_nextWf {s : State} (h : memWf s.mem = true) (r : Nat) {x : Res State} (hx : ResWf x) :
    NextWf (finishJump s r x) := by
  obtain ⟨t, ht, ⟨u, rfl, rfl⟩ | ⟨c, -, rfl⟩ | ⟨-, rfl⟩⟩ := finishJump_cases s r x
  · simpa [ht] using hx
  · simp [ht, h]
  · simp [ht, h]

/-- A command keeps the canonical form where its own work does, on the state whose stores have been performed (R98). -/
theorem command_nextWf {s : State} (h : memWf s.mem = true) {f : State → Res State}
    (hf : ∀ d, memWf d.mem = true → ResWf (f d)) : NextWf (command s f) := by
  have hd : memWf (s.drain s.turn).mem = true := drain_wf _ _ h
  refine finish_nextWf hd _ ?_
  split
  · exact hf _ hd
  · exact resWf_error _

/-! ## Tiles -/

theorem evictPiece_wf {s : State} (h : memWf s.mem = true) (core q : Nat) :
    ∀ t ∈ s.evictPiece core q, memWf t.mem = true := by
  simp only [State.evictPiece]
  split
  · simp
  · split
    · split
      · simp
      · simp [writeKeys_wf, h]
    · simp

@[simp] theorem makeRoom_wf {s : State} (h : memWf s.mem = true) (core q size n : Nat) :
    memWf (s.makeRoom core q size n).mem = true := by
  induction n generalizing s with
  | zero => exact h
  | succ n ih =>
    simp only [State.makeRoom]
    split
    · assumption
    · split
      · exact ih (evictPiece_wf h _ _ _ ‹_›)
      · assumption

@[simp] theorem serve_wf {s : State} (h : memWf s.mem = true) (core q n : Nat) :
    memWf (s.serve core q n).mem = true := by
  induction n generalizing s with
  | zero => exact h
  | succ n ih =>
    simp only [State.serve]
    split
    · assumption
    · split
      · assumption
      · split <;> simp [ih, h]

@[simp] theorem servePool_wf {s : State} (h : memWf s.mem = true) (core q : Nat) :
    memWf (s.servePool core q).mem = true :=
  serve_wf h core q 64

@[simp] theorem serveTouched_wf {s : State} (h : memWf s.mem = true) (core : Nat) :
    memWf (s.serveTouched core).mem = true :=
  foldl_wf (fun _ _ ht => servePool_wf ht _ _) _ (by simpa using h)

/-! ## Streams -/

@[simp] theorem ctxWrite_wf {s : State} (h : memWf s.mem = true) (c addr : Nat) (ks bs : List Nat) (poison : Bool) :
    memWf (s.ctxWrite c addr ks bs poison).mem = true := by
  simp only [State.ctxWrite]
  split <;> split <;> simp [writeKeys_wf, h]

@[simp] theorem ctxUpdate_wf {s : State} (h : memWf s.mem = true) (c addr : Nat) (ks bs : List Nat) :
    memWf (s.ctxUpdate c addr ks bs).mem = true := by
  simp only [State.ctxUpdate]
  split <;> simp [writeKeys_wf, h]

@[simp] theorem writeAccess_wf {s : State} (h : memWf s.mem = true) (c p n : Nat) (r : MemReq) (e : PortEntry) :
    memWf (writeAccess s c p n r e).mem = true := by
  simp only [writeAccess]
  split
  · simp [h]
  · split
    · split
      · simp [h]
      · assumption
    · split
      · assumption
      · assumption
      · split <;> simp [h]

/-! ## Phase counters -/

@[simp] theorem setCounter_wf {s : State} (h : memWf s.mem = true) (k : Nat) (p : PhaseCtr) :
    memWf (s.setCounter k p).mem = true := by
  simp [State.setCounter, writeKeys_wf, h]

@[simp] theorem homeCycle_wf {s : State} (h : memWf s.mem = true) (k arrivals : Nat) :
    memWf (s.homeCycle k arrivals).mem = true := by
  simp only [State.homeCycle]
  split
  · split <;> simp [h]
  · split
    · assumption
    · simp [h]

@[simp] theorem cycle_wf {s : State} (h : memWf s.mem = true) (k arrivals : Nat) :
    memWf (s.cycle k arrivals).mem = true := by
  have hc : memWf (s.sameCycle k).1.mem = true := by simpa using h
  simp only [State.cycle]
  split
  · assumption
  · split
    · simp [h]
    · split
      · exact fst_wf hc ‹_›
      · exact homeCycle_wf (fst_wf hc ‹_›) _ _

@[simp] theorem expectMore_wf {s : State} (h : memWf s.mem = true) (k n : Nat) :
    memWf (s.expectMore k n).mem = true := by
  simp [State.expectMore, h]

/-! ## Diversion -/

theorem appendRecord_wf {s : State} (h : memWf s.mem = true) (core e kind off mask r2 : Nat) (data : List Nat) :
    ∀ t ∈ s.appendRecord core e kind off mask r2 data, memWf t.mem = true := by
  simp only [State.appendRecord]
  split
  · simp
  · split
    · simp
    · split
      · simp
      · simp [writeKeys_wf, h]

@[simp] theorem divert_wf {s : State} (h : memWf s.mem = true) (core e kind off mask r2 : Nat) (data : List Nat) :
    memWf (s.divert core e kind off mask r2 data).1.mem = true := by
  simp only [State.divert]
  split
  · assumption
  · split
    · assumption
    · split
      · exact appendRecord_wf h _ _ _ _ _ _ _ _ ‹_›
      · simp [h]

@[simp] theorem divertLine_wf {s : State} (h : memWf s.mem = true) (core e kind extra : Nat) (offs bytes : List Nat)
    (poison : List Bool) : memWf (s.divertLine core e kind extra offs bytes poison).1.mem = true :=
  divert_wf h ..

@[simp] theorem land_wf {s : State} (h : memWf s.mem = true) (ks bs : List Nat) (ps : List Bool) :
    memWf (s.land ks bs ps).mem = true := by
  simp [State.land, h]

/-! ## Memory requests -/

@[simp] theorem performAcc_wf {s : State} (h : memWf s.mem = true) (c n : Nat) (r : MemReq) (q : PortEntry)
    (a : Access)
    (ks : List Nat) : memWf (performAcc s c n r q a ks).mem = true := by
  simp only [performAcc]
  split
  · assumption
  · simp [h]
  · split
    · simp [h]
    · split
      · assumption
      · split <;> simp [h, apply_ite State.mem]
  · split
    · simp [h]
    · split
      · assumption
      · simp [h]
  · split
    · assumption
    · simp [h, apply_ite State.mem]

@[simp] theorem performRecord_wf {s : State} (h : memWf s.mem = true) (c n : Nat) (r : MemReq) (a : Access)
    (ks : List Nat) : memWf (performRecord s c n r a ks).mem = true := by
  simp [performRecord, h]

@[simp] theorem ownRequest_wf {s : State} (h : memWf s.mem = true) (core n : Nat) (r : MemReq) :
    memWf (ownRequest s core n r).mem = true := by
  simp only [ownRequest]
  split
  · assumption
  · split
    · simp [h]
    · split
      · assumption
      · assumption
      · split
        · assumption
        · split <;> simp [h]
    · assumption

@[simp] theorem asImage_wf {s : State} (h : memWf s.mem = true) {f : State → State}
    (hf : ∀ t, memWf t.mem = true → memWf (f t).mem = true) (c e n : Nat) (d : Divert) (r : MemReq) :
    memWf (s.asImage c e n d r f).mem = true :=
  hf _ h

@[simp] theorem awayWrite_wf {s : State} (h : memWf s.mem = true) (c e n : Nat) (r : MemReq) (q : PortEntry)
    (a : Access) :
    memWf (awayWrite s c e n r q a).mem = true := by
  simp only [awayWrite]
  split
  · split
    · simp [fst_wf (divertLine_wf h ..) ‹_›]
    · exact fst_wf (divertLine_wf h ..) ‹_›
  · exact h

@[simp] theorem awayAdd_wf {s : State} (h : memWf s.mem = true) (c e n : Nat) (r : MemReq) (q : PortEntry)
    (a : Access) :
    memWf (awayAdd s c e n r q a).mem = true := by
  simp only [awayAdd]
  split
  · split
    · simp [fst_wf (divertLine_wf h ..) ‹_›]
    · exact fst_wf (divertLine_wf h ..) ‹_›
  · exact h

@[simp] theorem awayRequest_wf {s : State} (h : memWf s.mem = true) (c n : Nat) (r : MemReq) :
    memWf (awayRequest s c n r).mem = true := by
  simp only [awayRequest]
  split
  · assumption
  · split
    · assumption
    · split
      · assumption
      · split
        · split
          · assumption
          · split
            · simp [h]
            · split
              · simp [h]
              · assumption
        · split
          · simp [h, apply_ite State.mem]
          · split
            · exact asImage_wf (by simpa using h) (fun t ht => by split <;> simp [ht]) ..
            · simp [h, apply_ite State.mem]
            · assumption
      · simp [h, apply_ite State.mem]

@[simp] theorem divertResp_wf {s : State} (h : memWf s.mem = true) (c n e : Nat) (a : MemResp) :
    memWf (divertResp s c n e a).mem = true := by
  simp only [divertResp]
  split
  · exact fst_wf (divert_wf h ..) ‹_›
  · have ht := fst_wf (divert_wf h ..) ‹_›
    split <;> simp [ht]

@[simp] theorem divertGrant_wf {s : State} (h : memWf s.mem = true) (c x : Nat) :
    memWf (divertGrant s c x).mem = true := by
  simp only [divertGrant]
  split
  · exact h
  · split
    · exact h
    · split
      · exact h
      · split
        · exact fst_wf (divert_wf h ..) ‹_›
        · have ht := fst_wf (divert_wf h ..) ‹_›
          split <;> simp [ht]

/-! ## The control core's own accesses -/

@[simp] theorem orderDevice_wf {s : State} (h : memWf s.mem = true) (r ea : Nat) :
    memWf (orderDevice s r ea).mem = true := by
  simp only [orderDevice]
  split
  · simp [drain_wf, h]
  · assumption

@[simp] theorem payOne_wf {s : State} (h : memWf s.mem = true) (r : Nat) : memWf (s.payOne r).mem = true := by
  simp only [State.payOne]
  split
  · simp [h]
  · split <;> simp [h]

theorem storePayload_wf {s : State} (h : memWf s.mem = true) (r addr : Nat) (bs : List Nat) :
    ResWf (storePayload s r addr bs) := by
  unfold storePayload
  split
  · simp [h]
  · simp [writeKeys_wf, h]

@[simp] theorem endBeat_wf {s : State} (h : memWf s.mem = true) (core : Nat) : memWf (endBeat s core).mem = true := by
  simp [endBeat, h]

/-! ## Collectives and copies -/

@[simp] theorem deliverColl_wf {s : State} (h : memWf s.mem = true) (k : Coll) (res : List (Option Nat)) :
    memWf (s.deliverColl k res).mem = true := by
  simp only [State.deliverColl]
  split
  · assumption
  · simp [h]

@[simp] theorem addOne_wf {s : State} (h : memWf s.mem = true) (ks : List Nat) (fmt mode uns value : Nat)
    (poison : Bool) :
    memWf (s.addOne ks fmt mode uns value poison).1.mem = true := by
  simp only [State.addOne]
  split <;> simp [writeKeys_wf, h]

@[simp] theorem appendOne_wf {s : State} (h : memWf s.mem = true) (count : List Nat) (slots : List (List Nat))
    (bytes : List Nat) (poison : List Bool) : memWf (s.appendOne count slots bytes poison).1.mem = true := by
  simp only [State.appendOne]
  split
  · assumption
  · split <;> simp [writeKeys_wf, h]

@[simp] theorem Copy.landOp_wf (c : Copy) {s : State} (h : memWf s.mem = true) (core : Nat) (op : ChunkOp) :
    memWf (c.landOp s core op).1.mem = true := by
  simp only [Copy.landOp]
  split
  · split <;> simp [h]
  · split <;> simp [h]
  · split
    · assumption
    · simp [h]

@[simp] theorem Copy.landOps_wf (c : Copy) (core : Nat) (ops : List ChunkOp) {s : State} (h : memWf s.mem = true) :
    memWf (c.landOps core s ops).1.mem = true := by
  induction ops generalizing s with
  | nil => exact h
  | cons op rest ih =>
    have h1 : memWf (c.landOp s core op).1.mem = true := c.landOp_wf h core op
    simp only [Copy.landOps]
    split
    · exact fst_wf h1 ‹_›
    · exact ih (fst_wf h1 ‹_›)

@[simp] theorem Copy.arriveAt_wf (c : Copy) {s : State} (h : memWf s.mem = true) (core d win off bytes : Nat)
    (lost : Bool) :
    memWf (c.arriveAt s core d win off bytes lost).1.mem = true := by
  simp only [Copy.arriveAt]
  split
  · simp [h]
  · split
    · assumption
    · split
      · simp [h]
      · split
        · simp [h]
        · split
          · simp [h]
          · assumption
          · split
            · assumption
            · split
              · simp [h]
              · split <;> simp [h]

@[simp] theorem Copy.arrivals_wf (c : Copy) (core : Nat) (k : Chunk) (ds : List Nat) {s : State}
    (h : memWf s.mem = true) :
    memWf (c.arrivals core k s ds).1.mem = true := by
  induction ds generalizing s with
  | nil => exact h
  | cons d ds ih =>
    simp only [Copy.arrivals]
    split
    · assumption
    · split
      · exact ih (fst_wf (c.arriveAt_wf h ..) ‹_›)
      · exact fst_wf (c.arriveAt_wf h ..) ‹_›

@[simp] theorem Copy.fillSlot_wf (c : Copy) {s : State} (h : memWf s.mem = true) (core : Nat) :
    memWf (c.fillSlot s core).1.mem = true := by
  simp only [Copy.fillSlot]
  split
  · split <;> simp [h]
  · assumption

@[simp] theorem Copy.wrapUp_wf (c : Copy) {s : State} (h : memWf s.mem = true) (core : Nat) :
    memWf (c.wrapUp s core).1.mem = true := by
  simp only [Copy.wrapUp]
  split
  · assumption
  · split
    · assumption
    · split
      · split <;> split <;> simp [h]
      · split
        · simp [h]
        · split <;> simp [h]

@[simp] theorem writeChunk_wf {s : State} (h : memWf s.mem = true) (core n : Nat) (c : Copy) (k : Chunk) :
    memWf (s.writeChunk core n c k).mem = true := by
  have h1 : memWf (c.landOps core s (c.joinLines s core k.ops)).1.mem = true := c.landOps_wf core _ h
  simp only [State.writeChunk]
  split
  · simp [h1]
  · split
    · split <;> simp [h1]
    · split
      · simp [h1]
      · split <;>
        · have h3 := fst_wf (Copy.wrapUp_wf _ (Copy.arrivals_wf _ _ _ _ ?_) _) ‹_›
          · simpa using h3
          · simpa using h1

@[simp] theorem cancelCopy_wf {s : State} (h : memWf s.mem = true) (core : Nat) (c : Copy) :
    memWf (s.cancelCopy core c).mem = true := by
  simp only [State.cancelCopy]
  split
  · split <;> split <;> simp [h]
  · split
    · split
      · assumption
      · simp [h]
    · split
      · assumption
      · simp [h]

/-! ## Asynchronous causes -/

@[simp] theorem takeHeld_wf {s : State} (h : memWf s.mem = true) (r : Nat) : memWf (s.takeHeld r).mem = true := by
  simp only [State.takeHeld]
  split
  · assumption
  · split
    · split <;> simp [h]
    · split
      · simp [h]
      · assumption

/-! ## Matrix orders -/

@[simp] theorem landOrder_wf (c : Nat) (r : Running) (ops : List ChunkOp) {s : State} (h : memWf s.mem = true) :
    memWf (landOrder c r s ops).1.mem = true := by
  induction ops generalizing s with
  | nil => exact h
  | cons op rest ih =>
    simp only [landOrder]
    split
    · split
      · exact ih (fst_wf (divertLine_wf h ..) ‹_›)
      · exact fst_wf (divertLine_wf h ..) ‹_›
    · split
      · simp [ih, h]
      · assumption
      · simp [h]
    · simp [ih, h]

/-! ## Parking and delivery -/

theorem map_setCore_wf {s : State} (h : memWf s.mem = true) (c : Nat) (k : Option Core) :
    ∀ t ∈ k.map (s.setCore c), memWf t.mem = true := by
  cases k <;> simp [h]

theorem enterStore_wf {s : State} (h : memWf s.mem = true) (c : Nat) (t : Token) (f : Frame) :
    ∀ u ∈ enterStore s c t f, memWf u.mem = true := by
  simp only [enterStore]
  split
  · split
    · split <;> simp [writeKeys_wf, h]
    · simp [h]
  · split
    · simp [h]
    · split <;> simp [h]

theorem admitToken_wf {s : State} (h : memWf s.mem = true) (c : Nat) (t : Token) :
    ∀ u ∈ admitToken s c t, memWf u.mem = true := by
  unfold admitToken
  split
  · simp [h]
  · split
    · simp [h]
    · split
      · simp [h]
      · split
        · simp [h]
        · split
          · simp [h]
          · exact enterStore_wf h c t _

@[simp] theorem writePark_wf {s : State} (h : memWf s.mem = true) (c base : Nat) (k : Ctx) (f : Frame) (r : FaultRec)
    (p : Park) (is : List Nat) (ts : List Token) : memWf (writePark s c base k f r p is ts).mem = true := by
  simp [writePark, writeKeys_wf, h]

theorem parkFrame_wf {s : State} (h : memWf s.mem = true) (c frame : Nat) (f : Frame) (r : FaultRec) :
    ∀ u ∈ parkFrame s c frame f r, memWf u.mem = true := by
  simp only [parkFrame]
  split
  · simp
  · split <;> split <;> split <;> split <;> split <;> simp [h]

theorem acceptSlot_wf {s : State} (h : memWf s.mem = true) (c : Nat) (t : Token) :
    ∀ u ∈ acceptSlot s c t, memWf u.mem = true := by
  unfold acceptSlot
  split
  · exact admitToken_wf h c t
  · split
    · exact fun u hu => acceptOrder_mem s c t u hu ▸ h
    · split
      · exact fun u hu => acceptRecord_mem s c t u hu ▸ h
      · split
        · simp [h]
        · split <;> simp [h]

theorem acceptToken_wf {s : State} (h : memWf s.mem = true) (c : Nat) (t : Token) :
    ∀ u ∈ acceptToken s c t, memWf u.mem = true := by
  unfold acceptToken
  split
  · simp [h]
  · split
    · split
      · have hu := fst_wf (divert_wf h ..) ‹_›
        simpa using hu
      · simp
    · exact acceptSlot_wf h c t

@[simp] theorem deliver_wf {s : State} (h : memWf s.mem = true) (dst : Nat) (p : Packet) :
    memWf (s.deliver dst p).mem = true := by
  simp only [State.deliver]
  split
  · simp [h]
  · split
    · simp [h]
    · split
      · split
        · simpa using acceptToken_wf h _ _ _ ‹_›
        · simp [h]
      · split
        · simpa [acceptMail_mem _ _ _ _ _ ‹_›] using h
        · assumption

/-! ## Contexts -/

@[simp] theorem savePiece_wf {s : State} (h : memWf s.mem = true) (c x : Nat) (v : Saving) (d : Divert) :
    memWf (savePiece s c x v d).mem = true := by
  unfold savePiece
  dsimp only
  split
  · simp [h]
  · split
    · split
      · rename_i hp
        have ht : memWf _ = true := nextHost_mem _ _ _ _ _ hp ▸ h
        exact store_wf _ _ _ (store_wf _ _ _ (storeMarked_wf ht ..))
      · simp [writeKeys_wf, h]
    · simp [h]
    · simp [h]
    · simp [h]

@[simp] theorem applyWrite_wf (c x : Nat) {s : State} (h : memWf s.mem = true) (p : ProofRec) :
    memWf (applyWrite c x s p).mem = true := by
  simp only [applyWrite]
  split
  · split <;> simp [h]
  · split
    · split
      · split
        · simp [h]
        · assumption
      · split <;> simp [h]
    · split
      · split
        · split <;> simp [h]
        · split
          · simp [h]
          · assumption
      · split
        · simp [h]
        · assumption

@[simp] theorem applyArrival_wf (c x : Nat) {s : State} (h : memWf s.mem = true) (p : ProofRec) :
    memWf (applyArrival c x s p).mem = true := by
  simp only [applyArrival]
  split
  · assumption
  · split
    · simp [h]
    · split
      · simp [h]
      · split <;> simp [h]

@[simp] theorem reinject_wf (c : Nat) {s : State} (h : memWf s.mem = true) (t : Token) :
    memWf (reinject c s t).mem = true := by
  unfold reinject
  cases hu : acceptSlot s c t with
  | none => simp [h]
  | some u => exact acceptSlot_wf h c t u hu

theorem applyToken_wf (c : Nat) {sa : State × List Answered} (h : memWf sa.1.mem = true) (p : ProofRec) :
    memWf (applyToken c sa p).1.mem = true := by
  simp only [applyToken]
  split
  · simp [h]
  · split
    · assumption
    · split <;> assumption

theorem applyTokens_wf (c : Nat) (log : List ProofRec) {sa : State × List Answered} (h : memWf sa.1.mem = true) :
    memWf (log.foldl (applyToken c) sa).1.mem = true := by
  induction log generalizing sa with
  | nil => exact h
  | cons p log ih => exact ih (applyToken_wf c h p)

@[simp] theorem finishMerge_wf {s : State} (h : memWf s.mem = true) (c x e : Nat) (d : Divert) (log : List ProofRec)
    (toks : List Token) (prio : Nat) : memWf (finishMerge s c x e d log toks prio).mem = true := by
  have h1 : memWf (log.foldl (applyWrite c x) s).mem = true := foldl_wf (fun _ p ht => applyWrite_wf c x ht p) log h
  have h2 := foldl_wf (f := applyArrival c x) (fun _ p ht => applyArrival_wf c x ht p) log h1
  have h3 := foldl_wf (f := reinject c) (fun _ t ht => reinject_wf c ht t) toks h2
  have h4 := applyTokens_wf c log (sa := (_, d.resps)) h3
  simp only [finishMerge]
  split <;> simp [writeKeys_wf, h4]

@[simp] theorem restoreTile_wf (c : Nat) (d : Divert) (bad : List Nat) {s : State} (h : memWf s.mem = true)
    (t : SavedTile) :
    memWf (restoreTile c d bad s t).mem = true := by
  simp [restoreTile, h]

@[simp] theorem restoreSections_wf {s : State} (h : memWf s.mem = true) (c x e : Nat) (d : Divert) (im : Image) :
    memWf (restoreSections s c x e d im).1.mem = true := by
  have h1 : memWf ((imageTiles im).foldl (restoreTile c d im.bad) (freeHosted s c e)).mem = true :=
    foldl_wf (fun _ _ ht => restoreTile_wf c d _ ht _) _ (by simpa using h)
  simp [restoreSections, h1]

@[simp] theorem mergeImage_wf {s : State} (h : memWf s.mem = true) (c x e ptr : Nat) (d : Divert) (image : Image)
    (log : List Nat) : memWf (mergeImage s c x e ptr d image log).mem = true := by
  simp [mergeImage, h]

@[simp] theorem abandonSave_wf {s : State} (h : memWf s.mem = true) (c x : Nat) (v : Saving) (d : Divert)
    (log : List Nat) :
    memWf (abandonSave s c x v d log).mem = true := by
  simp [abandonSave, h]

theorem resumeOn_wf (x : Nat) {s : State} (h : memWf s.mem = true) (c : Nat) : ResWf (resumeOn x s c) := by
  unfold resumeOn
  split
  · simp [h]
  · split
    · simp [h]
    · simp [h]

theorem resumeAll_wf (x : Nat) (cs : List Nat) {s : State} (h : memWf s.mem = true) : ResWf (resumeAll x cs s) := by
  induction cs generalizing s with
  | nil => simpa [resumeAll] using h
  | cons c cs ih => exact resWf_bind_state (resumeOn_wf x h c) fun t ht => ih ht

@[simp] theorem startClear_wf {s : State} (h : memWf s.mem = true) (c e : Nat) (d : Divert) :
    memWf (startClear s c e d).mem = true := by
  simp only [startClear, setCore_mem]
  exact foldl_wf (fun _ _ ht => cancelCopy_wf ht ..) _ (by simpa using h)

@[simp] theorem endClear_wf {s : State} (h : memWf s.mem = true) (c e : Nat) (d : Divert) (ks : List Nat) :
    memWf (endClear s c e d ks).mem = true := by
  unfold endClear
  extract_lets s0 s1 s2 k s3
  have h0 : s0.mem = s.mem := by simp [s0]
  have h1 : s1.mem = s.mem := by
    refine (foldl_mem (fun t f => ?_) _ _).trans h0
    dsimp only
    split <;> simp
  have h2 : s2.mem = s.mem := by
    simp only [s2]
    split <;> simp [h1]
  have h3 : (freeHosted s3 c e).mem = s.mem := by simp [s3, h2]
  rw [dropDiv_mem]
  exact store_wf ks _ _ (by rw [h3]; exact h)

/-! ## Launches -/

@[simp] theorem placeTiles_wf (c : Nat) (ts : List ImageTile) (n : Nat) (at' : List Nat) {s : State}
    (h : memWf s.mem = true) : memWf (placeTiles c ts n at' s).mem = true := by
  induction ts generalizing n at' s with
  | nil => exact h
  | cons t ts ih =>
    simp only [placeTiles]
    exact ih _ _ (by simpa using writeKeys_wf _ _ _ h)

@[simp] theorem prepareCore_wf (l : Launch) {s : State} (h : memWf s.mem = true) (c : Nat) :
    memWf (prepareCore l s c).mem = true := by
  simp [prepareCore, h]

@[simp] theorem startLaunch_wf {s : State} (h : memWf s.mem = true) (r : Nat) (l : Launch) :
    memWf (startLaunch s r l).mem = true := by
  simp only [startLaunch]
  split
  · simp [h]
  · split
    · simp [h]
    · exact foldl_wf (fun _ _ ht => prepareCore_wf l ht _) _ (by simpa using h)

/-! ## The package -/

/-- A warm reset keeps the bytes of stacked DRAM alone (R364). -/
@[simp] theorem warmClear_wf {s : State} (h : memWf s.mem = true) : memWf s.warmClear.mem = true :=
  memWf_filter _ h

@[simp] theorem dieAccess_wf {s : State} (h : memWf s.mem = true) (wr addr : Nat) (ks data : List Nat) :
    memWf (dieAccess s wr addr ks data).mem = true := by
  simp only [dieAccess]
  split
  · assumption
  · split
    · simp [writeKeys_wf, h]
    · split <;> assumption

@[simp] theorem dieAtomic_wf {s : State} (h : memWf s.mem = true) (code addr : Nat) (ks data : List Nat) :
    memWf (dieAtomic s code addr ks data).mem = true := by
  simp only [dieAtomic]
  split
  · assumption
  · split
    · assumption
    · split
      · assumption
      · simp [h]

end Sys2Proof.Machine
end

section
/-! What each instruction and each event does to the memory, one lemma per meaning. A word's outcome is judged by `NextWf`,
through its result (`ResWf`) where `finish` or `command` makes an outcome of one. -/
namespace Sys2Proof.Machine

variable {s : State} (h : memWf s.mem = true)
include h

/-! ## The network -/

theorem execArbitrationRound_wf (port : Nat) : NextWf (execArbitrationRound port s) := by
  simp [execArbitrationRound, h]

theorem execPromotion_wf (port vc : Nat) : NextWf (execPromotion port vc s) := by
  simp only [execPromotion]
  split <;> simp [h]

theorem execFlitReplay_wf (link : Nat) : NextWf (execFlitReplay link s) := by
  simp [execFlitReplay, h]

theorem execLinkRetrainFailure_wf (link : Nat) : NextWf (execLinkRetrainFailure link s) := by
  simp [execLinkRetrainFailure, h]

theorem execPackageLinkRetrain_wf (link : Nat) : NextWf (execPackageLinkRetrain link s) := by
  simp [execPackageLinkRetrain, h]

/-! ## Elements and banks -/

/-- An element with a compute word keeps the memory, whatever its body computes. -/
theorem computeElement_wf (kind sub : Nat) (f : Fab) (body : FArg → FOut) :
    NextWf (computeElement kind sub f body s) := by
  simp only [computeElement, nextWf_next, tick_mem]
  split
  · simp [prelude_done_mem ‹_›, h]
  · simp [h]
  · split
    · split <;> simp [fallbackBody_keeps, h]
    · simp [h]

theorem flowStep_wf {fallback : FallbackBody} {body : FlowBody}
    (hf : ∀ w c x i b s t k, (fallback w c x i b s t k).Keeps s)
    (hb : ∀ w s b c x i hs, (body w s b c x i hs).mem = s.mem) (kind sub : Nat) (f : Fab) :
    NextWf (flowStep kind sub f fallback body s) := by
  simp only [flowStep, nextWf_next, tick_mem]
  split
  · simp [prelude_done_mem ‹_›, h]
  · simp [hb, h]
  · split
    · split <;> simp [hf, h]
    · simp [h]

theorem flowElement_wf {body : FlowBody}
    (hb : ∀ w s b c x i hs, (body w s b c x i hs).mem = s.mem) (kind sub : Nat) (f : Fab) :
    NextWf (flowElement kind sub f body s) :=
  flowStep_wf h flowFallback_keeps hb kind sub f

theorem recurElement_wf (sub : Nat) (f : Fab) : NextWf (recurElement sub f s) := by
  simp only [recurElement]
  repeat' split
  all_goals simp [flowFallback_keeps, h]

theorem memStep_wf {fallback : MemFallback} {body : MemElem → State → State}
    (hf : ∀ e s t k, (fallback e s t k).Keeps s) (hb : ∀ e s, (body e s).mem = s.mem) (kind sub : Nat) (f : Fab) :
    NextWf (memStep kind sub f fallback body s) := by
  simp only [memStep, nextWf_next, tick_mem]
  split
  · assumption
  · split
    · assumption
    · split
      · simp [hf, h]
      · split
        · assumption
        · simp [hb, h]

theorem memElement_wf {body : MemElem → State → State}
    (hb : ∀ e s, (body e s).mem = s.mem) (kind sub : Nat) (f : Fab) : NextWf (memElement kind sub f body s) :=
  memStep_wf h noFallback_keeps hb kind sub f

theorem lockStepElement_wf {fire : MemFire}
    (hf : ∀ e s hs, (fire e s hs).mem = s.mem) (kind sub : Nat) (f : Fab) :
    NextWf (lockStepElement kind sub f fire s) :=
  memStep_wf h (fireFallback_keeps hf) (lockStepMem_mem hf) kind sub f

/-- A bank keeps the memory, whatever its order computes: an order writes when it completes (log 19). -/
theorem matrixOrder_wf (op : Nat) (fab : Bool)
    (effect : State → Nat → Nat → MxOrder → Effect) (o : MxOrder) : NextWf (matrixOrder op fab effect o s) := by
  simp only [matrixOrder, nextWf_next, tick_mem]
  split
  · assumption
  · split
    · assumption
    · simp [h]
    · simp [h]

theorem execOrderCompletion_wf (core bank : Nat) : NextWf (execOrderCompletion core bank s) := by
  simp only [execOrderCompletion]
  split
  · simp [h]
  · split <;> simp [fst_wf (landOrder_wf _ _ _ h) ‹_›]

/-! ## Streams -/

theorem execStreamStart_wf (core port : Nat) : NextWf (execStreamStart core port s) := by
  simp only [execStreamStart]
  split
  · simp [h]
  · split <;> split <;> simp [h]

theorem execStreamAccess_wf (core port : Nat) : NextWf (execStreamAccess core port s) := by
  simp only [execStreamAccess]
  split
  · split
    · simp [h]
    · split <;> simp [h]
  · split <;> simp [h]
  · simp [h]

theorem execApset_wf (b ap : Nat) : NextWf (execApset b ap s) :=
  command_nextWf h fun d hd => by simp [hd]

theorem execApmod_wf (b f ap : Nat) : NextWf (execApmod b f ap s) := by
  refine command_nextWf h fun d hd => ?_
  dsimp only
  split <;> simp [hd]

theorem execSbind_wf (a b port ctx ap : Nat) : NextWf (execSbind a b port ctx ap s) :=
  command_nextWf h fun d hd => by simp [hd]

theorem execSbar_wf (a b w : Nat) : NextWf (execSbar a b w s) := by
  have hd : memWf (s.drain s.turn).mem = true := drain_wf _ _ h
  simp only [execSbar]
  split
  · exact finish_nextWf hd _ (by simp)
  · split
    · split
      · split <;> simp [hd]
      · simp [hd]
    · split <;> simp [hd]

theorem execSstat_wf (a core : Nat) : NextWf (execSstat a core s) :=
  command_nextWf h fun d hd => by simp [hd]

/-! ## Phase counters -/

theorem execPhaseCompletion_wf (key : Nat) : NextWf (execPhaseCompletion key s) := by
  simp only [execPhaseCompletion]
  split <;> simp [h]

/-- A phase command that waits notes the home it waits for; otherwise it is a command (R286). -/
theorem phaseCommand_wf {f : State → Res State}
    (hf : ∀ d, memWf d.mem = true → ResWf (f d)) (a : Nat) : NextWf (phaseCommand a s f) := by
  have hd : memWf (s.drain s.turn).mem = true := drain_wf _ _ h
  have hx : ResWf (if s.drains s.turn then f (s.drain s.turn) else .error .wait) := by
    split
    · exact hf _ hd
    · exact resWf_error _
  simp only [phaseCommand]
  split
  · refine finish_nextWf ?_ _ (resWf_error _)
    split <;> simp [hd]
  · exact finish_nextWf hd _ hx

theorem execPcinit_wf (a b core ctx : Nat) : NextWf (execPcinit a b core ctx s) :=
  phaseCommand_wf h (fun d hd => by simp [writeKeys_wf, hd]) a

theorem execPcarrive_wf (a b core ctx : Nat) : NextWf (execPcarrive a b core ctx s) :=
  phaseCommand_wf h (fun d hd => by simp [hd]) a

theorem execPcexpect_wf (a b core ctx : Nat) : NextWf (execPcexpect a b core ctx s) :=
  phaseCommand_wf h (fun d hd => by simp [hd]) a

theorem execPcwait_wf (a b core ctx : Nat) : NextWf (execPcwait a b core ctx s) :=
  phaseCommand_wf h (fun d hd => by simp [hd]) a

/-! ## Memory requests and their answers -/

theorem execMemoryRequest_wf (core n : Nat) : NextWf (execMemoryRequest core n s) := by
  simp only [execMemoryRequest, nextWf_next, tick_mem]
  split
  · simp [h]
  · split
    · split
      · assumption
      · simp [h]
    · assumption

theorem execLateOperandArrival_wf (core ctx : Nat) :
    NextWf (execLateOperandArrival core ctx s) := by
  simp only [execLateOperandArrival, nextWf_next, tick_mem, retry_mem]
  split
  · simp [h, apply_ite State.mem]
  · split <;> simp [h]

/-! ## The control core's loads, stores and atomics -/

theorem execDeviceRegisterWrite_wf (off v : Nat) : NextWf (execDeviceRegisterWrite off v s) := by
  simp only [execDeviceRegisterWrite]
  split <;> simp [h]

theorem load_wf (signed : Bool) (n d a i : Nat) : NextWf (load signed n d a i s) := by
  have hu : memWf (if deviceReady s s.turn (effAddr s s.turn a i) then
      (orderDevice s s.turn (effAddr s s.turn a i)).askAccess s.turn (effAddr s s.turn a i) n .read .load
      else s).mem = true := by
    split <;> simp [h]
  exact finish_nextWf hu _ (by simp [hu])

theorem store_next_wf (n x a i : Nat) : NextWf (Machine.store n x a i s) := by
  refine finish_nextWf h _ ?_
  simp only [resWf_bind]
  intro _ _ ks _
  split
  · split <;> simp [writeKeys_wf, h]
  · simp [h]

theorem execFence_wf (sc : Nat) : NextWf (execFence sc s) := by
  have hd : memWf (s.drain s.turn).mem = true := drain_wf _ _ h
  simp only [execFence]
  split
  · simp [h]
  · refine finish_nextWf hd _ ?_
    split <;> simp [hd]

theorem execStoreBufferDrain_wf (r : Nat) : NextWf (execStoreBufferDrain r s) := by
  simp [execStoreBufferDrain, h]

theorem amo_wf (f : Nat → AmoIn → Nat) (d a b w : Nat) : NextWf (amo f d a b w s) := by
  have hd : memWf (s.drain s.turn).mem = true := drain_wf _ _ h
  unfold amo
  extract_lets r ea n m
  split
  · exact finish_nextWf h _ (resWf_error _)
  · split
    · exact finish_nextWf h _ (resWf_error _)
    · split
      · exact finish_nextWf h _ (resWf_error _)
      · split
        · exact finish_nextWf h _ (resWf_error _)
        · split
          · exact finish_nextWf (by simpa using h) _ (resWf_error _)
          · have hu (x : Nat) : memWf (m.askControl r x .atomic).mem = true := by simpa using hd
            split
            · exact finish_nextWf (hu _) _ (resWf_error _)
            · exact finish_nextWf (hu _) _ (by simpa using rmw_wf (hu _) _ _)

/-! ## Integer words, branches and loops -/

theorem aluR_wf (f : Word → Word → Word) (d a b : Nat) : NextWf (aluR f d a b s) := by
  simpa [aluR] using h

theorem aluI_wf (f : Word → Word) (d a : Nat) : NextWf (aluI f d a s) := by
  simpa [aluI] using h

theorem branch_wf (c : Word → Word → Bool) (a b o : Nat) :
    NextWf (branch c a b o s) := by
  simp only [branch]
  split <;> simp [h]

theorem execJal_wf (o : Nat) : NextWf (execJal o s) := by
  simp [execJal, h]

theorem execJalr_wf (d a i : Nat) : NextWf (execJalr d a i s) :=
  finishJump_nextWf h _ (by simp [h])

theorem execLoop_wf (l c n : Nat) : NextWf (execLoop l c n s) :=
  finishJump_nextWf h _ (by simp [h, apply_ite ResWf])

theorem execLbrk_wf (l : Nat) : NextWf (execLbrk l s) :=
  finishJump_nextWf h _ (by simp [h])

theorem execLcnt_wf (d l : Nat) : NextWf (execLcnt d l s) :=
  finish_nextWf h _ (by simp [h])

/-! ## Frames, blocks and tokens of the control core -/

theorem execFopen_wf (a b core depth ctx : Nat) : NextWf (execFopen a b core depth ctx s) := by
  refine command_nextWf h fun d hd => ?_
  simp only [resWf_bind]
  intro c _ _ _
  split
  · simp
  · simp only [resWf_bind]
    intro rec _
    split
    · split <;> simp [hd]
    · exact resWf_error _

theorem execFwait_wf (a core : Nat) : NextWf (execFwait a core s) :=
  command_nextWf h fun d hd => by simp [hd]

theorem execTsend_wf (a b p : Nat) : NextWf (execTsend a b p s) := by
  have hd : memWf (s.drain s.turn).mem = true := drain_wf _ _ h
  simp only [execTsend]
  split
  · exact finish_nextWf hd _ (resWf_error _)
  · split
    · refine finish_nextWf ?_ _ ?_
      · split <;> simp [hd]
      · rw [resWf_ok, sendSourced_mem]
        split <;> simp [hd]
    · exact finish_nextWf (by simpa using hd) _ (resWf_error _)

theorem execTrecv_wf (a b : Nat) : NextWf (execTrecv a b s) := by
  refine command_nextWf h fun d hd => ?_
  dsimp only
  split
  · simp
  · split
    · exact resWf_bind_state (storePayload_wf hd _ _ _) fun t ht => (resWf_ok _).2 (by simpa using ht)
    · simp [hd]

theorem execBload_wf (a b ctx : Nat) : NextWf (execBload a b ctx s) := by
  refine command_nextWf h fun d hd => ?_
  simp only [resWf_bind]
  intro _ _ _ _ _ _ _ _ t ht
  rwa [loadAll_mem _ _ _ ht]

theorem execBdrop_wf (a ctx : Nat) : NextWf (execBdrop a ctx s) :=
  command_nextWf h fun d hd => by simp [hd]

/-! ## Frames and instances -/

theorem execSpillBankMove_wf (core e : Nat) : NextWf (execSpillBankMove core e s) := by
  simp only [execSpillBankMove]
  split
  · simp [h]
  · split
    · simp [h]
    · split <;> simp [h]

theorem execBankHandover_wf (core ctx : Nat) : NextWf (execBankHandover core ctx s) := by
  simp [execBankHandover, h]

theorem execFire_wf (core ctx tag : Nat) : NextWf (execFire core ctx tag s) := by
  simp only [execFire]
  split
  · simp [h]
  · split
    · split <;> simp [h]
    · simp [h]

theorem execRegisterBankSwap_wf (core frame : Nat) : NextWf (execRegisterBankSwap core frame s) := by
  simp only [execRegisterBankSwap]
  split
  · simp [h]
  · split
    · simp [h]
    · split <;> simp [h]

theorem execBeatSelect_wf (core : Nat) : NextWf (execBeatSelect core s) := by
  simp only [execBeatSelect]
  split <;> simp [h]

theorem execContextAged_wf (core ctx : Nat) : NextWf (execContextAged core ctx s) := by
  simp [execContextAged, h]

theorem execFallbackReturn_wf (core ctx : Nat) : NextWf (execFallbackReturn core ctx s) := by
  simp only [execFallbackReturn]
  split <;> simp [h]

theorem execInstanceCommit_wf (core ctx : Nat) : NextWf (execInstanceCommit core ctx s) := by
  simp only [execInstanceCommit]
  split
  · split
    · simp [h]
    · split
      · simp [h]
      · split
        · split
          · simp [h]
          · simp [actAll_mem _ _ _ ‹_›, h]
        · split <;> simp [h]
  · simp [h]

theorem execFrameRetire_wf (core frame : Nat) : NextWf (execFrameRetire core frame s) := by
  simp only [execFrameRetire]
  split
  · split
    · simp [h]
    · split
      · split <;> simp [h]
      · simp [h]
  · simp [h]

/-! ## Tiles and rings -/

theorem collectTalloc_wf (r a c : Nat) (w : Wait) :
    NextWf (collectTalloc s r a c w) := by
  simp only [collectTalloc]
  split <;> exact finish_nextWf h _ (by simp [h])

theorem execTalloc_wf (a b core ctx : Nat) : NextWf (execTalloc a b core ctx s) := by
  have hd : memWf (s.drain s.turn).mem = true := drain_wf _ _ h
  simp only [execTalloc]
  split
  · exact finish_nextWf hd _ (resWf_error _)
  · split
    · exact collectTalloc_wf hd _ _ _ _
    · split
      · exact finish_nextWf hd _ (resWf_error _)
      · refine collectTalloc_wf ?_ _ _ _ _
        rwa [request_mem _ _ _ _ ‹_›]

theorem execTrel_wf (a core pub ctx : Nat) : NextWf (execTrel a core pub ctx s) :=
  command_nextWf h fun d hd => by simp [hd, apply_ite ResWf]

theorem execTstate_wf (a b core sel : Nat) : NextWf (execTstate a b core sel s) :=
  command_nextWf h fun d hd => by simp [hd]

theorem execRinginit_wf (a core ring ctx : Nat) : NextWf (execRinginit a core ring ctx s) := by
  refine command_nextWf h fun d hd => ?_
  simp only [resWf_bind]
  intro c _ _ _
  split <;> simp [hd]

theorem execRingwait_wf (a core ring ctx : Nat) : NextWf (execRingwait a core ring ctx s) :=
  command_nextWf h fun d hd => by simp [hd]

theorem execRingrel_wf (core ring ctx : Nat) : NextWf (execRingrel core ring ctx s) :=
  command_nextWf h fun d hd => by simp [hd]

theorem execAllocDeadlock_wf (core : Nat) : NextWf (execAllocDeadlock core s) := by
  simp only [execAllocDeadlock]
  split <;> simp [h]

/-! ## Collectives -/

theorem execColl_wf (b : Nat) : NextWf (execColl b s) :=
  command_nextWf h fun d hd => by simp [hd]

theorem execCollwait_wf (a : Nat) : NextWf (execCollwait a s) :=
  command_nextWf h fun d hd => by simp [hd]

theorem execCollectiveComplete_wf (r cid : Nat) :
    NextWf (execCollectiveComplete r cid s) := by
  simp only [execCollectiveComplete, nextWf_next, tick_mem]
  split
  · exact h
  · split
    · exact h
    · split
      · refine foldl_wf (fun t p ht => ?_) _ ?_
        · split <;> simp [ht]
        · simpa using h
      · refine foldl_wf (fun t p ht => ?_) _ ?_
        · split <;> simp [ht]
        · simpa using h

theorem execCollTimeout_wf (r cid : Nat) : NextWf (execCollTimeout r cid s) := by
  simp only [execCollTimeout]
  split
  · simp [h]
  · split <;> simp [h]

/-! ## Copies -/

theorem execCopyStart_wf (core cls : Nat) : NextWf (execCopyStart core cls s) := by
  simp [execCopyStart, h]

theorem execCopyRound_wf (core : Nat) : NextWf (execCopyRound core s) := by
  simp [execCopyRound, h]

theorem execChunkPerformed_wf (core n : Nat) : NextWf (execChunkPerformed core n s) := by
  simp only [execChunkPerformed]
  split
  · simp [h]
  · split
    · simp [h]
    · split
      · split <;> simp [h]
      · split
        · simp [h]
        · split
          · simp [h]
          · split
            · simp [h]
            · split <;> simp [h]

theorem copyCommand_wf (op b core ctx : Nat) : NextWf (copyCommand op b core ctx s) :=
  command_nextWf h fun d hd => by simp [hd]

theorem execCpcancel_wf (a core retry ctx : Nat) :
    NextWf (execCpcancel a core retry ctx s) := by
  have hd : memWf (s.drain s.turn).mem = true := drain_wf _ _ h
  simp only [execCpcancel]
  split
  · exact finish_nextWf hd _ (by simp)
  · split
    · split <;> simp [hd]
    · split
      · simp [hd]
      · split
        · exact finish_nextWf hd _ (by simp [hd, apply_ite State.mem])
        · split <;> simp [hd]

theorem execCpq_wf (b core : Nat) : NextWf (execCpq b core s) :=
  command_nextWf h fun d hd => by simp [hd]

/-! ## Fault records, verdicts and tokens -/

theorem execFramePark_wf (core frame : Nat) : NextWf (execFramePark core frame s) := by
  simp only [execFramePark, nextWf_next, tick_mem]
  split
  · split
    · simpa using h
    · split
      · exact h
      · rename_i f r _ _ _ _
        cases hp : parkFrame s core frame f r with
        | none => exact h
        | some t => simpa using parkFrame_wf h _ _ _ _ t hp
  · simpa using h

theorem execFaultRecordDelivery_wf (r : Nat) : NextWf (execFaultRecordDelivery r s) := by
  simp only [execFaultRecordDelivery]
  split
  · simp [h]
  · split <;> simp [h]

theorem execFaultMessage_wf (r : Nat) : NextWf (execFaultMessage r s) := by
  simp only [execFaultMessage]
  split
  · simp [h]
  · split <;> simp [h]

theorem execVerdict_wf (core : Nat) : NextWf (execVerdict core s) := by
  simp only [execVerdict]
  split
  · simp [h]
  · split
    · simp [h]
    · split
      · simp [h]
      · split
        · split
          · simp [h]
          · split <;> simp [h]
        · simp [h]

theorem execResumedReentry_wf (core ctx : Nat) : NextWf (execResumedReentry core ctx s) := by
  simp only [execResumedReentry]
  split
  · simp [h]
  · split
    · split <;> simp [h]
    · split
      · simp [h]
      · split <;> simp [h]

theorem execPreciseStop_wf (core ctx : Nat) : NextWf (execPreciseStop core ctx s) := by
  simp only [execPreciseStop]
  split
  · simp [h]
  · split <;> simp [h]

theorem execTokenDelivery_wf (dst k : Nat) : NextWf (execTokenDelivery dst k s) := by
  simp only [execTokenDelivery]
  split <;> simp [h]

theorem execCopyReply_wf (core cls n marked : Nat) : NextWf (execCopyReply core cls n marked s) := by
  simp only [execCopyReply]
  split <;> simp [h]

/-! ## Contexts -/

theorem execCxprio_wf (a prio ctx : Nat) : NextWf (execCxprio a prio ctx s) :=
  command_nextWf h fun d hd => by simp [hd]

theorem execCxpark_wf (a ctx : Nat) : NextWf (execCxpark a ctx s) := by
  have hd : memWf (s.drain s.turn).mem = true := drain_wf _ _ h
  simp only [execCxpark]
  split
  · exact finish_nextWf hd _ (by simp)
  · split
    · exact finish_nextWf hd _ (by simp [hd])
    · exact finish_nextWf (by simpa using hd) _ (by simp)

theorem execCxsave_wf (a b core ctx : Nat) : NextWf (execCxsave a b core ctx s) := by
  refine command_nextWf h fun d hd => ?_
  simp only [resWf_bind]
  intro _ _ c _ _ _
  split
  · simp [hd]
  · simp only [resWf_bind]
    intro _ _
    split <;> simp [hd]

theorem execSavePieceWrite_wf (core : Nat) : NextWf (execSavePieceWrite core s) := by
  simp only [execSavePieceWrite]
  split
  · split
    · split <;> simp [h]
    · simp [h]
  · simp [h]

theorem execSaveSeal_wf (core : Nat) : NextWf (execSaveSeal core s) := by
  simp only [execSaveSeal]
  split
  · split
    · split
      · simp [h]
      · split <;> simp [writeKeys_wf, h]
    · simp [h]
  · simp [h]

theorem execCxrest_wf (b core ctx : Nat) : NextWf (execCxrest b core ctx s) := by
  have hd : memWf (s.drain s.turn).mem = true := drain_wf _ _ h
  simp only [execCxrest]
  split
  · exact finish_nextWf hd _ (by simp)
  · split
    · exact finish_nextWf hd _ (by simp [hd])
    · exact finish_nextWf (by simpa using hd) _ (by simp)

theorem execRestoreMerge_wf (core : Nat) : NextWf (execRestoreMerge core s) := by
  simp only [execRestoreMerge]
  split
  · simp [h]
  · split
    · simp [h]
    · split <;> simp [h]

theorem execCxresume_wf (a ctx : Nat) : NextWf (execCxresume a ctx s) := by
  refine command_nextWf h fun d hd => ?_
  simp only [resWf_bind]
  exact fun cs _ _ _ _ _ => resumeAll_wf ctx cs hd

theorem execDvmap_wf (b core e : Nat) : NextWf (execDvmap b core e s) := by
  refine command_nextWf h fun d hd => ?_
  simp only [resWf_bind]
  intro _ _ c _ _ _ _ _
  split <;> simp [hd]

theorem execDvclr_wf (core e : Nat) : NextWf (execDvclr core e s) := by
  have hd : memWf (s.drain s.turn).mem = true := drain_wf _ _ h
  simp only [execDvclr]
  split
  · exact finish_nextWf hd _ (by simp)
  · split
    · exact finish_nextWf hd _ (by simp [hd])
    · split
      · exact finish_nextWf hd _ (by simp)
      · split
        · exact finish_nextWf hd _ (by simp)
        · split <;> exact finish_nextWf (startClear_wf hd ..) _ (by simp [hd])

/-! ## Debugging -/

theorem execRenter_wf (a b own ctx : Nat) : NextWf (execRenter a b own ctx s) :=
  command_nextWf h fun d hd => by simp [hd]

theorem execRleave_wf (a own ctx : Nat) : NextWf (execRleave a own ctx s) :=
  command_nextWf h fun d hd => by simp [hd]

theorem execSmark_wf (b : Nat) : NextWf (execSmark b s) :=
  command_nextWf h fun d hd => by simp [hd]

theorem execBkpt_wf (b core ctx : Nat) : NextWf (execBkpt b core ctx s) :=
  command_nextWf h fun d hd => by simp [hd]

theorem execDebugHold_wf : NextWf (execDebugHold s) := by
  simp [execDebugHold, h]

theorem execDebugHoldRelease_wf : NextWf (execDebugHoldRelease s) := by
  simp only [execDebugHoldRelease]
  split <;> simp [h]

/-! ## Launches -/

theorem execLaunchStart_wf (r : Nat) : NextWf (execLaunchStart r s) := by
  simp only [execLaunchStart]
  split
  · simp [h]
  · split <;> simp [h]

theorem execLwait_wf : NextWf (execLwait s) := by
  have hd : memWf (s.drain s.turn).mem = true := drain_wf _ _ h
  simp only [execLwait]
  split
  · exact finishJump_nextWf hd _ (by simp)
  · split
    · exact finishJump_nextWf (by simpa using hd) _ (by simp)
    · exact finishJump_nextWf hd _ (by simp [hd])

theorem execLaunchEnd_wf (r : Nat) : NextWf (execLaunchEnd r s) := by
  simp only [execLaunchEnd]
  split <;> simp [h]

theorem execTakeTrap_wf (r : Nat) : NextWf (execTakeTrap r s) := by
  simp only [execTakeTrap]
  split <;> simp [h]

theorem execWaitingCommandResume_wf (r : Nat) : NextWf (execWaitingCommandResume r s) := by
  simp only [execWaitingCommandResume]
  split <;> simp [h]

/-! ## The package -/

theorem execWarmReset_wf : NextWf (execWarmReset s) := by
  simp only [execWarmReset]
  split <;> simp [h]

theorem execRecoveryManifest_wf (m : Manifest) : NextWf (execRecoveryManifest m s) := by
  simp only [execRecoveryManifest]
  split
  · split <;> simp [h]
  · simp [h]

theorem execAttestationReport_wf (nonce : Nat) : NextWf (execAttestationReport nonce s) :=
  (nextWf_next _).2 h

theorem execLaneRepair_wf (vault lane spare : Nat) : NextWf (execLaneRepair vault lane spare s) := by
  simp only [execLaneRepair]
  split
  · simp [h]
  · split <;> simp [h]

theorem execDvfsMove_wf (layer mv : Nat) : NextWf (execDvfsMove layer mv s) := by
  simp only [execDvfsMove]
  split <;> simp [h]

theorem execThermalThrottle_wf (layer temp : Nat) : NextWf (execThermalThrottle layer temp s) := by
  simp only [execThermalThrottle]
  split <;> simp [h]

theorem execThermalTrip_wf (layer temp : Nat) : NextWf (execThermalTrip layer temp s) := by
  simp only [execThermalTrip]
  split <;> simp [h]

theorem execEndpointDma_wf (wr addr : Nat) (data : List Nat) : NextWf (execEndpointDma wr addr data s) := by
  simp only [execEndpointDma]
  split
  · simp [h]
  · split <;> simp [h]

theorem execApplicationCoreAccess_wf (wr addr : Nat) (data : List Nat) :
    NextWf (execApplicationCoreAccess wr addr data s) := by
  simp only [execApplicationCoreAccess]
  split
  · simp [h]
  · split
    · simp [h]
    · split
      · split
        · simp [h]
        · split <;> simp [h]
      · split
        · split <;> simp [h]
        · simp [h]

theorem execApplicationCoreTokenSend_wf (hd : Nat) (data : List Nat) :
    NextWf (execApplicationCoreTokenSend hd data s) := by
  simp only [execApplicationCoreTokenSend]
  split
  · simp [h]
  · split <;> simp [h]

/-! ## Traps and registers -/

theorem execTrap_wf (k : Nat) : NextWf (execTrap k s) := by
  have hd : memWf (s.drain s.turn).mem = true := drain_wf _ _ h
  refine finishJump_nextWf hd _ ?_
  simp [apply_ite State.mem]
  split <;> simp [hd]

theorem execTret_wf : NextWf (execTret s) := by
  have hd : memWf (s.drain s.turn).mem = true := drain_wf _ _ h
  exact finishJump_nextWf hd _ (by simp [hd])

theorem execWfe_wf : NextWf (execWfe s) :=
  command_nextWf h fun d hd => by simp [hd]

theorem execEventsClear_wf (b : Nat) : NextWf (execEventsClear b s) :=
  command_nextWf h fun d hd => by simp [hd]

theorem execMvfs_wf (a n : Nat) : NextWf (execMvfs a n s) := by
  refine command_nextWf h fun d hd => ?_
  split <;> simp [hd]

theorem execMvts_wf (b n : Nat) : NextWf (execMvts b n s) := by
  refine command_nextWf h fun d hd => ?_
  simp only [resWf_bind]
  intro _ _ t ht
  rwa [writeStateReg_mem ht]

theorem execFlagWordWrite_wf (b n : Nat) : NextWf (execFlagWordWrite b n s) :=
  command_nextWf h fun d hd => by simp [hd]

theorem execDselScorecardClear_wf (b : Nat) : NextWf (execDselScorecardClear b s) :=
  command_nextWf h fun d hd => by simp [hd, apply_ite State.mem]

theorem execScorecardLatch_wf (a : Nat) : NextWf (execScorecardLatch a s) :=
  command_nextWf h fun d hd => by simp [hd]

theorem execLayerClockLatch_wf (a : Nat) : NextWf (execLayerClockLatch a s) :=
  command_nextWf h fun d hd => by simp [hd]

theorem execTranslationRegisterWrite_wf (b n : Nat) : NextWf (execTranslationRegisterWrite b n s) :=
  command_nextWf h fun d hd => by simp [hd]

end Sys2Proof.Machine
end

section
/-! O4: every step keeps the memory in its canonical form. -/
namespace Sys2Proof.Machine

/-- A cold reset loses every byte (log 3). -/
theorem execColdReset_wf (s : State) : NextWf (execColdReset s) := by
  simp only [execColdReset, nextWf_next, tick_mem, boot_mem]
  exact reset_wf

/-- What an instruction does, through the lemma about the function that gives it its meaning. -/
theorem exec_wf {s : State} (h : memWf s.mem = true) (i : Instr) : NextWf (exec i s) := by
  unfold exec
  cases i with
  | add | sub | and | or | xor | sll | srl | sra | mul | mulh | mulhn | min | max | minn | maxn | slt | sltn =>
    exact aluR_wf h _ _ _ _
  | clz | popc | addi | andi | ori | xori | slli | srli | srai | lui => exact aluI_wf h _ _ _
  | ldB | ldH | ldW | ldD | ldnB | ldnH | ldnW => exact load_wf h _ _ _ _ _
  | stB | stH | stW | stD => exact store_next_wf h _ _ _ _
  | amoSwap | amoAdd | amoAnd | amoOr | amoXor | amoMax | amoMin | amoMaxn | amoMinn | amoCas =>
    exact amo_wf h _ _ _ _ _
  | fence => exact execFence_wf h _
  | beq | bne | blt | bge | bltn | bgen => exact branch_wf h _ _ _ _
  | jal => exact execJal_wf h _
  | jalr => exact execJalr_wf h _ _ _
  | loop => exact execLoop_wf h _ _ _
  | lbrk => exact execLbrk_wf h _
  | lcnt => exact execLcnt_wf h _ _
  | storeBufferDrain => exact execStoreBufferDrain_wf h _
  | tsend => exact execTsend_wf h _ _ _
  | trecv => exact execTrecv_wf h _ _
  | fopen => exact execFopen_wf h _ _ _ _ _
  | fwait => exact execFwait_wf h _ _
  | apset => exact execApset_wf h _ _
  | apmod => exact execApmod_wf h _ _ _
  | sbind => exact execSbind_wf h _ _ _ _ _
  | sbar => exact execSbar_wf h _ _ _
  | sstat => exact execSstat_wf h _ _
  | bload => exact execBload_wf h _ _ _
  | bdrop => exact execBdrop_wf h _ _
  | lwait => exact execLwait_wf h
  | talloc => exact execTalloc_wf h _ _ _ _
  | trel => exact execTrel_wf h _ _ _ _
  | tstate => exact execTstate_wf h _ _ _ _
  | ringinit => exact execRinginit_wf h _ _ _ _
  | ringwait => exact execRingwait_wf h _ _ _ _
  | ringrel => exact execRingrel_wf h _ _ _
  | cp | cpg | cps | cpsa | cpm | cpbin => exact copyCommand_wf h _ _ _ _
  | cpcancel => exact execCpcancel_wf h _ _ _ _
  | cpq => exact execCpq_wf h _ _
  | pcinit => exact execPcinit_wf h _ _ _ _
  | pcarrive => exact execPcarrive_wf h _ _ _ _
  | pcexpect => exact execPcexpect_wf h _ _ _ _
  | pcwait => exact execPcwait_wf h _ _ _ _
  | coll => exact execColl_wf h _
  | collwait => exact execCollwait_wf h _
  | cxprio => exact execCxprio_wf h _ _ _
  | cxpark => exact execCxpark_wf h _ _
  | cxresume => exact execCxresume_wf h _ _
  | cxsave => exact execCxsave_wf h _ _ _ _
  | cxrest => exact execCxrest_wf h _ _ _
  | dvmap => exact execDvmap_wf h _ _ _
  | dvclr => exact execDvclr_wf h _ _
  | renter => exact execRenter_wf h _ _ _ _
  | rleave => exact execRleave_wf h _ _ _
  | smark => exact execSmark_wf h _
  | bkpt => exact execBkpt_wf h _ _ _
  | trap => exact execTrap_wf h _
  | tret => exact execTret_wf h
  | mvfs => exact execMvfs_wf h _ _
  | mvts => exact execMvts_wf h _ _
  | wfe => exact execWfe_wf h
  | eventsClear => exact execEventsClear_wf h _
  | flagWordWrite => exact execFlagWordWrite_wf h _ _
  | dselScorecardClear => exact execDselScorecardClear_wf h _
  | scorecardLatch => exact execScorecardLatch_wf h _
  | layerClockLatch => exact execLayerClockLatch_wf h _
  | translationRegisterWrite => exact execTranslationRegisterWrite_wf h _ _
  | deviceRegisterWrite => exact execDeviceRegisterWrite_wf h _ _
  | fAdd | fSub | fNeg | fAbs | fAbsdiff | fAddc | fMul | fFma | fFms | fFnma | fMulhi | fMulsc | fCmpEq
  | fCmpNe | fCmpLt | fCmpLe | fCmpGt | fCmpGe | fCmpMin | fCmpMax | fSign | fThr | fClamp | fAnd | fOr | fXor
  | fNot | fShl | fShr | fSra | fPopc | fClz | fBsel | fCvt | fRnd | fResolve | fQblk | fDqblk | fSat | fExp2
  | fLog2 | fRcp | fRsqrt | fSqrt | fDiv | fSigm | fTanh =>
    exact computeElement_wf h _ _ _ _
  | fSel | fRoute | fMerge | fFan | fGate => exact flowElement_wf h (lockStep_mem _) _ _ _
  | fFilt => exact flowElement_wf h filtBody_mem _ _ _
  | fRedSum | fRedMax | fRedMin => exact flowElement_wf h (redBody_mem _) _ _ _
  | fScan | fRecur => exact recurElement_wf h _ _
  | fKeyred => exact flowElement_wf h keyredBody_mem _ _ _
  | fLd => exact memElement_wf h ldBody_mem _ _ _
  | fLdt | fLdver => exact memElement_wf h tileBody_mem _ _ _
  | fLdring => exact memElement_wf h ringBody_mem _ _ _
  | fLdg => exact lockStepElement_wf h ldgFire_mem _ _ _
  | fSt | fSta | fStadd | fStmax | fStbin => exact lockStepElement_wf h stFire_mem _ _ _
  | fPush | fPop | fInc | fChk => exact flowElement_wf h tagBody_mem _ _ _
  | fEos => exact flowElement_wf h eosBody_mem _ _ _
  | fCnt => exact flowElement_wf h cntBody_mem _ _ _
  | fSeq => exact flowElement_wf h seqBody_mem _ _ _
  | fMark => exact flowElement_wf h markBody_mem _ _ _
  | fBget => exact flowElement_wf h bgetBody_mem _ _ _
  | fAlloc => exact flowStep_wf h allocFallback_keeps allocBody_mem _ _ _
  | fRelease | fHandoff => exact flowStep_wf h (tileActFallback_keeps _) (tileActBody_mem _) _ _ _
  | mMma | mMmaSp | mMmac | mAccClr | mAccRd | mAccRdFabric | mAccRdq | mAccLd | mMscLd =>
    exact matrixOrder_wf h _ _ _ _
  | orderCompletion => exact execOrderCompletion_wf h _ _
  | launchStart => exact execLaunchStart_wf h _
  | launchEnd => exact execLaunchEnd_wf h _
  | tokenDelivery => exact execTokenDelivery_wf h _ _
  | fire => exact execFire_wf h _ _ _
  | beatSelect => exact execBeatSelect_wf h _
  | fallbackReturn => exact execFallbackReturn_wf h _ _
  | contextAged => exact execContextAged_wf h _ _
  | lateOperandArrival => exact execLateOperandArrival_wf h _ _
  | instanceCommit => exact execInstanceCommit_wf h _ _
  | frameRetire => exact execFrameRetire_wf h _ _
  | takeTrap => exact execTakeTrap_wf h _
  | waitingCommandResume => exact execWaitingCommandResume_wf h _
  | streamStart => exact execStreamStart_wf h _ _
  | streamAccess => exact execStreamAccess_wf h _ _
  | allocDeadlock => exact execAllocDeadlock_wf h _
  | spillBankMove => exact execSpillBankMove_wf h _ _
  | registerBankSwap => exact execRegisterBankSwap_wf h _ _
  | bankHandover => exact execBankHandover_wf h _ _
  | framePark => exact execFramePark_wf h _ _
  | faultRecordDelivery => exact execFaultRecordDelivery_wf h _
  | faultMessage => exact execFaultMessage_wf h _
  | verdict => exact execVerdict_wf h _
  | resumedReentry => exact execResumedReentry_wf h _ _
  | preciseStop => exact execPreciseStop_wf h _ _
  | copyStart => exact execCopyStart_wf h _ _
  | copyRound => exact execCopyRound_wf h _
  | chunkPerformed => exact execChunkPerformed_wf h _ _
  | copyReply => exact execCopyReply_wf h _ _ _ _
  | memoryRequest => exact execMemoryRequest_wf h _ _
  | phaseCompletion => exact execPhaseCompletion_wf h _
  | arbitrationRound => exact execArbitrationRound_wf h _
  | promotion => exact execPromotion_wf h _ _
  | flitReplay => exact execFlitReplay_wf h _
  | linkRetrainFailure => exact execLinkRetrainFailure_wf h _
  | collectiveComplete => exact execCollectiveComplete_wf h _ _
  | collTimeout => exact execCollTimeout_wf h _ _
  | debugHold => exact execDebugHold_wf h
  | savePieceWrite => exact execSavePieceWrite_wf h _
  | saveSeal => exact execSaveSeal_wf h _
  | restoreMerge => exact execRestoreMerge_wf h _
  | coldReset => exact execColdReset_wf _
  | warmReset => exact execWarmReset_wf h
  | recoveryManifest => exact execRecoveryManifest_wf h _
  | attestationReport => exact execAttestationReport_wf h _
  | laneRepair => exact execLaneRepair_wf h _ _ _
  | dvfsMove => exact execDvfsMove_wf h _ _
  | thermalThrottle => exact execThermalThrottle_wf h _ _
  | thermalTrip => exact execThermalTrip_wf h _ _
  | endpointDma => exact execEndpointDma_wf h _ _ _
  | applicationCoreAccess => exact execApplicationCoreAccess_wf h _ _ _
  | applicationCoreTokenSend => exact execApplicationCoreTokenSend_wf h _ _
  | packageLinkRetrain => exact execPackageLinkRetrain_wf h _
  | debugHoldRelease => exact execDebugHoldRelease_wf h

/-- A control core's turn: the fetch sends its packet, and the word that runs, or the trap taken, keeps the form. -/
theorem issueStep_wf {s : State} (h : memWf s.mem = true) (r : Nat) : NextWf (issueStep r s) := by
  have hf : memWf (s.askFetch r).mem = true := by simpa using h
  simp only [issueStep]
  split
  · simpa using h
  · split
    · simpa using takeHeld_wf h r
    · split
      · simpa using h
      · split
        · simpa using takeTrap_wf hf r _ _
        · exact exec_wf (by exact hf) _

/-- A step takes the head of the agenda: taking it off leaves the memory as it is. -/
theorem step_wf {s : State} (h : memWf s.mem = true) : NextWf (step s) := by
  unfold step
  split
  · exact issueStep_wf h _
  · exact issueStep_wf (by exact h) _
  · split
    · exact exec_wf (by exact h) _
    · exact nextWf_fault _
  · split
    · exact exec_wf (by exact h) _
    · split
      · simpa using h
      · exact nextWf_fault _
  · split
    · exact exec_wf (by exact h) _
    · exact nextWf_fault _

/-- Settles O4: every write of the memory goes through `writeKeys`, which keeps the canonical form (log 3), and no step
writes it otherwise than a reset does, which clears bytes. -/
theorem stepKeepsMemoryCanonical : Obligations.StepKeepsMemoryCanonical :=
  fun _ t hs ht => step_wf hs t ht

end Sys2Proof.Machine
end

section
/-! O60: what application cores and endpoints reach from the application die (R15, R16, R265, R266, R363, R364). -/
namespace Sys2Proof.Machine

variable {s : State} {addr : Nat} {ks data : List Nat}

/-! ## Accesses at physical keys -/

/-- A home that is not held performs the write. -/
theorem dieAccess_write (hv : vaultHeld s ks = false) : dieAccess s 1 addr ks data = s.store ks data := by
  simp [dieAccess, hv]

/-- A home that is not held answers a read of sound bytes. -/
theorem dieAccess_read (hv : vaultHeld s ks = false) (hp : s.poisonedAt ks = false) :
    dieAccess s 0 addr ks data = s.notify (.read addr (s.readKeys ks)) := by
  simp [dieAccess, hv, hp]

/-- Poison refuses the read (log 57). -/
theorem dieAccess_read_poisoned (hv : vaultHeld s ks = false) (hp : s.poisonedAt ks = true) :
    dieAccess s 0 addr ks data = s.notify (.refused FaultCode.protection.code) := by
  simp [dieAccess, hv, hp]

/-- An atomic on an aligned word that is sound tells what it read and writes the word once (log 27). -/
theorem dieAtomic_aligned (op : Nat) (hn : data.length = 4 ∨ data.length = 8) (ha : addr % data.length = 0)
    (hv : vaultHeld s ks = false) (hp : s.poisonedAt ks = false) :
    dieAtomic s op addr ks data = (s.notify (.read addr (s.readKeys ks))).rmw ks
      (toBytes data.length (appAmo op (8 * data.length) (s.readNat ks) (ofBytes data))) := by
  have hok : (!(data.length == 4 || data.length == 8) || addr % data.length != 0) = false := by
    simpa [ha] using Decidable.or_iff_not_imp_left.mp hn
  simp only [dieAtomic, hok, hv, hp]
  rfl

/-! ## The fault of an address (R265 to R267) -/

/-- The core-local windows are no application core's. -/
theorem dieFault_local_window (n : Nat) (h : addr / 2 ^ 60 ≤ 3) : dieFault addr n = some .protection :=
  if_pos h

theorem dieFault_other_window (n : Nat) (h : 4 ≤ addr / 2 ^ 60) (h8 : addr / 2 ^ 60 ≠ 8) (h15 : addr / 2 ^ 60 ≠ 15) :
    dieFault addr n = some .translation := by
  have hl : ¬ addr / 2 ^ 60 ≤ 3 := by omega
  simp only [dieFault, if_neg hl, if_pos (And.intro h8 h15)]

theorem dieFault_past_window (n : Nat) (h : addr / 2 ^ 60 = 8 ∨ addr / 2 ^ 60 = 15)
    (hb : bits (addr % 2 ^ 60) 58 45 ≠ 0) : dieFault addr n = some .translation := by
  have hl : ¬ addr / 2 ^ 60 ≤ 3 := by omega
  have ho : ¬ (addr / 2 ^ 60 ≠ 8 ∧ addr / 2 ^ 60 ≠ 15) := by omega
  simp only [dieFault, if_neg hl, if_neg ho, if_pos (Or.inl hb)]

/-! ## The four events, with the package running -/

/-- The token of an application core's send: unmarked, its payload the bytes given, cut or filled with zeros to its length (R15). -/
def appToken (h : Nat) (data : List Nat) : Token :=
  { tokenOf h [] with mark := 0, payload := ((data.take (tokenOf h []).inl) ++
    List.replicate (lenBytes (tokenOf h []).len) 0).take (lenBytes (tokenOf h []).len) }

section
variable (hrun : s.die.boot = .running)
include hrun

/-- No access of at least one byte is turned away at the first check. -/
theorem access_guard_passes (hd : data ≠ []) : (s.die.boot != .running || data.isEmpty) = false := by
  simp [hrun, hd]

/-- A DMA address the IOMMU translates reaches physical memory. -/
theorem exec_endpointDma_translated (wr : Nat) {p : Nat} (hd : data ≠ []) (hw : addr / 2 ^ 60 = 8)
    (hp : iommuOf s.die (addr % 2 ^ 60) data.length = some p) (hk : dieKeys p data.length = some ks) :
    exec (.endpointDma wr addr data) s = .next (dieAccess s wr addr ks data).tick := by
  change execEndpointDma wr addr data s = _
  simp only [execEndpointDma, access_guard_passes hrun hd, hw, hp, Option.bind_some, hk]
  rfl

theorem exec_applicationCoreAccess_refused (wr : Nat) {f : FaultCode} (hd : data ≠ [])
    (hf : dieFault addr data.length = some f) :
    exec (.applicationCoreAccess wr addr data) s = .next (s.notify (.refused f.code)).tick := by
  change execApplicationCoreAccess wr addr data s = _
  simp only [execApplicationCoreAccess, access_guard_passes hrun hd, hf]
  rfl

/-- What is not device space is physical memory: a read or write is performed there by `dieAccess`, an atomic by `dieAtomic`. -/
theorem exec_applicationCoreAccess_memory (wr : Nat) (hd : data ≠ []) (hf : dieFault addr data.length = none)
    (hdev : ¬ (addr / 2 ^ 60 = 15 ∧ bit (addr % 2 ^ 60) 59 = true)) (hk : dieKeys (addr % 2 ^ 60) data.length = some ks) :
    exec (.applicationCoreAccess wr addr data) s =
      .next (if 2 ≤ wr then dieAtomic s wr addr ks data else dieAccess s wr addr ks data).tick := by
  have hdev' : (addr / 2 ^ 60 == 15 && bit (addr % 2 ^ 60) 59) = false := by simpa using hdev
  change execApplicationCoreAccess wr addr data s = _
  simp only [execApplicationCoreAccess, access_guard_passes hrun hd, hf, hk, hdev']
  rfl

theorem exec_applicationCoreAccess_device_write (hd : data ≠ []) (hf : dieFault addr data.length = none)
    (hw : addr / 2 ^ 60 = 15) (hb : bit (addr % 2 ^ 60) 59 = true) :
    exec (.applicationCoreAccess 1 addr data) s =
      .next (deviceWrite s (addr % 2 ^ 60) data.length (ofBytes data)).tick := by
  change execApplicationCoreAccess 1 addr data s = _
  simp only [execApplicationCoreAccess, access_guard_passes hrun hd, hf, hw, hb]
  rfl

theorem exec_applicationCoreAccess_device_read (hd : data ≠ []) (hf : dieFault addr data.length = none)
    (hw : addr / 2 ^ 60 = 15) (hb : bit (addr % 2 ^ 60) 59 = true) :
    exec (.applicationCoreAccess 0 addr data) s =
      .next (s.notify (.read addr (toBytes data.length (deviceRead s (addr % 2 ^ 60) data.length)))).tick := by
  change execApplicationCoreAccess 0 addr data s = _
  simp only [execApplicationCoreAccess, access_guard_passes hrun hd, hf, hw, hb]
  rfl

theorem exec_deviceRegisterWrite_running (off v : Nat) (hb : bit off 59 = true) :
    exec (.deviceRegisterWrite off v) s = .next (deviceWrite s off 8 v).tick := by
  change execDeviceRegisterWrite off v s = _
  simp [execDeviceRegisterWrite, hb, hrun]

/-- A token the sender's interface accepts enters the network (R15). -/
theorem exec_applicationCoreTokenSend_sent (h : Nat) (hf : appSendFault (appToken h data) = none) :
    exec (.applicationCoreTokenSend h data) s = .next (s.send appDie (appToken h data)).tick := by
  change execApplicationCoreTokenSend h data s = _
  simp only [appToken] at hf
  simp only [execApplicationCoreTokenSend, hrun, hf]
  rfl

/-- The sender's interface refuses a token with its fault (R126). -/
theorem exec_applicationCoreTokenSend_refused (h : Nat) {f : FaultCode} (hf : appSendFault (appToken h data) = some f) :
    exec (.applicationCoreTokenSend h data) s = .next (s.notify (.refused f.code)).tick := by
  change execApplicationCoreTokenSend h data s = _
  simp only [appToken] at hf
  simp only [execApplicationCoreTokenSend, hrun, hf]
  rfl

end

/-- Settles O60, event by event: an access is refused by its address's fault, goes to a device register, or is performed at the
physical keys of its bytes; a token is refused or sent. -/
theorem accessesFromTheDie : Obligations.AccessesFromTheDie := by
  intro s hrun
  refine ⟨?endpoint, ?memory, ?refused, ?fault, ?device, ?register, ?token⟩
  case endpoint =>
    intro addr data p ks hd hw hp hk hv
    have hx := fun wr => exec_endpointDma_translated hrun wr hd hw hp hk
    exact ⟨by rw [hx, dieAccess_write hv], fun hs => by rw [hx, dieAccess_read hv hs],
      fun hs => by rw [hx, dieAccess_read_poisoned hv hs]⟩
  case memory =>
    intro addr data ks hd hf hdev hk hv
    have hx := fun wr => exec_applicationCoreAccess_memory hrun wr hd hf hdev hk
    refine ⟨?write, fun hs => ?read, fun op n hop hlen hn ha hs => ?atomic⟩
    case write => rw [hx, if_neg (by decide), dieAccess_write hv]
    case read => rw [hx, if_neg (by decide), dieAccess_read hv hs]
    case atomic =>
      subst hlen
      rw [hx, if_pos hop, dieAtomic_aligned op hn ha hv hs]
  case refused =>
    intro addr data f hd hf
    exact ⟨exec_applicationCoreAccess_refused hrun 0 hd hf, exec_applicationCoreAccess_refused hrun 1 hd hf⟩
  case fault =>
    exact fun addr n => ⟨dieFault_local_window n, dieFault_other_window n, dieFault_past_window n⟩
  case device =>
    intro addr data hw hb hd hf
    exact ⟨exec_applicationCoreAccess_device_write hrun hd hf hw hb, exec_applicationCoreAccess_device_read hrun hd hf hw hb⟩
  case register => exact exec_deviceRegisterWrite_running hrun
  case token =>
    rintro h data _ rfl
    exact ⟨exec_applicationCoreTokenSend_sent hrun h, fun _ => exec_applicationCoreTokenSend_refused hrun h⟩

end Sys2Proof.Machine
end

section
/-! O37: the compute words fire (R41, R143, R144, R157, R159), and an element rests between instances (log 93). -/
namespace Sys2Proof.Machine

/-! ## Contexts and elements after an update -/

@[simp] theorem modCtx_ctx_same (s : State) (c x : Nat) (f : Ctx → Ctx) : (s.modCtx c x f).ctx c x = f (s.ctx c x) := by
  simp [State.modCtx]

@[simp] theorem setElem_elem_same (k : Ctx) (i : Nat) (e : Elem) : (k.setElem i e).elem i = e := by
  simp [Ctx.setElem, Ctx.elem]

theorem setElem_elem_ne (k : Ctx) {i j : Nat} (e : Elem) (h : j ≠ i) : (k.setElem i e).elem j = k.elem j := by
  simp [Ctx.setElem, Ctx.elem, sget_sput_ne, h]

/-! ## The element at rest between instances -/

section
variable {s : State} {c x i : Nat}

theorem freshElem_of_no_train (h : (s.ctx c x).head i 0 = none) : s.freshElem c x i = s := by
  simp [State.freshElem, h]

theorem freshElem_of_own_train {t : Timed} (h : (s.ctx c x).head i 0 = some t) (hi : ((s.ctx c x).elem i).inst = t.inst) :
    s.freshElem c x i = s := by
  simp [State.freshElem, h, hi]

theorem freshElem_of_other_train {t : Timed} (h : (s.ctx c x).head i 0 = some t)
    (hi : ((s.ctx c x).elem i).inst ≠ t.inst) :
    s.freshElem c x i = s.modCtx c x (fun k => k.setElem i ((k.elem i).rest t.inst)) := by
  simp [State.freshElem, h, hi]

end

/-- Resting an element leaves the state, or resets the one element. -/
theorem freshElem_cases (s : State) (c x i : Nat) : s.freshElem c x i = s ∨
    ∃ n, s.freshElem c x i = s.modCtx c x (fun k => k.setElem i ((k.elem i).rest n)) := by
  cases h : (s.ctx c x).head i 0 with
  | none => exact .inl (freshElem_of_no_train h)
  | some t =>
    by_cases hi : ((s.ctx c x).elem i).inst = t.inst
    · exact .inl (freshElem_of_own_train h hi)
    · exact .inr ⟨_, freshElem_of_other_train h hi⟩

theorem freshElem_cur (s : State) (c x i : Nat) : (s.freshElem c x i).cur = s.cur := by
  obtain h | ⟨n, h⟩ := freshElem_cases s c x i <;> simp [h, State.modCtx]

theorem elementsRestBetweenInstances : ElementsRestBetweenInstances := by
  rintro s _ c x i rfl
  refine ⟨fun t ht hi => ?other, fun t ht hi => freshElem_of_own_train ht hi, freshElem_of_no_train, ?frame⟩
  case other =>
    rw [freshElem_of_other_train ht hi, modCtx_ctx_same, setElem_elem_same]
    rfl
  case frame =>
    obtain h | ⟨n, h⟩ := freshElem_cases s c x i
    · simp [h]
    · rw [h, modCtx_ctx_same]
      exact ⟨rfl, rfl, fun j hj => setElem_elem_ne _ _ hj, rfl, rfl⟩

/-! ## The start of a firing -/

theorem all_eos_of_eos {hs : List (Nat × Timed)} (h : ∀ h ∈ hs, h.2.train.kind = .eos) :
    hs.all (fun h => isEos h.2) = true := by
  simpa [isEos] using h

theorem any_eos_of_no_eos {hs : List (Nat × Timed)} (h : ∀ h ∈ hs, h.2.train.kind ≠ .eos) :
    hs.any (fun h => isEos h.2) = false := by
  simpa [isEos] using h

/-- An element that fires has nothing before its own work: the length policies have nothing to say where no port has ended, or every
one. -/
theorem prelude_of_fires {s0 s : State} {w : FWord} {c x i : Nat} {b : Block} {hs : List (Nat × Timed)}
    (h : Fires s0 s w c x i b hs) : prelude w s c x i = .go b hs := by
  obtain ⟨-, -, hb, hslot, hst, hi, hfb, hheads, hfix, hend, hport, heos⟩ := h
  obtain h | h := heos
  · simp [prelude, hb, hslot, hst, hi, hfb, hheads, hfix, hend, hport, any_eos_of_no_eos h]
  · simp [prelude, hb, hslot, hst, hi, hfb, hheads, hfix, hend, hport, all_eos_of_eos h]

/-- Then the element's own work is the firing. -/
theorem computeElement_of_fires {s0 s : State} {kind sub : Nat} {f : Fab} {c x i : Nat} {b : Block} {hs : List (Nat × Timed)}
    (h : Fires s0 s { kind := kind, sub := sub, f := f } c x i b hs) (body : FArg → FOut) :
    computeElement kind sub f body s0 =
      .next (fireCompute { kind := kind, sub := sub, f := f } body s b c x i hs).tick := by
  have hgo := prelude_of_fires h
  obtain ⟨hs0, hcur, -⟩ := h
  have hcur0 : s0.cur = { core := c, ctx := x, idx := i } := by rw [← hcur, hs0, freshElem_cur]
  simp only [computeElement, hcur0, ← hs0, hgo]

/-! ## What a compute word's firing does -/

section
variable {s : State} {w : FWord} {body : FArg → FOut} {c x i : Nat} {b : Block} {hs : List (Nat × Timed)}

theorem fireCompute_of_eos (h : ∀ h ∈ hs, h.2.train.kind = .eos) :
    fireCompute w body s b c x i hs = passEos s b w c x i (outTag w (firingTag w hs)) hs := by
  simp [fireCompute, all_eos_of_eos h]

variable (hne : ∀ h ∈ hs, h.2.train.kind ≠ .eos)
include hne

theorem isEos_headAt {p : Nat} {t : Timed} (h : headAt hs p = some t) : isEos t = false := by
  obtain ⟨q, hq, rfl⟩ := Option.map_eq_some_iff.mp h
  simpa [isEos] using hne q (List.mem_of_find?_eq_some hq)

/-- Where no port has ended, the side of a port is its own train. -/
theorem sideOf_of_no_eos (fmt p : Nat) : sideOf w fmt hs p = (headAt hs p).map (·.train) := by
  cases h : headAt hs p with
  | none => simp [sideOf, h]
  | some t => simp [sideOf, h, isEos_headAt hne h]

/-- Where no port has ended, neither the end nor the length policy PAD is at work. -/
theorem fireCompute_of_no_eos (hn : hs ≠ []) : fireCompute w body s b c x i hs = match firingKind hs with
    | .poison => s.payHead c x i hs
        (emitOne s (s.popData c x i hs) b w c x i hs 0 [outKind .poison (outTag w (firingTag w hs)) (tagOf hs)])
    | .null => s.payHead c x i hs
        (emitOne s (s.popData c x i hs) b w c x i hs 0 [outKind .null (outTag w (firingTag w hs)) (tagOf hs)])
    | _ => fireData w body s b c x i hs := by
  have hpad : hs.any (fun h => isEos h.2 && (padOf w (firingTag w hs) h.1).isNone) = false := by
    refine List.any_eq_false.mpr fun h hh => ?_
    simp [isEos, hne h hh]
  have hall : hs.all (fun h => isEos h.2) = false := by
    obtain ⟨q, l, rfl⟩ := List.exists_cons_of_ne_nil hn
    simp [isEos, hne q List.mem_cons_self]
  simp only [fireCompute, hall, hpad]
  rfl

/-- A null or poison train at a port gives one such train, the flags held back with port a's train entering (R144, R159). -/
theorem fireCompute_of_kind (hn : hs ≠ []) (hk : firingKind hs ≠ .data) :
    fireCompute w body s b c x i hs = s.payHead c x i hs
      (emitOne s (s.popData c x i hs) b w c x i hs 0 [outKind (firingKind hs) (outTag w (firingTag w hs)) (tagOf hs)]) := by
  rw [fireCompute_of_no_eos hne hn]
  have hc : firingKind hs = .poison ∨ firingKind hs = .null ∨ firingKind hs = .data := by
    simp only [firingKind]
    split
    · exact .inl rfl
    · split
      · exact .inr (.inl rfl)
      · exact .inr (.inr rfl)
  obtain h | h | h := hc
  · simp only [h]
  · simp only [h]
  · exact absurd h hk

theorem fireCompute_of_data (hn : hs ≠ []) (hk : firingKind hs = .data) :
    fireCompute w body s b c x i hs = fireData w body s b c x i hs := by
  rw [fireCompute_of_no_eos hne hn, hk]

end

/-- The operands of a firing: the train of each port, and the state of the element's LFSR. -/
def firingArg (w : FWord) (s : State) (b : Block) (c x i : Nat) (hs : List (Nat × Timed)) : FArg :=
  { w := w, b := b, fmt := firingTag w hs, a := (headAt hs 0).map (·.train), pb := (headAt hs 1).map (·.train),
    c := (headAt hs 2).map (·.train), p := (headAt hs 3).map (·.train), st := s.lfsr c x i }

section
variable {s : State} {w : FWord} {body : FArg → FOut} {c x i : Nat} {b : Block} {hs : List (Nat × Timed)}
variable (hne : ∀ h ∈ hs, h.2.train.kind ≠ .eos)
include hne

/-- Then they are what a firing computes with. -/
theorem sides_eq_firingArg :
    ({ w := w, b := b, fmt := firingTag w hs, a := sideOf w (firingTag w hs) hs 0, pb := sideOf w (firingTag w hs) hs 1,
       c := sideOf w (firingTag w hs) hs 2, p := sideOf w (firingTag w hs) hs 3, st := s.lfsr c x i } : FArg) =
      firingArg w s b c x i hs := by
  simp only [sideOf_of_no_eos hne, firingArg]

theorem fireData_of_fault {e : FaultCode} (he : (body (firingArg w s b c x i hs)).err = some e) :
    fireData w body s b c x i hs = s.raise c x i e 0 (tagOf hs) 0 := by
  simp only [fireData, sides_eq_firingArg hne, he]

/-- On an arc that is not cancellable, a result is sent with its flags. -/
theorem fireData_of_result {h : Timed} (hh : headAt hs 0 = some h) (hlf : h.lf = []) (hcut : cancellable b i = false)
    {o : FOut} (ho : o = body (firingArg w s b c x i hs)) (he : o.err = none) :
    fireData w body s b c x i hs = emitOne s
      (if w.f.mode = 5 then (s.popData c x i hs).setLfsr c x i o.st else s.popData c x i hs) b w c x i hs
      (o.flags.foldl (fun p q => p ||| q) 0) (computeOuts o (tagOf hs)) := by
  simp only [fireData, sides_eq_firingArg hne, ← ho, he, hh, hlf, hcut]
  rfl

end

/-! ## The compute words -/

/-- An instruction whose meaning is a step of a compute element fires as a compute word. -/
theorem computeFires {mk : Fab → Instr} {kind sub : Nat} {body : FArg → FOut}
    (hmk : ∀ f s, exec (mk f) s = computeElement kind sub f body s) : ComputeFires mk kind sub body := by
  rintro s0 s f w c x i b hs rfl hf hn
  rw [hmk, computeElement_of_fires hf body]
  refine ⟨rfl, fun heos => by rw [fireCompute_of_eos heos], fun hne _ => ⟨?kind, ?data, ?fault⟩⟩
  case kind =>
    rintro k rfl hk
    rw [fireCompute_of_kind hne hn hk]
  case data =>
    rintro a o h hk hh hlf hcut rfl ho he
    rw [fireCompute_of_data hne hn hk, fireData_of_result hne hh hlf hcut ho he]
  case fault =>
    rintro a o e hk - rfl rfl he
    rw [fireCompute_of_data hne hn hk, fireData_of_fault hne he]

theorem addAndMulWordsFire : AddAndMulWordsFire := by
  refine ⟨?_, ?_, ?_, ?_, ?_, ?_, ?_, ?_, ?_, ?_, ?_, ?_⟩ <;> exact computeFires fun _ _ => rfl

theorem cmpAndBitWordsFire : CmpAndBitWordsFire := by
  refine ⟨?_, ?_, ?_, ?_, ?_, ?_, ?_, ?_, ?_, ?_, ?_, ?_, ?_, ?_, ?_, ?_, ?_, ?_, ?_, ?_, ?_⟩ <;>
    exact computeFires fun _ _ => rfl

theorem cvtAndFuncWordsFire : CvtAndFuncWordsFire := by
  refine ⟨?_, ?_, ?_, ?_, ?_, ?_, ?_, ?_, ?_, ?_, ?_, ?_, ?_, ?_⟩ <;> exact computeFires fun _ _ => rfl

/-- Settles O37: every compute word's meaning is a step of a compute element, which fires as the rules say. -/
theorem computeWordsFire : Obligations.ComputeWordsFire :=
  ⟨addAndMulWordsFire, cmpAndBitWordsFire, cvtAndFuncWordsFire, elementsRestBetweenInstances⟩

end Sys2Proof.Machine
end

section
/-! O50: instances commit, frames retire, and EOS closes a sink once (R25, R34, R39 to R43, R216, R219). -/
namespace Sys2Proof.Machine

/-! ## Sparse tables and sets of numbers -/

/-- The second of two writes at one key stands. -/
theorem sput_sput_same {α : Type} (t : Sparse α) (k : Nat) (v w : α) : sput (sput t k v) k w = sput t k w := by
  induction t with
  | nil => simp [sput]
  | cons e l ih =>
    simp only [sput]
    split
    · simp [sput]
    · split
      · simp [sput]
      · simp [sput, *]

/-- A view of the entries that a map over a table keeps, of the listed and of the default one alike. -/
theorem sget_map_view {α β : Type} {g : Nat × α → Nat × α} {view : α → β} (hk : ∀ e, (g e).1 = e.1)
    (hv : ∀ e, view (g e).2 = view e.2) (d : α) (t : Sparse α) (k : Nat) :
    view (sget d (t.map g) k) = view (sget d t k) := by
  induction t with
  | nil => rfl
  | cons e l ih =>
    simp only [List.map_cons, sget, hk]
    split
    · exact hv e
    · exact ih

theorem mem_insertNat {n k : Nat} {l : List Nat} : n ∈ insertNat l k ↔ n = k ∨ n ∈ l := by
  induction l with
  | nil => simp [insertNat]
  | cons a l ih =>
    simp only [insertNat]
    split
    · simp
    · split
      · simp_all
      · simp [ih, or_left_comm]

/-! ## Commit -/

/-- The oldest of a context's instances commits once it has delivered all it owes and its acts all pass (R39, R40). -/
theorem exec_instanceCommit {s : State} {c x : Nat} {b : Block} {n : Inst} {rest : List Inst} {f : Frame} {t : State}
    (hb : (s.ctx c x).block = some b) (hn : (s.ctx c x).insts = n :: rest)
    (hf : (s.core c).frame (frameOf n.tag) = some f) (hok : (s.core c).faulted (frameOf n.tag) = false)
    (hc : commits (s.core c) x b n = true)
    (ha : actAll c x (n.acts.foldl (fun l a => insertAct a l) []) (n.tiles.foldl (fun s t => s.commitTile c t) s) = .ok t) :
    exec (.instanceCommit c x) s = .next (commitInst t c x n).tick := by
  change execInstanceCommit c x s = _
  simp only [State.ctx] at hb hn
  simp [execInstanceCommit, hb, hn, hf, hok, hc, ha]

/-! ## A tile that becomes empty -/

theorem setEvent_core (s : State) (r b c : Nat) : (s.setEvent r b).core c = s.core c := by
  simp [State.core]

/-- What a tile's loss does to the copies leaves every other part of every core. -/
theorem loseCopies_view {β : Type} {view : Core → β} (h : ∀ (k : Core) u, view { k with copy := u } = view k) (s : State)
    (core n c : Nat) : view ((s.loseCopies core n).core c) = view (s.core c) :=
  sget_map_view (g := fun k : Nat × Core => (k.1, { k.2 with copy := k.2.copy.lose core n })) (fun _ => rfl) (fun _ => h _ _)
    _ _ _

theorem vacateTile_view {β : Type} {view : Core → β} (hcopy : ∀ (k : Core) u, view { k with copy := u } = view k)
    (hslot : ∀ (k : Core) n, view (k.freeSlots n) = view k) (s : State) (c n : Nat) :
    view ((s.vacateTile c n).core c) =
      view ((((s.core c).loseTile n).setTile n Tile.reset).touch [(s.tile c n).pool]) := by
  simp only [State.vacateTile, setEvent_core]
  split <;> simp [hslot, loseCopies_view hcopy] <;> rfl

/-- Its pool is touched (R219). -/
theorem vacateTile_touched (s : State) (c n : Nat) (h : (s.tile c n).pool < 4) :
    (s.tile c n).pool ∈ ((s.vacateTile c n).core c).touched := by
  rw [vacateTile_view (view := Core.touched) (fun _ _ => rfl) fun _ _ => rfl]
  simp [Core.touch, h, mem_insertNat]

theorem vacateTile_state (s : State) (c n : Nat) : ((s.vacateTile c n).tile c n).state = .empty := by
  have h := vacateTile_view (view := fun k => k.tile n) (fun _ _ => rfl) (fun _ _ => rfl) s c n
  simp only [State.tile] at h ⊢
  rw [h]
  simp [Core.touch, Core.setTile, Core.tile, Tile.reset]

/-! ## Retirement -/

/-- A frame with nothing open. -/
def Frame.nothingOpen (f : Frame) : Prop := f.state = .opened ∧ f.sinks = 0 ∧ f.stores = 0 ∧ f.inflight = 0

section
variable {s : State} {c frame : Nat} {f : Frame} {late : List Token} (hf : (s.core c).frame frame = some f)
  (hl : (s.core c).lateTokens frame = some late) (ho : f.nothingOpen)
include hf hl ho

/-- With no token left from an earlier beat the frame retires, and those of this beat meet a retired frame (R25, R34, R43). -/
theorem exec_frameRetire_retires
    (hs : ∀ e ∈ (s.core c).store, frameOf e.tok.tag = frame → e.beat = (s.core c).beat) :
    exec (.frameRetire c frame) s = .next (State.tick
      ((((s.core c).store.filter (fun e => frameOf e.tok.tag == frame)).map (·.tok) ++ late).foldl (fun u e => u.strayToken c e)
        ((s.setCore c ((({ s.core c with
          store := (s.core c).store.filter (fun e => frameOf e.tok.tag != frame),
          dropped := (s.core c).dropped.filter (fun e => frameOf e.tok.tag != frame),
          faults := (s.core c).faults.filter (fun g => g.1 != frame) } : Core).freeFrameEntry frame).passBank f.ctx f.bank)).setEvent
          (regionOf c) 1))) := by
  have hnone : (s.core c).store.find? (fun t => frameOf t.tok.tag == frame && t.beat != (s.core c).beat) = none := by
    simpa using hs
  obtain ⟨hst, hsi, hso, hin⟩ := ho
  change execFrameRetire c frame s = _
  simp [execFrameRetire, hf, hl, hst, hsi, hso, hin, hnone]

/-- A token left from an earlier beat raises TAG-CHECK (R41). -/
theorem exec_frameRetire_tagCheck {e : Stored} (hok : (s.core c).faulted frame = false)
    (he : (s.core c).store.find? (fun t => frameOf t.tok.tag == frame && t.beat != (s.core c).beat) = some e) :
    exec (.frameRetire c frame) s = .next (s.raise c f.ctx e.tok.slot .tagCheck 0 e.tok.tag 0).tick := by
  obtain ⟨hst, hsi, hso, hin⟩ := ho
  change execFrameRetire c frame s = _
  simp [execFrameRetire, hf, hl, hst, hsi, hso, hin, he, hok]

end

/-- With no fault and no offending token of the frame, its late tokens are those that closed slots have discarded. -/
theorem lateTokens_of_no_fault {k : Core} {frame : Nat} (hok : k.faulted frame = false)
    (hoff : ∀ e ∈ k.offends, frameOf e.tok.tag ≠ frame) :
    k.lateTokens frame = some ((k.dropped.filter (fun e => frameOf e.tok.tag == frame)).map (·.tok)) := by
  have ho : k.offends.filter (fun e => frameOf e.tok.tag == frame) = [] := by simpa using hoff
  have hf : k.faults.filter (fun g => g.1 == frame) = [] := by simpa [Core.faulted] using hok
  simp [Core.lateTokens, ho, hf]

theorem freeFrameEntry_frames (k : Core) (n : Nat) : (k.freeFrameEntry n).frames = sdel k.frames n := rfl

/-! ## Sinks -/

theorem modFrame_of_frame {s : State} {c n : Nat} {f : Frame} (h : (s.core c).frame n = some f) (g : Frame → Frame) :
    s.modFrame c n g = s.setCore c { s.core c with frames := sput (s.core c).frames n (g f) } := by
  simp [State.modFrame, h]

theorem setCore_setCore (s : State) (c : Nat) (v w : Core) : (s.setCore c v).setCore c w = s.setCore c w := by
  simp [State.setCore, sput_sput_same]

/-- Two changes of a frame in turn are one. -/
theorem modFrame_modFrame (s : State) (c n : Nat) (g h : Frame → Frame) :
    (s.modFrame c n g).modFrame c n h = s.modFrame c n (fun f => h (g f)) := by
  cases hf : (s.core c).frame n with
  | none => simp [State.modFrame, hf]
  | some f =>
    rw [modFrame_of_frame hf, modFrame_of_frame hf, modFrame_of_frame (f := g f) (by simp [Core.frame])]
    simp [setCore_setCore, sput_sput_same]

/-- What an EOS at a channel does to its frame. -/
def Frame.closeChannel (f : Frame) (ch : Nat) : Frame :=
  if f.eosCh.contains ch then f else { f with eosCh := insertNat f.eosCh ch, sinks := f.sinks - 1 }

theorem closeSink_eq_modFrame (s : State) (c frame ch : Nat) :
    s.closeSink c frame ch = s.modFrame c frame (fun f => f.closeChannel ch) := rfl

theorem closeChannel_of_open {f : Frame} {ch : Nat} (h : f.eosCh.contains ch = false) :
    f.closeChannel ch = { f with eosCh := insertNat f.eosCh ch, sinks := f.sinks - 1 } := by
  simp only [Frame.closeChannel, h]
  rfl

theorem closeChannel_closes (f : Frame) (ch : Nat) : (f.closeChannel ch).eosCh.contains ch = true := by
  simp only [Frame.closeChannel]
  split
  · assumption
  · simp [mem_insertNat]

/-- A second EOS finds the channel closed. -/
theorem closeChannel_closeChannel (f : Frame) (ch : Nat) : (f.closeChannel ch).closeChannel ch = f.closeChannel ch :=
  if_pos (closeChannel_closes f ch)

theorem eosClosesASinkOnce : EosClosesASinkOnce := by
  intro s c frame ch f hf
  refine ⟨fun hopen => ⟨f.closeChannel ch, ?_, ?_, closeChannel_closes f ch⟩, ?_⟩
  · rw [closeSink_eq_modFrame, modFrame_of_frame hf]
    simp [Core.frame]
  · rw [closeChannel_of_open hopen]
  · simp only [closeSink_eq_modFrame, modFrame_modFrame, closeChannel_closeChannel]

theorem commitHappenings : CommitHappenings := by
  intro s c x
  refine ⟨fun b n rest f t hb hn hf hok hc ha => exec_instanceCommit hb hn hf hok hc ha,
    fun n hp => ⟨vacateTile_touched s c n hp, vacateTile_state s c n⟩, ?retire,
    fun frame hok hoff => lateTokens_of_no_fault hok hoff, ?free, fun regs r v l => rfl⟩
  case retire =>
    intro frame f late hf hl hst hsi hso hin
    have ho : f.nothingOpen := ⟨hst, hsi, hso, hin⟩
    exact ⟨fun hs => ⟨_, _, rfl, rfl, exec_frameRetire_retires hf hl ho hs⟩,
      fun e hok he => exec_frameRetire_tagCheck hf hl ho hok he⟩
  case free =>
    intro frame k
    simp only [Core.frame, freeFrameEntry_frames]
    exact ⟨sfind_sdel_same _ _, List.mem_cons_self, fun m hm => sfind_sdel_ne _ hm⟩

/-- Settles O50: commit, retirement, and the closing of a sink by its first EOS. -/
theorem commitAndRetirement : Obligations.CommitAndRetirement := ⟨commitHappenings, eosClosesASinkOnce⟩

end Sys2Proof.Machine
end

section
/-! O36: the commands on context slots and the debug commands (R37, R335, R358). -/
namespace Sys2Proof.Machine

/-- A step that completes hands its value to the next. -/
theorem res_ok_bind {α β : Type} (a : α) (f : α → Res β) : ((.ok a : Res α) >>= f) = f a := rfl

/-- A step that stops ends the sequence. -/
theorem res_error_bind {α β : Type} (e : Stop) (f : α → Res β) : ((.error e : Res α) >>= f) = .error e := rfl

section
variable {s d : State} (hd : Drained s d)
include hd

theorem drained_turn : d.turn = s.turn := by
  obtain ⟨-, rfl⟩ := hd
  simp

/-- A command acts on the state whose buffered stores have been performed (R98). -/
theorem command_of_drained (f : State → Res State) : command s f = finish d s.turn (f d) :=
  command_of hd.1 hd.2 f

/-! ## The slots of contexts -/

section
variable {a ctx : Nat} {cs : List Nat} (hm : maskOperand d s.turn a = .ok cs)
include hm

theorem exec_cxprio (prio : Nat) (hx : ctxOperand d cs ctx = .ok ()) (hb : ∀ c ∈ cs, (d.ctx c ctx).block ≠ none) :
    exec (.cxprio a prio ctx) s =
      .next ((cs.foldl (fun t c => t.modCtx c ctx (fun k => { k with prioNew := some prio })) d).complete s.turn) := by
  have hneed : cs.all (fun c => (d.ctx c ctx).block.isSome) = true := by simpa [Option.isSome_iff_ne_none] using hb
  change execCxprio a prio ctx s = _
  simp only [execCxprio, command_of_drained hd, drained_turn hd, hm, hx, hneed, res_ok_bind, need_true, finish_ok]

theorem parkOperands_of_mask (hx : ctxOperand d cs ctx = .ok ()) (hs : ∀ c ∈ cs, (d.ctx c ctx).slot ≠ .empty) :
    parkOperands d a ctx = .ok cs := by
  have hneed : cs.all (fun c => (d.ctx c ctx).slot != .empty) = true := by simpa using hs
  simp only [parkOperands, drained_turn hd, hm, hx, hneed, res_ok_bind, need_true]

/-- `cxpark` completes once every named core has stopped the context, and asks them to stop it until then. -/
theorem exec_cxpark (hx : ctxOperand d cs ctx = .ok ()) (hs : ∀ c ∈ cs, (d.ctx c ctx).slot ≠ .empty) :
    exec (.cxpark a ctx) s = if cs.all (fun c => (d.ctx c ctx).slot == .stopped) then .next (d.complete s.turn)
      else .next ((cs.foldl (fun t c => t.modCtx c ctx (fun k => { k with parkNew := true })) d).wait s.turn) := by
  have hp := parkOperands_of_mask hd hm hx hs
  obtain ⟨hready, rfl⟩ := hd
  change execCxpark a ctx s = _
  simp only [execCxpark, hready, hp]
  rfl

theorem exec_cxresume {u : State} (hs : ∀ c ∈ cs, (d.ctx c ctx).slot ≠ .empty ∧ (d.ctx c ctx).slot ≠ .vacant)
    (hu : resumeAll ctx cs d = .ok u) : exec (.cxresume a ctx) s = .next (u.complete s.turn) := by
  have hvac : cs.all (fun c => (d.ctx c ctx).slot != .vacant) = true := by simpa using fun c hc => (hs c hc).2
  have hemp : cs.all (fun c => (d.ctx c ctx).slot != .empty) = true := by simpa using fun c hc => (hs c hc).1
  change execCxresume a ctx s = _
  simp only [execCxresume, command_of_drained hd, drained_turn hd, hm, hvac, hemp, hu, res_ok_bind, await_true, need_true,
    finish_ok]

theorem exec_cxresume_vacant (hs : ∃ c ∈ cs, (d.ctx c ctx).slot = .vacant) :
    exec (.cxresume a ctx) s = .next (d.wait s.turn) := by
  have hvac : cs.all (fun c => (d.ctx c ctx).slot != .vacant) = false := by simpa using hs
  change execCxresume a ctx s = _
  simp only [execCxresume, command_of_drained hd, drained_turn hd, hm, hvac, res_ok_bind, await_false, res_error_bind,
    finish_wait]

end

/-! ## Region stacks (R37, R358) -/

/-- `renter` of the stacks its operands name, with room on each. -/
theorem exec_renter {a b own ctx : Nat} {cs : Option (List Nat)} (ho : stackOperands d a own ctx = .ok cs)
    (hv : (d.getX s.turn b).toNat < 2 ^ 16) (hroom : allStacks d cs ctx (fun n => n < 16) = true) :
    exec (.renter a b own ctx) s =
      .next ((changeStacks d cs ctx (fun l => l ++ [(d.getX s.turn b).toNat])).complete s.turn) := by
  change execRenter a b own ctx s = _
  have hlow : lowOperand (d.getX s.turn b) 16 = .ok (d.getX s.turn b).toNat := by simp only [lowOperand, hv]; rfl
  simp only [execRenter, command_of_drained hd, drained_turn hd, ho, hlow, hroom, res_ok_bind, need_true, finish_ok]

/-- `rleave` of the stacks its operands name, with more than the one entry on each. -/
theorem exec_rleave {a own ctx : Nat} {cs : Option (List Nat)} (ho : stackOperands d a own ctx = .ok cs)
    (hroom : allStacks d cs ctx (fun n => 1 < n) = true) :
    exec (.rleave a own ctx) s = .next ((changeStacks d cs ctx (fun l => l.dropLast)).complete s.turn) := by
  change execRleave a own ctx s = _
  simp only [execRleave, command_of_drained hd, ho, hroom, res_ok_bind, need_true, finish_ok]

theorem stackOperands_of_mask {a ctx : Nat} {cs : List Nat} (hm : maskOperand d s.turn a = .ok cs)
    (hx : ctxOperand d cs ctx = .ok ()) (hb : ∀ q ∈ cs, (d.ctx q ctx).block ≠ none) :
    stackOperands d a 0 ctx = .ok (some cs) := by
  have hneed : cs.all (fun c => (d.ctx c ctx).block.isSome) = true := by simpa [Option.isSome_iff_ne_none] using hb
  rw [stackOperands, if_neg (by decide)]
  simp only [drained_turn hd, hm, hx, hneed, res_ok_bind, need_true]

/-! ## Marks and breakpoints (R358) -/

theorem exec_smark {b : Nat} (hv : (d.getX s.turn b).toNat < 2 ^ 32) : exec (.smark b) s =
    .next ((d.record s.turn (coreOf s.turn 0) (recordQ0 2 0 0 0 1 0 0 0) (recordQ2 (stackTop (d.region s.turn).rstack).1
      (stackTop (d.region s.turn).rstack).2 (d.getX s.turn b).toNat) 0).complete s.turn) := by
  change execSmark b s = _
  have hlow : lowOperand (d.getX s.turn b) 32 = .ok (d.getX s.turn b).toNat := by simp only [lowOperand, hv]; rfl
  simp only [execSmark, command_of_drained hd, drained_turn hd, hlow, res_ok_bind, finish_ok]

theorem exec_bkpt {b core ctx c : Nat} (hc : coreOperand d s.turn core = .ok c) (hx : ctxOperand d [c] ctx = .ok ())
    (hv : bits (d.getX s.turn b).toNat 30 0 = 0) (hb : (d.ctx c ctx).block ≠ none) :
    exec (.bkpt b core ctx) s = .next ((d.modCtx c ctx (fun k => { k with
      bkpt := if bit (d.getX s.turn b).toNat 31 then
          some { block := bits (d.getX s.turn b).toNat 63 48, region := bits (d.getX s.turn b).toNat 47 32 }
        else none })).complete s.turn) := by
  have hneed : (d.ctx c ctx).block.isSome = true := by simpa [Option.isSome_iff_ne_none] using hb
  change execBkpt b core ctx s = _
  simp only [execBkpt, command_of_drained hd, drained_turn hd, hc, hx, hv, hneed, res_ok_bind, beq_self_eq_true, need_true,
    finish_ok]

end

theorem contextSlotCommands : ContextSlotCommands := by
  intro s d a prio ctx cs hd hm
  refine ⟨exec_cxprio hd hm prio, fun hx hs => ⟨?stopped, ?running⟩, fun k hp hs => ?next,
    fun u hs hu => exec_cxresume hd hm hs hu, exec_cxresume_vacant hd hm⟩
  case stopped =>
    intro hst
    rw [exec_cxpark hd hm hx hs, if_pos (by simpa using hst)]
  case running =>
    intro hrun
    rw [exec_cxpark hd hm hx hs, if_neg (by simpa using hrun)]
  case next => simp [Ctx.nextBeat, hp, hs]

theorem debugCommands : DebugCommands := by
  rintro s d a b core ctx c v g hd rfl rfl
  refine ⟨fun hv hroom => ?enter, fun hroom => ?leave, fun cs hm hx hb => ⟨fun hv hroom => ?enterContexts, fun hroom => ?leaveContexts⟩,
    exec_smark hd, exec_bkpt hd⟩
  case enter =>
    rw [exec_renter hd (cs := none) rfl hv (by simpa [allStacks, drained_turn hd] using hroom), changeStacks, drained_turn hd]
  case leave =>
    rw [exec_rleave hd (cs := none) rfl (by simpa [allStacks, drained_turn hd] using hroom), changeStacks, drained_turn hd]
  case enterContexts =>
    exact exec_renter hd (stackOperands_of_mask hd hm hx hb) hv (by simpa [allStacks] using hroom)
  case leaveContexts =>
    exact exec_rleave hd (stackOperands_of_mask hd hm hx hb) (by simpa [allStacks] using hroom)

/-- Settles O36: each command's checks pass, and what it then does to the slots, stacks and records is its effect. -/
theorem contextAndDebugCommands : Obligations.ContextAndDebugCommands := ⟨contextSlotCommands, debugCommands⟩

end Sys2Proof.Machine
end

section
/-! O47: launches start and end; held causes and waiting commands are looked at again (R20 to R22, R113, R132). -/
namespace Sys2Proof.Machine

/-! ## What preparing a launch's cores leaves -/

theorem placeTiles_regions (c : Nat) (ts : List ImageTile) (n : Nat) (at' : List Nat) (s : State) :
    (placeTiles c ts n at' s).regions = s.regions := by
  induction ts generalizing n at' s with
  | nil => rfl
  | cons t ts ih => simp [placeTiles, ih, State.setTile]

theorem prepareCore_regions (l : Launch) (s : State) (c : Nat) : (prepareCore l s c).regions = s.regions := by
  simp [prepareCore, placeTiles_regions]

/-! ## Starting a launch -/

theorem exec_launchStart {s : State} {r : Nat} {ws : List Word} {rest : List (List Word)}
    (hl : (s.region r).launches = ws :: rest) (hidle : (s.region r).launch = none) (hrun : s.die.boot = .running)
    (howed : (s.region r).owed = []) :
    exec (.launchStart r) s =
      .next (startLaunch (s.setRegion r { s.region r with launches := rest }) r { words := ws }).tick := by
  change execLaunchStart r s = _
  simp [execLaunchStart, hl, hidle, hrun, howed]

/-- A good record makes its region's control core start the launch program (R20). -/
theorem startLaunch_region {s : State} {r : Nat} {l : Launch} {sec : Nat} (hok : recordBad s r l = false)
    (hsec : sectorFor s r l = some sec) : (startLaunch s r l).region r = (s.region r).begin l := by
  have hfold (u : State) (cs : List Nat) : (cs.foldl (prepareCore l) u).regions = u.regions :=
    foldl_view State.regions (prepareCore_regions l) cs u
  simp [startLaunch, hok, hsec, State.region, hfold]

/-- The registers as a launch program starts: x10 and x11 hold the record's, the others 0 (R20). -/
theorem begin_getX (g : Region) (l : Launch) (n : Nat) : (g.begin l).getX n =
    if n = 10 then nth 0 l.words 2 else if n = 11 then BitVec.ofNat 64 l.id else 0 := by
  by_cases h0 : n = 0
  · simp [h0, Region.getX]
  · simp [Region.getX, Region.begin, h0, sget]

/-! ## Settling O47 -/

/-- Settles O47: each happening whose condition holds has the effect its rule gives. -/
theorem launchHappenings : Obligations.LaunchHappenings := by
  rintro s r g rfl
  refine ⟨fun ws rest => exec_launchStart, ?refused, ?started, ?ended, ?trap, ?resumed⟩
  case refused =>
    rintro t l hbad rfl
    exact if_pos hbad
  case started =>
    rintro t l sec hok hsec rfl
    simp only [State.getX, startLaunch_region hok hsec, begin_getX]
    exact ⟨rfl, rfl, rfl, rfl, rfl, rfl, fun n h10 h11 => by rw [if_neg h10, if_neg h11]⟩
  case ended =>
    intro hl hw hf
    change execLaunchEnd r s = _
    simp [execLaunchEnd, Option.isSome_iff_ne_none, hl, hw, hf]
  case trap =>
    intro hl ht
    change execTakeTrap r s = _
    simp [execTakeTrap, Option.isSome_iff_ne_none, hl, ht]
  case resumed =>
    intro hw
    change execWaitingCommandResume r s = _
    simp [execWaitingCommandResume, hw]

end Sys2Proof.Machine
end

section
/-! O48: requests, replies and tokens enter the network and are delivered; switches and links (R28, R290 to R296, R305, R306). -/
namespace Sys2Proof.Machine

/-! ## Requests enter the network -/

/-- A home of this package is reached with no link. -/
theorem sendAsk_local (s : State) (p : Packet) (h : p.dst < 2 ^ 16) : s.sendAsk p = s.sendPacket p := if_pos h

theorem inject_sent (s : State) (p : Packet) :
    (s.inject p).sent = sput s.sent (pairKey p.src p.dst) ((sget 0 s.sent (pairKey p.src p.dst) + 1) % 16) := by
  simp [State.inject]

theorem inject_undelivered (s : State) (p : Packet) :
    (s.inject p).undelivered = sput s.undelivered (pairKey p.src p.dst) (sget 0 s.undelivered (pairKey p.src p.dst) + 1) := by
  simp [State.inject]

/-- The requests of `n` places that cut `m` bytes from place `lo` on cover as many of them as they can hold (R306). -/
theorem sum_cut_lengths (m n lo : Nat) :
    ((range lo n).map (fun j => Nat.min 512 (m - 512 * j))).sum = Nat.min (512 * n) (m - 512 * lo) := by
  induction n generalizing lo with
  | zero => simp [range]
  | succ n ih =>
    rw [range, List.map_cons, List.sum_cons, ih]
    simp only [Nat.min_def]
    split <;> split <;> split <;> omega

theorem cutRequests_length_pos_le {core : Nat} {write : Bool} {ks : List Nat} {q : Nat × Nat}
    (h : q ∈ cutRequests core write ks) : 1 ≤ q.2 ∧ q.2 ≤ 512 := by
  simp only [cutRequests, List.mem_map, mem_range] at h
  obtain ⟨j, ⟨-, hj⟩, rfl⟩ := h
  refine ⟨Nat.le_min.mpr ⟨by decide, ?_⟩, Nat.min_le_left _ _⟩
  omega

theorem sum_cutRequests (core : Nat) (write : Bool) (ks : List Nat) :
    ((cutRequests core write ks).map (·.2)).sum = (ks.filter (fun k => !write || spadOf k != some core)).length := by
  have hle (m : Nat) : m ≤ 512 * ((m + 511) / 512) := by omega
  simp only [cutRequests, List.map_map, Function.comp_def, sum_cut_lengths, Nat.mul_zero, Nat.sub_zero]
  exact Nat.min_eq_right (hle _)

theorem requestsEnterTheNetwork : RequestsEnterTheNetwork := by
  refine ⟨fun s r home hh => ?control, ?form, ?sent, fun core ks write => ⟨fun q => cutRequests_length_pos_le,
    sum_cutRequests core write ks⟩⟩
  case control => exact ⟨sendAsk_local s _ hh, sendAsk_local s _ hh, sendAsk_local s _ hh, sendAsk_local s _ hh⟩
  case form =>
    rintro src home cls out back bytes chunk p rfl
    exact ⟨rfl, rfl, rfl, rfl, rfl, rfl, rfl, rfl⟩
  case sent =>
    rintro s t p rfl
    obtain ⟨hc, h⟩ | ⟨hc, h⟩ := sendPacket_cases s p
    · simp [h, hc, inject_sent, inject_undelivered]
    · simp [h, hc]

/-! ## Packets are delivered -/

/-- The packet that stands next at an interface is delivered there. -/
theorem exec_tokenDelivery {s : State} {d k : Nat} {p : Packet} (h : s.arrived d k = some p) :
    exec (.tokenDelivery d k) s = .next (s.deliver d p).tick := by
  change execTokenDelivery d k s = _
  simp only [execTokenDelivery, h]

section
variable {s : State} {d : Nat} {p : Packet}

theorem deliver_reply (h : p.reply = true) : s.deliver d p = s.replied p := by simp [State.deliver, h]

theorem deliver_request {back : Nat} (h : p.reply = false) (ha : p.ask = some back) :
    s.deliver d p = s.serveAsk p back := by simp [State.deliver, h, ha]

theorem deliver_to_core (h : p.reply = false) (ha : p.ask = none) (hd : d < 4096) : s.deliver d p =
    match acceptToken s d p.tok with
    | some t => (t.tokenTaken d p.tok).delivered p
    | none => refusedAt s d p.tok := by
  simp only [State.deliver, h, ha, if_pos hd]
  rfl

theorem deliver_to_mailbox (h : p.reply = false) (ha : p.ask = none) (hd : 4096 ≤ d) : s.deliver d p =
    match acceptMail s (d - 4096) p.src p.tok with
    | some t => t.delivered p
    | none => s := by
  simp only [State.deliver, h, ha, if_neg (Nat.not_lt.mpr hd)]
  rfl

/-- A home that is not held answers (R281). -/
theorem serveAsk_answers {back : Nat} (h : 4096 ≤ p.dst ∨ (s.vault p.dst).held = false) :
    s.serveAsk p back = (s.delivered p).sendPacket (p.answer back) := by
  refine if_neg ?_
  simp only [State.vault] at h
  obtain h | h := h
  · simp [Nat.not_lt.mpr h]
  · simp [h]

theorem serveAsk_held {back : Nat} (hd : p.dst < 4096) (h : (s.vault p.dst).held = true) : s.serveAsk p back = s := by
  simp only [State.vault] at h
  simp [State.serveAsk, hd, h]

end

theorem packetsAreDelivered : PacketsAreDelivered := by
  intro s d k p hp
  rw [exec_tokenDelivery hp]
  refine ⟨fun hr hb => ?reply, fun hr hb => ?copyReply, fun back hr ha => ⟨fun h => ?answer, fun hd h => ?held⟩,
    fun hr ha => ⟨fun t hd ht => ?taken, fun hd ht => ?refused, fun t hd ht => ?mail, fun hd ht => ?mailWaits⟩⟩
  case reply => rw [deliver_reply hr, State.replied, if_pos hb]
  case copyReply => rw [deliver_reply hr, State.replied, if_neg hb]
  case answer => rw [deliver_request hr ha, serveAsk_answers h]
  case held => rw [deliver_request hr ha, serveAsk_held hd h]
  case taken => rw [deliver_to_core hr ha hd, ht]
  case refused => rw [deliver_to_core hr ha hd, ht]
  case mail => rw [deliver_to_mailbox hr ha hd, ht]
  case mailWaits => rw [deliver_to_mailbox hr ha hd, ht]

/-! ## Arbitration and promotion (R293) -/

theorem pickFirst_mem {α : Type} {before : α → α → Bool} {l : List α} {m : α} (h : pickFirst before l = some m) : m ∈ l := by
  induction l with
  | nil => simp [pickFirst] at h
  | cons a l ih =>
    simp only [pickFirst] at h
    split at h
    · simp_all
    · rename_i b hb
      split at h <;> obtain rfl := Option.some.inj h
      · exact List.mem_cons_of_mem _ (ih hb)
      · exact List.mem_cons_self

/-- An entry that goes before every other is picked. -/
theorem pickFirst_eq_of_first {α : Type} {before : α → α → Bool} {l : List α} {m : α} (hm : m ∈ l)
    (h : ∀ e ∈ l, e = m ∨ (before m e = true ∧ before e m = false)) : pickFirst before l = some m := by
  induction l with
  | nil => simp at hm
  | cons a l ih =>
    have hl : ∀ e ∈ l, e = m ∨ (before m e = true ∧ before e m = false) := fun e he => h e (List.mem_cons_of_mem _ he)
    simp only [pickFirst]
    by_cases hml : m ∈ l
    · obtain rfl | ⟨hb, -⟩ := h a List.mem_cons_self
      · simp [ih hml hl]
      · simp [ih hml hl, hb]
    · obtain rfl : m = a := (List.mem_cons.mp hm).resolve_right hml
      split
      · rfl
      · rename_i b hb
        obtain rfl | ⟨-, hbm⟩ := hl b (pickFirst_mem hb)
        · simp
        · simp [hbm]

theorem nextPacket_of_no_head {s : State} {port : Nat} (h : readyHeads s port = []) : nextPacket s port = none := by
  simp [nextPacket, h, pickFirst, range]

theorem roundLoop_of_no_head {s : State} {port : Nat} (h : readyHeads s port = []) (n : Nat) : roundLoop port n s = s := by
  cases n with
  | zero => rfl
  | succ n => simp only [roundLoop, nextPacket_of_no_head h]

theorem roundLoop_sends {s : State} {port : Nat} {p : Packet} (h : nextPacket s port = some p) (n : Nat) :
    roundLoop port (n + 1) s = roundLoop port n (s.sendOn port p) := by
  simp only [roundLoop, h]

/-- The head that has waited 64 ticks, and of several the longest, is promoted. -/
theorem exec_promotion {s : State} {port vc k : Nat} {p : Packet} (hp : (k, p) ∈ headsAt s port) (hvc : p.vc = vc)
    (hnew : p.promoted = false) (hold : p.since + 64 ≤ s.ticks.toNat)
    (hfirst : ∀ e ∈ headsAt s port, e.2.vc = vc → e.2.promoted = false → e.2.since + 64 ≤ s.ticks.toNat →
      e = (k, p) ∨ p.since < e.2.since) :
    exec (.promotion port vc) s = .next { s with
      queues := sput s.queues k ({ p with promoted := true } :: (sget [] s.queues k).drop 1) }.tick := by
  have hpick : pickFirst (fun a b => a.2.since < b.2.since || (a.2.since == b.2.since && inputNo a.2.input < inputNo b.2.input))
      ((headsAt s port).filter (fun e => e.2.vc == vc && e.2.due s.ticks.toNat)) = some (k, p) := by
    refine pickFirst_eq_of_first (by simp [hp, hvc, Packet.due, hnew, hold]) fun e he => ?_
    simp only [List.mem_filter, Packet.due, Bool.and_eq_true, beq_iff_eq, decide_eq_true_eq, Bool.not_eq_true'] at he
    obtain ⟨hmem, hevc, hdue, hep⟩ := he
    refine (hfirst e hmem hevc hep hdue).imp_right fun hlt => ?_
    simp [hlt, Nat.not_lt.mpr (Nat.le_of_lt hlt), Nat.ne_of_gt hlt]
  change execPromotion port vc s = _
  simp only [execPromotion, hpick]

/-! ## Package links (R296) -/

@[simp] theorem setLink_link_same (s : State) (l : Nat) (v : Link) : (s.setLink l v).link l = v := by
  simp [State.setLink, State.link]

@[simp] theorem tick_link (s : State) (l : Nat) : s.tick.link l = s.link l := rfl

@[simp] theorem notify_link (s : State) (n : Notice) (l : Nat) : (s.notify n).link l = s.link l := rfl

theorem portLink_linkPort {l : Nat} (h : l < 4096) : portLink (linkPort l) = some l := by
  have hq : linkPort l / 4096 = 16 := by unfold linkPort; omega
  have hr : linkPort l % 4096 = l := by unfold linkPort; omega
  simp [portLink, hq, hr]

/-- A link's port sends exactly while the link is up. -/
theorem portUp_linkPort (s : State) {l : Nat} (h : l < 4096) : portUp s (linkPort l) = ((s.link l).state == .up) := by
  simp [portUp, portLink_linkPort h]

theorem readyHeads_of_port_down {s : State} {q : Nat} (h : portUp s q = false) : readyHeads s q = [] := by
  simp [readyHeads, h]

theorem switchesAndLinks : SwitchesAndLinks := by
  intro s
  refine ⟨?round, ?promotion, fun l => ?replay, fun l hl => ?failure, fun l hl => ?retrain⟩
  case round =>
    rintro port u rfl
    have hx : exec (.arbitrationRound port) s = .next (roundLoop port
        (queued (s.setPort port { s.port port with left := [8, 4, 2, 1] }))
        (s.setPort port { s.port port with left := [8, 4, 2, 1] })).tick := rfl
    exact ⟨hx, fun h => by rw [hx, roundLoop_of_no_head h], fun p n hp hn => by rw [hx, hn, roundLoop_sends hp]⟩
  case promotion =>
    rintro port vc k p now rfl hp hvc hnew hold hfirst
    exact exec_promotion hp hvc hnew hold hfirst
  case replay =>
    refine ⟨_, rfl, ?_, ?_, rfl, rfl, rfl⟩
    · change ((s.setLink l { s.link l with replays := (s.link l).replays + 1 }).link l).replays = _
      simp
    · change ((s.setLink l { s.link l with replays := (s.link l).replays + 1 }).link l).sent = _
      simp
  case failure =>
    refine ⟨((s.setLink l { s.link l with state := .failed }).notify (.linkFailed l)).tick, rfl, ?_, rfl, ?_, rfl,
      readyHeads_of_port_down ?_⟩
    · simp
    · simp
    · simp [portUp_linkPort _ hl]
  case retrain =>
    refine ⟨(s.setLink l { s.link l with state := .up }).tick, rfl, ?_, rfl, ?_, ?_⟩
    · simp
    · simp
    · simp [portUp_linkPort _ hl]

/-- Settles O48: requests enter, packets are delivered, and switches and links carry them. -/
theorem networkHappenings : Obligations.NetworkHappenings :=
  ⟨requestsEnterTheNetwork, packetsAreDelivered, switchesAndLinks⟩

end Sys2Proof.Machine
end

section
/-! O54: streams start, make their accesses, and requests are answered (R32, R116 to R119, R281, R290, R366). -/
namespace Sys2Proof.Machine

section
variable {s : State} {c p : Nat} {e : PortEntry}

/-! ## The head of a port's queue (R117, R118) -/

theorem exec_streamStart_stream {rest : List PortEntry} (hq : (s.core c).portQ p = e :: rest) (hb : e.barrier = none)
    (ha : e.active = false) (hf : (s.core c).frozen e = false) :
    exec (.streamStart c p) s = .next (s.setPortQ c p ({ e with active := true } :: rest)).tick := by
  change execStreamStart c p s = _
  simp [execStreamStart, hq, hb, ha, hf]

theorem exec_streamStart_barrier {rest : List PortEntry} {n : Nat} (hq : (s.core c).portQ p = e :: rest)
    (hb : e.barrier = some n) (hr : (s.core c).barrierReady n = true) :
    exec (.streamStart c p) s = .next (s.setCore c ((s.core c).passBarrier n)).tick := by
  change execStreamStart c p s = _
  simp [execStreamStart, hq, hb, hr]

/-! ## The generator of an active stream (R116, R119) -/

/-- For a request that is the stream's own, of a frame with no fault, the generator reads or writes. -/
theorem exec_streamAccess_request {n : Nat} {r : MemReq} (he : (s.core c).activeEntry p = some e)
    (hr : (s.core c).portReq p = some (n, r)) (hx : r.ctx = e.ctx) (hs : isStreamReq s c r = true)
    (hf : (s.core c).faulted (frameOf r.tag) = false) :
    exec (.streamAccess c p) s = if r.kind = .read then .next (readAccess s c p n r e).tick
      else .next (writeAccess s c p n r e).tick := by
  change execStreamAccess c p s = _
  by_cases hk : r.kind = .read <;> simp [execStreamAccess, he, hr, hx, hs, hf, hk]

/-- A read whose checks pass joins the bytes at hand; short of a train, with more to come, that is all. -/
theorem readAccess_joins {n : Nat} {r : MemReq} {ks : List Nat} {f : PortEntry}
    (hbuf : e.buf.length < streamBytes (patFmt e.pattern)) (hpos : e.pos < patTotal e.pattern)
    (ht : tryAccess s c r.ctx (patAddr e.pattern e.addend e.pos).toNat (2 ^ patSize e.pattern) .read (patObject e.pattern)
      e.waited = .ok ks)
    (hfe : f = { e with buf := e.buf ++ ks.map (fun k => (s.readByte k, s.poison.contains (k / 8))), pos := e.pos + 1,
                        stopped := false, err := none, waited := Waited.reset, tried := false })
    (hfbuf : f.buf.length < streamBytes (patFmt e.pattern)) (hfpos : f.pos < patTotal e.pattern) :
    readAccess s c p n r e = (s.setHead c p f).askElement c (patClass e.pattern) ks false := by
  have hmore : ¬(streamBytes (patFmt e.pattern) ≤ e.buf.length ∨ patTotal e.pattern ≤ e.pos) := by omega
  have hfmore : ¬(streamBytes (patFmt e.pattern) ≤ f.buf.length ∨ patTotal e.pattern ≤ f.pos) := by omega
  subst hfe
  simp only [readAccess, if_neg hmore, ht]
  exact if_neg hfmore

/-- A write whose checks pass is made; with more of the request to come, that is all. -/
theorem writeAccess_writes {n : Nat} {r : MemReq} {a : Access} {rest : List Access} {ks : List Nat} (ha : r.accs = a :: rest)
    (hrest : rest ≠ []) (hpos : e.pos < patTotal e.pattern)
    (ht : tryAccess s c r.ctx (patAddr e.pattern e.addend e.pos).toNat a.size .write (patObject e.pattern) e.waited = .ok ks) :
    writeAccess s c p n r e =
      (((s.ctxWrite c (patAddr e.pattern e.addend e.pos).toNat ks (toBytes a.size a.value) a.poison).setHead c p
        { e with pos := e.pos + 1, stopped := false, err := none, waited := Waited.reset }).setReq c n
        { r with accs := rest, got := r.got ++ [(a.lane, 0, a.poison)] }).askElement c (patClass e.pattern) ks true := by
  have hlast : rest.isEmpty = false := by simpa using hrest
  simp only [writeAccess, ha, if_neg (Nat.not_le.mpr hpos), ht, hlast]
  rfl

/-- With no request, the generator of a read stream that an `ld` word alone takes reads for a first beat to come (R32). -/
theorem exec_streamAccess_ahead {ks : List Nat} (he : (s.core c).activeEntry p = some e) (hr : (s.core c).portReq p = none)
    (hb : e.barrier = none) (hz : (s.core c).frozen e = false) (hl : ((s.core c).ctx e.ctx).readsAhead p = true)
    (hw : patWrites e.pattern = false) (hfirst : e.firstReady = false)
    (ht : tryAccess s c e.ctx (patAddr e.pattern e.addend e.pos).toNat (2 ^ patSize e.pattern) .read (patObject e.pattern)
      e.waited = .ok ks) :
    exec (.streamAccess c p) s = .next ((s.setHead c p { e with
      buf := e.buf ++ ks.map (fun k => (s.readByte k, s.poison.contains (k / 8))), pos := e.pos + 1,
      waited := Waited.reset }).askElement c (patClass e.pattern) ks false).tick := by
  change execStreamAccess c p s = _
  simp [execStreamAccess, he, hr, hb, hz, hl, hw, prefetch, hfirst, ht]

end

/-! ## Requests that are not a stream's (R281, R366) -/

section
variable {s : State} {c n : Nat} {r : MemReq} (hn : (s.core c).reqs[n]? = some r)
include hn

theorem exec_memoryRequest : exec (.memoryRequest c n) s = .next (ownRequest s c n r).tick := by
  change execMemoryRequest c n s = _
  simp only [execMemoryRequest, hn]

variable (hs : isStreamReq s c r = false) (hf : (s.core c).faulted (frameOf r.tag) = false)
  (hfirst : ((s.core c).reqs.take n).any (fun q => q.ctx == r.ctx && q.idx == r.idx) = false)
include hs hf hfirst

/-- One that has no access left is answered. -/
theorem ownRequest_answered (ha : r.accs = []) : ownRequest s c n r = s.answer c n r (reqTrain r) false := by
  simp [ownRequest, hs, hf, hfirst, ha, answerIfDone, hn]

omit hn in
/-- One whose next access passes its checks makes it, an update in its turn, or keeps its place in line. -/
theorem ownRequest_access {a : Access} {rest : List Access} {q : PortEntry} {port : Nat} {ks : List Nat}
    (ha : r.accs = a :: rest) (hp : r.port = some port) (hq : (s.core c).activeEntry port = some q) (hsz : a.size ≠ 0)
    (ht : tryAccess s c r.ctx a.addr.toNat a.bytes (a.want r.kind) (patObject q.pattern) r.waited = .ok ks) :
    ownRequest s c n r =
      if a.want r.kind = .atomic ∧ atomicGoes s r.heldAt ks = false then
        s.setReq c n { r with heldAt := heldPlace s r.heldAt ks }
      else answerIfDone (performAcc (s.askElement c (patClass q.pattern) ks (r.kind != .read)) c n
        { r with heldAt := none } q a ks) c n := by
  simp [ownRequest, hs, hf, hfirst, ha, hp, hq, ht, hsz]

end

/-- Settles O54: each of the streams' happenings whose condition holds makes its access, or gives its answer. -/
theorem streamHappenings : Obligations.StreamHappenings := by
  intro s c p
  refine ⟨fun e rest => exec_streamStart_stream, fun e rest n => exec_streamStart_barrier, ?requests,
    fun e ks he hr hb hz hl hw hfirst ht => exec_streamAccess_ahead he hr hb hz hl hw hfirst ht, ?memory⟩
  case requests =>
    intro e n r he hr hx hs hf
    rw [exec_streamAccess_request he hr hx hs hf]
    refine ⟨fun hk => if_pos hk, fun hk => if_neg hk, ?read, ?write⟩
    case read =>
      rintro addr ks f rfl hk hbuf hpos ht hfe hfbuf hfpos
      rw [if_pos hk, readAccess_joins hbuf hpos ht hfe (by simpa [hfe] using hfbuf) (by simpa [hfe] using hfpos)]
    case write =>
      rintro addr a rest ks rfl hk ha hrest hpos ht
      rw [if_neg hk, writeAccess_writes ha hrest hpos ht]
  case memory =>
    intro n r hn hs hf hfirst
    rw [exec_memoryRequest hn]
    refine ⟨fun ha => by rw [ownRequest_answered hn hs hf hfirst ha], fun a rest q port ks ha hp hq hsz ht => ?_⟩
    rw [ownRequest_access hs hf hfirst ha hp hq hsz ht]
    refine ⟨fun hgo => ?goes, fun hat hwait => ?waits⟩
    case goes =>
      refine congrArg (fun t : State => Host.Outcome.next t.tick) (if_neg ?_)
      rintro ⟨hat, hwait⟩
      obtain h | h := hgo
      · exact h hat
      · rw [hwait] at h
        exact Bool.noConfusion h
    case waits => rw [if_pos ⟨hat, hwait⟩]

end Sys2Proof.Machine
end

section
/-! O49: instances fire, a beat advances the selected contexts, a steered train returns, late answers arrive (R32, R35, R36, R150,
R219, R280). -/
namespace Sys2Proof.Machine

/-! ## Event counts and soft errors (R280, R353) -/

theorem mem_foldl_insertNat {n : Nat} {us l : List Nat} : n ∈ us.foldl insertNat l ↔ n ∈ us ∨ n ∈ l := by
  induction us generalizing l with
  | nil => simp
  | cons u us ih => rw [List.foldl_cons, ih, mem_insertNat, List.mem_cons, or_left_comm, or_assoc]

theorem countEvent_core_ne (s : State) {c d : Nat} (src ctx n : Nat) (h : d ≠ c) :
    (s.countEvent c src ctx n).core d = s.core d :=
  setCore_core_ne _ _ h

/-- Counting an event changes the counts of its core alone. -/
theorem countEvent_view {β : Type} {view : Core → β} (hv : ∀ (k : Core) t, view { k with counters := t } = view k) (s : State)
    (c src ctx n d : Nat) : view ((s.countEvent c src ctx n).core d) = view (s.core d) := by
  by_cases h : d = c
  · subst h
    simp [State.countEvent, Core.countEvent, hv]
  · rw [countEvent_core_ne s src ctx n h]

theorem spoil_view {β : Type} {view : Core → β} (hv : ∀ (k : Core) t, view { k with counters := t } = view k) (s : State)
    (us : List Nat) (d : Nat) : view ((s.spoil us).core d) = view (s.core d) :=
  foldl_view (fun t : State => view (t.core d)) (fun t _ => countEvent_view hv t _ 12 0 1 d) _ _

theorem countErrors_core_ne {us : List Nat} {d : Nat} (h : ∀ u ∈ us, eventCore (8 * u) ≠ d) (s : State) :
    (us.foldl (fun t u => t.countEvent (eventCore (8 * u)) 12 0 1) s).core d = s.core d := by
  induction us generalizing s with
  | nil => rfl
  | cons u us ih =>
    rw [List.foldl_cons, ih fun v hv => h v (List.mem_cons_of_mem _ hv)]
    exact countEvent_core_ne s 12 0 1 (h u List.mem_cons_self).symm

/-- Poisoned units count at the cores below which they lie. -/
theorem spoil_core_ne (s : State) {us : List Nat} {d : Nat} (h : ∀ u ∈ us, eventCore (8 * u) ≠ d) :
    (s.spoil us).core d = s.core d := by
  refine countErrors_core_ne (fun u hu => ?_) _
  simp only [mem_foldl_insertNat, List.mem_filter, List.not_mem_nil, or_false] at hu
  exact h u hu.1

theorem softErrors_view {β : Type} {view : Core → β} (hv : ∀ (k : Core) t, view { k with counters := t } = view k) (s : State)
    (c d : Nat) : view ((s.softErrors c).core d) = view (s.core d) :=
  (countEvent_view hv _ c 11 0 _ d).trans ((countEvent_view hv _ c 10 0 _ d).trans (spoil_view hv s _ d))

/-- The soft errors of a core's beat count at that core. -/
theorem softErrors_core_ne (s : State) {c d : Nat} (h : d ≠ c) : (s.softErrors c).core d = s.core d := by
  refine (countEvent_core_ne _ 11 0 _ h).trans ((countEvent_core_ne _ 10 0 _ h).trans (spoil_core_ne s fun u hu => ?_))
  have hc : eventCore (8 * u) = c := by simpa using (List.mem_filter.mp hu).2
  rw [hc]
  exact h.symm

theorem softErrors_regions (s : State) (c : Nat) : (s.softErrors c).regions = s.regions := by
  simp [State.softErrors, State.setFree, State.countEvent]

theorem softErrors_agenda (s : State) (c : Nat) : (s.softErrors c).agenda = s.agenda := by
  simp [State.softErrors, State.setFree, State.countEvent]

/-- Soft errors poison units and make none sound. -/
theorem poison_softErrors {s : State} {n : Nat} (c : Nat) (h : n ∈ s.poison) : n ∈ (s.softErrors c).poison := by
  simp [State.softErrors, State.setFree, State.countEvent, mem_foldl_insertNat, h]

/-! ## The contexts in a beat (R36, R351) -/

/-- What one beat makes of a context's own state. -/
def beatOf (c0 : Core) (sel : List Nat) (x : Nat) (k : Ctx) : Ctx :=
  if k.slot ≠ .resident ∧ k.slot ≠ .stopped then k
  else
    let k1 := { k with score := scoreBeat c0 x (sel.contains x) (ready c0 x && !sel.contains x) }
    if sel.contains x then { k1 with adv := k.adv + 1, age := 0, last := c0.beat }
    else if ready c0 x then { k1 with age := k.age + 1 } else k1

theorem countEvent_ctx (c : Core) (src ctx n x : Nat) : (c.countEvent src ctx n).ctx x = c.ctx x := rfl

theorem core_setCtx_ctx_same (c : Core) (x : Nat) (v : Ctx) : (c.setCtx x v).ctx x = v := by simp [Core.setCtx, Core.ctx]

theorem core_setCtx_ctx_ne (c : Core) {x y : Nat} (v : Ctx) (h : y ≠ x) : (c.setCtx x v).ctx y = c.ctx y := by
  simp [Core.setCtx, Core.ctx, sget_sput_ne, h]

/-- A part of the core that a beat's work on one context leaves: neither the contexts nor the counts. -/
theorem beatCtx_view {β : Type} {view : Core → β} (hv : ∀ (k : Core) l t, view { k with ctxs := l, counters := t } = view k)
    (c0 : Core) (sel : List Nat) (c : Core) (x : Nat) : view (beatCtx c0 sel c x) = view c := by
  have hcount (k : Core) (src n : Nat) : view (k.countEvent src x n) = view k := hv k k.ctxs _
  have hset (v : Ctx) : view (c.setCtx x v) = view c := hv c _ c.counters
  simp only [beatCtx]
  repeat' split
  all_goals simp [hcount, hset]

theorem beatCtx_ctx_same (c0 : Core) (sel : List Nat) (c : Core) (x : Nat) :
    (beatCtx c0 sel c x).ctx x = beatOf c0 sel x (c.ctx x) := by
  simp only [beatCtx, beatOf]
  by_cases hs : (c.ctx x).slot ≠ .resident ∧ (c.ctx x).slot ≠ .stopped
  · simp [hs]
  · cases hsel : sel.contains x
    · cases hr : ready c0 x
      · simp [hs, countEvent_ctx, core_setCtx_ctx_same]
      · simp [hs, countEvent_ctx, core_setCtx_ctx_same]
    · simp [hs, countEvent_ctx, core_setCtx_ctx_same, apply_ite (fun k : Core => k.ctx x)]

theorem beatCtx_ctx_ne (c0 : Core) (sel : List Nat) (c : Core) {x y : Nat} (h : y ≠ x) :
    (beatCtx c0 sel c x).ctx y = c.ctx y := by
  simp only [beatCtx]
  repeat' split
  all_goals simp [countEvent_ctx, core_setCtx_ctx_ne _ _ h]

/-- Over all contexts, each has its own beat once. -/
theorem foldl_beatCtx_ctx (c0 : Core) (sel : List Nat) (x : Nat) (l : List Nat) (hl : l.Nodup) (c : Core) :
    (l.foldl (beatCtx c0 sel) c).ctx x = if x ∈ l then beatOf c0 sel x (c.ctx x) else c.ctx x := by
  induction l generalizing c with
  | nil => rfl
  | cons y l ih =>
    obtain ⟨hy, hl⟩ := List.nodup_cons.mp hl
    rw [List.foldl_cons, ih hl]
    by_cases h : x = y
    · subst h
      simp [hy, beatCtx_ctx_same]
    · simp [h, beatCtx_ctx_ne _ _ _ h]

/-- What the last beat has brought is taken up by every context. -/
theorem map_nextBeat_ctx (k : Core) (x : Nat) :
    sget Ctx.reset (k.ctxs.map (fun (x : Nat × Ctx) => (x.1, x.2.nextBeat))) x = (k.ctx x).nextBeat := by
  simp only [Core.ctx]
  induction k.ctxs with
  | nil => rfl
  | cons e l ih =>
    simp only [List.map_cons, sget]
    split
    · rfl
    · exact ih

/-- A part of a context that the counting of its instances' beats leaves. -/
theorem followBeat_view {β : Type} {view : Ctx → β} (hv : ∀ (k : Ctx) l, view { k with insts := l } = view k) (k : Core)
    (x : Nat) : view (k.followBeat.ctx x) = view (k.ctx x) := by
  refine sget_map_view (fun e => ?_) (fun e => ?_) _ _ _
  · split <;> rfl
  · split
    · exact hv _ _
    · rfl

/-- A part of a context that the clearing of scorecards leaves. -/
theorem takeCounts_view {β : Type} {view : Ctx → β} (hv : ∀ (k : Ctx) l, view { k with score := l } = view k) (k : Core)
    (x : Nat) : view (k.takeCounts.ctx x) = view (k.ctx x) := by
  refine sget_map_view (g := fun e : Nat × Ctx => (e.1, if k.scoreClears.contains e.1 then { e.2 with score := [] } else e.2))
    (fun _ => rfl) (fun e => ?_) _ _ _
  dsimp only
  split
  · exact hv _ _
  · rfl

theorem followBeat_beat (k : Core) : k.followBeat.beat = k.beat := rfl

theorem takeCounts_beat (k : Core) : k.takeCounts.beat = k.beat := rfl

/-! ## The selection (R36) -/

theorem mem_insertBy {before : Nat → Nat → Bool} {a x : Nat} {l : List Nat} : x ∈ insertBy before a l ↔ x = a ∨ x ∈ l := by
  induction l with
  | nil => simp [insertBy]
  | cons b l ih =>
    simp only [insertBy]
    split
    · simp
    · simp [ih, or_left_comm]

theorem mem_foldl_insertBy {before : Nat → Nat → Bool} {x : Nat} {us l : List Nat} :
    x ∈ us.foldl (fun l x => insertBy before x l) l ↔ x ∈ us ∨ x ∈ l := by
  induction us generalizing l with
  | nil => simp
  | cons u us ih => rw [List.foldl_cons, ih, mem_insertBy, List.mem_cons, or_left_comm, or_assoc]

theorem selectFrom_subset {c : Core} {x : Nat} {l es : List Nat} (h : x ∈ selectFrom c l es) : x ∈ l := by
  induction l generalizing es with
  | nil => simp [selectFrom] at h
  | cons y l ih =>
    simp only [selectFrom] at h
    split at h
    · exact List.mem_cons_of_mem _ (ih h)
    · obtain rfl | h := List.mem_cons.mp h
      · exact List.mem_cons_self
      · exact List.mem_cons_of_mem _ (ih h)

/-- A context that is selected is ready, and so has a slot in service. -/
theorem ready_of_mem_selected {c : Core} {x : Nat} (h : x ∈ selected c) : ready c x = true := by
  have hm := selectFrom_subset h
  simp only [mem_foldl_insertBy, List.mem_filter, List.not_mem_nil, or_false] at hm
  exact hm.2

theorem slot_of_ready {c : Core} {x : Nat} (h : ready c x = true) : (c.ctx x).slot = .resident := by
  simp only [ready, Bool.and_assoc, Bool.and_eq_true, beq_iff_eq] at h
  exact h.1

/-- A context in service that is selected advances, and its age is over. -/
theorem beatOf_selected {c0 : Core} {sel : List Nat} {x : Nat} {k : Ctx} (hs : k.slot = .resident ∨ k.slot = .stopped)
    (hx : x ∈ sel) : (beatOf c0 sel x k).adv = k.adv + 1 ∧ (beatOf c0 sel x k).age = 0 := by
  have hslot : ¬(k.slot ≠ .resident ∧ k.slot ≠ .stopped) := fun ⟨hr, hst⟩ => hs.elim hr hst
  have hsel : sel.contains x = true := by simpa using hx
  simp only [beatOf, if_neg hslot, hsel, if_true, and_self]

/-- One that is not selected does not advance. -/
theorem beatOf_not_selected {c0 : Core} {sel : List Nat} {x : Nat} {k : Ctx} (hx : x ∉ sel) :
    (beatOf c0 sel x k).adv = k.adv := by
  have hsel : sel.contains x = false := by simpa using hx
  simp only [beatOf, hsel, Bool.false_eq_true, if_false]
  split
  · rfl
  · split <;> rfl

theorem mem_beatSteps {k : Core} {c y i : Nat} : Happening.element c y i ∈ beatSteps k c ↔
    y ∈ selected k ∧ ∃ b, (k.ctx y).block = some b ∧ i < b.count := by
  simp only [beatSteps, List.mem_flatMap]
  constructor
  · rintro ⟨x, hx, hm⟩
    split at hm
    · rename_i b hb
      simp only [List.mem_map, mem_range, Happening.element.injEq, true_and] at hm
      obtain ⟨j, ⟨-, hj⟩, rfl, rfl⟩ := hm
      exact ⟨hx, b, hb, by omega⟩
    · simp at hm
  · rintro ⟨hy, b, hb, hi⟩
    refine ⟨y, hy, ?_⟩
    simp only [hb, List.mem_map, mem_range]
    exact ⟨i, by omega, rfl⟩

/-! ## A beat -/

/-- A core in the beat that a selection begins. -/
def beatCore (s : State) (c : Nat) : Core :=
  ((range 0 4).foldl (beatCtx (s.core c) (selected (s.core c)))
    { s.core c with ctxs := (s.core c).ctxs.map (fun (x : Nat × Ctx) => (x.1, x.2.nextBeat)), beat := (s.core c).beat + 1,
                    dead := if deadlocked s c then (s.core c).dead + 1 else 0, retired := [], dropped := [] }).followBeat.takeCounts

theorem selectBeat_eq (s : State) (c : Nat) : selectBeat s c =
    ({ s.setCore c (beatCore s c) with agenda := beatSteps (s.core c) c ++ s.agenda } : State).softErrors c := rfl

theorem beatCore_beat (s : State) (c : Nat) : (beatCore s c).beat = (s.core c).beat + 1 := by
  rw [beatCore, takeCounts_beat, followBeat_beat,
    foldl_view Core.beat fun k x => beatCtx_view (view := Core.beat) (fun _ _ _ => rfl) _ _ k x]

/-- A part of a context that neither instances nor scorecards hold stands as the context's own beat has left it. -/
theorem beatCore_view {β : Type} {view : Ctx → β} (hi : ∀ (k : Ctx) l, view { k with insts := l } = view k)
    (hs : ∀ (k : Ctx) l, view { k with score := l } = view k) (s : State) (c : Nat) {x : Nat} (hx : x < 4) :
    view ((beatCore s c).ctx x) =
      view (beatOf (s.core c) (selected (s.core c)) x ((s.core c).ctx x).nextBeat) := by
  have hmem : x ∈ range 0 4 := mem_range.mpr ⟨by omega, by omega⟩
  rw [beatCore, takeCounts_view hs, followBeat_view hi, foldl_beatCtx_ctx _ _ _ _ (by decide), if_pos hmem]
  exact congrArg (fun k => view (beatOf (s.core c) (selected (s.core c)) x k)) (map_nextBeat_ctx (s.core c) x)

theorem selectBeat_core_view {β : Type} {view : Core → β} (hv : ∀ (k : Core) t, view { k with counters := t } = view k)
    (s : State) (c : Nat) : view ((selectBeat s c).core c) = view (beatCore s c) := by
  rw [selectBeat_eq, softErrors_view hv]
  exact congrArg view (setCore_core_same s c _)

theorem selectBeat_ctx (s : State) (c x : Nat) : (selectBeat s c).ctx c x = (beatCore s c).ctx x :=
  selectBeat_core_view (view := fun k => k.ctx x) (fun _ _ => rfl) s c

theorem selectBeat_core_ne (s : State) {c d : Nat} (h : d ≠ c) : (selectBeat s c).core d = s.core d := by
  rw [selectBeat_eq, softErrors_core_ne _ h]
  exact setCore_core_ne s _ h

theorem tick_ctx (s : State) (c x : Nat) : s.tick.ctx c x = s.ctx c x := rfl

theorem exec_beatSelect_selects {s : State} {c : Nat} (h : (s.core c).touched = []) :
    exec (.beatSelect c) s = .next (selectBeat s c).tick := by
  change execBeatSelect c s = _
  simp [execBeatSelect, h]

theorem exec_beatSelect_serves {s : State} {c : Nat} (h : (s.core c).touched ≠ []) :
    exec (.beatSelect c) s = .next (endBeat s c).tick := by
  change execBeatSelect c s = _
  simp [execBeatSelect, h]

/-! ## Firing, a fallback's return, a late answer -/

theorem exec_fire {s : State} {c x tag : Nat} {b : Block} {f : Frame} {ts : List Stored}
    (hc : canFire (s.core c) x tag = true) (hb : (s.ctx c x).block = some b) (hf : (s.core c).frame (frameOf tag) = some f)
    (ht : (s.core c).entryTokens x tag b.entries = some ts) :
    exec (.fire c x tag) s = .next (s.setCore c (fireInst (s.core c) c x tag b f ts)).tick := by
  simp only [State.ctx] at hb
  change execFire c x tag s = _
  simp [execFire, hc, hb, hf, ht]

theorem exec_fallbackReturn {s : State} {c x : Nat} {t : Steer} {b : Block} (ht : (s.ctx c x).steer = some t)
    (hb : (s.ctx c x).block = some b) : exec (.fallbackReturn c x) s =
      .next { s with agenda := .element c x t.fb ::
        ((range t.idx (b.count - t.idx)).map (Happening.element c x) ++ s.agenda) }.tick := by
  change execFallbackReturn c x s = _
  simp only [execFallbackReturn, ht, hb]

/-- An answer whose delivery faults no frame is not kept. -/
theorem keepFaulted_of_no_fault {s t : State} {c : Nat} (h : (t.core c).faults.length ≤ (s.core c).faults.length) (n : Nat)
    (r : MemResp) : s.keepFaulted t c n r = t :=
  if_neg (Nat.not_lt.mpr h)

theorem exec_lateOperandArrival {s u : State} {c x n : Nat} {r : MemResp}
    (hr : findIdx (fun q : MemResp => q.ctx == x && !(s.core c).faulted (frameOf q.train.tag)) 0 (s.core c).resps = some (n, r))
    (hu : u = if r.due ≤ (s.ctx c x).adv + 1 then
        (s.countEvent c 9 x 1).modCtx c x (fun k => { k with lateBeat := some (s.core c).beat }) else s)
    (hf : ((deliverResp u c n r).core c).faults.length ≤ (u.core c).faults.length) :
    exec (.lateOperandArrival c x) s =
      .next ((deliverResp u c n r).retry c x (((deliverResp u c n r).ctx c x).late.map (·.1))).tick := by
  change execLateOperandArrival c x s = _
  simp only [execLateOperandArrival, hr, ← hu, keepFaulted_of_no_fault hf]

/-- Settles O49: the effect of each happening whose condition holds, and what a beat changes and leaves. -/
theorem firingHappenings : Obligations.FiringHappenings := by
  intro s c x
  refine ⟨fun tag b f ts => exec_fire, ?select, ?serve, fun t b => exec_fallbackReturn, rfl, ?late⟩
  case select =>
    intro ht
    refine ⟨_, exec_beatSelect_selects ht, ?beat, fun d hd => selectBeat_core_ne s hd, ?mem, softErrors_regions _ _,
      fun n hn => poison_softErrors c hn, softErrors_agenda _ _, fun y i => mem_beatSteps, fun hx hsel => ?advances,
      fun hx hsel => ?rests⟩
    case beat => exact (selectBeat_core_view (view := Core.beat) (fun _ _ => rfl) s c).trans (beatCore_beat s c)
    case mem => exact softErrors_mem _ _
    case advances =>
      have hslot : ((s.core c).ctx x).nextBeat.slot = .resident ∨ ((s.core c).ctx x).nextBeat.slot = .stopped := by
        simp only [Ctx.nextBeat, slot_of_ready (ready_of_mem_selected hsel)]
        split <;> simp
      obtain ⟨hadv, hage⟩ := beatOf_selected (c0 := s.core c) hslot hsel
      simp only [tick_ctx, selectBeat_ctx]
      exact ⟨(beatCore_view (view := Ctx.adv) (fun _ _ => rfl) (fun _ _ => rfl) s c hx).trans hadv,
        (beatCore_view (view := Ctx.age) (fun _ _ => rfl) (fun _ _ => rfl) s c hx).trans hage⟩
    case rests =>
      simp only [tick_ctx, selectBeat_ctx]
      exact (beatCore_view (view := Ctx.adv) (fun _ _ => rfl) (fun _ _ => rfl) s c hx).trans (beatOf_not_selected hsel)
  case serve => exact fun ht => ⟨_, _, exec_beatSelect_serves ht, rfl, rfl⟩
  case late =>
    rintro n r u _ hr hu rfl hf
    exact exec_lateOperandArrival hr hu hf

end Sys2Proof.Machine
end

section
/-! Words as fields laid side by side: what a field of the word reads back as, and the word's bytes. -/
namespace Sys2Proof

/-! ## Fields laid side by side -/

/-- The number that holds fields side by side, the lowest first: each field is its width and its value. -/
def packed : List (Nat × Nat) → Nat
  | [] => 0
  | (n, v) :: fs => v + 2 ^ n * packed fs

/-- The bits that a list of fields takes. -/
def packedWidth : List (Nat × Nat) → Nat
  | [] => 0
  | (n, _) :: fs => n + packedWidth fs

/-- Every field's value fits its width. -/
def FieldsFit : List (Nat × Nat) → Prop
  | [] => True
  | (n, v) :: fs => v < 2 ^ n ∧ FieldsFit fs

theorem packed_lt {fs : List (Nat × Nat)} (h : FieldsFit fs) : packed fs < 2 ^ packedWidth fs := by
  induction fs with
  | nil => simp [packed, packedWidth]
  | cons f fs ih =>
    obtain ⟨n, v⟩ := f
    obtain ⟨hv, hfs⟩ := h
    have hle : 2 ^ n * (packed fs + 1) ≤ 2 ^ n * 2 ^ packedWidth fs := Nat.mul_le_mul_left _ (ih hfs)
    simp only [packed, packedWidth, Nat.pow_add]
    rw [Nat.mul_add] at hle
    omega

/-- The lowest field reads back as its value. -/
theorem fieldOf_packed_head {n v : Nat} (fs : List (Nat × Nat)) (hv : v < 2 ^ n) :
    fieldOf (packed ((n, v) :: fs)) 0 n = v := by
  simp [fieldOf, packed, Nat.mod_eq_of_lt hv]

/-- A field above the lowest one is a field of the rest. -/
theorem fieldOf_packed_above {n v lo : Nat} (fs : List (Nat × Nat)) (m : Nat) (hv : v < 2 ^ n) (hlo : n ≤ lo) :
    fieldOf (packed ((n, v) :: fs)) lo m = fieldOf (packed fs) (lo - n) m := by
  obtain ⟨k, rfl⟩ := Nat.exists_eq_add_of_le hlo
  simp only [fieldOf, packed, Nat.add_sub_cancel_left, Nat.pow_add, ← Nat.div_div_eq_div_mul,
    Nat.add_mul_div_left _ _ (Nat.two_pow_pos n), Nat.div_eq_of_lt hv, Nat.zero_add]

/-! ## Bytes -/

@[simp] theorem length_leBytes (n w : Nat) : (leBytes n w).length = n := by
  induction n generalizing w with
  | zero => rfl
  | succ n ih => simp [leBytes, ih]

theorem leNat_leBytes (n w : Nat) : leNat (leBytes n w) = w % 256 ^ n := by
  induction n generalizing w with
  | zero => simp [leBytes, leNat, Nat.mod_one]
  | succ n ih => simp only [leBytes, leNat, ih, Nat.pow_succ', Nat.mod_mul]

/-- Bytes that begin with a word's decode as that word does, and leave the rest. -/
theorem decode_leBytes {k : WordKind} {w : Nat} {i : Instr} (hw : w < 2 ^ (8 * k.bytes)) (h : decodeWord k w = .ok i)
    (rest : List Nat) : decode k (leBytes k.bytes w ++ rest) = .ok (i, rest) := by
  have hn : leNat (leBytes k.bytes w) = w := by
    rw [leNat_leBytes, Nat.mod_eq_of_lt (by rwa [Nat.pow_mul] at hw)]
  simp [decode, hn, h]

/-- The bytes that the encoder writes are those of the word it writes. -/
theorem encode_eq_some {i : Instr} {k : WordKind} {bs : List Nat} (h : encode i = some (k, bs)) :
    ∃ w, encodeWord i = some (k, w) ∧ bs = leBytes k.bytes w := by
  unfold encode at h
  split at h
  · cases h
    exact ⟨_, by assumption, rfl⟩
  · cases h

end Sys2Proof
end

section
/-! The layouts of the encoder: each word as its fields, and what the decoder reads from it. -/
namespace Sys2Proof

/-! ## Control-core words (R45, R46, R47) -/

theorem encQ_eq_packed (d a b func : Nat) : encQ d a b func = packed [(11, func), (5, b), (5, a), (5, d), (6, 1)] := by
  simp only [encQ, packed]
  omega

theorem encI_eq_packed (major d a i : Nat) : encI major d a i = packed [(16, i), (5, a), (5, d), (6, major)] := by
  simp only [encI, packed]
  omega

/-- The func field of an atomic (R47): operation, width, scope. -/
def amoFunc (op w sc : Nat) : Nat := packed [(3, 0), (3, sc), (1, w), (4, op)]

theorem encAmo_eq_packed (op d a b w sc : Nat) :
    encAmo op d a b w sc = packed [(11, amoFunc op w sc), (5, b), (5, a), (5, d), (6, 0x15)] := by
  simp only [encAmo, amoFunc, packed]
  omega

theorem encC_eq_packed (major a b aux f g : Nat) :
    encC major a b aux f g = packed [(8, g), (4, f), (4, aux), (5, b), (5, a), (6, major)] := by
  simp only [encC, packed]
  omega

theorem decodeControl_encQ {d a b func : Nat} (hd : d < 32) (ha : a < 32) (hb : b < 32) (hf : func < 2048) :
    decodeControl (encQ d a b func) = decodeQ d a b func := by
  simp [encQ_eq_packed, decodeControl, fieldOf_packed_head, fieldOf_packed_above, hd, ha, hb, hf]

theorem amoFunc_lt {op w sc : Nat} (hop : op < 16) (hw : w < 2) (hsc : sc < 6) : amoFunc op w sc < 2048 :=
  packed_lt ⟨by decide, by omega, hw, hop, trivial⟩

theorem decodeControl_encAmo {op d a b w sc : Nat} (hop : op < 16) (hd : d < 32) (ha : a < 32) (hb : b < 32) (hw : w < 2)
    (hsc : sc < 6) : decodeControl (encAmo op d a b w sc) = decodeAmo d a b (amoFunc op w sc) := by
  simp [encAmo_eq_packed, decodeControl, fieldOf_packed_head, fieldOf_packed_above, hd, ha, hb, amoFunc_lt hop hw hsc]

theorem decodeControl_encC {major a b aux f g : Nat} (hM : 0x22 ≤ major) (hM' : major < 64) (ha : a < 32) (hb : b < 32)
    (haux : aux < 16) (hf : f < 16) (hg : g < 256) :
    decodeControl (encC major a b aux f g) = decodeC major a b aux f g := by
  simp only [encC_eq_packed, decodeControl]
  simp (disch := simp [*]) only [fieldOf_packed_head, fieldOf_packed_above, Nat.reduceSub]
  split
  rotate_right
  · rfl
  all_goals omega
end Sys2Proof
end

section
/-! Immediate-form words, fabric words and matrix orders as their fields. -/
namespace Sys2Proof

/-! ## Immediate forms (R45, R46) -/

section
variable {major d a i : Nat}

theorem fieldOf_encI_major (hM : major < 64) (hd : d < 32) (ha : a < 32) (hi : i < 65536) :
    fieldOf (encI major d a i) 26 6 = major := by
  simp [encI_eq_packed, fieldOf_packed_head, fieldOf_packed_above, hM, hd, ha, hi]

theorem fieldOf_encI_d (hd : d < 32) (ha : a < 32) (hi : i < 65536) : fieldOf (encI major d a i) 21 5 = d := by
  simp [encI_eq_packed, fieldOf_packed_head, fieldOf_packed_above, hd, ha, hi]

theorem fieldOf_encI_a (ha : a < 32) (hi : i < 65536) : fieldOf (encI major d a i) 16 5 = a := by
  simp [encI_eq_packed, fieldOf_packed_head, fieldOf_packed_above, ha, hi]

theorem fieldOf_encI_imm (hi : i < 65536) : fieldOf (encI major d a i) 0 16 = i := by
  simp [encI_eq_packed, fieldOf_packed_head, hi]

end

/-! ## Fabric words and matrix orders (R49, R51, R54, R55) -/

theorem encFab_eq_packed (kind sub : Nat) (w : Fab) : encFab kind sub w =
    packed [(12, w.imm), (2, w.pred), (4, w.delay), (5, w.lsid), (9, w.tb), (9, w.ta), (8, w.accept), (3, w.mode),
      (2, w.width), (6, sub), (4, kind)] := by
  simp only [encFab, packed]
  omega

theorem encOrder_eq_packed (op : Nat) (o : MxOrder) : encOrder op o =
    packed [(4, 0), (1, o.tofab), (1, o.bcoded), (1, o.acoded), (1, 0), (8, o.base), (1, o.bank), (1, o.accum),
      (3, o.mode), (3, o.ofmt), (3, o.bfmt), (3, o.afmt), (16, o.k), (7, o.n1), (7, o.m1), (4, op), (4, 0), (13, o.doff),
      (7, o.dtile), (13, o.boff), (7, o.btile), (13, o.aoff), (7, o.atile), (2, o.cport), (5, o.cidx), (10, o.moff),
      (7, o.mtile), (13, o.bsoff), (7, o.bstile), (13, o.asoff), (7, o.astile), (64, o.echo)] := by
  simp only [encOrder, packed]
  omega

theorem fields_encFab {kind sub : Nat} {w : Fab} (hw : w.wf = true) (hk : kind < 16) (hs : sub < 64) :
    fieldOf (encFab kind sub w) 60 4 = kind ∧ fieldOf (encFab kind sub w) 54 6 = sub ∧
      fabOf (encFab kind sub w) = w := by
  simp only [Fab.wf, Bool.and_eq_true, decide_eq_true_eq] at hw
  have hmode : w.mode < 8 := by omega
  simp [fabOf, encFab_eq_packed, fieldOf_packed_head, fieldOf_packed_above, hw, hmode, hk, hs]

/-- A fabric word decodes to the instruction of its kind and subop: its mode is none of the refused ones and its accept mask
is not zero (R49, R52). -/
theorem decodeFabric_encFab {kind sub : Nat} {w : Fab} {i : Instr} (hw : w.wf = true) (hk : kind < 16) (hs : sub < 64)
    (hi : fabricInstr kind sub w = some i) : decodeFabric (encFab kind sub w) = .ok i := by
  obtain ⟨hkind, hsub, hf⟩ := fields_encFab hw hk hs
  have hmode : fieldOf (encFab kind sub w) 49 3 = w.mode := congrArg Fab.mode hf
  have haccept : fieldOf (encFab kind sub w) 41 8 = w.accept := congrArg Fab.accept hf
  simp only [Fab.wf, Bool.and_eq_true, decide_eq_true_eq] at hw
  have hm : ¬ 6 ≤ w.mode := by omega
  have ha : w.accept ≠ 0 := by omega
  simp only [decodeFabric, hf, hmode, haccept, hkind, hsub, hi, hm, ha, if_false]

theorem fields_encOrder {op : Nat} {o : MxOrder} (ho : o.wf = true) (hop : op < 16) :
    fieldOf (encOrder op o) 60 4 = op ∧ orderFields (encOrder op o) = o := by
  simp only [MxOrder.wf, Bool.and_eq_true, decide_eq_true_eq, Nat.reducePow] at ho
  simp only [orderFields, encOrder_eq_packed, fieldOf_packed_head, fieldOf_packed_above, ho, hop, Nat.reducePow,
    Nat.reduceSub, Nat.reduceLeDiff, Nat.reduceLT, and_self]

end Sys2Proof
end

section
/-! O3: what the encoder writes decodes to the instruction it was written for. -/
namespace Sys2Proof

/-! ## One lemma per layout -/

theorem ifZero_eq_ok {z : Nat} {i j : Instr} : ifZero z i = .ok j ↔ z = 0 ∧ i = j := by
  unfold ifZero
  split <;> simp [*]

/-- The word that encodes an instruction fits its kind's width and decodes to that instruction. -/
def WordRoundTrips (i : Instr) : Prop :=
  ∀ (k : WordKind) (w : Nat), encodeWord i = some (k, w) → w < 2 ^ (8 * k.bytes) ∧ decodeWord k w = .ok i

/-- An event has no word. -/
theorem wordRoundTrips_of_none {i : Instr} (h : encodeWord i = none) : WordRoundTrips i := by
  intro k w hw
  rw [h] at hw
  cases hw

/-- An instruction whose word is fields that fill the kind's width, each fitting its own, and that the word decodes to. -/
theorem wordRoundTrips_of_packed {i : Instr} {k : WordKind} {w : Nat} {fs : List (Nat × Nat)}
    (h : encodeWord i = some (k, w)) (hw : w = packed fs) (hfit : FieldsFit fs) (hwidth : packedWidth fs = 8 * k.bytes)
    (hi : decodeWord k (packed fs) = .ok i) : WordRoundTrips i := by
  intro k' w' hw'
  rw [h] at hw'
  cases hw'
  rw [hw]
  exact ⟨hwidth ▸ packed_lt hfit, hi⟩

theorem wordRoundTrips_encQ {d a b func : Nat} {i : Instr} (h : encodeWord i = some (.control, encQ d a b func))
    (hfit : d < 32 ∧ a < 32 ∧ b < 32 ∧ func < 2048) (hi : decodeQ d a b func = .ok i) : WordRoundTrips i := by
  obtain ⟨hd, ha, hb, hf⟩ := hfit
  exact wordRoundTrips_of_packed h (encQ_eq_packed _ _ _ _) ⟨hf, hb, ha, hd, by decide, trivial⟩ rfl
    (encQ_eq_packed _ _ _ _ ▸ (decodeControl_encQ hd ha hb hf).trans hi)

theorem wordRoundTrips_encAmo {op d a b w sc : Nat} {i : Instr} (h : encodeWord i = some (.control, encAmo op d a b w sc))
    (hop : op < 16) (hd : d < 32) (ha : a < 32) (hb : b < 32) (hw : w < 2) (hsc : sc < 6)
    (hi : decodeAmo d a b (amoFunc op w sc) = .ok i) : WordRoundTrips i :=
  wordRoundTrips_of_packed h (encAmo_eq_packed _ _ _ _ _ _) ⟨amoFunc_lt hop hw hsc, hb, ha, hd, by decide, trivial⟩ rfl
    (encAmo_eq_packed _ _ _ _ _ _ ▸ (decodeControl_encAmo hop hd ha hb hw hsc).trans hi)

theorem wordRoundTrips_encI {major d a n : Nat} {i : Instr} (h : encodeWord i = some (.control, encI major d a n))
    (hM : major < 64) (hd : d < 32) (ha : a < 32) (hn : n < 65536) (hi : decodeControl (encI major d a n) = .ok i) :
    WordRoundTrips i :=
  wordRoundTrips_of_packed h (encI_eq_packed _ _ _ _) ⟨hn, ha, hd, hM, trivial⟩ rfl (encI_eq_packed _ _ _ _ ▸ hi)

theorem wordRoundTrips_encC {major a b aux f g : Nat} {i : Instr}
    (h : encodeWord i = some (.control, encC major a b aux f g)) (hmajor : 0x22 ≤ major ∧ major < 64)
    (hfit : a < 32 ∧ b < 32 ∧ aux < 16 ∧ f < 16 ∧ g < 256) (hi : decodeC major a b aux f g = .ok i) :
    WordRoundTrips i := by
  obtain ⟨hM, hM'⟩ := hmajor
  obtain ⟨ha, hb, haux, hf, hg⟩ := hfit
  exact wordRoundTrips_of_packed h (encC_eq_packed _ _ _ _ _ _) ⟨hg, hf, haux, hb, ha, hM', trivial⟩ rfl
    (encC_eq_packed _ _ _ _ _ _ ▸ (decodeControl_encC hM hM' ha hb haux hf hg).trans hi)

theorem wordRoundTrips_encFab {kind sub : Nat} {f : Fab} {i : Instr} (hf : f.wf = true)
    (h : encodeWord i = some (.fabric, encFab kind sub f)) (hi : fabricInstr kind sub f = some i) (hk : kind < 16)
    (hs : sub < 64) : WordRoundTrips i := by
  refine wordRoundTrips_of_packed h (encFab_eq_packed _ _ _) ?_ rfl
    (encFab_eq_packed _ _ _ ▸ decodeFabric_encFab hf hk hs hi)
  simp only [Fab.wf, Bool.and_eq_true, decide_eq_true_eq] at hf
  have hmode : f.mode < 8 := by omega
  simp [FieldsFit, hf, hmode, hk, hs]

theorem wordRoundTrips_encOrder {op : Nat} {o : MxOrder} {i : Instr} (ho : o.wf = true)
    (h : encodeWord i = some (.order, encOrder op o)) (hop : op < 16) (hi : decodeOrder (encOrder op o) = .ok i) :
    WordRoundTrips i := by
  refine wordRoundTrips_of_packed h (encOrder_eq_packed _ _) ?_ (by simp [packedWidth, WordKind.bytes])
    (encOrder_eq_packed _ _ ▸ hi)
  simp only [MxOrder.wf, Bool.and_eq_true, decide_eq_true_eq, Nat.reducePow] at ho
  simp [FieldsFit, ho, hop]

/-- The fields that the decoder reads from an atomic's func (R47). -/
theorem fieldOf_amoFunc {op w sc : Nat} (hop : op < 16) (hw : w < 2) (hsc : sc < 6) :
    fieldOf (amoFunc op w sc) 0 3 = 0 ∧ fieldOf (amoFunc op w sc) 3 3 = sc ∧ fieldOf (amoFunc op w sc) 6 1 = w ∧
      fieldOf (amoFunc op w sc) 7 4 = op := by
  simp [amoFunc, fieldOf_packed_head, fieldOf_packed_above, hop, hw, show sc < 8 by omega]

/-! ## The words with a layout of their own -/

theorem decodeControl_shifts {d a n : Nat} (hd : d < 32) (ha : a < 32) (hn : n < 64) :
    decodeControl (encI 6 d a n) = .ok (.slli d a n) ∧ decodeControl (encI 7 d a n) = .ok (.srli d a n) ∧
      decodeControl (encI 8 d a n) = .ok (.srai d a n) := by
  have hw : ∀ major, encI major d a n = packed [(6, n), (10, 0), (5, a), (5, d), (6, major)] := fun major => by
    simp only [encI, packed]
    omega
  simp [hw, decodeControl, ifZero, fieldOf_packed_head, fieldOf_packed_above, hd, ha, hn]

theorem decodeControl_fence {sc : Nat} (hsc : sc < 6) : decodeControl (encI 0x16 0 0 sc) = .ok (.fence sc) := by
  have hw : encI 0x16 0 0 sc = packed [(3, sc), (23, 0), (6, 0x16)] := by
    simp only [encI, packed]
    omega
  have hsc8 : sc < 8 := by omega
  simp [hw, decodeControl, fieldOf_packed_head, fieldOf_packed_above, hsc, hsc8]

theorem decodeControl_lui {d i : Nat} (hd : d < 32) (hi : i < 65536) :
    decodeControl (encI 0x09 d 0 i) = .ok (.lui d i) := by
  simp [decodeControl, ifZero, fieldOf_encI_major, fieldOf_encI_d, fieldOf_encI_a, fieldOf_encI_imm, hd, hi]

theorem decodeControl_lcnt {d l : Nat} (hd : d < 32) (hl : l < 4) : decodeControl (encI 0x21 d 0 l) = .ok (.lcnt d l) := by
  have hw : encI 0x21 d 0 l = packed [(2, l), (14, 0), (5, 0), (5, d), (6, 0x21)] := by
    simp only [encI, packed]
    omega
  simp [hw, decodeControl, ifZero, fieldOf_packed_head, fieldOf_packed_above, hd, hl]

theorem wordRoundTrips_jal {o : Nat} (ho : o < 67108864) : WordRoundTrips (.jal o) := by
  have hw : 2 ^ 26 * 0x1D + o = packed [(26, o), (6, 0x1D)] := by
    simp only [packed]
    omega
  refine wordRoundTrips_of_packed rfl hw ⟨ho, by decide, trivial⟩ rfl ?_
  simp [decodeWord, decodeControl, fieldOf_packed_head, fieldOf_packed_above, ho]

theorem wordRoundTrips_loop {l c n : Nat} (hl : l < 4) (hc : c < 32) (hn : 1 ≤ n) (hn' : n < 1024) :
    WordRoundTrips (.loop l c n) := by
  have hw : 2 ^ 26 * 0x1F + 2 ^ 24 * l + 2 ^ 19 * c + 2 ^ 9 * n = packed [(9, 0), (10, n), (5, c), (2, l), (6, 0x1F)] := by
    simp only [packed]
    omega
  have hn0 : n ≠ 0 := by omega
  refine wordRoundTrips_of_packed rfl hw ⟨by decide, hn', hc, hl, by decide, trivial⟩ rfl ?_
  simp [decodeWord, decodeControl, fieldOf_packed_head, fieldOf_packed_above, hl, hc, hn', hn0]

theorem wordRoundTrips_lbrk {l : Nat} (hl : l < 4) : WordRoundTrips (.lbrk l) := by
  have hw : 2 ^ 26 * 0x20 + 2 ^ 24 * l = packed [(24, 0), (2, l), (6, 0x20)] := by
    simp only [packed]
    omega
  refine wordRoundTrips_of_packed rfl hw ⟨by decide, hl, by decide, trivial⟩ rfl ?_
  simp [decodeWord, decodeControl, ifZero, fieldOf_packed_head, fieldOf_packed_above, hl]

/-! ## State registers: the numbers that are rows of their own (R82, R136, R268, R350) -/

/-- The number of a state register stands in two fields. -/
theorem decodeC_mvfs (a n : Nat) : decodeC 0x2B a 0 (n / 256) 2 (n % 256) = .ok (decodeMvfs a n) := by
  simp [decodeC, ifZero, Nat.div_add_mod]

theorem decodeC_mvts (b n : Nat) : decodeC 0x2B 0 b (n / 256) 3 (n % 256) = .ok (decodeMvts b n) := by
  simp [decodeC, ifZero, Nat.div_add_mod]

theorem decodeMvts_mvts {b n : Nat} (h : mvtsRow n = false) : decodeMvts b n = .mvts b n := by
  simp only [mvtsRow, Bool.or_eq_false_iff, beq_eq_false_iff_ne, Bool.and_eq_false_iff, decide_eq_false_iff_not] at h
  obtain ⟨⟨⟨hevents, hdsel⟩, htrans⟩, hflags⟩ := h
  simp only [decodeMvts, hevents, hdsel, if_false, show ¬ (0x050 ≤ n ∧ n < 0x059) by omega,
    show ¬ (0x100 ≤ n ∧ n < 0x140) by omega]

theorem decodeMvts_flagWord {b n : Nat} (h : 0x100 ≤ n ∧ n < 0x140) : decodeMvts b n = .flagWordWrite b n := by
  simp only [decodeMvts, h, show n ≠ 0x033 by omega, show n ≠ 0x080 by omega, show ¬ n < 0x059 by omega, and_false,
    and_self, if_false, if_true]

theorem decodeMvts_translation {b n : Nat} (h : 0x050 ≤ n ∧ n < 0x059) :
    decodeMvts b n = .translationRegisterWrite b n := by
  simp only [decodeMvts, h, show n ≠ 0x033 by omega, show n ≠ 0x080 by omega, and_self, if_false, if_true]

/-! ## Every instruction that has a word -/

/-- A well-formed instruction's word decodes to it. -/
theorem wordRoundTrips_of_wf {i : Instr} (h : i.wf = true) : WordRoundTrips i := by
  unfold Instr.wf at h
  cases i with
  | add | sub | and | or | xor | sll | srl | sra | mul | mulh | mulhn | min | max | minn | maxn | slt | sltn | clz | popc =>
    simp only [Bool.and_eq_true, decide_eq_true_eq] at h
    exact wordRoundTrips_encQ rfl (by omega) rfl
  | addi | andi | ori | xori | ldB | ldH | ldW | ldD | ldnB | ldnH | ldnW | stB | stH | stW | stD | beq | bne | blt | bge
  | bltn | bgen | jalr =>
    simp only [Bool.and_eq_true, decide_eq_true_eq] at h
    obtain ⟨⟨hd, ha⟩, hi⟩ := h
    refine wordRoundTrips_encI rfl (by decide) hd ha hi ?_
    simp [decodeControl, fieldOf_encI_major, fieldOf_encI_d, fieldOf_encI_a, fieldOf_encI_imm, hd, ha, hi]
  | slli | srli | srai =>
    simp only [Bool.and_eq_true, decide_eq_true_eq] at h
    obtain ⟨⟨hd, ha⟩, hn⟩ := h
    exact wordRoundTrips_encI rfl (by decide) hd ha (by omega) (by simp only [decodeControl_shifts hd ha hn])
  | lui =>
    simp only [Bool.and_eq_true, decide_eq_true_eq] at h
    exact wordRoundTrips_encI rfl (by decide) h.1 (by decide) h.2 (decodeControl_lui h.1 h.2)
  | lcnt =>
    simp only [Bool.and_eq_true, decide_eq_true_eq] at h
    exact wordRoundTrips_encI rfl (by decide) h.1 (by decide) (by omega) (decodeControl_lcnt h.1 h.2)
  | fence =>
    simp only [decide_eq_true_eq] at h
    exact wordRoundTrips_encI rfl (by decide) (by decide) (by decide) (by omega) (decodeControl_fence h)
  | jal => exact wordRoundTrips_jal (of_decide_eq_true h)
  | loop =>
    simp only [Bool.and_eq_true, decide_eq_true_eq] at h
    obtain ⟨⟨⟨hl, hc⟩, hn⟩, hn'⟩ := h
    exact wordRoundTrips_loop hl hc hn hn'
  | lbrk => exact wordRoundTrips_lbrk (of_decide_eq_true h)
  | amoSwap | amoAdd | amoAnd | amoOr | amoXor | amoMax | amoMin | amoMaxn | amoMinn | amoCas =>
    simp only [Bool.and_eq_true, decide_eq_true_eq] at h
    obtain ⟨⟨⟨⟨hd, ha⟩, hb⟩, hw⟩, hsc⟩ := h
    refine wordRoundTrips_encAmo rfl (by decide) hd ha hb hw hsc ?_
    simp [decodeAmo, fieldOf_amoFunc, hw, hsc]
  | trecv | fwait | sstat | lwait | cpq | coll | collwait | smark | trap | tret | wfe | eventsClear | dselScorecardClear
  | scorecardLatch | layerClockLatch =>
    simp only [Bool.and_eq_true, decide_eq_true_eq] at h
    exact wordRoundTrips_encC rfl (by decide) (by omega) rfl
  | tsend | fopen | apset | apmod | sbind | sbar | bload | bdrop | talloc | trel | tstate | ringinit | ringwait | ringrel
  | cp | cpg | cps | cpsa | cpm | cpbin | cpcancel | pcinit | pcarrive | pcexpect | pcwait | cxprio | cxpark | cxresume
  | cxsave | cxrest | dvmap | dvclr | renter | rleave | bkpt =>
    simp only [Bool.and_eq_true, decide_eq_true_eq] at h
    refine wordRoundTrips_encC rfl (by decide) (by omega) ?_
    refine ifZero_eq_ok.2 ⟨?_, ?_⟩
    · simp only [fieldOf]
      omega
    · congr 1 <;> (simp only [fieldOf]; omega)
  | mvfs a n =>
    simp only [Bool.and_eq_true, decide_eq_true_eq, bne_iff_ne] at h
    obtain ⟨⟨⟨ha, hn⟩, hscore⟩, hclock⟩ := h
    refine wordRoundTrips_encC rfl (by decide) (by omega) ?_
    simp only [decodeC_mvfs, decodeMvfs, hscore, hclock, if_false]
  | mvts b n =>
    simp only [Bool.and_eq_true, decide_eq_true_eq, Bool.not_eq_true'] at h
    obtain ⟨⟨hb, hn⟩, hrow⟩ := h
    refine wordRoundTrips_encC rfl (by decide) (by omega) ?_
    rw [decodeC_mvts, decodeMvts_mvts hrow]
  | flagWordWrite b n =>
    simp only [Bool.and_eq_true, decide_eq_true_eq] at h
    refine wordRoundTrips_encC rfl (by decide) (by omega) ?_
    rw [decodeC_mvts, decodeMvts_flagWord (by omega)]
  | translationRegisterWrite b n =>
    simp only [Bool.and_eq_true, decide_eq_true_eq] at h
    refine wordRoundTrips_encC rfl (by decide) (by omega) ?_
    simp [decodeC, ifZero, decodeMvts_translation (n := n) (by omega)]
  | fAdd | fSub | fNeg | fAbs | fAbsdiff | fAddc | fMul | fFma | fFms | fFnma | fMulhi | fMulsc | fCmpEq | fCmpNe | fCmpLt
  | fCmpLe | fCmpGt | fCmpGe | fCmpMin | fCmpMax | fSign | fThr | fClamp | fAnd | fOr | fXor | fNot | fShl | fShr | fSra
  | fPopc | fClz | fBsel | fCvt | fRnd | fResolve | fQblk | fDqblk | fSat | fExp2 | fLog2 | fRcp | fRsqrt | fSqrt | fDiv
  | fSigm | fTanh | fSel | fRoute | fMerge | fFan | fFilt | fGate | fRedSum | fRedMax | fRedMin | fScan | fRecur | fKeyred
  | fLd | fLdt | fLdring | fLdg | fLdver | fSt | fSta | fStadd | fStmax | fStbin | fPush | fPop | fInc | fEos | fChk | fCnt
  | fSeq | fMark | fBget | fAlloc | fRelease | fHandoff =>
    exact wordRoundTrips_encFab h rfl rfl (by decide) (by decide)
  | mMma | mMmaSp | mMmac | mAccClr | mAccRdq | mAccLd | mMscLd =>
    refine wordRoundTrips_encOrder h rfl (by decide) ?_
    simp only [decodeOrder, fields_encOrder h, Nat.reduceLT]
  | mAccRd | mAccRdFabric =>
    simp only [Bool.and_eq_true, beq_iff_eq] at h
    obtain ⟨ho, htofab⟩ := h
    refine wordRoundTrips_encOrder ho rfl (by decide) ?_
    simp [decodeOrder, fields_encOrder ho, htofab]
  | _ => exact wordRoundTrips_of_none rfl

/-- Settles O3: every layout of the encoder is a word of fields side by side, whose fields the decoder reads back. -/
theorem decodeOfEncodeIsIdentity : Obligations.DecodeOfEncodeIsIdentity := by
  intro i h
  refine ⟨wordRoundTrips_of_wf h, fun k bs rest hbs => ?_⟩
  obtain ⟨w, hw, rfl⟩ := encode_eq_some hbs
  obtain ⟨hlt, hdec⟩ := wordRoundTrips_of_wf h k w hw
  exact decode_leBytes hlt hdec rest

end Sys2Proof
end

section
/-! O5: every meaning answers a next state. Most end at once in `next`, `finish` or `command`; a few branch before. -/
namespace Sys2Proof.Machine

@[simp] theorem continues_next (t : State) : Continues (.next t) := ⟨t, rfl⟩

@[simp] theorem continues_finish (s : State) (r : Nat) (x : Res State) : Continues (finish s r x) :=
  (finish_cases s r x).imp fun _ h => h.1

@[simp] theorem continues_finishJump (s : State) (r : Nat) (x : Res State) : Continues (finishJump s r x) :=
  (finishJump_cases s r x).imp fun _ h => h.1

/-- A command ends on the state whose buffered stores have been performed (R98). -/
theorem continues_command (s : State) (f : State → Res State) : Continues (command s f) := continues_finish _ _ _

theorem copyCommand_continues (op b core ctx : Nat) (s : State) : Continues (copyCommand op b core ctx s) :=
  continues_command _ _

/-! ## Words that branch before they end -/

theorem execPromotion_continues (port vc : Nat) (s : State) : Continues (execPromotion port vc s) := by
  simp only [execPromotion]
  split <;> simp

theorem recurElement_continues (sub : Nat) (f : Fab) (s : State) : Continues (recurElement sub f s) := by
  simp only [recurElement]
  repeat' split
  all_goals simp

theorem phaseCommand_continues (a : Nat) (s : State) (f : State → Res State) : Continues (phaseCommand a s f) := by
  simp only [phaseCommand]
  split <;> simp

theorem execFence_continues (sc : Nat) (s : State) : Continues (execFence sc s) := by
  simp only [execFence]
  split <;> simp

theorem branch_continues (c : Word → Word → Bool) (a b o : Nat) (s : State) : Continues (branch c a b o s) := by
  simp only [branch]
  split <;> simp

theorem amo_continues (f : Nat → AmoIn → Nat) (d a b w : Nat) (s : State) : Continues (amo f d a b w s) := by
  simp only [amo]
  repeat' split
  all_goals simp

theorem execTsend_continues (a b p : Nat) (s : State) : Continues (execTsend a b p s) := by
  simp only [execTsend]
  repeat' split
  all_goals simp

theorem execSbar_continues (a b w : Nat) (s : State) : Continues (execSbar a b w s) := by
  simp only [execSbar]
  repeat' split
  all_goals simp

theorem collectTalloc_continues (s : State) (r a c : Nat) (w : Wait) : Continues (collectTalloc s r a c w) := by
  simp only [collectTalloc]
  split <;> simp

theorem execTalloc_continues (a b core ctx : Nat) (s : State) : Continues (execTalloc a b core ctx s) := by
  simp only [execTalloc]
  repeat' split
  all_goals simp [collectTalloc_continues]

theorem execCpcancel_continues (a core retry ctx : Nat) (s : State) : Continues (execCpcancel a core retry ctx s) := by
  simp only [execCpcancel]
  repeat' split
  all_goals simp

theorem execCxpark_continues (a ctx : Nat) (s : State) : Continues (execCxpark a ctx s) := by
  simp only [execCxpark]
  repeat' split
  all_goals simp

theorem execCxrest_continues (b core ctx : Nat) (s : State) : Continues (execCxrest b core ctx s) := by
  simp only [execCxrest]
  repeat' split
  all_goals simp

theorem execRestoreMerge_continues (core : Nat) (s : State) : Continues (execRestoreMerge core s) := by
  simp only [execRestoreMerge]
  repeat' split
  all_goals simp

theorem execDvclr_continues (core e : Nat) (s : State) : Continues (execDvclr core e s) := by
  simp only [execDvclr]
  repeat' split
  all_goals simp

theorem execLwait_continues (s : State) : Continues (execLwait s) := by
  simp only [execLwait]
  repeat' split
  all_goals simp

/-! ## Every instruction -/

/-- What an instruction answers, through the shared operation that gives it its meaning. -/
theorem exec_continues (i : Instr) (s : State) : Continues (exec i s) := by
  unfold exec
  cases i with
  | ldB | ldH | ldW | ldD | ldnB | ldnH | ldnW | stB | stH | stW | stD | lcnt => exact continues_finish _ _ _
  | cp | cpg | cps | cpsa | cpm | cpbin => exact copyCommand_continues _ _ _ _ _
  | fopen | fwait | trecv | apset | apmod | sbind | sstat | bload | bdrop | trel | tstate | ringinit | ringwait | ringrel
  | cpq | coll | collwait | cxprio | cxresume | cxsave | dvmap | renter | rleave | smark | bkpt | mvfs | mvts | wfe
  | eventsClear | flagWordWrite | dselScorecardClear | scorecardLatch | layerClockLatch | translationRegisterWrite =>
    exact continues_command _ _
  | jalr | loop | lbrk | trap | tret => exact continues_finishJump _ _ _
  | beq | bne | blt | bge | bltn | bgen => exact branch_continues _ _ _ _ _
  | amoSwap | amoAdd | amoAnd | amoOr | amoXor | amoMax | amoMin | amoMaxn | amoMinn | amoCas =>
    exact amo_continues _ _ _ _ _ _
  | fence => exact execFence_continues _ _
  | tsend => exact execTsend_continues _ _ _ _
  | sbar => exact execSbar_continues _ _ _ _
  | talloc => exact execTalloc_continues _ _ _ _ _
  | cpcancel => exact execCpcancel_continues _ _ _ _ _
  | pcinit | pcarrive | pcexpect | pcwait => exact phaseCommand_continues _ _ _
  | cxpark => exact execCxpark_continues _ _ _
  | cxrest => exact execCxrest_continues _ _ _ _
  | dvclr => exact execDvclr_continues _ _ _
  | lwait => exact execLwait_continues _
  | fScan | fRecur => exact recurElement_continues _ _ _
  | promotion => exact execPromotion_continues _ _ _
  | restoreMerge => exact execRestoreMerge_continues _ _
  -- every other meaning is the next state that one function computes
  | _ => exact continues_next _

/-- Settles O5: every meaning ends in a next state, a fault of the spec being a trap, a record or an answer there (R132). -/
theorem everyInstructionContinues : Obligations.EveryInstructionContinues := exec_continues

end Sys2Proof.Machine
end

section
/-! O1 and O2: what a step runs, and the words that the spec writes out. -/
namespace Sys2Proof.Machine

/-! ## The fetch of a control core (R45, R102) -/

section
variable {s : State} {r : Nat} {ks : List Nat}

theorem fetchWord_of_keys (hk : fetchKeys s r = .ok ks) (hp : ccPoisoned s r ks = false) :
    fetchWord s r = .ok (ofBytes (s.ccRead r ks)) := by
  simp [fetchWord, hk, hp]

theorem controlInstr_of_decodes {i : Instr} (hk : fetchKeys s r = .ok ks) (hp : ccPoisoned s r ks = false)
    (hi : decodeWord .control (ofBytes (s.ccRead r ks)) = .ok i) : controlInstr s r = .ok i := by
  simp [controlInstr, fetchWord_of_keys hk hp, hi]

theorem controlInstr_of_undecoded {e : DecodeError} (hk : fetchKeys s r = .ok ks) (hp : ccPoisoned s r ks = false)
    (he : decodeWord .control (ofBytes (s.ccRead r ks)) = .error e) :
    controlInstr s r = .error (Trap.word .illegal) := by
  simp [controlInstr, fetchWord_of_keys hk hp, he]

theorem controlInstr_of_fetch_fault {f : FaultCode} {p : Bool} (hk : fetchKeys s r = .error (f, p)) :
    controlInstr s r = .error (Trap.access f (s.region r).pc.toNat p) := by
  simp [controlInstr, fetchWord, hk]

theorem askFetch_of_keys (hk : fetchKeys s r = .ok ks) : s.askFetch r = s.askControl r (s.homeAt ks) .load := by
  simp [State.askFetch, hk]

theorem askFetch_of_fault {e : FaultCode × Bool} (hk : fetchKeys s r = .error e) : s.askFetch r = s := by
  simp [State.askFetch, hk]

/-- A fetch outside windows 0x2 and 0x8 is refused (R102). -/
theorem fetchKeys_outside (h2 : (s.region r).pc.toNat / 2 ^ 60 ≠ 2) (h8 : (s.region r).pc.toNat / 2 ^ 60 ≠ 8) :
    fetchKeys s r = .error (.protection, false) := by
  simp only [fetchKeys, h2, h8, or_self, if_false]

/-! ## The turn of a control core -/

theorem issueStep_takes (hl : (s.region r).launch ≠ none) (hb : s.die.boot = .running) (ht : s.takes r = true) :
    issueStep r s = .next (s.takeHeld r).tick := by
  simp [issueStep, hl, hb, ht]

theorem issueStep_waits (hl : (s.region r).launch ≠ none) (hb : s.die.boot = .running) (ht : s.takes r = false)
    (hf : fetchHeld s r = true) : issueStep r s = .next s.tick := by
  simp [issueStep, hl, hb, ht, hf]

theorem issueStep_runs {i : Instr} (hc : CanIssue s r) (hi : controlInstr s r = .ok i) :
    issueStep r s = exec i { s.askFetch r with turn := r } := by
  obtain ⟨hl, hb, ht, hf⟩ := hc
  simp [issueStep, hl, hb, ht, hf, hi]

theorem issueStep_traps {t : Trap} (hc : CanIssue s r) (ht : controlInstr s r = .error t) :
    issueStep r s = .next ((s.askFetch r).takeTrap r (s.region r).pc t).tick := by
  obtain ⟨hl, hb, hn, hf⟩ := hc
  simp [issueStep, hl, hb, hn, hf, ht]

theorem issueStep_of_decodes {i : Instr} (hc : CanIssue s r) (hk : fetchKeys s r = .ok ks)
    (hp : ccPoisoned s r ks = false) (hi : decodeWord .control (ofBytes (s.ccRead r ks)) = .ok i) :
    issueStep r s = exec i { s.askControl r (s.homeAt ks) .load with turn := r } := by
  rw [issueStep_runs hc (controlInstr_of_decodes hk hp hi), askFetch_of_keys hk]

end

/-! ## The head of the agenda -/

section
variable {s : State} {rest : List Happening}

theorem step_of_empty (h : s.agenda = []) : step s = issueStep s.turn s := by simp [step, h]

theorem step_issue {r : Nat} (h : s.agenda = .issue r :: rest) : step s = issueStep r { s with agenda := rest } := by
  simp [step, h]

theorem step_element {c x n w : Nat} {b : Block} {i : Instr} (h : s.agenda = .element c x n :: rest)
    (hb : (s.ctx c x).block = some b) (hw : b.words[n]? = some w) (hi : decodeWord .fabric w = .ok i) :
    step s = exec i { s with agenda := rest, cur := { core := c, ctx := x, idx := n } } := by
  have he : elementInstr s c x n = some i := by simp [elementInstr, hb, hw, hi]
  simp [step, h, he]

theorem step_order {c bank : Nat} {q : QOrder} {i : Instr} (h : s.agenda = .order c bank :: rest)
    (hq : (s.core c).mx.headOrder bank = some q) (hi : decodeWord .order q.word = .ok i) :
    step s = exec i { s with agenda := rest, cur := { core := c, ctx := 0, idx := bank } } := by
  have ho : orderInstr s c bank = some i := by simp [orderInstr, hq, hi]
  simp [step, h, ho]

theorem step_event {i : Instr} (h : s.agenda = .event i :: rest) (hi : encodeWord i = none) :
    step s = exec i { s with agenda := rest } := by
  simp [step, h, hi]

end

theorem wordsRunDecoded : WordsRunDecoded := by
  refine ⟨?turn, ?issue, ?element, ?order, fun s i rest => step_event⟩
  case turn =>
    intro s ks i h hc hk hp hi
    rw [step_of_empty h, issueStep_of_decodes hc hk hp hi]
  case issue =>
    rintro s u r rest ks i h rfl hc hk hp hi
    rw [step_issue h, issueStep_of_decodes hc hk hp hi]
  case element => exact fun s c x n rest b w i => step_element
  case order => exact fun s c bank rest q i => step_order

theorem fetchFaultsTrapAtPc : FetchFaultsTrapAtPc := by
  refine ⟨?fault, ?undecoded, fun s => fetchKeys_outside, ?held, ?waits⟩
  case fault =>
    intro s f p h hc hk
    rw [step_of_empty h, issueStep_traps hc (controlInstr_of_fetch_fault hk), askFetch_of_fault hk]
  case undecoded =>
    intro s ks e h hc hk hp he
    rw [step_of_empty h, issueStep_traps hc (controlInstr_of_undecoded hk hp he), askFetch_of_keys hk]
  case held =>
    intro s h hl hb ht
    rw [step_of_empty h, issueStep_takes hl hb ht]
  case waits =>
    intro s h hl hb ht hf
    rw [step_of_empty h, issueStep_waits hl hb ht hf]

/-- Settles O1: the head of the agenda names the word, and a control core's turn fetches it. -/
theorem stepRunsDecodedInstruction : Obligations.StepRunsDecodedInstruction :=
  ⟨wordsRunDecoded, fetchFaultsTrapAtPc⟩

/-- Settles O2: the decoder is run on each of the thirteen words. -/
theorem decodesWordsOfTheSpec : Obligations.DecodesWordsOfTheSpec := by
  unfold Obligations.DecodesWordsOfTheSpec
  decide

end Sys2Proof.Machine
end

section
/-! O26 and O27: `mvfs` and `mvts` of the state registers (R80, R82, R112, R135, R136, R268, R350 to R354). -/
namespace Sys2Proof.Machine

theorem trapsWith_finish (d : State) (r : Nat) (t : Trap) : TrapsWith (finish d r (.error (.trap t))) d r t := rfl

/-! ## The checks of a read and of a write (R135) -/

section
variable {s : State} {r n : Nat}

theorem privilegeNeed_true (hp : privilegedReg n = true → (s.region r).mode = .privileged) :
    (!privilegedReg n || (s.region r).mode == .privileged) = true := by
  cases h : privilegedReg n
  · rfl
  · simp [hp h]

theorem readCheck_ok (hn : readable n = true) (hp : privilegedReg n = true → (s.region r).mode = .privileged) :
    readCheck s r n = .ok () := by
  simp only [readCheck, hn, privilegeNeed_true hp, need_true, res_ok_bind]

theorem readCheck_unlisted (hn : readable n = false) : readCheck s r n = .error (.trap (Trap.word .illegal)) := by
  simp only [readCheck, hn, need_false, res_error_bind]

theorem writeCheck_ok (hn : readable n = true) (ho : readOnly n = false)
    (hp : privilegedReg n = true → (s.region r).mode = .privileged) : writeCheck s r n = .ok () := by
  simp only [writeCheck, hn, ho, privilegeNeed_true hp, Bool.not_false, Bool.and_self, need_true, res_ok_bind]

theorem writeCheck_refused (h : readable n = false ∨ readOnly n = true) :
    writeCheck s r n = .error (.trap (Trap.word .illegal)) := by
  have hneed : (readable n && !readOnly n) = false := by
    rcases h with h | h <;> simp [h]
  simp only [writeCheck, hneed, need_false, res_error_bind]

end

/-! ## Flag words: registers 0x100 to 0x13F (R80, R112) -/

section
variable {s : State} {r core ctx : Nat}

theorem readCheck_flagWord (hc : core < 16) (hx : ctx < 4) : readCheck s r (0x100 + 4 * core + ctx) = .ok () := by
  have hread : readable (0x100 + 4 * core + ctx) = true := by
    have hlow : 0x100 ≤ 0x100 + 4 * core + ctx := by omega
    have hhigh : 0x100 + 4 * core + ctx ≤ 0x13F := by omega
    simp only [readable, hlow, hhigh, decide_true, Bool.and_self, Bool.or_true]
  have hpriv : privilegedReg (0x100 + 4 * core + ctx) = false := by
    simp [privilegedReg]
    omega
  exact readCheck_ok hread (by simp [hpriv])

theorem flagWord_core (hx : ctx < 4) : (0x100 + 4 * core + ctx - 0x100) / 4 = core := by omega

theorem flagWord_ctx (hx : ctx < 4) : (0x100 + 4 * core + ctx) % 4 = ctx := by omega

/-- The number of a flag word names its core and its context. -/
theorem flagOperand_flagWord (hx : ctx < 4) : flagOperand s r (0x100 + 4 * core + ctx) =
    coreOperand s r core >>= fun c => ctxOperand s [c] ctx := by
  rw [flagOperand, flagWord_core hx, flagWord_ctx hx]

theorem ctxOperand_one (c : Nat) : ctxOperand s [c] ctx = await (!switchedOut s c ctx) := by
  simp [ctxOperand]

theorem flagOperand_of_core {c : Nat} (hx : ctx < 4) (hc : coreOperand s r core = .ok c) :
    flagOperand s r (0x100 + 4 * core + ctx) = await (!switchedOut s c ctx) := by
  rw [flagOperand_flagWord hx, hc, res_ok_bind, ctxOperand_one]

/-- A core outside the launch's mask (R111). -/
theorem flagOperand_unmasked (hx : ctx < 4) (hm : bit (s.region r).mask core = false) :
    flagOperand s r (0x100 + 4 * core + ctx) = .error (.trap (Trap.word .protection)) := by
  rw [flagOperand_flagWord hx, coreOperand, hm, need_false]
  rfl

theorem stateReg_flagWord (hx : ctx < 4) : stateReg s r (0x100 + 4 * core + ctx) =
    BitVec.ofNat 64 (s.ctx (coreOf r core) ctx).flags := by
  have hne (k : Nat) (hk : k < 0x100) : ¬ 0x100 + 4 * core + ctx = k := by omega
  have hnl (k : Nat) (hk : k < 0x100) : ¬ 0x100 + 4 * core + ctx < k := by omega
  simp only [stateReg, flagWord_core hx, flagWord_ctx hx]
  simp (disch := decide) only [hne, hnl, if_false]

end

/-! ## Reads (R135, R352, R354) -/

section
variable {s d : State} (hd : Drained s d)
include hd

theorem exec_mvfs (a n : Nat) : exec (.mvfs a n) s = finish d s.turn (readCheck d s.turn n >>= fun _ =>
    (if 0x100 ≤ n then flagOperand d s.turn n else .ok ()) >>= fun _ => .ok (d.setX s.turn a (stateReg d s.turn n))) := by
  change execMvfs a n s = _
  simp only [execMvfs, command_of_drained hd, drained_turn hd]
  split <;> rfl

theorem exec_mvfs_listed {a n : Nat} (hn : readable n = true)
    (hp : privilegedReg n = true → (d.region s.turn).mode = .privileged)
    (hf : 0x100 ≤ n → flagOperand d s.turn n = .ok ()) :
    exec (.mvfs a n) s = .next ((d.setX s.turn a (stateReg d s.turn n)).complete s.turn) := by
  have hflag : (if 0x100 ≤ n then flagOperand d s.turn n else .ok ()) = .ok () := by
    split
    case isTrue h => exact hf h
    case isFalse => rfl
  rw [exec_mvfs hd, readCheck_ok hn hp, res_ok_bind, hflag, res_ok_bind, finish_ok]

theorem exec_mvfs_unlisted {a n : Nat} (hn : readable n = false) :
    TrapsWith (exec (.mvfs a n) s) d s.turn (Trap.word .illegal) := by
  rw [exec_mvfs hd, readCheck_unlisted hn, res_error_bind]
  exact trapsWith_finish _ _ _

/-- A read of a flag word stops where its operand does. -/
theorem exec_mvfs_flagWord_stops {core ctx : Nat} {e : Stop} (a : Nat) (hc : core < 16) (hx : ctx < 4)
    (he : flagOperand d s.turn (0x100 + 4 * core + ctx) = .error e) :
    exec (.mvfs a (0x100 + 4 * core + ctx)) s = finish d s.turn (.error e) := by
  rw [exec_mvfs hd, readCheck_flagWord hc hx, res_ok_bind, if_pos (by omega), he, res_error_bind]

theorem exec_scorecardLatch (a : Nat) {g : Region} {l : List Nat} (hg : g = d.region s.turn)
    (hl : l = (range 0 10).map (fun i => nth 0 (d.ctx (dselCore g s.turn) (dselCtx g)).score i)) :
    exec (.scorecardLatch a) s = .next (((d.setRegion s.turn { g with scLatch := l }).setX s.turn a
      (BitVec.ofNat 64 (nth 0 l 0))).complete s.turn) := by
  subst hg hl
  change execScorecardLatch a s = _
  simp only [execScorecardLatch, command_of_drained hd, drained_turn hd, finish_ok]

theorem exec_layerClockLatch (a : Nat) {e : State} {l : List Nat} (he : e = d.clocksOn (s.turn / 64))
    (hl : l = sget [0, 0, 0] e.clocks (s.turn / 64)) :
    exec (.layerClockLatch a) s = .next (((e.setRegion s.turn { e.region s.turn with clkLatch := l }).setX s.turn a
      (BitVec.ofNat 64 (nth 0 l 0))).complete s.turn) := by
  subst he hl
  change execLayerClockLatch a s = _
  simp only [execLayerClockLatch, command_of_drained hd, drained_turn hd, finish_ok]

end

/-- Settles O26: a read passes its checks and then takes the register's value, which Table 6.7 places by its number. -/
theorem stateRegisterReads : Obligations.StateRegisterReads := by
  rintro s d a n g hd rfl
  refine ⟨exec_mvfs_listed hd, ?flagWord, ?unmasked, exec_mvfs_unlisted hd, rfl, rfl, rfl, rfl, rfl, rfl, rfl, rfl, rfl, rfl, rfl,
    fun core ctx _ hx => stateReg_flagWord hx, fun l => exec_scorecardLatch hd a rfl, fun e l => exec_layerClockLatch hd a⟩
  case flagWord =>
    rintro core ctx c hcore hx rfl hc
    have hf := flagOperand_of_core hx hc
    refine ⟨fun hin => ?resident, fun hout => ?switched⟩
    case resident => rw [hf, hin, Bool.not_false, await_true]
    case switched =>
      rw [hout, Bool.not_true, await_false] at hf
      rw [exec_mvfs_flagWord_stops hd a hcore hx hf, finish_wait]
  case unmasked =>
    rintro core ctx hcore hx rfl hm
    rw [exec_mvfs_flagWord_stops hd a hcore hx (flagOperand_unmasked hx hm)]
    exact trapsWith_finish _ _ _

/-! ## Writes (R80, R82, R135, R136, R268, R350) -/

section
variable {s d : State} (hd : Drained s d)
include hd

theorem exec_mvts (b n : Nat) : exec (.mvts b n) s = finish d s.turn (writeCheck d s.turn n >>= fun _ =>
    writeStateReg d s.turn n (d.getX s.turn b).toNat) := by
  change execMvts b n s = _
  simp only [execMvts, command_of_drained hd, drained_turn hd]

theorem exec_mvts_refused {b n : Nat} (h : readable n = false ∨ readOnly n = true) :
    TrapsWith (exec (.mvts b n) s) d s.turn (Trap.word .illegal) := by
  rw [exec_mvts hd, writeCheck_refused h, res_error_bind]
  exact trapsWith_finish _ _ _

theorem exec_mvts_listed {b n : Nat} (hn : readable n = true) (ho : readOnly n = false)
    (hp : privilegedReg n = true → (d.region s.turn).mode = .privileged) :
    exec (.mvts b n) s = finish d s.turn (writeStateReg d s.turn n (d.getX s.turn b).toNat) := by
  rw [exec_mvts hd, writeCheck_ok hn ho hp, res_ok_bind]

theorem exec_eventsClear (b : Nat) : exec (.eventsClear b) s = .next ((d.setRegion s.turn { d.region s.turn with
    events := (d.region s.turn).events &&& ~~~(d.getX s.turn b) }).complete s.turn) := by
  change execEventsClear b s = _
  simp only [execEventsClear, command_of_drained hd, drained_turn hd, finish_ok]

theorem exec_flagWordWrite {b core ctx : Nat} (hx : ctx < 4)
    (hf : flagOperand d s.turn (0x100 + 4 * core + ctx) = .ok ()) :
    exec (.flagWordWrite b (0x100 + 4 * core + ctx)) s = .next ((d.modCtx (coreOf s.turn core) ctx
      (fun k => k.writeFlags (bits (d.getX s.turn b).toNat 15 0))).complete s.turn) := by
  change execFlagWordWrite b _ s = _
  simp only [execFlagWordWrite, command_of_drained hd, drained_turn hd, hf, res_ok_bind, flagWord_core hx, flagWord_ctx hx,
    finish_ok]

theorem exec_translationRegisterWrite (b n : Nat) (hp : (d.region s.turn).mode = .privileged) :
    exec (.translationRegisterWrite b n) s =
      finish d s.turn (need (translationValueOk (translationAlign n) (d.getX s.turn b).toNat) .illegal >>= fun _ =>
        .ok (d.setRegion s.turn ((d.region s.turn).setTranslationReg n (BitVec.ofNat 64 (d.getX s.turn b).toNat)))) := by
  change execTranslationRegisterWrite b n s = _
  simp only [execTranslationRegisterWrite, command_of_drained hd, drained_turn hd, needPrivileged_ok.mpr hp, res_ok_bind]

end

/-! ## Writes of tvec -/

theorem writeStateReg_tvec (s : State) (r : Nat) {v : Nat} (hv : v % 4 = 0) :
    writeStateReg s r 0x001 v = .ok (s.setRegion r { s.region r with tvec := BitVec.ofNat 64 v }) := by
  simp [writeStateReg, Region.writeTrapReg, hv]

theorem writeStateReg_tvec_misaligned (s : State) (r : Nat) {v : Nat} (hv : v % 4 ≠ 0) :
    writeStateReg s r 0x001 v = .error (.trap (Trap.word .illegal)) := by
  simp [writeStateReg, Region.writeTrapReg, hv, fail]

/-! ## Writes of dsel (R350) -/

/-- The core that a written dsel selects. -/
theorem dselCore_written (g : Region) (r v : Nat) :
    dselCore { g with dsel := BitVec.ofNat 64 (v % 64) } r = coreOf r (v % 16) := by
  have hbits : bits (BitVec.ofNat 64 (v % 64)).toNat 3 0 = v % 16 := by
    simp only [bits, BitVec.toNat_ofNat]
    omega
  rw [dselCore, hbits]

/-- The context that a written dsel selects. -/
theorem dselCtx_written (g : Region) (v : Nat) : dselCtx { g with dsel := BitVec.ofNat 64 (v % 64) } = v / 16 % 4 := by
  simp only [dselCtx, bits, BitVec.toNat_ofNat]
  omega

/-- A value whose bits [63:9] and [7:6] are zero selects, and clears the selected scorecard where its bit 8 is set. -/
theorem exec_dselScorecardClear {s d : State} (hd : Drained s d) {b v : Nat} {g : Region} (hg : g = d.region s.turn)
    (hb : v = (d.getX s.turn b).toNat) (hhigh : v / 512 = 0) (hmid : v / 64 % 4 = 0) :
    exec (.dselScorecardClear b) s =
      .next ((if bit v 8 then (d.setRegion s.turn { g with dsel := BitVec.ofNat 64 (v % 64) }).setCore (coreOf s.turn (v % 16))
          { d.core (coreOf s.turn (v % 16)) with
            scoreClears := v / 16 % 4 :: (d.core (coreOf s.turn (v % 16))).scoreClears }
        else d.setRegion s.turn { g with dsel := BitVec.ofNat 64 (v % 64) }).complete s.turn) := by
  subst hg
  have hlayout : (bits v 63 9 == 0 && bits v 7 6 == 0) = true := by
    simp [bits, hhigh, hmid]
  have hsel : bits v 5 0 = v % 64 := by simp [bits]
  change execDselScorecardClear b s = _
  simp only [execDselScorecardClear, command_of_drained hd, drained_turn hd, ← hb, hlayout, hsel, need_true, res_ok_bind,
    dselCore_written, dselCtx_written, setRegion_core, finish_ok]

/-! ## The writes that hold from the next beat (R353, log 92) -/

/-- A property of every value that a map gives at a key, and of the default, holds of the lookup. -/
theorem sget_map_of {α : Type} {P : α → Prop} {f : Nat → α → α} {d : α} {k : Nat} (hd : P d) (hf : ∀ a, P (f k a))
    (t : Sparse α) : P (sget d (t.map fun e => (e.1, f e.1 e.2)) k) := by
  induction t with
  | nil => exact hd
  | cons e l ih =>
    simp only [List.map_cons, sget]
    split
    case isTrue h => exact h ▸ hf e.2
    case isFalse => exact ih

/-- A scorecard that a write has cleared is 0 from the next beat. -/
theorem takeCounts_score (k : Core) {x : Nat} (hx : x ∈ k.scoreClears) : (k.takeCounts.ctx x).score = [] := by
  have hc : k.scoreClears.contains x = true := by simpa using hx
  refine sget_map_of (P := fun c : Ctx => c.score = [])
    (f := fun n c => if k.scoreClears.contains n then { c with score := [] } else c) rfl (fun c => ?_) k.ctxs
  rw [if_pos hc]

/-- Settles O27: a write passes its checks, and the registers with a meaning of their own then take their values. -/
theorem stateRegisterWrites : Obligations.StateRegisterWrites := by
  rintro s d b n _ _ hd rfl rfl
  have htvec (hp : (d.region s.turn).mode = .privileged) := exec_mvts_listed hd (b := b) (n := 0x001) rfl rfl (fun _ => hp)
  refine ⟨exec_mvts_refused hd, ?listed, ?tvec, ?tvecMisaligned, ?tpc, ?events, ?flags, ?dsel, ?dselClears,
    fun k => ⟨rfl, fun x => takeCounts_score k⟩, ?translation, ?translationRefused⟩
  case listed =>
    intro u hn ho hp hu
    rw [exec_mvts_listed hd hn ho hp, hu, finish_ok]
  case tvec =>
    intro hp hv
    rw [htvec hp, writeStateReg_tvec d s.turn hv, finish_ok]
  case tvecMisaligned =>
    intro hp hv
    rw [htvec hp, writeStateReg_tvec_misaligned d s.turn hv]
    exact trapsWith_finish _ _ _
  case tpc =>
    intro hp
    rw [exec_mvts_listed hd rfl rfl fun _ => hp]
    rfl
  case events => rw [exec_eventsClear hd, BitVec.ofNat_toNat, BitVec.setWidth_eq]
  case flags =>
    intro core ctx _ hx hf
    refine ⟨_, exec_flagWordWrite hd hx hf, ?_⟩
    simp only [Ctx.writeFlags, bits, Nat.pow_zero, Nat.div_one]
  case dsel =>
    intro hhigh hmid hclear
    rw [exec_dselScorecardClear hd rfl rfl hhigh hmid, if_neg (by simp [bit, hclear])]
  case dselClears =>
    intro hhigh hmid hclear
    rw [exec_dselScorecardClear hd rfl rfl hhigh hmid, if_pos (by simp [bit, hclear])]
  case translation =>
    intro hp hv
    rw [exec_translationRegisterWrite hd b n hp, hv, need_true, res_ok_bind, finish_ok]
  case translationRefused =>
    intro hp hv
    rw [exec_translationRegisterWrite hd b n hp, hv, need_false, res_error_bind]
    exact trapsWith_finish _ _ _

end Sys2Proof.Machine
end

section
/-! O23 and O24: a trap saves what `tret` restores (R109, R132 to R134). -/
namespace Sys2Proof.Machine

/-! ## The saved loop stack (R109) -/

/-- The four levels of the loop stack (R103). -/
theorem level_cases {l : Nat} (hl : l < 4) : l = 0 ∨ l = 1 ∨ l = 2 ∨ l = 3 := by omega

theorem saveLoops_depth (g : Region) : sget 0 g.saveLoops 0 = BitVec.ofNat 64 g.depth := rfl

theorem saveLoops_entry (g : Region) {l : Nat} (hl : l < 4) :
    sget 0 g.saveLoops (2 * l + 1) = (g.loopAt l).start ∧ sget 0 g.saveLoops (2 * l + 2) = (g.loopAt l).word1 := by
  rcases level_cases hl with rfl | rfl | rfl | rfl <;> exact ⟨rfl, rfl⟩

/-- Word 1 of a saved entry holds a length and a count that the loop stack can hold, and zeros above (Table 5.7). -/
theorem word1_fields {e : LoopEntry} (hlen : e.len < 1024) (hcount : e.count < 2 ^ 48) :
    bits e.word1.toNat 57 48 = e.len ∧ bits e.word1.toNat 47 0 = e.count ∧ bits e.word1.toNat 63 58 = 0 := by
  simp only [bits, LoopEntry.word1, BitVec.toNat_ofNat]
  omega

theorem savedEntry_saveLoops {g : Region} {l : Nat} (hl : l < 4) (hlen : (g.loopAt l).len < 1024)
    (hcount : (g.loopAt l).count < 2 ^ 48) : savedEntry g.saveLoops l = g.loopAt l := by
  obtain ⟨hstart, hword⟩ := saveLoops_entry g hl
  obtain ⟨hl48, hc48, -⟩ := word1_fields hlen hcount
  simp only [savedEntry, hstart, hword, hl48, hc48]

/-- The saved depth of a loop stack reads back. -/
theorem saveLoops_depth_toNat {g : Region} (hd : g.depth ≤ 4) : (sget 0 g.saveLoops 0).toNat = g.depth := by
  rw [saveLoops_depth, BitVec.toNat_ofNat]
  omega

/-- `tret` accepts a saved loop stack whose open entries are those of running loops. -/
theorem savedOk_saveLoops {g : Region} (hd : g.depth ≤ 4)
    (hopen : ∀ l, l < g.depth → 1 ≤ (g.loopAt l).len ∧ (g.loopAt l).len < 1024 ∧ 1 ≤ (g.loopAt l).count ∧
      (g.loopAt l).count < 2 ^ 48 ∧ (g.loopAt l).start.toNat % 4 = 0) : savedOk g.saveLoops = true := by
  simp only [savedOk, saveLoops_depth_toNat hd, Bool.and_eq_true, decide_eq_true_eq, List.all_eq_true]
  refine ⟨hd, fun l hl => ?_⟩
  have hlt : l < g.depth := by simpa using (mem_range.mp hl).2
  obtain ⟨hlen, hlen', hcount, hcount', halign⟩ := hopen l hlt
  obtain ⟨-, -, hhigh⟩ := word1_fields hlen' hcount'
  rw [savedEntry_saveLoops (by omega) hlen' hcount', (saveLoops_entry g (by omega)).2]
  simp [halign, hhigh]
  omega

/-- A returned region's loop stack is the saved one. -/
theorem returnTrap_loopAt (g : Region) {l : Nat} (hl : l < 4) : g.returnTrap.loopAt l = savedEntry g.saved l := by
  rcases level_cases hl with rfl | rfl | rfl | rfl <;> rfl

/-! ## Taking a trap (R132) -/

theorem setRegion_setRegion (s : State) (r : Nat) (v w : Region) :
    (s.setRegion r v).setRegion r w = s.setRegion r w := by
  simp only [State.setRegion, sput_sput_same]

theorem takeTrap_enters {s : State} {r : Nat} (resume : Word) (t : Trap) (hm : (s.region r).mode = .unprivileged)
    (hv : (s.region r).tvec ≠ 0) : s.takeTrap r resume t = s.setRegion r ((s.region r).enterTrap resume t.cause) :=
  if_neg (not_or.mpr ⟨by simp [hm], hv⟩)

theorem takeTrap_escalates {s : State} {r : Nat} (resume : Word) (t : Trap)
    (h : (s.region r).mode = .privileged ∨ (s.region r).tvec = 0) : s.takeTrap r resume t = s.escalate r t.fault :=
  if_pos h

theorem trapEntry : TrapEntry := by
  rintro s r resume t _ _ rfl rfl
  refine ⟨fun hm hv => ?_, takeTrap_escalates resume t⟩
  rw [takeTrap_enters resume t hm hv, setRegion_region_same]
  exact ⟨rfl, rfl, rfl, rfl, saveLoops_depth _, fun l hl => saveLoops_entry _ hl, rfl, rfl, rfl, rfl⟩

/-! ## The cause (Table 6.6) -/

theorem b2n_lt_two (b : Bool) : b2n b < 2 := by cases b <;> decide

theorem causeLayout : CauseLayout := by
  intro t hfault hinstr hsource hctx hcore hcode hextra
  have hpoison := b2n_lt_two t.poison
  simp only [bits, Trap.cause, BitVec.toNat_ofNat, hextra]
  omega

/-! ## `trap` and `tret` (R134) -/

section
variable {s d : State} (hd : Drained s d)
include hd

theorem exec_trap (k : Nat) : exec (.trap k) s = .next (if (d.region s.turn).mode = .privileged then
      d.escalate s.turn (bits (d.region s.turn).tcause.toNat 7 0)
    else (d.setRegion s.turn (d.region s.turn).completed).takeTrap s.turn (d.region s.turn).completed.pc
      { Trap.word .illegal with fault := 0, source := 2, code := k }).tick := by
  obtain ⟨hready, rfl⟩ := hd
  change execTrap k s = _
  simp only [execTrap, hready]
  rfl

theorem exec_tret : exec .tret s = finishJump d s.turn (needPrivileged d s.turn >>= fun _ =>
    need (savedOk (d.region s.turn).saved && (d.region s.turn).tpc.toNat % 4 == 0) .illegal >>= fun _ =>
      .ok (d.setRegion s.turn (d.region s.turn).returnTrap)) := by
  obtain ⟨hready, rfl⟩ := hd
  change execTret s = _
  simp only [execTret, hready]
  rfl

theorem exec_tret_privileged (hm : (d.region s.turn).mode = .privileged) : exec .tret s = finishJump d s.turn
    (need (savedOk (d.region s.turn).saved && (d.region s.turn).tpc.toNat % 4 == 0) .illegal >>= fun _ =>
      .ok (d.setRegion s.turn (d.region s.turn).returnTrap)) := by
  rw [exec_tret hd, needPrivileged_ok.mpr hm, res_ok_bind]

end

theorem trapWord : TrapWord := by
  rintro s d k _ hd rfl
  refine ⟨fun hm hv => ?enters, fun hm hv => ?noHandler, fun hm => ?declines⟩
  case enters =>
    rw [exec_trap hd, if_neg (by simp [hm]), takeTrap_enters, setRegion_region_same, setRegion_setRegion]
    · rw [setRegion_region_same]
      exact hm
    · rw [setRegion_region_same]
      exact hv
  case noHandler =>
    rw [exec_trap hd, if_neg (by simp [hm]), takeTrap_escalates]
    rw [setRegion_region_same]
    exact .inr hv
  case declines => rw [exec_trap hd, if_pos hm]

/-- Settles O23: the entry is one update of the region, the cause is a sum of fields that do not overlap, and `trap` enters the
handler with the region after end processing. -/
theorem takingATrap : Obligations.TakingATrap := ⟨trapEntry, causeLayout, trapWord⟩

theorem tretWord : TretWord := by
  rintro s d _ hd rfl
  refine ⟨fun hm hs ha => ?returns, fun hm h => ?refused, fun hm => ?unprivileged⟩
  case returns =>
    refine ⟨(d.region s.turn).returnTrap, ?_, rfl, rfl, rfl, fun l hl => returnTrap_loopAt _ hl, rfl⟩
    rw [exec_tret_privileged hd hm, hs, ha]
    rfl
  case refused =>
    have hneed : (savedOk (d.region s.turn).saved && (d.region s.turn).tpc.toNat % 4 == 0) = false := by
      rcases h with h | h <;> simp [h]
    rw [exec_tret_privileged hd hm, hneed]
    rfl
  case unprivileged =>
    rw [exec_tret hd, needPrivileged, hm]
    rfl

theorem trapThenReturnRestores : TrapThenReturnRestores := by
  intro g resume c hdepth hopen
  refine ⟨savedOk_saveLoops hdepth hopen, rfl, rfl, saveLoops_depth_toNat hdepth, fun l hl => ?_⟩
  obtain ⟨-, hlen, -, hcount, -⟩ := hopen l hl
  have hl4 : l < 4 := by omega
  exact (returnTrap_loopAt _ hl4).trans (savedEntry_saveLoops hl4 hlen hcount)

/-- Settles O24: `tret` reads back the words that the entry saved, which hold every open loop entry. -/
theorem returnFromTrap : Obligations.ReturnFromTrap := ⟨tretWord, trapThenReturnRestores⟩

end Sys2Proof.Machine
end

section
/-! O28: `wfe`, and what a waiting command leaves (R98, R113, R136). -/
namespace Sys2Proof.Machine

/-! ## Buffered stores and the region that holds them -/

theorem writeKeys_setRegion (s : State) (r : Nat) (v : Region) (ks bs : List Nat) :
    (s.setRegion r v).writeKeys ks bs = (s.writeKeys ks bs).setRegion r v := by
  induction ks generalizing s bs with
  | nil => rfl
  | cons k ks ih =>
    cases bs with
    | nil => rfl
    | cons b bs => exact ih (s.writeByte k b) bs

/-- A store does not look at the regions. -/
theorem store_setRegion (s : State) (r : Nat) (v : Region) (ks bs : List Nat) :
    (s.setRegion r v).store ks bs = (s.store ks bs).setRegion r v := by
  simp only [State.store, writeKeys_setRegion]
  rfl

theorem storeAll_setRegion (l : List BufStore) (s : State) (r : Nat) (v : Region) :
    (s.setRegion r v).storeAll l = (s.storeAll l).setRegion r v := by
  induction l generalizing s with
  | nil => rfl
  | cons b l ih => simp only [State.storeAll, store_setRegion, ih]

/-- Where no home is held, the memory after draining is that after performing every buffered store (R98). -/
theorem drain_mem_of_drains {s : State} {r : Nat} (h : s.drains r = true) :
    (s.drain r).mem = (s.storeAll (s.region r).stores).mem := by
  simp only [State.drain, going_of_drains h, storeAll_setRegion, setRegion_mem]

theorem wait_getX (s : State) (r n : Nat) : (s.wait r).getX r n = s.getX r n := by
  simp only [State.getX, wait_region_same, Region.getX]

theorem drain_getX (s : State) (r n : Nat) : (s.drain r).getX r n = s.getX r n := by
  simp only [State.getX, drain_region_same, Region.getX]

/-! ## `wfe` (R136) -/

theorem exec_wfe {s d : State} (hd : Drained s d) : exec .wfe s = finish d s.turn
    (await ((d.region s.turn).events != 0) >>= fun _ =>
      .ok (d.setRegion s.turn { d.region s.turn with events := 0 })) := by
  change execWfe s = _
  simp only [execWfe, command_of_drained hd, drained_turn hd]

theorem waitForEvent : WaitForEvent := by
  rintro s d _ hd rfl
  refine ⟨fun hset => ?goes, fun hclear => ?waits, fun u hheld => ?held⟩
  case goes => rw [exec_wfe hd, bne_iff_ne.mpr hset, await_true, res_ok_bind, finish_ok]
  case waits =>
    rw [exec_wfe hd, hclear]
    rfl
  case held =>
    change execWfe u = _
    exact command_waits hheld _

theorem waitingTakesNoEffect : WaitingTakesNoEffect := by
  rintro s _ ⟨hready, rfl⟩
  refine ⟨rfl, drain_cores s s.turn, drain_mem_of_drains hready, ?pc, fun n => ?register⟩
  case pc => rw [wait_region_same, drain_region_same]
  case register => rw [wait_getX, drain_getX]

/-- Settles O28: `wfe` is its one test of the events register, and a wait writes the waiting mark alone. -/
theorem waitingAndEvents : Obligations.WaitingAndEvents := ⟨waitForEvent, waitingTakesNoEffect⟩

end Sys2Proof.Machine
end

section
/-! O30: blocks, frames and the launch's end (R22, R121 to R125). -/
namespace Sys2Proof.Machine

/-! ## What completing a word leaves of the registers -/

@[simp] theorem complete_getX (s : State) (r n : Nat) : (s.complete r).getX r n = s.getX r n := by
  rw [State.getX, complete_region_same]
  rfl

/-! ## Blocks (R121, R122) -/

section
variable {s d : State} (hd : Drained s d)
include hd

section
variable {a ctx : Nat} {cs : List Nat} (hm : maskOperand d s.turn a = .ok cs) (hx : ctxOperand d cs ctx = .ok ())
include hm hx

theorem exec_bload (b : Nat) : exec (.bload a b ctx) s = finish d s.turn
    (need (cs.all (fun c => (d.ctx c ctx).block.isNone)) .illegal >>= fun _ =>
      readImage d s.turn (d.getX s.turn b).toNat (cs.headD 0) ctx >>= fun ws =>
        loadAll (blockOf (d.getX s.turn b) ws) ctx cs d) := by
  change execBload a b ctx s = _
  simp only [execBload, command_of_drained hd, drained_turn hd, hm, hx, res_ok_bind]

theorem exec_bload_loads {b : Nat} {ws : List Nat} {u : State} (hfree : ∀ c ∈ cs, (d.ctx c ctx).block = none)
    (hws : readImage d s.turn (d.getX s.turn b).toNat (cs.headD 0) ctx = .ok ws)
    (hu : loadAll (blockOf (d.getX s.turn b) ws) ctx cs d = .ok u) :
    exec (.bload a b ctx) s = .next (u.complete s.turn) := by
  have hneed : cs.all (fun c => (d.ctx c ctx).block.isNone) = true := by simpa using hfree
  rw [exec_bload hd hm hx, hneed, need_true, res_ok_bind, hws, res_ok_bind, hu, finish_ok]

/-- A context that has a block takes no second one. -/
theorem exec_bload_taken (b : Nat) {c : Nat} (hc : c ∈ cs) (hb : (d.ctx c ctx).block ≠ none) :
    TrapsWith (exec (.bload a b ctx) s) d s.turn (Trap.word .illegal) := by
  have hneed : cs.all (fun c => (d.ctx c ctx).block.isNone) = false := by simpa using ⟨c, hc, hb⟩
  rw [exec_bload hd hm hx, hneed, need_false, res_error_bind]
  exact trapsWith_finish _ _ _

theorem exec_bdrop (hnone : ∀ c ∈ cs, (d.core c).hasFrames ctx = false) :
    exec (.bdrop a ctx) s = .next ((cs.foldl (dropOn ctx) d).complete s.turn) := by
  have hready : cs.all (fun c => !(d.core c).hasFrames ctx) = true := by simpa using hnone
  change execBdrop a ctx s = _
  simp only [execBdrop, command_of_drained hd, drained_turn hd, hm, hx, hready, res_ok_bind, await_true, finish_ok]

end

/-! ## The launch's end (R22, R123) -/

theorem exec_lwait : exec .lwait s = if d.liveFrames s.turn then
      .next ((d.setRegion s.turn { d.region s.turn with atLwait := true }).wait s.turn)
    else .next (d.endLaunch s.turn 0x00 0).tick := by
  obtain ⟨hready, rfl⟩ := hd
  change execLwait s = _
  simp only [execLwait, hready]
  rfl

/-! ## Frames (R124, R125) -/

section
variable {core c : Nat} (hc : coreOperand d s.turn core = .ok c)
include hc

/-- `fopen` writes the entry of the lowest free number, and the spill map where the frame's bank is spilled. -/
theorem exec_fopen_opens {a b depth ctx n xf bank : Nat} {blk : Block} {route : Option Nat} {regs : Sparse Nat}
    {spill : Option (Nat × Spill)} (hx : ctxOperand d [c] ctx = .ok ()) (hb : (d.ctx c ctx).block = some blk)
    (hrec : openRecord d s.turn (d.getX s.turn b).toNat = .ok (route, xf, regs)) (hn : (d.core c).freeFrame = some n)
    (hbank : (d.core c).placeBank ctx = some (bank, spill)) :
    ∃ sp, exec (.fopen a b core depth ctx) s = .next (((d.setCore c { d.core c with
      frames := sput (d.core c).frames n (Frame.fresh ctx depth bank blk route xf regs d.ticks.toNat), spill := sp }).setX
        s.turn a (BitVec.ofNat 64 n)).complete s.turn) := by
  change ∃ sp, execFopen a b core depth ctx s = _
  simp only [execFopen, command_of_drained hd, drained_turn hd, hc, hx, hb, hrec, hn, hbank, res_ok_bind, finish_ok]
  exact ⟨_, rfl⟩

theorem exec_fopen_no_block (a b depth : Nat) {ctx : Nat} (hx : ctxOperand d [c] ctx = .ok ())
    (hb : (d.ctx c ctx).block = none) :
    TrapsWith (exec (.fopen a b core depth ctx) s) d s.turn (Trap.word .illegal) := by
  change TrapsWith (execFopen a b core depth ctx s) d s.turn _
  simp only [execFopen, command_of_drained hd, drained_turn hd, hc, hx, hb, res_ok_bind]
  exact trapsWith_finish _ _ _

theorem exec_fopen_no_number (a depth : Nat) {b ctx : Nat} {blk : Block} {x : Option Nat × Nat × Sparse Nat}
    (hx : ctxOperand d [c] ctx = .ok ()) (hb : (d.ctx c ctx).block = some blk)
    (hrec : openRecord d s.turn (d.getX s.turn b).toNat = .ok x) (hn : (d.core c).freeFrame = none) :
    exec (.fopen a b core depth ctx) s = .next (d.wait s.turn) := by
  change execFopen a b core depth ctx s = _
  simp only [execFopen, command_of_drained hd, drained_turn hd, hc, hx, hb, hrec, hn, res_ok_bind, finish_wait]

theorem exec_fwait (a : Nat) : exec (.fwait a core) s = finish d s.turn
    (await ((d.core c).frame ((d.getX s.turn a).toNat % 256)).isNone >>= fun _ => .ok d) := by
  have hlow : bits (d.getX s.turn a).toNat 7 0 = (d.getX s.turn a).toNat % 256 := by simp [bits]
  change execFwait a core s = _
  simp only [execFwait, command_of_drained hd, drained_turn hd, hc, hlow, res_ok_bind]

end

end

theorem blockCommands : BlockCommands := by
  intro s d a b ctx cs hd
  refine ⟨fun ws u hm hx hfree => exec_bload_loads hd hm hx hfree, fun c hm hx => exec_bload_taken hd hm hx b,
    fun hm hx => exec_bdrop hd hm hx, fun hdone => ?ends, fun hlive => ?waits⟩
  case ends => rw [exec_lwait hd, if_neg (by simp [hdone])]
  case waits => exact ⟨_, by rw [exec_lwait hd, if_pos hlive], by simp, by simp⟩

theorem frameCommands : FrameCommands := by
  intro s d a b core depth ctx c hd hc
  refine ⟨fun blk route xf regs n bank spill hx hb hrec hn hbank => ?opens, exec_fopen_no_block hd hc a b depth,
    fun blk x => exec_fopen_no_number hd hc a depth, fun hgone => ?completes, fun hlive => ?waits⟩
  case opens =>
    obtain ⟨sp, hexec⟩ := exec_fopen_opens hd hc (a := a) (depth := depth) hx hb hrec hn hbank
    refine ⟨_, hexec, fun ha => ?value, ?entry, fun m hne => ?others, rfl, fun q hq => ?registers, fun q hq => ?cores⟩
    case value => rw [complete_getX, setX_getX, if_pos ⟨rfl, ha⟩]
    case entry => simp [Core.frame]
    case others => simp [Core.frame, sfind_sput_ne, hne]
    case registers =>
      rw [complete_getX, setX_getX, if_neg (fun h => hq h.1)]
      rfl
    case cores => rw [complete_core, setX_core, setCore_core_ne _ _ hq]
  case completes =>
    rw [exec_fwait hd hc, hgone]
    rfl
  case waits =>
    rw [exec_fwait hd hc, Option.isNone_eq_false_iff.mpr (Option.isSome_iff_ne_none.mpr hlive)]
    rfl

/-- Settles O30: each command's checks pass in order, and `fopen` writes one entry of one core. -/
theorem blockAndFrameCommands : Obligations.BlockAndFrameCommands := ⟨blockCommands, frameCommands⟩

end Sys2Proof.Machine
end

section
/-! O31: tokens of the control core (R126, R127, R290, R305). -/
namespace Sys2Proof.Machine

/-! ## The packet of a `tsend` (R126) -/

/-- A header that raises no fault names a payload pointer only beside a payload. -/
theorem tsendFault_none_pointer {priv : Bool} {t : Token} {p : Nat} (h : tsendFault priv t p = none) (hlen : t.len = 0) :
    p = 0 := by
  refine Decidable.byContradiction fun hp => ?_
  simp only [tsendFault, hlen, hp, ne_eq, not_false_eq_true, and_self, if_true] at h
  split at h <;> cases h

theorem lenBytes_eq_zero {n : Nat} : lenBytes n = 0 ↔ n = 0 := by
  match n with
  | 0 | 1 | 2 | n + 3 => simp [lenBytes]

section
variable {m : State} {r a b p : Nat} {u : Token}
  (hu : u = { tokenOf (2 ^ 64 * (m.getX r a).toNat + (m.getX r b).toNat) [] with mark := 0 })
include hu

theorem tsendPacket_fault {f : FaultCode} (hf : tsendFault ((m.region r).mode == .privileged) u p = some f) :
    tsendPacket m r a b p = .error (.trap (Trap.word f)) := by
  simp only [tsendPacket, ← hu, hf]
  rfl

/-- A token within the package with no payload. -/
theorem tsendPacket_plain (hf : tsendFault ((m.region r).mode == .privileged) u p = none) (hlen : u.len = 0)
    (hpkg : bit (m.region r).tdest.toNat 6 = false) : tsendPacket m r a b p = .ok (packetOf (mailbox r) u) := by
  have hn : lenBytes u.len = 0 := lenBytes_eq_zero.mpr hlen
  subst hu
  simp only at hf hn
  simp only [tsendPacket, hf, hn, hpkg, beq_self_eq_true, Bool.true_or, need_true, res_ok_bind, if_true, Bool.not_false,
    List.take_zero]
  rfl

/-- A token within the package with a payload read from memory. -/
theorem tsendPacket_payload {v : Nat} (hf : tsendFault ((m.region r).mode == .privileged) u p = none)
    (hpos : lenBytes u.len ≠ 0) (halign : (m.getX r p).toNat % 16 = 0)
    (hv : loadBytes m r (m.getX r p).toNat (lenBytes u.len) = .ok v) (hpkg : bit (m.region r).tdest.toNat 6 = false) :
    tsendPacket m r a b p = .ok (packetOf (mailbox r)
      { u with payload := (toBytes u.inl v ++ List.replicate (lenBytes u.len) 0).take (lenBytes u.len) }) := by
  subst hu
  simp only at hf hpos hv
  simp only [tsendPacket, hf, halign, hv, hpkg, beq_self_eq_true, Bool.or_true, need_true, res_ok_bind,
    if_neg hpos, Bool.not_false, if_true]

end

/-! ## `tsend` (R126, R290) -/

section
variable {s d : State} (hd : Drained s d)
include hd

theorem exec_tsend_stops {a b p : Nat} {e : Stop} (he : tsendPacket d s.turn a b p = .error e) :
    exec (.tsend a b p) s = finish d s.turn (.error e) := by
  obtain ⟨hready, rfl⟩ := hd
  change execTsend a b p s = _
  simp only [execTsend, hready, if_true, he]

section
variable {a b p : Nat} {q : Packet} (hq : tsendPacket d s.turn a b p = .ok q)
include hq

theorem exec_tsend_sends (hcan : d.canSend q.src q.dst = true) : exec (.tsend a b p) s =
    .next (((if p = 0 then d else d.askAccess s.turn (d.getX s.turn p).toNat (lenBytes q.tok.len) .read .load).sendSourced
      (d.region s.turn).sendSince q).complete s.turn) := by
  obtain ⟨hready, rfl⟩ := hd
  change execTsend a b p s = _
  simp only [execTsend, hready, if_true, hq, hcan, finish_ok]

/-- A pair with no room: the wait of its next packet counts from the first beat in which it stood (R290). -/
theorem exec_tsend_full (hfull : d.canSend q.src q.dst = false) : exec (.tsend a b p) s =
    .next ((d.setRegion s.turn { d.region s.turn with
      sendSince := some ((d.region s.turn).sendSince.getD d.ticks.toNat) }).wait s.turn) := by
  obtain ⟨hready, rfl⟩ := hd
  change execTsend a b p s = _
  simp only [execTsend, hready, if_true, hq, hfull, Bool.false_eq_true, if_false, finish_wait]

end

/-! ## `trecv` (R127) -/

theorem exec_trecv_empty (a b : Nat) (h : (d.region s.turn).msgs = []) :
    exec (.trecv a b) s = .next (d.wait s.turn) := by
  change execTrecv a b s = _
  simp only [execTrecv, command_of_drained hd, drained_turn hd, h, finish_wait]

theorem exec_trecv {m : Token} {rest : List Token} (a b : Nat) (h : (d.region s.turn).msgs = m :: rest) :
    exec (.trecv a b) s = finish d s.turn ((if m.len ≠ 0 ∧ (d.getX s.turn b).toNat ≠ 0 ∧ m.kind = .data then
        storePayload d s.turn (d.getX s.turn b).toNat (m.payload.take m.inl) else .ok d) >>= fun e =>
      .ok ((e.setRegion s.turn { e.region s.turn with msgs := rest }).setX s.turn a (messageWord m))) := by
  change execTrecv a b s = _
  simp only [execTrecv, command_of_drained hd, drained_turn hd, h]
  split <;> rfl

end

/-- Settles O31: a `tsend` is its packet, its payload's request and the test of its pair, and a `trecv` is its payload's store and
the removal of the message. -/
theorem tokenCommands : Obligations.TokenCommands := by
  rintro s d a b p _ u _ hd rfl rfl hu
  refine ⟨fun hf hlen hpkg => ?plain, fun v n e hf hn hpos hp halign hv hpkg hcan he => ?payload, fun f hf => ?fault,
    fun m rest hm hno => ?take, fun m rest e hm hlen haddr hkind hstore => ?stores, exec_trecv_empty hd a b⟩
  case plain =>
    have hq := tsendPacket_plain hu hf hlen hpkg
    obtain rfl := tsendFault_none_pointer hf hlen
    refine ⟨fun hcan => ?sends, fun hfull => exec_tsend_full hd hq hfull⟩
    rw [exec_tsend_sends hd hq hcan, if_pos rfl]
  case payload =>
    subst he hn
    rw [exec_tsend_sends hd (tsendPacket_payload hu hf hpos halign hv hpkg) hcan, if_neg hp]
    rfl
  case fault =>
    rw [exec_tsend_stops hd (tsendPacket_fault hu hf)]
    exact trapsWith_finish _ _ _
  case take =>
    have hcond : ¬ (m.len ≠ 0 ∧ (d.getX s.turn b).toNat ≠ 0 ∧ m.kind = .data) := by
      rintro ⟨hlen, haddr, hkind⟩
      rcases hno with h | h | h
      · exact hlen h
      · exact haddr (by simp [h])
      · exact h hkind
    rw [exec_trecv hd a b hm, if_neg hcond, res_ok_bind, finish_ok]
  case stores =>
    have haddr' : (d.getX s.turn b).toNat ≠ 0 := fun h => haddr (BitVec.eq_of_toNat_eq h)
    rw [exec_trecv hd a b hm, if_pos ⟨hlen, haddr', hkind⟩, hstore, res_ok_bind, finish_ok]

end Sys2Proof.Machine
end

section
/-! O32: tiles and rings of the control core (R128 to R131, R209, R219). The ring commands are as stated; of the tile commands one
clause fails, at contexts above 3, and the others are proved here one by one. -/
namespace Sys2Proof.Machine

/-! ## `talloc` (R128, R219) -/

theorem wait_key_age (w : Wait) (n : Nat) : ({ w with age := n } : Wait).key = w.key := rfl

theorem mem_enterWait_self (c : Core) (w : Wait) (l : List Wait) : w ∈ c.enterWait w l := by
  induction l with
  | nil => exact List.mem_singleton_self w
  | cons v l ih =>
    rw [Core.enterWait]
    split
    · exact List.mem_cons_of_mem v ih
    · exact List.mem_cons_self

theorem takeGrant_none {k : Core} {key : Nat} :
    k.takeGrant key = none ↔ k.grants.find? (fun g => g.1 == key) = none := by
  unfold Core.takeGrant
  split <;> simp [*]

section
variable {s e : State} {c : Nat} {w : Wait} (h : s.request c w = some e)
include h

/-- A request that finds room joins the list of its core, whose pool is then touched. -/
theorem request_some : e = s.setCore c (({ s.core c with
    waits := (s.core c).enterWait { w with age := (s.core c).beat } (s.core c).waits } : Core).touch [w.pool]) := by
  simp only [State.request] at h
  split at h
  · cases h
  · exact (Option.some.inj h).symm

theorem request_takeGrant (hg : (s.core c).takeGrant w.key = none) : (e.core c).takeGrant w.key = none := by
  have hfind := takeGrant_none.mp hg
  rw [request_some h, setCore_core_same, takeGrant_none]
  exact hfind

theorem request_waits : (e.core c).waits.any (fun v => v.key == w.key) = true := by
  rw [request_some h, setCore_core_same, List.any_eq_true]
  exact ⟨_, mem_enterWait_self _ _ _, by rw [wait_key_age, beq_self_eq_true]⟩

/-- The four pools of a core are those that a beat can touch. -/
theorem request_touched (hp : w.pool < 4) : w.pool ∈ (e.core c).touched := by
  rw [request_some h, setCore_core_same]
  simp [Core.touch, hp, mem_insertNat]

end

section
variable {s d : State} (hd : Drained s d)
include hd

section
variable {a b core ctx c : Nat} {w : Wait} (hw : tallocOperands d b core ctx = .ok (c, w))
include hw

/-- A request that has been granted, or stands on the list, is not placed again. -/
theorem exec_talloc_known
    (hk : (((d.core c).takeGrant w.key).isSome || (d.core c).waits.any (fun v => v.key == w.key)) = true) :
    exec (.talloc a b core ctx) s = collectTalloc d s.turn a c w := by
  obtain ⟨hready, rfl⟩ := hd
  change execTalloc a b core ctx s = _
  simp only [execTalloc, hready, await_true, res_ok_bind, hw, hk, if_true]

theorem exec_talloc_collects {n : Nat} {k : Core} (hg : (d.core c).takeGrant w.key = some (n, k)) :
    exec (.talloc a b core ctx) s = .next (((d.setCore c k).setX s.turn a (BitVec.ofNat 64 n)).complete s.turn) := by
  rw [exec_talloc_known hd hw (by rw [hg]; rfl)]
  simp only [collectTalloc, hg, finish_ok]

section
variable (hg : (d.core c).takeGrant w.key = none)
include hg

theorem exec_talloc_waits (hin : (d.core c).waits.any (fun v => v.key == w.key) = true) :
    exec (.talloc a b core ctx) s = .next (d.wait s.turn) := by
  rw [exec_talloc_known hd hw (by rw [hin, Bool.or_true])]
  simp only [collectTalloc, hg, finish_wait]

variable (hout : (d.core c).waits.any (fun v => v.key == w.key) = false)
include hout

theorem exec_talloc_requests {e : State} (he : d.request c w = some e) :
    exec (.talloc a b core ctx) s = .next (e.wait s.turn) := by
  have hgrant := request_takeGrant he hg
  obtain ⟨hready, rfl⟩ := hd
  change execTalloc a b core ctx s = _
  simp only [execTalloc, hready, await_true, res_ok_bind, hw, hg, hout, he, Option.isSome_none, Bool.or_self,
    Bool.false_eq_true, if_false, collectTalloc, hgrant, finish_wait]

theorem exec_talloc_no_room (he : d.request c w = none) :
    exec (.talloc a b core ctx) s = .next (d.wait s.turn) := by
  obtain ⟨hready, rfl⟩ := hd
  change execTalloc a b core ctx s = _
  simp only [execTalloc, hready, await_true, res_ok_bind, hw, hg, hout, he, Option.isSome_none, Bool.or_self,
    Bool.false_eq_true, if_false, finish_wait]

end

end

/-! ## `trel` and `tstate` (R129, R130) -/

section
variable {core ctx c : Nat} (hc : coreOperand d s.turn core = .ok c)
include hc

theorem exec_tstate (a b sel : Nat) {n : Nat} (hn : n = (d.getX s.turn b).toNat % 128) :
    exec (.tstate a b core sel) s = .next ((d.setX s.turn a
      (BitVec.ofNat 64 (if sel = 0 then (d.tile c n).word0 else (d.tile c n).word1))).complete s.turn) := by
  have hlow : bits (d.getX s.turn b).toNat 6 0 = n := by simp [bits, hn]
  change execTstate a b core sel s = _
  simp only [execTstate, command_of_drained hd, drained_turn hd, hc, hlow, res_ok_bind, finish_ok]

variable (hx : ctxOperand d [c] ctx = .ok ())
include hx

section
variable {a n : Nat} (hn : n = (d.getX s.turn a).toNat % 128) (ho : (d.tile c n).owner = ctx)
include hn ho

theorem exec_trel (pub : Nat) (hs : (d.tile c n).state ≠ .empty) : exec (.trel a core pub ctx) s =
    finish d s.turn (if pub = 0 then
        need ((d.tile c n).state == .ready && (d.tile c n).readers != 0) .illegal >>= fun _ => .ok (d.releaseTile c n)
      else need ((d.tile c n).state == .filling && (d.tile c n).producer == .talloc) .illegal >>= fun _ =>
        .ok (d.commitTile c n)) := by
  have hlow : bits (d.getX s.turn a).toNat 6 0 = n := by simp [bits, hn]
  have hfull : ((d.tile c n).state != .empty) = true := bne_iff_ne.mpr hs
  have hown : ((d.tile c n).owner == ctx) = true := beq_iff_eq.mpr ho
  change execTrel a core pub ctx s = _
  simp only [execTrel, command_of_drained hd, drained_turn hd, hc, hx, hlow, hfull, hown, res_ok_bind, need_true]

theorem exec_trel_releases (hs : (d.tile c n).state = .ready) (hr : (d.tile c n).readers ≠ 0) :
    exec (.trel a core 0 ctx) s = .next ((d.releaseTile c n).complete s.turn) := by
  have hneed : ((d.tile c n).state == .ready && (d.tile c n).readers != 0) = true := by simp [hs, hr]
  rw [exec_trel hd hc hx hn ho 0 (by simp [hs]), if_pos rfl, hneed, need_true, res_ok_bind, finish_ok]

theorem exec_trel_publishes (hs : (d.tile c n).state = .filling) (hp : (d.tile c n).producer = .talloc) :
    exec (.trel a core 1 ctx) s = .next ((d.commitTile c n).complete s.turn) := by
  have hneed : ((d.tile c n).state == .filling && (d.tile c n).producer == .talloc) = true := by simp [hs, hp]
  rw [exec_trel hd hc hx hn ho 1 (by simp [hs]), if_neg Nat.one_ne_zero, hneed, need_true, res_ok_bind, finish_ok]

theorem exec_trel_draining (hs : (d.tile c n).state = .draining) :
    TrapsWith (exec (.trel a core 0 ctx) s) d s.turn (Trap.word .illegal) := by
  rw [exec_trel hd hc hx hn ho 0 (by simp [hs]), if_pos rfl, hs]
  exact trapsWith_finish _ _ _

end

/-! ## Rings (R131, R209) -/

section
variable {ring : Nat} {g : Ring} (hg : g = (d.ctx c ctx).ring ring)
include hg

theorem exec_ringinit {a : Nat} {q : Ring} (hq : ringOf (d.getX s.turn a).toNat = some q) :
    exec (.ringinit a core ring ctx) s = finish d s.turn (need (g.held == 0) .illegal >>= fun _ =>
      need (ringFloorOk (d.core c) ctx ring q) .poolFloor >>= fun _ =>
        .ok (d.modCtx c ctx (fun k => k.setRing ring q))) := by
  change execRinginit a core ring ctx s = _
  simp only [execRinginit, command_of_drained hd, drained_turn hd, hc, hx, hq, hg, res_ok_bind]

theorem exec_ringwait (a : Nat) : exec (.ringwait a core ring ctx) s = finish d s.turn
    (await (g.filled != 0 && !(d.core c).ringFires ctx ring) >>= fun _ =>
      .ok ((d.modCtx c ctx (fun k => k.setRing ring { g with kp := (g.kp + 1) % 65536 })).setX s.turn a
        (BitVec.ofNat 64 (g.tileOf g.kp)))) := by
  change execRingwait a core ring ctx s = _
  simp only [execRingwait, command_of_drained hd, drained_turn hd, hc, hx, hg, res_ok_bind]

theorem exec_ringrel : exec (.ringrel core ring ctx) s = finish d s.turn (need (g.fp != g.kp) .illegal >>= fun _ =>
    need ((d.tile c (g.tileOf g.fp)).state == .ready && (d.tile c (g.tileOf g.fp)).readers != 0) .illegal >>= fun _ =>
      .ok (d.releaseTile c (g.tileOf g.fp))) := by
  change execRingrel core ring ctx s = _
  simp only [execRingrel, command_of_drained hd, drained_turn hd, hc, hx, hg, res_ok_bind]

end

end

end

theorem ringCommands : RingCommands := by
  intro s d a core ring ctx c g hd hc hx hg
  refine ⟨fun q hq hheld hfloor => ?inits, fun q hq hheld => ?held, fun hfilled hfires => ?takes, fun h => ?waits,
    fun hne hready hreaders => ?releases, fun h => ?refused⟩
  case inits =>
    rw [exec_ringinit hd hc hx hg hq, hheld, beq_self_eq_true, need_true, res_ok_bind, hfloor, need_true, res_ok_bind, finish_ok]
  case held =>
    rw [exec_ringinit hd hc hx hg hq, beq_false_of_ne hheld, need_false, res_error_bind]
    exact trapsWith_finish _ _ _
  case takes =>
    have hgo : (g.filled != 0 && !(d.core c).ringFires ctx ring) = true := by simp [hfilled, hfires]
    rw [exec_ringwait hd hc hx hg, hgo, await_true, res_ok_bind, finish_ok]
  case waits =>
    have hstay : (g.filled != 0 && !(d.core c).ringFires ctx ring) = false := by
      rcases h with h | h <;> simp [h]
    rw [exec_ringwait hd hc hx hg, hstay, await_false, res_error_bind, finish_wait]
  case releases =>
    have hneed : ((d.tile c (g.tileOf g.fp)).state == .ready && (d.tile c (g.tileOf g.fp)).readers != 0) = true := by
      simp [hready, hreaders]
    rw [exec_ringrel hd hc hx hg, bne_iff_ne.mpr hne, need_true, res_ok_bind, hneed, need_true, res_ok_bind, finish_ok]
  case refused =>
    rw [exec_ringrel hd hc hx hg]
    rcases h with h | h
    · rw [h, bne_self_eq_false, need_false, res_error_bind]
      exact trapsWith_finish _ _ _
    · rw [h]
      cases g.fp != g.kp <;> exact trapsWith_finish _ _ _

/-- A checked request names the pool of its context. -/
theorem tallocOperands_pool {d : State} {b core ctx c : Nat} {w : Wait} (h : tallocOperands d b core ctx = .ok (c, w)) :
    w.pool = ctx := by
  obtain ⟨_, -, h⟩ := res_bind_ok.mp h
  obtain ⟨_, -, h⟩ := res_bind_ok.mp h
  split at h
  case h_1 v hv =>
    obtain ⟨_, -, h⟩ := res_bind_ok.mp h
    obtain ⟨-, rfl⟩ := Prod.mk.inj (Except.ok.inj h)
    simp only [tallocWait] at hv
    split at hv
    · cases hv
    · obtain rfl := Option.some.inj hv
      rfl
  case h_2 => cases h

/-- The clause of O32 that fails, for the contexts that a word can name: the request joins the list, and its pool is served at the
end of the beat. -/
theorem talloc_request_joins {s d e : State} (hd : Drained s d) {a b core ctx c : Nat} {w : Wait} (hctx : ctx < 4)
    (hw : tallocOperands d b core ctx = .ok (c, w)) (hg : (d.core c).takeGrant w.key = none)
    (hout : (d.core c).waits.any (fun v => v.key == w.key) = false) (he : d.request c w = some e) :
    exec (.talloc a b core ctx) s = .next (e.wait s.turn) ∧ (e.core c).waits.any (fun v => v.key == w.key) = true ∧
      w.pool ∈ (e.core c).touched :=
  ⟨exec_talloc_requests hd hw hg hout he, request_waits he, request_touched he (tallocOperands_pool hw ▸ hctx)⟩

/-! ## A request for a context that no word names -/

/-- A launch whose mask is core 0 runs; core 0 lists five pools, and x1 asks for one granule with one reader. -/
def fivePools : State :=
  { State.reset with
    regions := [(0, { Region.reset with launch := some { words := [BitVec.ofNat 64 (2 ^ 32)] }, x := [(1, 0x1000)] })]
    cores := [(0, { Core.reset with pools := List.replicate 5 (0, 64) })] }

/-- The request of context 4. -/
def fifthRequest : Wait :=
  { pool := 4, rank := 0, size := 1, readers := 1, aon := false, owner := 4, who := .talloc, age := 0, frame := 0 }

/-- The pools that a beat touches are the four of R219, so the request joins the list and touches none. -/
theorem fivePools_request : fivePools.request 0 fifthRequest = some (fivePools.setCore 0
    { Core.reset with pools := List.replicate 5 (0, 64), waits := [fifthRequest] }) := rfl

theorem fivePools_drained : Drained fivePools fivePools := ⟨rfl, rfl⟩

theorem fivePools_operands : tallocOperands fivePools 1 0 4 = .ok (0, fifthRequest) := rfl

/-- Refutes O32: the context of `talloc` is any number in the statement, where a word holds two bits of it. On a core that lists a
fifth pool, context 4 passes the checks and its request joins the list, but the beat marks the four pools of R219 alone. -/
theorem not_tileAndRingCommands : ¬ Obligations.TileAndRingCommands := by
  rintro ⟨htile, -⟩
  obtain ⟨-, hrequest, -, -⟩ := htile fivePools fivePools 0 1 0 4 0 fivePools_drained rfl
  obtain ⟨-, hout⟩ := hrequest fifthRequest fivePools_operands rfl
  obtain ⟨hplaced, -⟩ := hout rfl
  obtain ⟨-, -, hpool⟩ := hplaced _ fivePools_request
  exact absurd hpool (by decide)

end Sys2Proof.Machine
end

section
/-! O38: integer lanes are exact (R139, R162, R163); their comparisons and selections are those of the values as bit [9] has them
read (R166, R167, log 91). -/
namespace Sys2Proof.Machine

/-! ## Lane by lane -/

/-- A lane of a walk through output lanes is the step of that lane, at the LFSR state the walk has there. -/
theorem nth_eachLane (f : Nat → Nat → Lane × Nat × Nat) {n i : Nat} (hi : i < n) (lo st : Nat) :
    ∃ st', nth .absent (eachLane f (range lo n) st).1 i = (f (lo + i) st').1 := by
  induction n generalizing lo st i with
  | zero => cases hi
  | succ n ih =>
    cases i with
    | zero => exact ⟨st, rfl⟩
    | succ i =>
      obtain ⟨st', h⟩ := ih (Nat.lt_of_succ_lt_succ hi) (lo + 1) (f lo st).2.2
      exact ⟨st', by rw [Nat.add_right_comm] at h; exact h⟩

/-- With every side present and no predicate, an output lane of a pointwise word is the word's own step of it. -/
theorem laneInt_pointwise {x : FArg} {fmt j : Nat} {f : Nat → Nat → Lane × Nat × Nat} {r : Int} (hj : j < lanesOf fmt)
    (hp : x.p = none) (ha : laneAt x.a j ≠ some .absent) (hb : laneAt x.pb j ≠ some .absent)
    (hc : laneAt x.c j ≠ some .absent) (hf : ∀ st, (intOf (f j st).1).1 = r) : laneInt (pointwise x fmt f) j = r := by
  have hstep : ∃ st, nth .absent (pointwise x fmt f).lanes j = (f j st).1 := by
    refine (nth_eachLane _ hj 0 x.st).imp fun st h => h.trans ?_
    simp [ha, hb, hc, FArg.gate, hp]
  obtain ⟨st, hst⟩ := hstep
  rw [laneInt, hst, hf]

/-! ## The value of an integer lane that a word makes -/

/-- A lane whose rail cannot extend to its value still stands for it (Table 7.2). -/
@[simp] theorem intOf_mkInt (n : Nat) (v hi : Int) : (intOf (mkInt n v hi)).1 = v := by
  unfold mkInt
  split
  · rfl
  · split <;> rfl

@[simp] theorem intOf_intLane (n : Nat) (v : Int) (dirs : List Bool) : (intOf (intLane n v dirs)).1 = v := by
  cases dirs with
  | nil => exact intOf_mkInt n v _
  | cons d ds => rfl

/-- An exact zero factor gives the product 0 without being multiplied, which is the product. -/
@[simp] theorem intProd_value (a b : Int × Option Bool) : (intProd a b).1 = a.1 * b.1 := by
  unfold intProd
  split
  case isTrue h =>
    have hz : a.1 = 0 ∨ b.1 = 0 := by
      simp only [Bool.or_eq_true, Bool.and_eq_true, beq_iff_eq] at h
      exact h.imp And.right And.right
    exact (Int.mul_eq_zero.mpr hz).symm
  case isFalse => split <;> rfl

/-- The value of a signed term of a sum. -/
def signedVal (o : (Int × Option Bool) × Bool) : Int := if o.2 then -o.1.1 else o.1.1

theorem foldl_signed (os : List ((Int × Option Bool) × Bool)) (v : Int) :
    os.foldl (fun v o => if o.2 then v - o.1.1 else v + o.1.1) v = v + (os.map signedVal).sum := by
  induction os generalizing v with
  | nil => simp
  | cons o os ih =>
    rw [List.foldl_cons, ih, List.map_cons, List.sum_cons, ← Int.add_assoc]
    cases h : o.2 <;> simp [signedVal, h, Int.sub_eq_add_neg]

section
variable {fmt : Nat} (hfmt : isInt fmt = true)
include hfmt

theorem intOf_addLanes (ts : List (Lane × Bool)) :
    (intOf (addLanes fmt false ts).1).1 = (ts.map (fun t => signedVal (intOf t.1, t.2))).sum := by
  simp [addLanes, hfmt, foldl_signed, Function.comp_def]

theorem intOf_addLanes_absolute (ts : List (Lane × Bool)) :
    (intOf (addLanes fmt true ts).1).1 = (ts.map (fun t => signedVal (intOf t.1, t.2))).sum.natAbs := by
  simp [addLanes, hfmt, foldl_signed, Function.comp_def]

theorem intOf_mulLanes_none (a b : Lane) : (intOf (mulLanes fmt a b false none).1).1 = (intOf a).1 * (intOf b).1 := by
  simp [mulLanes, hfmt]

theorem intOf_mulLanes_some (a b c : Lane) (negProd negAdd : Bool) :
    (intOf (mulLanes fmt a b negProd (some (c, negAdd))).1).1 =
      signedVal (((intOf a).1 * (intOf b).1, none), negProd) + signedVal (intOf c, negAdd) := by
  simp only [mulLanes, hfmt, if_true, intOf_intLane, foldl_signed]
  simp [signedVal]

end

/-! ## The order of integer lanes -/

/-- A lane of an integer train that stands for a value, within its rail or beyond it. -/
inductive StandsFor : Lane → Int → Prop
  | int (v hi : Int) : StandsFor (.int v hi) v
  | beyond (up : Bool) (v : Int) : StandsFor (.beyond up v) v

theorem standsFor_mkInt (n : Nat) (v hi : Int) : StandsFor (mkInt n v hi) v := by
  unfold mkInt
  split
  · exact .beyond true v
  · split
    · exact .beyond false v
    · exact .int v hi

/-- A pattern of `n` bits is its value modulo 2^n. -/
theorem wrapInt_value (n : Nat) (v : Int) : (wrapInt n v : Int) = v % 2 ^ n :=
  Int.toNat_of_nonneg (Int.emod_nonneg v (Int.pow_ne_zero (by decide)))

/-- A lane as a word reads it stands for the value as the word reads it (R62, log 91). -/
theorem standsFor_readLane {fmt : Nat} (hfmt : isInt fmt = true) (uns : Bool) (v hi : Int) :
    StandsFor (readLane fmt uns (.int v hi)) (readInt fmt uns v) := by
  by_cases h : uns = true ∧ v < 0
  · have hread : readLane fmt uns (.int v hi) = freshInt (digits fmt) (wrapInt (laneBits fmt) v) := by
      simp [readLane, hfmt, h]
    rw [hread, readInt, if_pos h, ← wrapInt_value]
    exact standsFor_mkInt _ _ _
  · have hread : readLane fmt uns (.int v hi) = .int v hi := by
      simp only [readLane, hfmt, Bool.true_and, Bool.and_eq_true, decide_eq_true_eq, if_neg h]
    rw [hread, readInt, if_neg h]
    exact .int v hi

/-- The sign of a difference is negative where the first is the smaller. -/
theorem sign_sub_neg_iff {p q : Int} : (p - q).sign < 0 ↔ p < q :=
  Int.sign_neg_iff.trans (by omega)

theorem cmp_ofInt (p q : Int) : Dy.cmp (Dy.ofInt p) (Dy.ofInt q) = (p - q).sign := by
  simp [Dy.cmp, Dy.sub, Dy.add, Dy.neg, Dy.at, Dy.ofInt, Int.sub_eq_add_neg]

theorem intOf_predLane (b : Bool) : (intOf (predLane b)).1 = if b then 1 else 0 := rfl

section
variable {a b : Lane} {p q : Int} (ha : StandsFor a p) (hb : StandsFor b q)

include ha in
theorem StandsFor.value : (intOf a).1 = p := by cases ha <;> rfl

include ha in
theorem StandsFor.kind (n : Nat) : (termOf n a).k = .fin := by cases ha <;> rfl

include ha in
theorem StandsFor.term (n : Nat) : (termOf n a).v = Dy.ofInt p := by cases ha <;> rfl

include ha in
theorem StandsFor.key (n : Nat) : (termOf n a).key = Dy.ofInt p := by cases ha <;> rfl

include ha hb

/-- No integer lane is a NaN, so two of them are ordered, and by their values. -/
theorem laneOrder_of_standsFor (fmt : Nat) : laneOrder fmt a b = some (p - q).sign := by
  simp [laneOrder, Term.isNan, ha.kind, hb.kind, ha.key, hb.key, cmp_ofInt]

/-- Two integer zeros never differ in sign, so the order of signed zeros has no part in a selection of integers (R167). -/
theorem before_of_standsFor (fmt : Nat) : (pickOf fmt a).before (pickOf fmt b) = decide (p < q) := by
  have hsign : (termOf (digits fmt) a).isZero = true → (termOf (digits fmt) a).sign = false := by
    simp +contextual [Term.isZero, Term.sign, Dy.isZero, ha.kind, ha.term, Dy.ofInt]
  simp only [Pick.before, pickOf, ha.key, hb.key, cmp_ofInt, sign_sub_neg_iff]
  cases hz : (termOf (digits fmt) a).isZero with
  | false => simp
  | true => simp [hsign hz]

end

/-- The lane of a selection of integers has the value of the operand chosen. -/
theorem intOf_selLanes {fmt : Nat} (hfmt : isInt fmt = true) (sel : Pick) (hsel : Dy) (all : List Pick) :
    (intOf (selLanes fmt sel hsel all)).1 = (intOf sel.lane).1 := by
  simp only [selLanes, hfmt, if_true]
  split
  · simp [intOf, *]
  · exact intOf_mkInt _ _ _

section
variable {fmt : Nat} (hfmt : isInt fmt = true) {a b : Lane} {p q : Int} (ha : StandsFor a p) (hb : StandsFor b q)
include hfmt ha hb

theorem intOf_minMax_least : (intOf (minMax fmt true a b)).1 = min p q := by
  have hsel : (intOf (minMax fmt true a b)).1 = (intOf (pickMin (pickOf fmt a) (pickOf fmt b)).lane).1 :=
    intOf_selLanes hfmt _ _ _
  rw [hsel, pickMin, before_of_standsFor hb ha]
  by_cases h : q < p
  · simp [h, pickOf, hb.value, Int.min_eq_right (Int.le_of_lt h)]
  · simp [h, pickOf, ha.value, Int.min_eq_left (Int.not_lt.mp h)]

theorem intOf_minMax_greatest : (intOf (minMax fmt false a b)).1 = max p q := by
  have hsel : (intOf (minMax fmt false a b)).1 = (intOf (pickMax (pickOf fmt a) (pickOf fmt b)).lane).1 :=
    intOf_selLanes hfmt _ _ _
  rw [hsel, pickMax, before_of_standsFor ha hb]
  by_cases h : p < q
  · simp [h, pickOf, hb.value, Int.max_eq_right (Int.le_of_lt h)]
  · simp [h, pickOf, ha.value, Int.max_eq_left (Int.not_lt.mp h)]

end

/-! ## The words on a present lane -/

section
variable {x : FArg} {j : Nat} {u hu v hv z hz : Int} (hfmt : isInt x.fmt = true) (hp : x.p = none)
  (ha : laneAt x.a j = some (.int u hu)) (hb : laneAt x.pb j = some (.int v hv)) (hc : laneAt x.c j = some (.int z hz))

include ha in
theorem intOf_la : intOf (x.la j) = (u, none) := by simp [FArg.la, ha, intOf]

include hb in
theorem intOf_lb : intOf (x.lb j) = (v, none) := by simp [FArg.lb, hb, intOf]

include hc in
theorem intOf_lc : intOf (x.lc j) = (z, none) := by simp [FArg.lc, hc, intOf]

include ha hfmt in
theorem standsFor_read_la : StandsFor (x.read (x.la j)) (readInt x.fmt x.w.uns u) := by
  simpa [FArg.read, FArg.la, ha] using standsFor_readLane hfmt x.w.uns u hu

include hb hfmt in
theorem standsFor_read_lb : StandsFor (x.read (x.lb j)) (readInt x.fmt x.w.uns v) := by
  simpa [FArg.read, FArg.lb, hb] using standsFor_readLane hfmt x.w.uns v hv

include hp ha hb hc in
/-- The output lane of a pointwise word on three present integer lanes. -/
theorem laneInt_pointwise_int {fmt : Nat} {f : Nat → Nat → Lane × Nat × Nat} {r : Int} (hj : j < lanesOf fmt)
    (hf : ∀ st, (intOf (f j st).1).1 = r) : laneInt (pointwise x fmt f) j = r :=
  laneInt_pointwise hj hp (by simp [ha]) (by simp [hb]) (by simp [hc]) hf

include hfmt hp ha hb hc

/-- Sums and differences (Table 8.2): the signed sum of the operands, or its magnitude. -/
theorem laneInt_addSub (hj : j < lanesOf x.fmt) :
    laneInt (addSub 0 x) j = u + v ∧ laneInt (addSub 1 x) j = u - v ∧ laneInt (addSub 2 x) j = -u ∧
    laneInt (addSub 3 x) j = u.natAbs ∧ laneInt (addSub 4 x) j = (u - v).natAbs ∧ laneInt (addSub 5 x) j = u + v + z := by
  have ofStep {f r} := laneInt_pointwise_int (f := f) (r := r) hp ha hb hc hj
  have hla := intOf_la ha
  have hlb := intOf_lb hb
  have hlc := intOf_lc hc
  refine ⟨?add, ?sub, ?neg, ?abs, ?absdiff, ?addc⟩
  case add => exact ofStep fun _ => (intOf_addLanes hfmt _).trans (by simp [signedVal, hla, hlb])
  case sub => exact ofStep fun _ => (intOf_addLanes hfmt _).trans (by simp [signedVal, hla, hlb, Int.sub_eq_add_neg])
  case neg => exact ofStep fun _ => (intOf_addLanes hfmt _).trans (by simp [signedVal, hla])
  case abs => exact ofStep fun _ => (intOf_addLanes_absolute hfmt _).trans (by simp [signedVal, hla])
  case absdiff =>
    exact ofStep fun _ => (intOf_addLanes_absolute hfmt _).trans (by simp [signedVal, hla, hlb, Int.sub_eq_add_neg])
  case addc => exact ofStep fun _ => (intOf_addLanes hfmt _).trans (by simp [signedVal, hla, hlb, hlc, Int.add_assoc])

/-- Products, with an addend or without (Table 8.3). -/
theorem laneInt_mulSub (hj : j < lanesOf x.fmt) :
    laneInt (mulSub 0 x) j = u * v ∧ laneInt (mulSub 1 x) j = u * v + z ∧ laneInt (mulSub 2 x) j = u * v - z ∧
    laneInt (mulSub 3 x) j = z - u * v := by
  have ofStep {f r} := laneInt_pointwise_int (f := f) (r := r) hp ha hb hc hj
  have hla := intOf_la ha
  have hlb := intOf_lb hb
  have hlc := intOf_lc hc
  refine ⟨?mul, ?fma, ?fms, ?fnma⟩
  case mul => exact ofStep fun _ => (intOf_mulLanes_none hfmt _ _).trans (by simp [hla, hlb])
  case fma => exact ofStep fun _ => (intOf_mulLanes_some hfmt _ _ _ _ _).trans (by simp [signedVal, hla, hlb, hlc])
  case fms =>
    exact ofStep fun _ => (intOf_mulLanes_some hfmt _ _ _ _ _).trans (by simp [signedVal, hla, hlb, hlc, Int.sub_eq_add_neg])
  case fnma =>
    have hdiff : -(u * v) + z = z - u * v := by omega
    exact ofStep fun _ => (intOf_mulLanes_some hfmt _ _ _ _ _).trans (by simpa [signedVal, hla, hlb, hlc] using hdiff)

/-- A comparison's lane is 1 where its relation holds of the values as read, and 0 elsewhere (R156, R166). -/
theorem laneInt_cmpSub {p q : Int} (hpu : p = readInt x.fmt x.w.uns u) (hqv : q = readInt x.fmt x.w.uns v)
    (hj : j < lanesOf (intTag (laneBits x.fmt))) :
    laneInt (cmpSub 0 x) j = (if p = q then 1 else 0) ∧ laneInt (cmpSub 1 x) j = (if p = q then 0 else 1) ∧
    laneInt (cmpSub 2 x) j = (if p < q then 1 else 0) ∧ laneInt (cmpSub 3 x) j = (if p ≤ q then 1 else 0) ∧
    laneInt (cmpSub 4 x) j = (if q < p then 1 else 0) ∧ laneInt (cmpSub 5 x) j = (if q ≤ p then 1 else 0) := by
  have ofStep {f r} := laneInt_pointwise_int (f := f) (r := r) hp ha hb hc hj
  have horder : laneOrder x.fmt (x.read (x.la j)) (x.read (x.lb j)) = some (p - q).sign :=
    hpu ▸ hqv ▸ laneOrder_of_standsFor (standsFor_read_la hfmt ha) (standsFor_read_lb hfmt hb) x.fmt
  have heq : (p - q).sign = 0 ↔ p = q := Int.sign_eq_zero_iff_zero.trans Int.sub_eq_zero
  have hgt : 0 < (p - q).sign ↔ q < p := Int.sign_pos_iff.trans Int.sub_pos
  have hle : (p - q).sign ≤ 0 ↔ p ≤ q := by rw [← Int.not_lt, hgt, Int.not_lt]
  have hge : 0 ≤ (p - q).sign ↔ q ≤ p := by rw [← Int.not_lt, sign_sub_neg_iff, Int.not_lt]
  refine ⟨?eq, ?ne, ?lt, ?le, ?gt, ?ge⟩
  case eq => exact ofStep fun _ => by simp only [horder, intOf_predLane, beq_iff_eq, heq]
  case ne => exact ofStep fun _ => by simp only [horder, intOf_predLane, bne_iff_ne, ne_eq, ite_not, heq]
  case lt => exact ofStep fun _ => by simp only [horder, intOf_predLane, decide_eq_true_eq, sign_sub_neg_iff]
  case le => exact ofStep fun _ => by simp only [horder, intOf_predLane, decide_eq_true_eq, hle]
  case gt => exact ofStep fun _ => by simp only [horder, intOf_predLane, decide_eq_true_eq, hgt]
  case ge => exact ofStep fun _ => by simp only [horder, intOf_predLane, decide_eq_true_eq, hge]

omit hfmt in
/-- Where both ports have a train, a selection is that of its two lanes. -/
theorem laneInt_minMaxSub {least : Bool} {r : Int} (hj : j < lanesOf x.fmt)
    (hr : (intOf (minMax x.fmt least (x.read (x.la j)) (x.read (x.lb j)))).1 = r) : laneInt (minMaxSub least x) j = r := by
  refine laneInt_pointwise_int hp ha hb hc hj fun _ => ?_
  obtain ⟨s, hs, -⟩ := Option.map_eq_some_iff.mp ha
  obtain ⟨t, ht, -⟩ := Option.map_eq_some_iff.mp hb
  simpa [hs, ht, FArg.la, FArg.lb, laneAt] using hr

end

/-- Settles O38: an output lane is the word's step of it, whose value is the operation's on the values of its operands. -/
theorem integerLanesAreExact : Obligations.IntegerLanesAreExact := by
  intro x j u hu v hv z hz p q hfmt hpred hj ha hb hc hp hq
  have hA : StandsFor (x.read (x.la j)) p := hp ▸ standsFor_read_la hfmt ha
  have hB : StandsFor (x.read (x.lb j)) q := hq ▸ standsFor_read_lb hfmt hb
  obtain ⟨hadd, hsub, hneg, habs, habsdiff, haddc⟩ := laneInt_addSub hfmt hpred ha hb hc hj
  obtain ⟨hmul, hfma, hfms, hfnma⟩ := laneInt_mulSub hfmt hpred ha hb hc hj
  exact ⟨hadd, hsub, hneg, habs, habsdiff, haddc, hmul, hfma, hfms, hfnma, laneInt_cmpSub hfmt hpred ha hb hc hp hq,
    laneInt_minMaxSub hpred ha hb hc hj (intOf_minMax_least hfmt hA hB),
    laneInt_minMaxSub hpred ha hb hc hj (intOf_minMax_greatest hfmt hA hB)⟩

end Sys2Proof.Machine
end

section
/-! O40: the STEER words (R159, R185 to R188). -/
namespace Sys2Proof.Machine

/-! ## A flow word's firing -/

/-- An element that fires has nothing before its own work, so the step of a flow element is its body. -/
theorem flowElement_of_fires {s0 s : State} {kind sub : Nat} {f : Fab} {c x i : Nat} {b : Block} {hs : List (Nat × Timed)}
    (h : Fires s0 s { kind := kind, sub := sub, f := f } c x i b hs) (body : FlowBody) :
    flowElement kind sub f body s0 = .next (body { kind := kind, sub := sub, f := f } s b c x i hs).tick := by
  have hgo := prelude_of_fires h
  obtain ⟨hs0, hcur, -⟩ := h
  have hcur0 : s0.cur = { core := c, ctx := x, idx := i } := by rw [← hcur, hs0, freshElem_cur]
  simp only [flowElement, flowStep, hcur0, ← hs0, hgo]

/-- An instruction whose meaning is a step of a flow element fires as a flow word. -/
theorem flowFires {mk : Fab → Instr} {kind sub : Nat} {body : FlowBody}
    (hmk : ∀ f s, exec (mk f) s = flowElement kind sub f body s) : FlowFires mk kind sub body := by
  rintro s0 s f w c x i b hs rfl hf
  rw [hmk, flowElement_of_fires hf]

/-! ## EOS on every port, or not -/

theorem allEos_of_eos {hs : List (Nat × Timed)} (h : ∀ h ∈ hs, h.2.train.kind = .eos) : allEos hs = true :=
  all_eos_of_eos h

theorem allEos_of_not_eos {hs : List (Nat × Timed)} (h : ∃ h ∈ hs, h.2.train.kind ≠ .eos) : allEos hs = false := by
  simpa [allEos, isEos] using h

section
variable {outs : TokenKind → List (Nat × Timed) → List Out} {w : FWord} {s : State} {b : Block} {c x i : Nat}
  {hs : List (Nat × Timed)}

theorem lockStep_of_eos (h : ∀ h ∈ hs, h.2.train.kind = .eos) :
    lockStep outs w s b c x i hs = passEos s b w c x i (fmtOf hs) hs := by
  rw [lockStep, allEos_of_eos h, if_pos rfl]

theorem lockStep_of_not_eos (h : ∃ h ∈ hs, h.2.train.kind ≠ .eos) :
    lockStep outs w s b c x i hs = emitOne s (s.popData c x i hs) b w c x i hs 0 (outs (firingKind hs) hs) := by
  rw [lockStep, allEos_of_not_eos h, if_neg Bool.false_ne_true]

end

/-! ## What route, gate and merge send -/

section
variable {k : TokenKind} {hs : List (Nat × Timed)}

theorem routeOuts_of_kind (hk : k ≠ .data) : routeOuts k hs = kindOut k hs := if_pos hk

theorem gateOuts_of_kind (hk : k ≠ .data) : gateOuts k hs = kindOut k hs := if_pos hk

theorem routeOuts_of_decision {d : Bool} (hd : decision (trainAt hs 3) = d) :
    routeOuts .data hs =
      if d then [toOne 1 (trainAt hs 0), toOne 2 (kindTrain .null (trainAt hs 0).fmt (trainAt hs 0).tag)]
      else [toOne 1 (kindTrain .null (trainAt hs 0).fmt (trainAt hs 0).tag), toOne 2 (trainAt hs 0)] := hd ▸ rfl

theorem gateOuts_of_decision {d : Bool} (hd : decision (trainAt hs 3) = d) :
    gateOuts .data hs = if d then [toAll (trainAt hs 0)] else kindOut .null hs := hd ▸ rfl

theorem mergeOuts_of_data (hp : (trainAt hs 3).kind = .data) :
    mergeOuts k hs = [toAll (if decision (trainAt hs 3) then trainAt hs 0 else trainAt hs 1)] := if_pos hp

end

/-! ## What sel sends -/

/-- Lane `j` of what sel sends for trains `a` and `t` under the predicate train `p` (R187). -/
def selLane (a t p : Train) (j : Nat) : Lane :=
  match govLane p (laneBits a.fmt) j with
  | .absent => .absent
  | l => if a.lane j = .absent ∨ t.lane j = .absent then .absent else if (intOf l).1 != 0 then a.lane j else t.lane j

/-- The train that sel sends. -/
def selTrain (a t p : Train) : Train :=
  { kind := .data, fmt := a.fmt, lanes := (range 0 (lanesOf a.fmt)).map (selLane a t p), tag := a.tag }

theorem selOuts_of_kind {k : TokenKind} {hs : List (Nat × Timed)} (hk : k ≠ .data) : selOuts k hs = kindOut k hs := if_pos hk

theorem selOuts_of_data (hs : List (Nat × Timed)) :
    selOuts .data hs = [toAll (selTrain (trainAt hs 0) (trainAt hs 1) (trainAt hs 3))] := rfl

theorem nth_map_range {α : Type} (d : α) (f : Nat → α) {n j : Nat} (hj : j < n) (lo : Nat) :
    nth d ((range lo n).map f) j = f (lo + j) := by
  induction n generalizing lo j with
  | zero => cases hj
  | succ n ih =>
    cases j with
    | zero => rfl
    | succ j => exact (ih (Nat.lt_of_succ_lt_succ hj) (lo + 1)).trans (congrArg f (Nat.add_right_comm lo 1 j))

theorem selTrain_length (a t p : Train) : (selTrain a t p).lanes.length = lanesOf a.fmt := by simp [selTrain]

theorem selTrain_lane (a t p : Train) {j : Nat} (hj : j < lanesOf a.fmt) : (selTrain a t p).lane j = selLane a t p j :=
  (nth_map_range _ _ hj 0).trans (congrArg _ (Nat.zero_add j))

section
variable {a t p : Train} {j : Nat}

theorem selLane_absent (h : govLane p (laneBits a.fmt) j = .absent ∨ a.lane j = .absent ∨ t.lane j = .absent) :
    selLane a t p j = .absent := by
  unfold selLane
  split
  case h_1 => rfl
  case h_2 hg => exact if_pos (h.resolve_left hg)

theorem selLane_present (hg : govLane p (laneBits a.fmt) j ≠ .absent) (ha : a.lane j ≠ .absent) (ht : t.lane j ≠ .absent) :
    selLane a t p j = if (intOf (govLane p (laneBits a.fmt) j)).1 ≠ 0 then a.lane j else t.lane j := by
  unfold selLane
  split
  case h_1 h => exact absurd h hg
  case h_2 => simp only [ha, ht, or_self, if_false, bne_iff_ne]

end

/-! ## What filt does with a data train -/

/-- The lanes that filt has once the train at port a has come: those it held, and behind them the present ones whose predicate
lane is true (R184, R187). -/
def filtKept (m : Elem) (hs : List (Nat × Timed)) : List Lane :=
  m.acc ++ ((range 0 (lanesOf (trainAt hs 0).fmt)).filter (fun j => (trainAt hs 0).lane j != .absent &&
    (intOf (govLane (trainAt hs 3) (laneBits (trainAt hs 0).fmt) j)).1 != 0)).map (trainAt hs 0).lane

theorem filtBody_of_data {w : FWord} {s : State} {b : Block} {c x i : Nat} {hs : List (Nat × Timed)} {acc : List Lane}
    (hne : ∃ h ∈ hs, h.2.train.kind ≠ .eos) (hk : firingKind hs = .data)
    (hacc : acc = filtKept ((s.ctx c x).elem i) hs) : filtBody w s b c x i hs =
    if lanesOf (trainAt hs 0).fmt ≤ acc.length then stepElem s b w c x i hs
      { (s.ctx c x).elem i with acc := acc.drop (lanesOf (trainAt hs 0).fmt), limit := (trainAt hs 0).fmt } 0
      [toAll (packTrain (trainAt hs 0).fmt (tagOf hs) acc)]
    else stepElem s b w c x i hs { (s.ctx c x).elem i with acc := acc, limit := (trainAt hs 0).fmt } 0 (kindOut .null hs) := by
  subst hacc
  simp only [filtBody, allEos_of_not_eos hne, hk]
  rfl

/-! ## The STEER words -/

/-- Settles O40: each word's meaning is a step of a flow element, whose body does what its rule says. -/
theorem steerWordsFire : Obligations.SteerWordsFire := by
  refine ⟨flowFires fun _ _ => rfl, flowFires fun _ _ => rfl, flowFires fun _ _ => rfl, flowFires fun _ _ => rfl,
    flowFires fun _ _ => rfl, flowFires fun _ _ => rfl, fun _ _ _ _ _ _ _ _ => ⟨lockStep_of_eos, lockStep_of_not_eos⟩,
    ?outs, ?filt⟩
  case outs =>
    rintro k hs _ _ _ rfl rfl rfl
    refine ⟨rfl, fun hk => ⟨routeOuts_of_kind hk, gateOuts_of_kind hk⟩, ?decided, mergeOuts_of_data, selOuts_of_kind, ?sel⟩
    case decided =>
      rintro rfl
      exact ⟨fun hd => ⟨routeOuts_of_decision hd, gateOuts_of_decision hd⟩,
        fun hd => ⟨routeOuts_of_decision hd, gateOuts_of_decision hd⟩⟩
    case sel =>
      rintro rfl
      refine ⟨_, selOuts_of_data hs, rfl, rfl, rfl, selTrain_length _ _ _, ?_⟩
      rintro j _ hj rfl
      rw [selTrain_lane _ _ _ hj]
      exact ⟨selLane_absent, selLane_present⟩
  case filt =>
    rintro w s b c x i hs _ _ acc rfl rfl hne hk hacc
    rw [filtBody_of_data hne hk hacc]
    exact ⟨fun hfull => if_pos hfull, fun hroom => if_neg (Nat.not_le.mpr hroom)⟩

end Sys2Proof.Machine
end

section
/-! O42: the TAG words, and what push and inc do to a tag (R30, R201 to R206). -/
namespace Sys2Proof.Machine

/-! ## The fields of a tag (Table 2.4) -/

/-- A field of a tag is a byte of it. -/
theorem tagField_eq (tag k : Nat) : tagField tag k = tag / 2 ^ (8 * k) % 256 := by
  have hwidth : 8 * k + 7 + 1 - 8 * k = 8 := by omega
  exact congrArg (fun n => tag / 2 ^ (8 * k) % 2 ^ n) hwidth

/-- Fields below `n` depend on the tag below them alone. -/
theorem tagField_mod {j n : Nat} (tag : Nat) (hj : j < n) : tagField (tag % 2 ^ (8 * n)) j = tagField tag j := by
  have hn : 2 ^ (8 * n) = 2 ^ (8 * j) * 256 * 2 ^ (8 * (n - j - 1)) := by
    rw [show (256 : Nat) = 2 ^ 8 from rfl, ← Nat.pow_add, ← Nat.pow_add]
    congr 1
    omega
  rw [tagField_eq, tagField_eq, hn, Nat.mul_assoc, Nat.mod_mul_right_div_self, Nat.mod_mul_right_mod]

/-- Fields from `n` on are those of the tag above the first `n`. -/
theorem tagField_div (tag n j : Nat) : tagField (tag / 2 ^ (8 * n)) j = tagField tag (n + j) := by
  rw [tagField_eq, tagField_eq, Nat.div_div_eq_div_mul, ← Nat.pow_add, Nat.mul_add]

theorem div_fields_succ (tag k : Nat) : tag / 2 ^ (8 * (k + 1)) = tag / 2 ^ (8 * k) / 256 := by
  rw [Nat.div_div_eq_div_mul, Nat.mul_succ, Nat.pow_add]

/-- A tag with field `k` replaced is what stands below the field, the new field, and what stands above it. -/
theorem setField_eq (tag k v : Nat) :
    setField tag k v = tag % 2 ^ (8 * k) + 2 ^ (8 * k) * (v % 256 + 256 * (tag / 2 ^ (8 * (k + 1)))) := by
  have hlow := Nat.mod_add_div tag (2 ^ (8 * k))
  have hfield := Nat.mod_add_div (tag / 2 ^ (8 * k)) 256
  rw [setField, tagField_eq, div_fields_succ]
  generalize tag / 2 ^ (8 * k) = q at *
  generalize q / 256 = r at *
  have hq : 2 ^ (8 * k) * q = 2 ^ (8 * k) * (q % 256) + 2 ^ (8 * k) * (256 * r) := by
    rw [← Nat.mul_add, hfield]
  rw [Nat.mul_add]
  omega

/-- What stands from field `k` on once it is replaced. -/
theorem setField_div (tag k v : Nat) : setField tag k v / 2 ^ (8 * k) = v % 256 + 256 * (tag / 2 ^ (8 * (k + 1))) := by
  rw [setField_eq, Nat.add_mul_div_left _ _ (Nat.two_pow_pos _), Nat.div_eq_of_lt (Nat.mod_lt _ (Nat.two_pow_pos _)),
    Nat.zero_add]

theorem tagField_setField_same (tag k v : Nat) : tagField (setField tag k v) k = v % 256 := by
  rw [tagField_eq, setField_div]
  omega

theorem tagField_setField_ne (tag v : Nat) {j k : Nat} (h : j ≠ k) : tagField (setField tag k v) j = tagField tag j := by
  obtain hlt | hgt := Nat.lt_or_gt_of_ne h
  · rw [← tagField_mod _ hlt, setField_eq, Nat.add_mul_mod_self_left, Nat.mod_mod, tagField_mod _ hlt]
  · obtain ⟨d, rfl⟩ := Nat.exists_eq_add_of_lt hgt
    have habove : setField tag k v / 2 ^ (8 * (k + 1)) = tag / 2 ^ (8 * (k + 1)) := by
      rw [div_fields_succ, setField_div]
      omega
    rw [Nat.add_right_comm, ← tagField_div, ← tagField_div, habove]

theorem tagField_pushTag_zero (tag : Nat) : tagField (pushTag tag) 0 = 0 := by
  rw [tagField_eq, pushTag]
  omega

/-- push moves each of the six fields f0 to f5 up by one (R30). -/
theorem tagField_pushTag_succ (tag : Nat) {j : Nat} (hj : j < 6) : tagField (pushTag tag) (j + 1) = tagField tag j := by
  have hlow : pushTag tag / 2 ^ (8 * 1) % 2 ^ (8 * 6) = tag % 2 ^ (8 * 6) := by
    rw [pushTag]
    omega
  rw [Nat.add_comm, ← tagField_div, ← tagField_mod _ hj, hlow, tagField_mod _ hj]

theorem frameOf_pushTag (tag : Nat) : frameOf (pushTag tag) = frameOf tag := by
  simp only [pushTag, frameOf, bits]
  omega

/-! ## The effect on a tag (R201, Table 9.4) -/

theorem fieldsZero_of_zero {tag k : Nat} (h : ∀ j, k ≤ j → j < 7 → tagField tag j = 0) : fieldsZero tag k = true := by
  refine List.all_eq_true.mpr fun j hj => ?_
  obtain ⟨hlo, hhi⟩ := mem_range.mp hj
  exact beq_iff_eq.mpr (h j hlo (by omega))

section
variable {w : FWord} {b : Block} {d tag : Nat}

theorem tagEffect_push (hw : w.sub = 0) (hd : bits w.imm 2 0 ≤ d) (hz : fieldsZero tag (bits w.imm 2 0 - 1) = true) :
    tagEffect w b d tag = .ok (pushTag tag) := by
  simp [tagEffect, hw, hz, Nat.not_lt.mpr hd]

theorem tagEffect_inc (hw : w.sub = 2) (hd : bits w.imm 2 0 < d) :
    tagEffect w b d tag = .ok (setField tag (bits w.imm 2 0) (tagField tag (bits w.imm 2 0) + 1)) := by
  simp [tagEffect, hw, Nat.not_le.mpr hd]

/-- push and pop reach no field beyond the frame's depth. -/
theorem tagEffect_beyond_depth (hw : w.sub ≤ 1) (hd : d < bits w.imm 2 0) : tagEffect w b d tag = .error .tagDepth := by
  obtain hw | hw := Nat.le_one_iff_eq_zero_or_eq_one.mp hw <;> simp [tagEffect, hw, hd]

end

/-! ## What the bodies of the TAG words do -/

section
variable {w : FWord} {s : State} {b : Block} {c x i : Nat} {hs : List (Nat × Timed)}

theorem markBody_of_eos (h : ∀ h ∈ hs, h.2.train.kind = .eos) :
    markBody w s b c x i hs = passEos (s.passMark w c x (instOf hs)) b w c x i (trainAt hs 0).fmt hs := by
  simp only [markBody, allEos_of_eos h, if_true]

variable (hne : ∃ h ∈ hs, h.2.train.kind ≠ .eos)
include hne

theorem markBody_of_not_eos : markBody w s b c x i hs =
    emitOne s ((s.passMark w c x (instOf hs)).popData c x i hs) b w c x i hs 0 [toAll (trainAt hs 0)] := by
  simp only [markBody, allEos_of_not_eos hne]
  rfl

theorem tagBody_of_ok {tag : Nat}
    (h : tagEffect w b (frameDepth s c (trainAt hs 0).tag) (trainAt hs 0).tag = .ok tag) :
    tagBody w s b c x i hs = emitOne s (s.popData c x i hs) b w c x i hs 0 [toAll { trainAt hs 0 with tag := tag }] := by
  simp only [tagBody, h, allEos_of_not_eos hne]
  rfl

omit hne in
theorem tagBody_of_error {f : FaultCode}
    (h : tagEffect w b (frameDepth s c (trainAt hs 0).tag) (trainAt hs 0).tag = .error f) :
    tagBody w s b c x i hs = s.raise c x i f 0 (trainAt hs 0).tag 0 := by
  simp only [tagBody, h]

/-- A data train of a seq word is refused where its lane cannot be added to a word, sent where the network takes its token, and waits
elsewhere (R204). -/
theorem seqBody_of_data (ha : (trainAt hs 0).kind = .data) : seqBody w s b c x i hs =
    if seqPatchBad w b (trainAt hs 0) then s.raise c x i .formatUnaccepted 0 (trainAt hs 0).tag 0
    else if s.seqMay c (seqToken w b c x i (trainAt hs 0)) then
      emitOne s (((s.popData c x i hs).notLate c x i).seqSend c x i (seqToken w b c x i (trainAt hs 0))) b w c x i hs 0
        [toAll (trainAt hs 0)]
    else s.seqWait c x i := by
  simp [seqBody, allEos_of_not_eos hne, ha]

theorem eosBody_of_data (hp : (trainAt hs 3).kind = .data) : eosBody w s b c x i hs =
    if decision (trainAt hs 3) then stepElem s b w c x i hs { (s.ctx c x).elem i with ended := true, busy := true } 0
      [toAll (trainAt hs 0), eosNext (trainAt hs 0).fmt (trainAt hs 0).tag]
    else stepElem s b w c x i hs ((s.ctx c x).elem i) 0 [toAll (trainAt hs 0)] := by
  simp [eosBody, allEos_of_not_eos hne, hp]

theorem cntBody_of_data {k n : Nat} (ha : (trainAt hs 0).kind = .data)
    (hk : cntAfter w b ((s.ctx c x).elem i) (trainAt hs 0) = (k, n)) : cntBody w s b c x i hs =
    if n ≤ k then stepElem s b w c x i hs { (s.ctx c x).elem i with count := k % n } 0
      [toAll (countTrain (trainAt hs 0).tag (k / n) 0)]
    else stepElem s b w c x i hs { (s.ctx c x).elem i with count := k } 0
      [toAll (kindTrain .null 0 (trainAt hs 0).tag)] := by
  simp only [cntBody, allEos_of_not_eos hne, ha, hk]
  rfl

theorem bgetBody_of_data {v : Inst} (ha : (trainAt hs 0).kind = .data) (hv : (s.ctx c x).inst (instOf hs) = some v) :
    bgetBody w s b c x i hs = emitOne s (s.popData c x i hs) b w c x i hs 0
      [toAll { trainAt hs 0 with lanes := (trainAt hs 0).lanes.map (fun q =>
        if q = .absent then .absent else ofPattern (trainAt hs 0).fmt w.uns (sget 0 v.bank (bits w.imm 5 0))) }] := by
  simp [bgetBody, allEos_of_not_eos hne, ha, hv]

end

theorem seqPatchBad_eq_false {w : FWord} {b : Block} {a : Train}
    (h : 8 ≤ bits (b.param (bits w.imm 7 0)) 13 10 ∨ isInt a.fmt = true) : seqPatchBad w b a = false := by
  obtain h | h := h
  · simp [seqPatchBad, Nat.not_lt.mpr h]
  · simp [seqPatchBad, h]

theorem seqPatchBad_eq_true {w : FWord} {b : Block} {a : Train} (hp : bits (b.param (bits w.imm 7 0)) 13 10 < 8)
    (ha : isInt a.fmt = false) : seqPatchBad w b a = true := by
  simp [seqPatchBad, hp, ha]

/-- A seq element that waits is the last of its context's late ones, for the network (R204). -/
theorem late_seqWait (s : State) (c x i : Nat) :
    ((s.seqWait c x i).ctx c x).late = ((s.ctx c x).late.filter (fun l => l.1 != i)) ++ [(i, 1)] := by
  simp only [State.seqWait, State.setLate, modCtx_ctx_same]
  rfl

/-! ## The TAG words -/

/-- Settles O42: each word's meaning is a step of a flow element, whose body does what its rule says. -/
theorem tagWordsFire : Obligations.TagWordsFire := by
  refine ⟨flowFires fun _ _ => rfl, flowFires fun _ _ => rfl, flowFires fun _ _ => rfl, flowFires fun _ _ => rfl,
    flowFires fun _ _ => rfl, flowFires fun _ _ => rfl, flowFires fun _ _ => rfl, flowFires fun _ _ => rfl,
    flowFires fun _ _ => rfl, ?pass, fun _ _ _ _ _ _ _ => markBody_of_eos, ?count, ?tags⟩
  case pass =>
    rintro w s b c x i tag hs _ rfl hne
    refine ⟨tagBody_of_ok hne, fun _ => tagBody_of_error,
      fun ha hpatch => ⟨fun hmay => ?_, fun hmay => ⟨?_, late_seqWait s c x i⟩⟩, fun ha hpatch hfmt => ?_, markBody_of_not_eos hne⟩
    · rw [seqBody_of_data hne ha, seqPatchBad_eq_false hpatch, if_neg Bool.false_ne_true, if_pos hmay]
    · rw [seqBody_of_data hne ha, seqPatchBad_eq_false hpatch, hmay, if_neg Bool.false_ne_true, if_neg Bool.false_ne_true]
    · rw [seqBody_of_data hne ha, if_pos (seqPatchBad_eq_true hpatch hfmt)]
  case count =>
    rintro w s b c x i k n hs _ _ _ v rfl rfl rfl hne
    refine ⟨fun hp hd => ?_, fun hp hd => ?_, ?_, bgetBody_of_data hne⟩
    · rw [eosBody_of_data hne hp, hd, if_pos rfl]
    · rw [eosBody_of_data hne hp, hd, if_neg Bool.false_ne_true]
    · rintro ha rfl rfl
      rw [cntBody_of_data hne ha rfl]
      exact ⟨fun hfull => if_pos hfull, fun hroom => if_neg (Nat.not_le.mpr hroom)⟩
  case tags =>
    intro w b d tag _
    refine ⟨fun hw hd hz hn => ?push, fun hw hd _ => ?inc, tagEffect_beyond_depth⟩
    case push =>
      exact ⟨_, tagEffect_push hw hd (fieldsZero_of_zero fun j hj => hz j (by omega)), tagField_pushTag_zero tag,
        fun j hj => tagField_pushTag_succ tag hj, frameOf_pushTag tag⟩
    case inc =>
      exact ⟨_, tagEffect_inc hw hd, tagField_setField_same tag _ _, fun j _ hj => tagField_setField_ne tag _ hj⟩

end Sys2Proof.Machine
end

section
/-! O41: the RED words: reductions, keyred, scan and recur (R189 to R191, R242). -/
namespace Sys2Proof.Machine

/-! ## Reductions (R189) -/

/-- The running lanes after a train, index by index: an absent lane leaves the other as it is, a first lane starts its own. -/
theorem foldLanes_getElem? {op fmt j : Nat} {p q : Lane} {as ls : List Lane} (hlen : as.length = ls.length)
    (hp : as[j]? = some p) (hq : ls[j]? = some q) : (foldLanes op fmt as ls).1[j]? =
      some (if p = .absent then (startLane op fmt q).1 else if q = .absent then p else (redStep op fmt p q).1) := by
  induction as generalizing ls j with
  | nil => cases hp
  | cons a as ih =>
    cases ls with
    | nil => cases hq
    | cons l ls =>
      cases j with
      | zero =>
        cases hp
        cases hq
        simp only [foldLanes, List.getElem?_cons_zero]
        split
        · rfl
        · split <;> rfl
      | succ j => exact ih (Nat.succ.inj hlen) hp hq

section
variable {op : Nat} {w : FWord} {s : State} {b : Block} {c x i : Nat} {hs : List (Nat × Timed)}

/-- At EOS a reduction that has met a lane, and no poison, sends its running lanes with EOS behind them. -/
theorem redBody_of_eos (h : ∀ h ∈ hs, h.2.train.kind = .eos) (hp : ((s.ctx c x).elem i).poisoned = false)
    (hst : ((s.ctx c x).elem i).started = true) (hlanes : bit w.imm 8 = false) : redBody op w s b c x i hs =
    endElem s b w c x i hs 0 [toAll (packTrain ((s.ctx c x).elem i).limit (trainAt hs 0).tag
      (((s.ctx c x).elem i).acc.map (refresh ((s.ctx c x).elem i).limit))),
      eosNext ((s.ctx c x).elem i).limit (trainAt hs 0).tag] := by
  simp [redBody, allEos_of_eos h, hp, hst, hlanes]

variable (hne : ∃ h ∈ hs, h.2.train.kind ≠ .eos)
include hne

theorem redBody_of_poison (ha : (trainAt hs 0).kind = .poison) : redBody op w s b c x i hs =
    stepElem s b w c x i hs { (s.ctx c x).elem i with poisoned := true } 0
      [outKind .poison (trainAt hs 0).fmt (trainAt hs 0).tag] := by
  simp only [redBody, allEos_of_not_eos hne, ha]
  rfl

/-- A train that brings no lane changes nothing, and gives poison once an earlier one was poison. -/
theorem redBody_of_no_lane
    (ha : (trainAt hs 0).kind = .null ∨ (trainAt hs 0).kind = .data ∧ ∀ l ∈ (trainAt hs 0).lanes, l = .absent) :
    redBody op w s b c x i hs = stepElem s b w c x i hs ((s.ctx c x).elem i) 0
      [outKind (if ((s.ctx c x).elem i).poisoned then .poison else .null) (trainAt hs 0).fmt (trainAt hs 0).tag] := by
  obtain ha | ⟨ha, hl⟩ := ha
  · simp [redBody, allEos_of_not_eos hne, ha]
  · have hall : (trainAt hs 0).lanes.all (fun l => l == .absent) = true := by simpa using hl
    simp [redBody, allEos_of_not_eos hne, ha, hall]

/-- A train with a lane, of the format of the running lanes, is combined into them. -/
theorem redBody_of_lanes (ha : (trainAt hs 0).kind = .data) (hl : ∃ l ∈ (trainAt hs 0).lanes, l ≠ .absent)
    (hfmt : ((s.ctx c x).elem i).started = false ∨ ((s.ctx c x).elem i).limit = (trainAt hs 0).fmt)
    {r : List Lane × Nat} (hr : r = foldLanes op (trainAt hs 0).fmt ((s.ctx c x).elem i).acc
      ((trainAt hs 0).lanes.map (redLane w op (trainAt hs 0).fmt))) : redBody op w s b c x i hs =
    stepElem s b w c x i hs { (s.ctx c x).elem i with started := true, acc := r.1, limit := (trainAt hs 0).fmt } r.2
      [outKind (if ((s.ctx c x).elem i).poisoned then .poison else .null) (trainAt hs 0).fmt (trainAt hs 0).tag] := by
  have hsome : (trainAt hs 0).lanes.all (fun l => l == .absent) = false := by simpa using hl
  have hone : (((s.ctx c x).elem i).started && ((s.ctx c x).elem i).limit != (trainAt hs 0).fmt) = false := by
    obtain h | h := hfmt <;> simp [h]
  simp only [redBody, allEos_of_not_eos hne, ha, hsome, hone, hr]
  rfl

end

/-! ## keyred (R191) -/

section
variable {op fmt g : Nat} {m : Elem} {v key u k : Lane} (hu : m.runVal = some u) (hk : m.runKey = some k)
include hu hk

theorem runStep_of_same_key (h : (intOf k).1 = (intOf key).1) : runStep op fmt (m, g) v key =
    ({ m with runVal := some (redStep op fmt u v).1 }, g ||| (redStep op fmt u v).2) := by
  simp [runStep, hu, hk, h]

theorem runStep_of_other_key (h : (intOf k).1 ≠ (intOf key).1) : runStep op fmt (m, g) v key =
    ({ m with acc := m.acc ++ [u], keys := m.keys ++ [k], runVal := some (startLane op fmt v).1, runKey := some key },
      g ||| (startLane op fmt v).2) := by
  simp [runStep, hu, hk, h]

end

/-- The element of a keyred word after the lanes of a train of values `a` with keys `kt`, and the flags they raise. -/
def keyredRun (w : FWord) (a kt : Train) (m : Elem) : Elem × Nat :=
  (range 0 (lanesOf a.fmt)).foldl (fun r j =>
    if a.lane j = .absent ∨ readLane kt.fmt w.uns (kt.lane j) = .absent then r
    else runStep (bits w.imm 1 0) a.fmt r (redLane w (bits w.imm 1 0) a.fmt (a.lane j))
      (readLane kt.fmt w.uns (kt.lane j))) (m, 0)

/-- While the completed runs fill no train, a keyred word keeps them and gives null at both targets. -/
theorem keyredBody_of_room {w : FWord} {s : State} {b : Block} {c x i g : Nat} {hs : List (Nat × Timed)} {n : Elem}
    (hne : ∃ h ∈ hs, h.2.train.kind ≠ .eos) (hkind : firingKind hs = .data)
    (hrun : (n, g) = keyredRun w (trainAt hs 0) (trainAt hs 1) ((s.ctx c x).elem i))
    (hroom : n.acc.length < lanesOf (trainAt hs 0).fmt) (hp : n.poisoned = false) : keyredBody w s b c x i hs =
    stepElem s b w c x i hs { n with limit := (trainAt hs 0).fmt, version := (trainAt hs 1).fmt } g
      [toOne 1 (kindTrain .null (trainAt hs 0).fmt (tagOf hs)), toOne 2 (kindTrain .null (trainAt hs 1).fmt (tagOf hs))] := by
  rw [keyredRun] at hrun
  simp only [keyredBody, allEos_of_not_eos hne, hkind, ← hrun, Nat.not_le.mpr hroom, hp]
  rfl

/-- R189, R191: the reductions and keyred. -/
theorem reductionWordsFire : ReductionWordsFire := by
  refine ⟨flowFires fun _ _ => rfl, flowFires fun _ _ => rfl, flowFires fun _ _ => rfl, flowFires fun _ _ => rfl,
    ?sound, ?poisoned, fun _ _ _ _ _ _ _ => foldLanes_getElem?, fun _ _ _ _ _ _ _ _ hu hk =>
      ⟨runStep_of_same_key hu hk, runStep_of_other_key hu hk⟩, ?keyred⟩
  case sound =>
    rintro op w s b c x i hs _ _ rfl rfl hp
    have hnull : (if ((s.ctx c x).elem i).poisoned then TokenKind.poison else .null) = .null := by rw [hp]; rfl
    refine ⟨fun hne ha hl hfmt => ?lanes, fun hne ha hl => ?absent, fun hne ha => ?null, fun hne => redBody_of_poison hne,
      fun heos => redBody_of_eos heos hp⟩
    case lanes => rw [redBody_of_lanes hne ha hl hfmt rfl, hnull]
    case absent => rw [redBody_of_no_lane hne (.inr ⟨ha, hl⟩), hnull]
    case null => rw [redBody_of_no_lane hne (.inl ha), hnull]
  case poisoned =>
    rintro op w s b c x i hs _ _ rfl rfl hp hne ha
    rw [redBody_of_no_lane hne ha, hp, if_pos rfl]
  case keyred =>
    rintro w s b c x i g hs _ _ _ n rfl rfl rfl hne hkind hrun hroom hp
    exact keyredBody_of_room hne hkind hrun hroom hp

/-! ## A scan or recur element's step (R190, R242) -/

section
variable {s0 s : State} {f : Fab} {c x i sub : Nat} {w : FWord} {b : Block} {k : Ctx} {a : Timed}
  (hw : w = { kind := 7, sub := sub, f := f }) (hcur : s0.cur = { core := c, ctx := x, idx := i })
  (hb : (s0.ctx c x).block = some b) (hslot : (s0.ctx c x).slot = .resident) (hst : (s0.ctx c x).steer = none)
  (hi : i < b.count) (hfb : b.isFallback i = false) (hs : s = (drainRecur s0 c x i).freshElem c x i)
  (hk : k = s.ctx c x) (ha : k.head i 0 = some a) (hfix : k.fixOf i a.inst = none) (hend : (k.elem i).ended = false)
include hw hcur hb hslot hst hi hfb hs hk ha hfix hend

/-- EOS at port a is passed; a recurrence port that is fed still owes one (R242). -/
theorem recurElement_of_eos (heos : a.train.kind = .eos) : recurElement sub f s0 =
    .next (passEos (if b.fed i 3 then s.modInst c x a.inst (fun n => { n with owedEos := insertNat n.owedEos i }) else s)
      b w c x i a.train.fmt [(0, a)]).tick := by
  subst hw hk
  simp [recurElement, hcur, hb, hslot, hst, Nat.not_le.mpr hi, hfb, ← hs, ha, hfix, hend, isEos, heos]

variable (heos : a.train.kind ≠ .eos) (hport : badPort w (firingTag w [(0, a)]) [(0, a)] = none)
include heos hport

/-- Up to position d, and where no recurrence is fed, the train of port a is combined alone. -/
theorem recurElement_alone (h : b.fed i 3 = false ∨ (k.elem i).count < bits f.imm 7 5 + 1) :
    recurElement sub f s0 = .next (recurFire (sub == 3) w s b c x i [(0, a)]).tick := by
  subst hw hk
  have halone : (b.fed i 3 && decide (bits f.imm 7 5 + 1 ≤ ((s.ctx c x).elem i).count)) = false := by
    obtain h | h := h
    · rw [h, Bool.false_and]
    · rw [decide_eq_false (Nat.not_le.mpr h), Bool.and_false]
  have hlive : isEos a = false := beq_eq_false_iff_ne.mpr heos
  simp only [recurElement, hcur, hb, hslot, hst, Nat.not_le.mpr hi, hfb, ← hs, ha, hfix, hend, hlive, hport, FWord.imm, halone,
    ne_eq, not_true_eq_false, Option.isSome_none, Bool.false_eq_true, false_and, or_self, if_false]

/-- From position d on it is combined with the train of the recurrence port. -/
theorem recurElement_with_recurrence {q : Timed} (hfed : b.fed i 3 = true) (hd : bits f.imm 7 5 + 1 ≤ (k.elem i).count)
    (hq : k.head i 3 = some q) (hboth : badPort w (firingTag w [(0, a)]) [(0, a), (3, q)] = none) :
    recurElement sub f s0 = .next (recurFire (sub == 3) w s b c x i [(0, a), (3, q)]).tick := by
  subst hw hk
  simp [recurElement, hcur, hb, hslot, hst, Nat.not_le.mpr hi, hfb, ← hs, ha, hfix, hend, isEos, heos, hport, FWord.imm,
    hfed, hd, hq, hboth]

end

/-- R190: what a scan or recur element takes. -/
theorem recurrenceWordsFire : RecurrenceWordsFire := by
  intro s0 s f c x i sub mk w b k a hmk hw hcur hb hslot hst hi hfb hs hk ha hfix hend
  have hexec : exec (mk f) s0 = recurElement sub f s0 := by
    obtain ⟨rfl, rfl⟩ | ⟨rfl, rfl⟩ := hmk <;> rfl
  have heosStep := recurElement_of_eos hw hcur hb hslot hst hi hfb hs hk ha hfix hend
  rw [hexec]
  refine ⟨fun heos hfed => ?_, fun heos hfed => ?_, fun heos hport =>
    ⟨recurElement_alone hw hcur hb hslot hst hi hfb hs hk ha hfix hend heos hport, fun q =>
      recurElement_with_recurrence hw hcur hb hslot hst hi hfb hs hk ha hfix hend heos hport⟩⟩
  · rw [heosStep heos, hfed, if_neg Bool.false_ne_true]
  · rw [heosStep heos, hfed, if_pos rfl]

/-! ## What a scan or recur element sends (R190) -/

/-- A fold whose every step puts one entry at the end of its list builds the list of the entries. -/
theorem foldl_append_map {α β γ : Type} {f : List β × γ → α → List β × γ} {g : α → β} (hf : ∀ r j, (f r j).1 = r.1 ++ [g j])
    (l : List α) (r : List β × γ) : (l.foldl f r).1 = r.1 ++ l.map g := by
  induction l generalizing r with
  | nil => simp
  | cons j l ih => simp [ih, hf]

/-- Lane `j` of what recur sends. -/
def recurLane (op fmt : Nat) (q a : Nat → Lane) (j : Nat) : Lane :=
  if a j = .absent then .absent
  else if op = 0 then (addLanes fmt false [(q j, false), (a j, false)]).1 else minMax fmt (op == 2) (q j) (a j)

theorem recurLanes_eq_map (op fmt : Nat) (q a : Nat → Lane) :
    (recurLanes op fmt q a).1 = (range 0 (lanesOf fmt)).map (recurLane op fmt q a) := by
  refine (foldl_append_map (g := recurLane op fmt q a) (fun r j => ?_) _ _).trans (List.nil_append _)
  simp only [recurLane]
  split
  · rfl
  · split <;> rfl

theorem range_succ_last (lo n : Nat) : range lo (n + 1) = range lo n ++ [lo + n] := by
  induction n generalizing lo with
  | zero => rfl
  | succ n ih => rw [range, ih, range, List.cons_append, Nat.add_right_comm, Nat.add_assoc]

/-- What a scan carries into lane `j`: the carry, with the present lanes before `j` combined in. -/
def scanCarry (op fmt : Nat) (carry : Lane) (a : Nat → Lane) : Nat → Lane
  | 0 => carry
  | j + 1 => if a j = .absent then scanCarry op fmt carry a j else (redStep op fmt (scanCarry op fmt carry a j) (a j)).1

/-- Lane `j` of what scan sends. -/
def scanLane (op fmt : Nat) (carry : Lane) (a : Nat → Lane) (j : Nat) : Lane :=
  if a j = .absent then .absent else scanCarry op fmt carry a (j + 1)

/-- One lane of a scan: the lanes so far, the flags, and what is carried on. -/
def scanStep (op fmt : Nat) (a : Nat → Lane) (r : List Lane × Nat × Lane) (j : Nat) : List Lane × Nat × Lane :=
  if a j = .absent then (r.1 ++ [.absent], r.2.1, r.2.2)
  else (r.1 ++ [(redStep op fmt r.2.2 (a j)).1], r.2.1 ||| (redStep op fmt r.2.2 (a j)).2, (redStep op fmt r.2.2 (a j)).1)

theorem scanLanes_eq_foldl (op fmt : Nat) (carry : Lane) (a : Nat → Lane) :
    (scanLanes op fmt carry a).1 = ((range 0 (lanesOf fmt)).foldl (scanStep op fmt a) ([], 0, carry)).1 := rfl

/-- After `n` lanes a scan has sent them, and carries on their combination. -/
theorem foldl_scanStep (op fmt n : Nat) (carry : Lane) (a : Nat → Lane) :
    ∃ g, (range 0 n).foldl (scanStep op fmt a) ([], 0, carry) =
      ((range 0 n).map (scanLane op fmt carry a), g, scanCarry op fmt carry a n) := by
  induction n with
  | zero => exact ⟨0, rfl⟩
  | succ n ih =>
    obtain ⟨g, hg⟩ := ih
    rw [range_succ_last, List.foldl_append, hg, List.map_append, Nat.zero_add]
    by_cases h : a n = .absent
    · exact ⟨g, by simp [scanStep, scanLane, scanCarry, h]⟩
    · exact ⟨g ||| (redStep op fmt (scanCarry op fmt carry a n) (a n)).2, by simp [scanStep, scanLane, scanCarry, h]⟩

theorem scanLanes_eq_map (op fmt : Nat) (carry : Lane) (a : Nat → Lane) :
    (scanLanes op fmt carry a).1 = (range 0 (lanesOf fmt)).map (scanLane op fmt carry a) := by
  obtain ⟨g, hg⟩ := foldl_scanStep op fmt (lanesOf fmt) carry a
  rw [scanLanes_eq_foldl, hg]

section
variable {op fmt j : Nat} {q a : Nat → Lane} {carry : Lane}

theorem nth_recurLanes (hj : j < lanesOf fmt) : nth .absent (recurLanes op fmt q a).1 j = recurLane op fmt q a j := by
  rw [recurLanes_eq_map, nth_map_range _ _ hj, Nat.zero_add]

theorem nth_scanLanes (hj : j < lanesOf fmt) : nth .absent (scanLanes op fmt carry a).1 j = scanLane op fmt carry a j := by
  rw [scanLanes_eq_map, nth_map_range _ _ hj, Nat.zero_add]

theorem scanLane_present (h : a j ≠ .absent) : scanLane op fmt carry a j = scanCarry op fmt carry a (j + 1) := if_neg h

theorem scanCarry_succ (h : a j ≠ .absent) :
    scanCarry op fmt carry a (j + 1) = (redStep op fmt (scanCarry op fmt carry a j) (a j)).1 := if_neg h

end

/-- The lane of the recurrence train that a lane of port a meets: the identity where it is absent, or there is none. -/
def recurOperand (w : FWord) (fmt : Nat) (q : Option Train) (j : Nat) : Lane :=
  match q with
  | some t => if t.kind = .data && t.lane j != .absent then redLane w (bits w.imm 1 0) fmt (t.lane j)
    else identity (bits w.imm 1 0) fmt w.uns
  | none => identity (bits w.imm 1 0) fmt w.uns

/-- A lane is that operand where it is the recurrence train's where there is one, and the identity elsewhere. -/
theorem recurOperand_eq {w : FWord} {fmt : Nat} {q : Option Train} {lane : Nat → Lane}
    (hlane : ∀ t j, q = some t → t.kind = .data → t.lane j ≠ .absent → lane j = redLane w (bits w.imm 1 0) fmt (t.lane j))
    (hid : ∀ j, (∀ t, q = some t → t.kind = .data → t.lane j = .absent) → lane j = identity (bits w.imm 1 0) fmt w.uns) :
    recurOperand w fmt q = lane := by
  funext j
  cases q with
  | none => exact (hid j (fun _ h => nomatch h)).symm
  | some t =>
    by_cases h : t.kind = .data ∧ t.lane j ≠ .absent
    · simp [recurOperand, h.1, h.2, hlane t j rfl h.1 h.2]
    · have hno : lane j = _ := hid j (by rintro _ ⟨⟩ hd; exact Classical.not_not.mp fun ha => h ⟨hd, ha⟩)
      have hcond : (t.kind = .data && t.lane j != .absent) = false := by simpa using h
      simp [recurOperand, hcond, hno]

theorem trainAt_of_head {hs : List (Nat × Timed)} {p : Nat} {t : Timed} (h : headAt hs p = some t) : trainAt hs p = t.train := by
  simp only [trainAt, h]

/-- Whether a scan or recur element sends poison: its train, the recurrence train, or an earlier one was poison. -/
def recurPoison (m : Elem) (a : Train) (q : Option Train) : Bool :=
  a.kind == .poison || m.poisoned || q.any (fun t => t.kind == .poison)

theorem recurPoison_false {m : Elem} {a : Train} {q : Option Train} (h : recurPoison m a q = false) : m.poisoned = false := by
  simp only [recurPoison, Bool.or_eq_false_iff] at h
  obtain ⟨⟨-, hm⟩, -⟩ := h
  exact hm

/-- Marking an element as not poisoned changes nothing where it is not. -/
theorem unpoisoned_eq {m : Elem} (h : m.poisoned = false) (n : Nat) :
    ({ m with count := n, poisoned := false } : Elem) = { m with count := n } := by
  rw [← h]

/-- What goes out in the place of a null train: the recurrence train where that is data, else null. -/
def recurForNull (fmt : Nat) (a : Train) (q : Option Train) : Train :=
  { (if q.any (fun t => t.kind == .data) then q.getD default else kindTrain .null fmt a.tag) with tag := a.tag }

/-- The combination of a train with the recurrence train, with the flags it raises. -/
def recurCombined (scan : Bool) (w : FWord) (fmt : Nat) (a : Train) (q : Option Train) : List Lane × Nat :=
  if scan then scanLanes (bits w.imm 1 0) fmt (recurOperand w fmt q (lanesOf fmt - 1))
    (fun j => redLane w (bits w.imm 1 0) fmt (a.lane j))
  else recurLanes (bits w.imm 1 0) fmt (recurOperand w fmt q) (fun j => redLane w (bits w.imm 1 0) fmt (a.lane j))

section
variable {scan : Bool} {w : FWord} {s : State} {b : Block} {c x i fmt : Nat} {hs : List (Nat × Timed)} {h : Timed} {m : Elem}
  {q : Option Train} (hh : headAt hs 0 = some h) (hm : m = (s.ctx c x).elem i) (hfmt : fmt = firingTag w [(0, h)])
  (hq : q = recurTrain w b i m.count fmt (headAt hs 3))
include hh hm hfmt hq

/-- What a scan or recur element does with the trains it has taken: poison, the recurrence train in a null train's place, or the
combination of the two. -/
theorem recurFire_eq : recurFire scan w s b c x i hs =
    if recurPoison m h.train q then
      stepElem s b w c x i hs { m with count := m.count + 1, poisoned := recurPoison m h.train q } 0
        [toAll (kindTrain .poison fmt h.train.tag)]
    else if h.train.kind = .null then
      stepElem s b w c x i hs { m with count := m.count + 1, poisoned := recurPoison m h.train q } 0
        [toAll (recurForNull fmt h.train q)]
    else
      stepElem s b w c x i hs { m with count := m.count + 1, poisoned := recurPoison m h.train q }
        (recurCombined scan w fmt h.train q).2
        [toAll { kind := .data, fmt := fmt, lanes := (recurCombined scan w fmt h.train q).1, tag := h.train.tag }] := by
  simp only [recurFire, trainAt_of_head hh, hh, Option.getD_some, ← hm, ← hfmt, ← hq]
  clear hq
  cases q with
  | none => rfl
  | some t =>
    obtain ⟨kind, _, _, _⟩ := t
    cases kind <;> rfl

theorem recurFire_of_poison (hp : recurPoison m h.train q = true) : recurFire scan w s b c x i hs =
    stepElem s b w c x i hs { m with count := m.count + 1, poisoned := true } 0
      [toAll (kindTrain .poison fmt h.train.tag)] := by
  rw [recurFire_eq hh hm hfmt hq, if_pos hp, hp]

variable (hp : recurPoison m h.train q = false)
include hp

theorem recurFire_of_null (ha : h.train.kind = .null) : recurFire scan w s b c x i hs =
    stepElem s b w c x i hs { m with count := m.count + 1 } 0 [toAll (recurForNull fmt h.train q)] := by
  rw [recurFire_eq hh hm hfmt hq, hp, if_neg Bool.false_ne_true, if_pos ha, unpoisoned_eq (recurPoison_false hp)]

theorem recurFire_of_data (ha : h.train.kind = .data) : recurFire scan w s b c x i hs =
    stepElem s b w c x i hs { m with count := m.count + 1 } (recurCombined scan w fmt h.train q).2
      [toAll { kind := .data, fmt := fmt, lanes := (recurCombined scan w fmt h.train q).1, tag := h.train.tag }] := by
  rw [recurFire_eq hh hm hfmt hq, hp, if_neg Bool.false_ne_true, if_neg (by simp [ha]), unpoisoned_eq (recurPoison_false hp)]

end

/-- R190: what a scan or recur element sends. -/
theorem recurrenceSends : RecurrenceSends := by
  refine ⟨?fire, fun w b i k fmt p => ⟨fun hfed => ?_, fun hfed hk => ?_, fun hfed hk => ?_⟩, ?recur, ?scan⟩
  case fire =>
    rintro scan w s b c x i fmt hs h _ m q _ hh rfl hm hfmt hq rfl
    refine ⟨recurFire_of_poison hh hm hfmt hq, recurFire_of_null hh hm hfmt hq, fun lane al r hp ha hlane hid hal hr => ?_⟩
    have hr' : r = recurCombined scan w fmt h.train q := by
      rw [hr, recurCombined, recurOperand_eq hlane hid, funext hal]
    rw [recurFire_of_data hh hm hfmt hq hp ha, hr']
  · simp [recurTrain, hfed]
  · simp [recurTrain, hfed, hk]
  · simp [recurTrain, hfed, Nat.not_lt.mpr hk]
  case recur =>
    intro op fmt j q a hj
    rw [nth_recurLanes hj]
    exact ⟨by simp [recurLanes_eq_map], fun h => if_pos h, fun h => if_neg h⟩
  case scan =>
    intro op fmt n carry a hn h0
    refine ⟨by simp [scanLanes_eq_map, hn], ?_, fun j hj hpre hpost => ?_⟩
    · rw [nth_scanLanes (by omega), scanLane_present h0, scanCarry_succ h0, scanCarry]
    · rw [nth_scanLanes (by omega), nth_scanLanes (by omega), scanLane_present hpre, scanLane_present hpost, scanCarry_succ hpost]

/-! ## The RED words -/

/-- Settles O41: the reductions and keyred are flow words whose bodies do what their rules say; scan and recur take their trains port
by port, and send the combination of them. -/
theorem reductionAndRecurrenceWordsFire : Obligations.ReductionAndRecurrenceWordsFire :=
  ⟨reductionWordsFire, recurrenceWordsFire, recurrenceSends⟩

end Sys2Proof.Machine
end

section
/-! O43: the LD words that read streams and tiles (R192 to R194, R214). -/
namespace Sys2Proof.Machine

/-! ## The step of a memory element -/

/-- An element that may work has nothing before its own work, so the step of a memory element is its body. -/
theorem memStep_of_at {s : State} {e : MemElem} {kind sub : Nat} {f : Fab} (h : MemElemAt s e)
    (hw : e.w = { kind := kind, sub := sub, f := f }) (fallback : MemFallback) (body : MemElem → State → State) :
    memStep kind sub f fallback body s = .next (body e s).tick := by
  obtain ⟨w, c, x, i, b⟩ := e
  obtain ⟨hcur, hb, hslot, hst, hi, hfb⟩ := h
  obtain rfl : w = { kind := kind, sub := sub, f := f } := hw
  simp only at hcur hb hslot hst hi hfb
  simp [memStep, hcur, hb, hslot, hst, Nat.not_le.mpr hi, hfb]

theorem memElement_of_at {s : State} {e : MemElem} {kind sub : Nat} {f : Fab} (h : MemElemAt s e)
    (hw : e.w = { kind := kind, sub := sub, f := f }) (body : MemElem → State → State) :
    memElement kind sub f body s = .next (body e s).tick := memStep_of_at h hw noFallback body

/-! ## The trains of verdicts (R235), which no start of a read touches -/

theorem fixOf_congr {k l : Ctx} (h : k.fixes = l.fixes) (i inst : Nat) : k.fixOf i inst = l.fixOf i inst := by
  simp only [Ctx.fixOf, h]

@[simp] theorem countEvent_state_ctx (s : State) (c src ctx n d x : Nat) : (s.countEvent c src ctx n).ctx d x = s.ctx d x :=
  countEvent_view (view := fun k => k.ctx x) (fun _ _ => rfl) s c src ctx n d

@[simp] theorem notLate_fixes (s : State) (c x i : Nat) : ((s.notLate c x i).ctx c x).fixes = (s.ctx c x).fixes := by
  simp only [State.notLate]
  split
  · rw [modCtx_ctx_same]
    split
    · rw [countEvent_state_ctx]
    · rfl
  · rfl

@[simp] theorem setTile_ctx (s : State) (c n : Nat) (t : Tile) (x : Nat) : (s.setTile c n t).ctx c x = s.ctx c x := by
  simp [State.setTile, State.ctx, Core.ctx, Core.setTile]

/-- A read that begins keeps the number it was begun for, and uses no verdict's train. -/
theorem beginTile_ok {e : MemElem} {s t : State} {inst tile g : Nat} (h : e.beginTile s inst tile g = .ok t) :
    (e.elem t).inst = inst ∧ (t.ctx e.c e.x).fixes = (s.ctx e.c e.x).fixes := by
  simp only [MemElem.beginTile] at h
  split at h
  · cases h
  · split at h
    · cases h
    · split at h
      · cases h
      · cases h
        refine ⟨by simp [MemElem.elem, State.setElem], ?_⟩
        rw [State.setElem, modCtx_ctx_same]
        simp [Ctx.setElem, State.beginRead]

/-! ## What the bodies of the LD words do -/

section
variable {e : MemElem} {s s1 : State}

/-- The next train of a running read, where it may be read and the after port lets it go on. -/
theorem readNext_of_mayRead (hfix : (s.ctx e.c e.x).fixOf e.i (e.elem s).inst = none) (hread : MayRead e s)
    (hafter : e.after s = some s1) : e.readNext s = e.readOn (s1.notLate e.c e.x e.i) := by
  rw [MayRead] at hread
  simp only [MemElem.readNext, hfix, hread, hafter]

end

section
variable {e : MemElem} {s0 s s1 : State} (h : LoadAt s0 s e)
include h

/-- `ld` asks its stream for one train. -/
theorem ldBody_of_stream {q : PortEntry} (hq : (s.core e.c).activeEntry e.port = some q) (hctx : q.ctx = e.x)
    (hread : patWrites q.pattern = false) (hfmt : (e.elem s).started = true ∨ ldFmtOk e.w q.pattern = true)
    (hafter : e.after s = some s1) : ∃ r : MemReq, ldBody e s0 = ((s1.notLate e.c e.x e.i).setElem e.c e.x e.i
      { e.elem s1 with started := true, next := (s.ctx e.c e.x).adv + 2 }).postReq e.c r ∧
      r.kind = .read ∧ r.ctx = e.x ∧ r.idx = e.i ∧ r.port = some e.port ∧ r.fmt = patFmt q.pattern ∧
      r.inst = (e.elem s).inst ∧ r.due = (s.ctx e.c e.x).adv + e.w.delay := by
  obtain ⟨-, hs, hact, hnext, hfix⟩ := h
  have hgood : ¬ (patWrites q.pattern = true ∨ (!(e.elem s).started && !ldFmtOk e.w q.pattern) = true) := by
    obtain hfmt | hfmt := hfmt <;> simp [hread, hfmt]
  simp only [ldBody, ← hs, hact, Nat.not_lt.mpr hnext, hfix, hq, hctx, hgood, hafter, Bool.not_true,
    Bool.false_eq_true, ne_eq, not_true_eq_false, if_false]
  exact ⟨_, rfl, rfl, rfl, rfl, rfl, rfl, rfl, rfl⟩

/-- A running read of `ldt`. -/
theorem tileBody_of_running (hst : (e.elem s).started = true) (hsub : e.w.sub ≠ 4) : tileBody e s0 = e.readNext s := by
  obtain ⟨-, hs, -, hnext, -⟩ := h
  simp [tileBody, ← hs, hst, Nat.not_lt.mpr hnext, hsub]

/-- A read of `ldver` that has matched. -/
theorem tileBody_of_matched (hst : (e.elem s).started = true) (hsub : e.w.sub = 4) (hcount : (e.elem s).count = 1) :
    tileBody e s0 = e.verOut s := by
  obtain ⟨-, hs, -, hnext, hfix⟩ := h
  simp [tileBody, ← hs, hst, Nat.not_lt.mpr hnext, hsub, hfix, hcount]

theorem ringBody_of_running (hst : (e.elem s).started = true) : ringBody e s0 = e.readNext s := by
  obtain ⟨-, hs, hact, hnext, -⟩ := h
  simp [ringBody, ← hs, hst, hact, Nat.not_lt.mpr hnext]

theorem ringBody_of_begin (hst : (e.elem s).started = false) (hacc : e.w.accepts (bits e.w.imm 7 5) = true)
    (hbegin : e.beginTile s (e.elem s).inst (e.elem s).tile 0 = .ok s1) : ringBody e s0 = e.readNext s1 := by
  obtain ⟨-, hs, hact, hnext, hfix⟩ := h
  simp [ringBody, ← hs, hst, hact, Nat.not_lt.mpr hnext, hfix, hacc, hbegin]

end

/-- `ldt` and `ldver` begin the read of a descriptor's tile and take the descriptor. -/
theorem tileBody_of_descriptor {e : MemElem} {s0 s s1 : State} {d : Timed} {v : Nat} (h : DescriptorAt s0 s s1 e d v) :
    tileBody e s0 = if e.w.sub = 4 then e.verRead (s1.modCtx e.c e.x (fun k => k.pop e.i 0))
      else e.readNext (s1.modCtx e.c e.x (fun k => k.pop e.i 0)) := by
  obtain ⟨-, hst0, hs, hnext, hst, hd, hfix, hkind, hport, hacc, hlane, rfl, hok, hbegin⟩ := h
  simp [tileBody, hst0, ← hs, hst, Nat.not_lt.mpr hnext, hd, hfix, hkind, hport, hacc, hlane, hok, hbegin]

/-- The descriptor taken, the read is for the descriptor's number, and no verdict has a train for it (R235). -/
theorem fixOf_of_descriptor {e : MemElem} {s0 s s1 : State} {d : Timed} {v : Nat} (h : DescriptorAt s0 s s1 e d v) :
    ((s1.modCtx e.c e.x (fun k => k.pop e.i 0)).ctx e.c e.x).fixOf e.i
      (e.elem (s1.modCtx e.c e.x (fun k => k.pop e.i 0))).inst = none := by
  obtain ⟨-, -, -, -, -, -, hfix, -, -, -, -, -, -, hbegin⟩ := h
  obtain ⟨hinst, hfixes⟩ := beginTile_ok hbegin
  have hinst' : (e.elem (s1.modCtx e.c e.x (fun k => k.pop e.i 0))).inst = d.inst := by
    rw [← hinst, MemElem.elem, modCtx_ctx_same]
    rfl
  rw [hinst', modCtx_ctx_same, ← hfix]
  exact fixOf_congr hfixes e.i d.inst

/-! ## The LD words -/

/-- Settles O43: each word's meaning is a step of a memory element, whose body asks for its train or reads it. -/
theorem loadWordsFire : Obligations.LoadWordsFire := by
  refine ⟨?ld, ?ldt, ?ldver, ?ldring, ?running⟩
  case ld =>
    intro s0 s s1 f e q hw h hq hctx hread hfmt hafter
    obtain ⟨r, hbody, hr⟩ := ldBody_of_stream h hq hctx hread hfmt hafter
    exact ⟨r, (memElement_of_at h.1 hw ldBody).trans (by rw [hbody]), hr⟩
  case ldt =>
    intro s0 s s1 s2 f e d v hw h hread hafter
    have hbody : tileBody e s0 = e.readOn (s2.notLate e.c e.x e.i) := by
      rw [tileBody_of_descriptor h, if_neg (by simp [hw]), readNext_of_mayRead (fixOf_of_descriptor h) hread hafter]
    exact (memElement_of_at h.1 hw tileBody).trans (by rw [hbody])
  case ldver =>
    intro s0 s s1 f e d v hw h
    have hbody : tileBody e s0 = e.verRead (s1.modCtx e.c e.x (fun k => k.pop e.i 0)) := by
      rw [tileBody_of_descriptor h, if_pos (by simp [hw])]
    exact (memElement_of_at h.1 hw tileBody).trans (by rw [hbody])
  case ldring =>
    intro s0 s s1 s2 f e hw h
    have hstep := memElement_of_at h.1 hw ringBody
    obtain ⟨-, -, -, -, hfix⟩ := id h
    refine ⟨fun hst hread hafter => hstep.trans ?_, fun hst hacc hbegin hread hafter => hstep.trans ?_⟩
    · rw [ringBody_of_running h hst, readNext_of_mayRead hfix hread hafter]
    · obtain ⟨hinst, hfixes⟩ := beginTile_ok hbegin
      have hfix' : (s1.ctx e.c e.x).fixOf e.i (e.elem s1).inst = none := by rw [hinst, ← hfix, fixOf_congr hfixes]
      rw [ringBody_of_begin h hst hacc hbegin, readNext_of_mayRead hfix' hread hafter]
  case running =>
    intro s0 s s1 f e h hst
    obtain ⟨hat, -, -, -, hfix⟩ := id h
    refine ⟨fun hw hread hafter => (memElement_of_at hat hw tileBody).trans ?_, fun hw hcount =>
      (memElement_of_at hat hw tileBody).trans ?_⟩
    · rw [tileBody_of_running h hst (by simp [hw]), readNext_of_mayRead hfix hread hafter]
    · rw [tileBody_of_matched h hst (by simp [hw]) hcount]

end Sys2Proof.Machine
end

section
/-! O44: `ldg` and the ST words (R195 to R200, R263). -/
namespace Sys2Proof.Machine

/-! ## The heads of a firing -/

/-- A head among those of a firing is its port's. -/
theorem head_of_headsOf {k : Ctx} {i p : Nat} {t : Timed} {ps : List Nat} {hs : List (Nat × Timed)}
    (h : headsOf k i ps = some hs) (ht : headAt hs p = some t) : k.head i p = some t := by
  induction ps generalizing hs with
  | nil =>
    cases h
    cases ht
  | cons r ps ih =>
    cases hr : k.head i r with
    | none => simp [headsOf, hr] at h
    | some u =>
      cases hl : headsOf k i ps with
      | none => simp [headsOf, hr, hl] at h
      | some l =>
        obtain rfl : (r, u) :: l = hs := by simpa [headsOf, hr, hl] using h
        by_cases hp : r = p
        · subst hp
          rw [hr, ← ht]
          simp [headAt]
        · exact ih hl (by simpa [headAt, hp] using ht)

/-- The after port aside, a port's head is among those of the data ports. -/
theorem headAt_dataHeads (hs : List (Nat × Timed)) {p : Nat} (hp : p ≠ 2) : headAt (dataHeads hs) p = headAt hs p := by
  simp only [headAt, dataHeads, List.find?_filter]
  congr 2
  funext h
  by_cases hh : h.1 = p
  · simp [hh, hp]
  · simp [hh]

theorem trainAt_dataHeads {hs : List (Nat × Timed)} {a : Timed} (h : headAt hs 0 = some a) :
    trainAt (dataHeads hs) 0 = a.train :=
  trainAt_of_head ((headAt_dataHeads hs (by decide)).trans h)

/-! ## The common start of ldg and the ST words -/

/-- Resting an element leaves its context's block, slot and steered train. -/
theorem freshElem_frame (s : State) (c x i : Nat) : ((s.freshElem c x i).ctx c x).block = (s.ctx c x).block ∧
    ((s.freshElem c x i).ctx c x).slot = (s.ctx c x).slot ∧ ((s.freshElem c x i).ctx c x).steer = (s.ctx c x).steer := by
  obtain h | ⟨n, h⟩ := freshElem_cases s c x i
  · simp [h]
  · rw [h, modCtx_ctx_same]
    exact ⟨rfl, rfl, rfl⟩

theorem memElemAt_of_fires {s0 s : State} {e : MemElem} {hs : List (Nat × Timed)} (h : Fires s0 s e.w e.c e.x e.i e.b hs) :
    MemElemAt s0 e := by
  obtain ⟨rfl, hcur, hb, hslot, hst, hi, hfb, -⟩ := h
  obtain ⟨hblock, hslot0, hsteer⟩ := freshElem_frame s0 e.c e.x e.i
  exact ⟨(freshElem_cur s0 e.c e.x e.i).symm.trans hcur, hblock.symm.trans hb, hslot0.symm.trans hslot,
    hsteer.symm.trans hst, hi, hfb⟩

section
variable {s0 s : State} {e : MemElem} {hs : List (Nat × Timed)} {a : Timed} {q : PortEntry} (h : MemFires s0 s e hs a q)
include h

theorem not_all_eos_of_memFires : ∃ h ∈ hs, h.2.train.kind ≠ .eos := by
  obtain ⟨-, hne, ha, -⟩ := h
  obtain ⟨p, hp, -⟩ := Option.map_eq_some_iff.mp ha
  have hmem := List.mem_of_find?_eq_some hp
  exact ⟨p, hmem, hne p hmem⟩

/-- The port's entry is there for a first train (R263). -/
theorem entryGate_of_memFires : e.entryGate s a = none := by
  obtain ⟨-, hne, ha, hq, hctx, hfirst⟩ := h
  have heos : isEos a = false := isEos_headAt hne ha
  obtain hfirst | hfirst := hfirst
  · simp [MemElem.entryGate, hfirst]
  · simp [MemElem.entryGate, heos, hq, hctx, hfirst]

/-- An element that makes its accesses has nothing before them. -/
theorem lockStepMem_of_memFires (fire : MemFire) : lockStepMem fire e s0 = fire e s hs := by
  have hgate := entryGate_of_memFires h
  obtain ⟨hf, hne, ha, -⟩ := h
  have heos : isEos a = false := isEos_headAt hne ha
  have hgo := prelude_of_fires hf
  obtain ⟨hs0, -, -, -, -, -, -, hheads, -⟩ := hf
  simp [lockStepMem, ← hs0, head_of_headsOf hheads ha, hgate, heos, hgo]

theorem lockStepElement_of_memFires {kind sub : Nat} {f : Fab} (hw : e.w = { kind := kind, sub := sub, f := f }) (fire : MemFire) :
    lockStepElement kind sub f fire s0 = .next (fire e s hs).tick := by
  rw [lockStepElement, memStep_of_at (memElemAt_of_fires h.1) hw, lockStepMem_of_memFires h]

end

/-! ## An ST word's use of its port's entry (R196, R198) -/

theorem storeEntryBad_eq_none {w : FWord} {x fmt : Nat} {q : PortEntry} (hctx : q.ctx = x)
    (hfmt : stFmtOk w fmt q.pattern = true) (hwrites : w.sub = 0 → patWrites q.pattern = true) :
    storeEntryBad w x fmt q = none := by
  simp +contextual [storeEntryBad, hctx, hfmt, hwrites]

theorem indexIn_eq_false {w : FWord} {ds : List (Nat × Timed)} {q : PortEntry} {j : Nat} (h0 : w.sub ≠ 0)
    (h : storeIndex w ds j < 0 ∨ (patCount q.pattern (if w.sub = 4 then 1 else 0) : Int) ≤ storeIndex w ds j) :
    indexIn w ds q j = false := by
  obtain h | h := h
  · simp [indexIn, h0, Int.not_le.mpr h]
  · simp [indexIn, h0, Int.not_lt.mpr h]

theorem firingKind_of_data {hs : List (Nat × Timed)} (h : ∀ h ∈ hs, h.2.train.kind = .data) : firingKind hs = .data := by
  have hnone {k : TokenKind} (hk : TokenKind.data ≠ k) : hs.any (fun h => h.2.train.kind == k) = false :=
    List.any_eq_false.mpr fun p hp => by simp [h p hp, hk]
  simp [firingKind, hnone]

/-- An entry of the word's own context can be bad in its format alone. -/
theorem storeEntryBad_of_own {w : FWord} {x fmt : Nat} {q : PortEntry} {f : FaultCode} (hctx : q.ctx = x)
    (h : storeEntryBad w x fmt q = some f) : f = .formatUnaccepted := by
  simp only [storeEntryBad, hctx, ne_eq, not_true_eq_false, if_false] at h
  split at h <;> cases h
  rfl

/-! ## Trains that pass with no access (R195 to R197) -/

section
variable {e : MemElem} {s : State} {hs : List (Nat × Timed)}

theorem stFire_of_eos (h : ∀ h ∈ hs, h.2.train.kind = .eos) : stFire e s hs = memEos e s hs 0 := by
  simp only [stFire, allEos_of_eos h, if_true]

theorem ldgFire_of_eos (h : ∀ h ∈ hs, h.2.train.kind = .eos) :
    ldgFire e s hs = memEos e s hs (trainAt (dataHeads hs) 0).fmt := by
  simp only [ldgFire, allEos_of_eos h, if_true]

variable (hne : ∃ h ∈ hs, h.2.train.kind ≠ .eos)
include hne

theorem ldgFire_of_kind (ha : (trainAt (dataHeads hs) 0).kind ≠ .data) : ldgFire e s hs =
    memPass e s hs (trainAt (dataHeads hs) 0).kind (trainAt (dataHeads hs) 0).fmt := by
  simp [ldgFire, allEos_of_not_eos hne, ha]

theorem stFire_of_null (hnull : ∃ h ∈ dataHeads hs, h.2.train.kind = .null) :
    stFire e s hs = memPass e s hs (firingKind (dataHeads hs)) 0 := by
  have hany : (dataHeads hs).any (fun h => h.2.train.kind == .null) = true := by simpa using hnull
  simp only [stFire, allEos_of_not_eos hne, hany, Bool.false_eq_true, if_true, if_false]

variable (hnull : ∀ h ∈ dataHeads hs, h.2.train.kind ≠ .null)
include hnull

theorem stFire_of_poison_index (hsub : e.w.sub ≠ 0) (hix : (trainAt (dataHeads hs) 1).kind = .poison) :
    stFire e s hs = memPass e (s.countEvent e.c 12 e.x 1) hs .poison 0 := by
  have hany : (dataHeads hs).any (fun h => h.2.train.kind == .null) = false := by simpa using hnull
  simp [stFire, allEos_of_not_eos hne, hany, hsub, hix]

/-! ## Trains that are stored (R196, R198) -/

variable {q : PortEntry} (hix : e.w.sub = 0 ∨ (trainAt (dataHeads hs) 1).kind ≠ .poison)
  (hbusy : e.w.sub = 0 → (e.elem s).busy = false) (hq : (s.core e.c).activeEntry e.port = some q)
include hix hbusy hq

omit hne hq in
/-- Then it neither passes its train with no access nor is past the end of its stream. -/
theorem store_gates : (dataHeads hs).any (fun h => h.2.train.kind == .null) = false ∧
    (decide (e.w.sub ≠ 0) && (trainAt (dataHeads hs) 1).kind == .poison) = false ∧
    (decide (e.w.sub = 0) && (e.elem s).busy) = false := by
  refine ⟨by simpa using hnull, ?_, by simpa using hbusy⟩
  obtain h | h := hix <;> simp [h]

/-- On an entry it may use, an ST word stores the lanes whose index lies in the table; an index outside faults, unless the train is
poison. -/
theorem stFire_of_entry (hgood : storeEntryBad e.w e.x (trainAt (dataHeads hs) 0).fmt q = none) : stFire e s hs =
    if !(firingKind (dataHeads hs) == .poison) && !(storeLanes e.w (dataHeads hs)).all (indexIn e.w (dataHeads hs) q)
    then e.fault s .gatherIndex (tagOf hs)
    else storeNow e s hs q ((storeLanes e.w (dataHeads hs)).filter (indexIn e.w (dataHeads hs) q)) := by
  obtain ⟨hany, hindex, hend⟩ := store_gates hnull hix hbusy
  simp only [stFire, allEos_of_not_eos hne, hany, hindex, hend, hq, hgood, Bool.false_eq_true, if_false]

/-- A poison train faults on no entry of its own context: where the entry is no stream that reads, its lanes are stored as poison. -/
theorem stFire_of_poison (hpoison : firingKind (dataHeads hs) = .poison) (hctx : q.ctx = e.x)
    (hwrites : e.w.sub = 0 → patWrites q.pattern = true) : stFire e s hs =
    storeNow e s hs q ((storeLanes e.w (dataHeads hs)).filter (indexIn e.w (dataHeads hs) q)) := by
  cases hbad : storeEntryBad e.w e.x (trainAt (dataHeads hs) 0).fmt q with
  | none =>
    rw [stFire_of_entry hne hnull hix hbusy hq hbad, hpoison]
    exact if_neg (by simp)
  | some f =>
    obtain rfl : f = .formatUnaccepted := storeEntryBad_of_own hctx hbad
    obtain ⟨hany, hindex, hend⟩ := store_gates hnull hix hbusy
    have hstores : (e.w.sub == 0 && !patWrites q.pattern) = false := by simpa using hwrites
    simp only [stFire, allEos_of_not_eos hne, hany, hindex, hend, hq, hbad, hpoison, hstores, Bool.false_eq_true, if_false]
    rfl

end

/-! ## The request of an ST word (R196 to R200) -/

theorem stAccesses_addr_of_table {w : FWord} (h0 : w.sub ≠ 0) (h4 : w.sub ≠ 4) (a : Train) (q : PortEntry) (ix : Nat → Int)
    (items : List (Nat × Nat × Bool)) : (stAccesses w a q ix items).map (·.addr) =
      items.map (fun j => tableAddr q.pattern q.addend (ix j.1)) := by
  simp [stAccesses, h0, h4, Function.comp_def]

theorem stAccesses_addr_of_bins {w : FWord} (h4 : w.sub = 4) (a : Train) (q : PortEntry) (ix : Nat → Int)
    (items : List (Nat × Nat × Bool)) : (stAccesses w a q ix items).map (·.addr) =
      items.map (fun j => nth 0 q.pattern 0 + q.addend + BitVec.ofInt 64 (ix j.1 * patStride q.pattern 1)) := by
  simp [stAccesses, h4, Function.comp_def]

section
variable {e : MemElem} {s : State} {hs : List (Nat × Timed)} {q : PortEntry} {js : List Nat} {items : List (Nat × Nat × Bool)}
  {accs : List Access} {flags st n : Nat} {fr : Frame}
  (hitems : storeItems e.w (dataHeads hs) js (s.lfsr e.c e.x e.i) = (items, flags, st))
  (haccs : accs = stAccesses e.w (trainAt (dataHeads hs) 0) q (storeIndex e.w (dataHeads hs)) items)
  (hn : n = if e.w.sub ≤ 1 then lineCount (stPointers s e.c e.port e.w q accs) else accs.length)
  (hfr : (s.core e.c).frame (frameOf (tagOf hs)) = some fr)
include hitems haccs hn hfr

theorem storeNow_of_full (hfull : 1023 < fr.stores + n) : storeNow e s hs q js = s.setLate e.c e.x e.i 0 := by
  simp only [storeNow, hitems, ← haccs, ← hn, hfr, hfull, if_true]

theorem storeNow_of_room (hroom : fr.stores + n ≤ 1023) (htrap : (s.ctx e.c e.x).trapBit flags = none) {now : Nat} {t : State}
    (hnow : now = (s.ctx e.c e.x).adv)
    (ht : t = ((s.popData e.c e.x e.i hs).notLate e.c e.x e.i).setElem e.c e.x e.i
      ({ e.elem s with started := true, inst := instOf hs }.hold now now (now + e.w.delay + 1) (instOf hs))) :
    storeNow e s hs q js = (((if e.w.f.mode = 5 then t.setLfsr e.c e.x e.i st else t).modFrame e.c (frameOf (tagOf hs))
      (fun v => { v with stores := v.stores + n })).postReq e.c (storeReq s e hs accs n)).modInst e.c e.x (instOf hs)
        (fun v => { v with flags := v.flags ||| flags }) := by
  subst ht hnow
  simp only [storeNow, hitems, ← haccs, ← hn, hfr, Nat.not_lt.mpr hroom, if_false, settle, htrap]

end

/-- One ST word: what it stores, where its entry and its indices allow it. -/
theorem storeFires {mk : Fab → Instr} {sub : Nat} {kind : ReqKind}
    (hmk : ∀ f s, exec (mk f) s = lockStepElement 9 sub f stFire s) (hkind : reqKindOf sub = kind) : StoreFires mk sub kind := by
  intro s0 s f e hs a q fr n flags st now js items accs hw hf hnull hstream hjs hidx hfmt hnow hitems haccs hn hfr
  obtain ⟨-, -, hhead, hq, hctx, -⟩ := id hf
  have hsub : e.w.sub = sub := by rw [hw]
  have hmode : e.w.f.mode = f.mode := by rw [hw]
  have ha : trainAt (dataHeads hs) 0 = a.train := trainAt_dataHeads hhead
  rw [← ha] at haccs
  rw [← hsub] at hstream hidx hn
  have hgood : storeEntryBad e.w e.x (trainAt (dataHeads hs) 0).fmt q = none :=
    storeEntryBad_eq_none hctx (ha ▸ hfmt) fun h0 => (hstream h0).2
  have hall : ∀ j ∈ js, indexIn e.w (dataHeads hs) q j = true := by
    intro j hj
    by_cases h0 : e.w.sub = 0
    · simp [indexIn, h0]
    · obtain ⟨hlow, hhigh⟩ := (hidx h0).2 j hj
      simp [indexIn, hlow, hhigh]
  have hindex : e.w.sub = 0 ∨ (trainAt (dataHeads hs) 1).kind ≠ .poison :=
    Decidable.or_iff_not_imp_left.mpr fun h0 => by simp [(hidx h0).1]
  have hstore : stFire e s hs = storeNow e s hs q js := by
    rw [stFire_of_entry (not_all_eos_of_memFires hf) hnull hindex (fun h0 => (hstream h0).1) hq hgood, ← hjs,
      List.all_eq_true.mpr hall, List.filter_eq_self.mpr hall]
    exact if_neg (by simp)
  have hstep : exec (mk f) s0 = .next (storeNow e s hs q js).tick := by
    rw [hmk, lockStepElement_of_memFires hf hw, hstore]
  refine ⟨fun hfull => ?full, fun hroom htrap => ⟨storeReq s e hs accs n, _, rfl, ?room, ?req⟩⟩
  case full => rw [hstep, storeNow_of_full hitems haccs hn hfr hfull]
  case room => rw [hstep, storeNow_of_room hitems haccs hn hfr hroom htrap hnow rfl, hmode]
  case req =>
    refine ⟨(congrArg reqKindOf hsub).trans hkind, rfl, rfl, rfl, rfl, rfl, rfl, congrArg Train.fmt ha, rfl,
      hnow ▸ rfl, fun hlow hhigh => ?_, fun h4 => ?_⟩
    · exact haccs ▸ stAccesses_addr_of_table (by omega) (by omega) _ q _ items
    · exact haccs ▸ stAccesses_addr_of_bins (hsub.trans h4) _ q _ items

theorem storePatterns : StorePatterns := by
  intro w fmt st a js
  refine ⟨?poison, fun hmode => ?data⟩
  case poison =>
    induction js generalizing st with
    | nil => rfl
    | cons j js ih => simp [stPatterns, ih]
  case data =>
    induction js with
    | nil => rfl
    | cons j js ih => simp [stPatterns, lfsrAfter, hmode, ih]

/-! ## ldg (R195) -/

section
variable {e : MemElem} {s : State} {hs : List (Nat × Timed)} {a : Train} {q : PortEntry}
  (hne : ∃ h ∈ hs, h.2.train.kind ≠ .eos) (ht : trainAt (dataHeads hs) 0 = a) (ha : a.kind = .data)
  (hq : (s.core e.c).activeEntry e.port = some q) (hctx : q.ctx = e.x)
include hne ht ha hq hctx

theorem ldgFire_of_other_format (hfmt : e.w.accepts (patFmt q.pattern) = false ∨ laneBits (patFmt q.pattern) ≠ laneBits a.fmt ∨
    2 ^ patSize q.pattern ≠ laneBits (patFmt q.pattern) / 8) : ldgFire e s hs = e.fault s .formatUnaccepted a.tag := by
  have hbad : (!e.w.accepts (patFmt q.pattern)) = true ∨ laneBits (patFmt q.pattern) ≠ laneBits a.fmt ∨
      2 ^ patSize q.pattern ≠ laneBits (patFmt q.pattern) / 8 := by simpa using hfmt
  simp only [ldgFire, allEos_of_not_eos hne, ht, ha, hq, hctx, ne_eq, not_true_eq_false, Bool.false_eq_true, if_false]
  exact if_pos hbad

variable (hacc : e.w.accepts (patFmt q.pattern) = true) (hwidth : laneBits (patFmt q.pattern) = laneBits a.fmt)
  (hsize : 2 ^ patSize q.pattern = laneBits (patFmt q.pattern) / 8)
include hacc hwidth hsize

theorem ldgFire_of_index_outside
    (hix : ∃ p ∈ indexLanes e.w.uns a, p.2 < 0 ∨ (patCount q.pattern 0 : Int) ≤ p.2) :
    ldgFire e s hs = e.fault s .gatherIndex a.tag := by
  have hany : (indexLanes e.w.uns a).any (fun p => p.2 < 0 || (patCount q.pattern 0 : Int) ≤ p.2) = true := by simpa using hix
  simp only [ldgFire, allEos_of_not_eos hne, ht, ha, hq, hctx, hacc, hwidth.symm, hsize, hany, ne_eq, not_true_eq_false,
    Bool.not_true, Bool.false_eq_true, or_self, if_false, if_true]

/-- Where every index lies in the table, one read request has an access for each. -/
theorem ldgFire_of_indices (hix : ∀ p ∈ indexLanes e.w.uns a, 0 ≤ p.2 ∧ p.2 < (patCount q.pattern 0 : Int)) {now : Nat}
    (hnow : now = (s.ctx e.c e.x).adv) : ∃ r : MemReq,
    ldgFire e s hs = (((s.popData e.c e.x e.i hs).notLate e.c e.x e.i).setElem e.c e.x e.i
      ({ e.elem s with started := true, inst := instOf hs }.hold now now (now + 1) (instOf hs))).postReq e.c r ∧
    r.kind = .read ∧ r.ctx = e.x ∧ r.idx = e.i ∧ r.inst = instOf hs ∧ r.port = some e.port ∧ r.fmt = patFmt q.pattern ∧
    r.tag = a.tag ∧ r.due = now + e.w.delay ∧
    r.accs.map (·.addr) = (indexLanes e.w.uns a).map (fun p => tableAddr q.pattern q.addend p.2) ∧
    r.accs.map (·.lane) = (indexLanes e.w.uns a).map (·.1) ∧ ∀ v ∈ r.accs, v.size = laneBits (patFmt q.pattern) / 8 := by
  have hany : (indexLanes e.w.uns a).any (fun p => p.2 < 0 || (patCount q.pattern 0 : Int) ≤ p.2) = false := by
    simpa using hix
  subst hnow
  simp only [ldgFire, allEos_of_not_eos hne, ht, ha, hq, hctx, hacc, hwidth.symm, hsize, hany, ne_eq, not_true_eq_false,
    Bool.not_true, Bool.false_eq_true, or_self, if_false]
  refine ⟨_, rfl, rfl, rfl, rfl, rfl, rfl, rfl, rfl, rfl, List.map_map, List.map_map, fun v hv => ?_⟩
  obtain ⟨p, -, rfl⟩ := List.mem_map.mp hv
  rfl

end

/-- A lane's index is its value as bit [9] has it read (log 91). -/
theorem mem_indexLanes {uns : Bool} {a : Train} {j : Nat} {v hi : Int} (hj : j < lanesOf a.fmt) (hfmt : isInt a.fmt = true)
    (hlane : a.lane j = .int v hi) : (j, readInt a.fmt uns v) ∈ indexLanes uns a := by
  have hbits : 0 < laneBits a.fmt := by
    refine Nat.pos_of_ne_zero fun h0 => ?_
    simp [lanesOf, h0] at hj
  have hgov : govLane a (laneBits a.fmt) j = .int v hi := by
    rw [govLane, Nat.mul_div_cancel_left _ hbits, hlane]
  have hindex : indexAt uns a (laneBits a.fmt) j = some (readInt a.fmt uns v) := by
    simp only [indexAt, hgov, (standsFor_readLane hfmt uns v hi).value]
  exact List.mem_filterMap.mpr ⟨j, mem_range.mpr ⟨Nat.zero_le j, by omega⟩, by simp [hindex]⟩

/-- R195: `ldg`. -/
theorem gatherFires : GatherFires := by
  rintro s0 s f e hs a q _ now _ hw hf ha rfl rfl hnow
  obtain ⟨-, -, hhead, hq, hctx, -⟩ := id hf
  have hne := not_all_eos_of_memFires hf
  have ht := trainAt_dataHeads hhead
  have hstep : exec (.fLdg f) s0 = .next (ldgFire e s hs).tick := lockStepElement_of_memFires hf hw ldgFire
  refine ⟨fun hfmt => ?_, fun hacc hwidth hsize => ⟨fun hix => ?_, fun hix => ?_⟩, fun j v h => mem_indexLanes⟩
  · rw [hstep, ldgFire_of_other_format hne ht ha hq hctx hfmt]
  · rw [hstep, ldgFire_of_index_outside hne ht ha hq hctx hacc hwidth hsize hix]
  · obtain ⟨r, hr, hreq⟩ := ldgFire_of_indices hne ht ha hq hctx hacc hwidth hsize hix hnow
    exact ⟨r, hstep.trans (by rw [hr]), hreq⟩

/-! ## The words -/

/-- Settles O44: a word that fires makes its accesses, or passes its trains with none, as its entry, its kinds and its indices say. -/
theorem gatherAndStoreWordsFire : Obligations.GatherAndStoreWordsFire := by
  refine ⟨gatherFires, storeFires (fun _ _ => rfl) rfl, storeFires (fun _ _ => rfl) rfl, storeFires (fun _ _ => rfl) rfl,
    storeFires (fun _ _ => rfl) rfl, storeFires (fun _ _ => rfl) rfl, storePatterns,
    fun e s hs _ => ⟨fun heos => ⟨stFire_of_eos heos, ldgFire_of_eos heos⟩, stFire_of_null, stFire_of_poison_index,
      ldgFire_of_kind⟩, ?outside, ?poison⟩
  case outside =>
    intro e s hs q hdata _ hne hq hctx hfmt hsub hindex ⟨j, hj, hout⟩
    have hnull : ∀ h ∈ dataHeads hs, h.2.train.kind ≠ .null := fun h hh => by simp [hdata h hh]
    have hgood := storeEntryBad_eq_none hctx hfmt fun h0 => absurd h0 (Nat.one_le_iff_ne_zero.mp hsub)
    have hbad : indexIn e.w (dataHeads hs) q j = false := indexIn_eq_false (Nat.one_le_iff_ne_zero.mp hsub) hout
    have hall : (storeLanes e.w (dataHeads hs)).all (indexIn e.w (dataHeads hs) q) = false :=
      List.all_eq_false.mpr ⟨j, hj, by simp [hbad]⟩
    rw [stFire_of_entry hne hnull (.inr (by simp [hindex])) (fun h0 => absurd h0 (Nat.one_le_iff_ne_zero.mp hsub)) hq hgood, hall,
      firingKind_of_data hdata]
    exact if_pos rfl
  case poison =>
    intro e s hs q hpoison hnull hne hindex hbusy hq hctx hwrites
    exact stFire_of_poison hne hnull (Decidable.or_iff_not_imp_left.mpr fun h0 => hindex (Nat.one_le_iff_ne_zero.mpr h0)) hbusy hq
      hpoison hctx hwrites

end Sys2Proof.Machine
end

section
/-! O45: the allocation words of the fabric (R215, R216, R219). One clause fails, at contexts above 3; the words, and what each clause
says of the contexts that there are, are proved here one by one. -/
namespace Sys2Proof.Machine

/-! ## The words fire -/

/-- An element that fires has nothing before its own work, so its step is its body, whatever it would do as a fallback. -/
theorem flowStep_of_fires {s0 s : State} {kind sub : Nat} {f : Fab} {c x i : Nat} {b : Block} {hs : List (Nat × Timed)}
    (h : Fires s0 s { kind := kind, sub := sub, f := f } c x i b hs) (fallback : FallbackBody) (body : FlowBody) :
    flowStep kind sub f fallback body s0 = .next (body { kind := kind, sub := sub, f := f } s b c x i hs).tick := by
  have hgo := prelude_of_fires h
  obtain ⟨hs0, hcur, -⟩ := h
  have hcur0 : s0.cur = { core := c, ctx := x, idx := i } := by rw [← hcur, hs0, freshElem_cur]
  simp only [flowStep, hcur0, ← hs0, hgo]

theorem flowFires_of_step {mk : Fab → Instr} {kind sub : Nat} {fallback : FallbackBody} {body : FlowBody}
    (hmk : ∀ f s, exec (mk f) s = flowStep kind sub f fallback body s) : FlowFires mk kind sub body := by
  rintro s0 s f w c x i b hs rfl hf
  rw [hmk, flowStep_of_fires hf]

theorem allocationWords_fire : FlowFires .fAlloc 11 0 allocBody ∧ FlowFires .fRelease 11 1 (tileActBody false) ∧
    FlowFires .fHandoff 11 2 (tileActBody true) :=
  ⟨flowFires_of_step fun _ _ => rfl, flowFires_of_step fun _ _ => rfl, flowFires_of_step fun _ _ => rfl⟩

/-! ## What the bodies do on data -/

section
variable {w : FWord} {s : State} {b : Block} {c x i : Nat} {hs : List (Nat × Timed)} {a : Train} (ha : a = trainAt hs 0)
  (hne : ∃ h ∈ hs, h.2.train.kind ≠ .eos) (hdata : a.kind = .data)
include ha hne hdata

theorem tileActBody_of_lane (handoff : Bool) (hlane : a.lane 0 ≠ .absent) : tileActBody handoff w s b c x i hs =
    emitOne s ((s.popData c x i hs).modInst c x (instOf hs) (fun n => { n with acts := n.acts ++
      [{ idx := i, handoff := handoff, desc := wrapInt 32 (intOf (a.lane 0)).1, owner := bits w.imm 1 0 }] }))
      b w c x i hs 0 [toAll a] := by
  subst ha
  simp only [tileActBody, allEos_of_not_eos hne, hdata, hlane, Bool.false_eq_true, ne_eq, not_true_eq_false, if_false]

variable {r : Wait} (hr : r = allocWait b w x i (instOf hs) a.tag)
include hr

theorem allocBody_collects {tile : Nat} {k : Core} (hg : (s.core c).takeGrant r.key = some (tile, k)) :
    allocBody w s b c x i hs =
      emitOne s (((s.setCore c k).popData c x i hs).notLate c x i) b w c x i hs 0 [toAll (descTrain a.tag tile)] := by
  subst ha hr
  simp only [allocBody, allEos_of_not_eos hne, hdata, hg, Option.isSome_some, Bool.false_eq_true, ne_eq, not_true_eq_false,
    if_false, if_true]

variable (hg : (s.core c).takeGrant r.key = none)
include hg

theorem allocBody_waits (hin : (s.core c).waits.any (fun v => v.key == r.key) = true) :
    allocBody w s b c x i hs = s.setLate c x i 2 := by
  subst ha hr
  simp only [allocBody, allEos_of_not_eos hne, hdata, hg, hin, Option.isSome_none, Bool.false_eq_true, ne_eq,
    not_true_eq_false, if_false, if_true]

variable (hout : (s.core c).waits.any (fun v => v.key == r.key) = false)
include hout

/-- Without a grant or a place the request is made: where it is refused the element is late. -/
theorem allocBody_requests : allocBody w s b c x i hs = (s.request c r).getD (s.setLate c x i 2) := by
  subst ha hr
  simp only [allocBody, allEos_of_not_eos hne, hdata, hg, hout, Option.isSome_none, Bool.false_eq_true, ne_eq,
    not_true_eq_false, if_false]
  cases s.request c _ <;> rfl

theorem allocBody_no_room (hfull : 64 ≤ (s.core c).waits.length) : allocBody w s b c x i hs = s.setLate c x i 2 := by
  rw [allocBody_requests ha hne hdata hr hg hout, State.request, if_pos hfull, Option.getD_none]

/-- The request of an `alloc` with room joins the list of its core and leaves memory and the control cores as they are. -/
theorem allocBody_joins (hroom : (s.core c).waits.length < 64) : ∃ t, s.request c r = some t ∧ allocBody w s b c x i hs = t ∧
    (t.core c).waits.any (fun v => v.key == r.key) = true ∧ t.mem = s.mem ∧ t.regions = s.regions := by
  obtain ⟨t, ht⟩ : ∃ t, s.request c r = some t := ⟨_, if_neg (Nat.not_le.mpr hroom)⟩
  refine ⟨t, ht, by rw [allocBody_requests ha hne hdata hr hg hout, ht, Option.getD_some], request_waits ht, ?_, ?_⟩
  · rw [request_some ht, setCore_mem]
  · rw [request_some ht, setCore_regions]

/-- The clause of O45 that fails, for the contexts that there are: the pool of the request is served at the end of the beat. -/
theorem allocBody_touches (hx : x < 4) (hroom : (s.core c).waits.length < 64) :
    r.pool ∈ ((allocBody w s b c x i hs).core c).touched := by
  obtain ⟨t, ht, hbody, -⟩ := allocBody_joins ha hne hdata hr hg hout hroom
  have hpool : r.pool < 4 := by
    rw [hr, allocWait]
    dsimp only
    split
    · exact Nat.mod_lt _ (by decide)
    · exact hx
  rw [hbody]
  exact request_touched ht hpool

end

/-! ## A request of a context that no core has -/

/-- An `alloc` whose parameter names no pool. -/
def ownPoolAlloc : FWord := { kind := 11, sub := 0, f := default }

/-- A data train at port a. -/
def dataHead : Nat × Timed := (0, { (default : Timed) with train := kindTrain .data 0 0 })

/-- The request of the element in context 4 joins the list of core 0, and touches no pool. -/
theorem fifthContext_touches_none :
    ((allocBody ownPoolAlloc State.reset default 0 4 0 [dataHead]).core 0).touched = [] := by decide

/-- Refutes O45: the context of the element is any number in the statement, where a core has four. In context 4 an `alloc` that
names no pool asks for pool 4 and joins the list, but the beat marks the four pools of R219 alone. -/
theorem not_allocationWordsFire : ¬ Obligations.AllocationWordsFire := by
  rintro ⟨-, -, -, hbody⟩
  obtain ⟨-, -, hplaces, -⟩ := hbody ownPoolAlloc State.reset default 0 4 0 0 default [dataHead] _ rfl
    ⟨dataHead, List.mem_singleton_self _, by decide⟩ rfl
  obtain ⟨hroom, -⟩ := hplaces rfl rfl
  obtain ⟨t, rfl, -, hpool, -⟩ := hroom (by decide)
  rw [fifthContext_touches_none] at hpool
  exact List.not_mem_nil hpool

end Sys2Proof.Machine
end

section
/-! O51: register banks pass between frames, spilled banks move, and the deadlock watch fires (R222 to R226, R245). -/
namespace Sys2Proof.Machine

/-- The entry that is least by one number, or by a second among equals, is picked. -/
theorem pickFirst_of_least {α : Type} {key tie : α → Nat} {l : List α} {m : α} (hm : m ∈ l)
    (h : ∀ e ∈ l, e = m ∨ key m < key e ∨ (key m = key e ∧ tie m < tie e)) :
    pickFirst (fun a b => key a < key b || (key a == key b && tie a < tie b)) l = some m := by
  refine pickFirst_eq_of_first hm fun e he => (h e he).imp_right ?_
  simp only [Bool.or_eq_true, Bool.and_eq_true, Bool.or_eq_false_iff, Bool.and_eq_false_iff, decide_eq_true_eq,
    decide_eq_false_iff_not, beq_iff_eq, beq_eq_false_iff_ne]
  omega

/-! ## Banks pass (R224, R225, R245) -/

/-- A bank passes to the context's spilled frame opened first. -/
theorem passBank_of_first {k : Core} {x b n : Nat} {f : Frame} (hb : b < 4) (hmem : (n, f) ∈ k.frames) (hx : f.ctx = x)
    (hbank : f.bank = 4) (hfirst : ∀ g ∈ k.frames, g.2.ctx = x → g.2.bank = 4 → g = (n, f) ∨ f.opened < g.2.opened ∨
      (f.opened = g.2.opened ∧ n < g.1)) :
    k.passBank x b = { k with frames := sput k.frames n { f with bank := b, rests := k.beat + 8 } } := by
  have hpick : pickFirst (fun (a b : Nat × Frame) => a.2.opened < b.2.opened || (a.2.opened == b.2.opened && a.1 < b.1))
      (k.frames.filter (fun f => f.2.ctx == x && f.2.bank == 4)) = some (n, f) := by
    refine pickFirst_of_least (key := fun p : Nat × Frame => p.2.opened) (tie := fun p => p.1)
      (by simp [hmem, hx, hbank]) fun g hg => ?_
    simp only [List.mem_filter, Bool.and_eq_true, beq_iff_eq] at hg
    obtain ⟨hg, hgx, hgbank⟩ := hg
    exact hfirst g hg hgx hgbank
  rw [Core.passBank, if_neg (Nat.not_le.mpr hb), hpick]

theorem exec_bankHandover {s : State} {c x : Nat} {k : Core} {b : Nat} (hk : k = (s.core c).freeMoved x)
    (hb : (range 0 4).find? (fun b => !k.bankUsed x b) = some b) :
    exec (.bankHandover c x) s = .next (s.setCore c (k.passBank x b)).tick := by
  subst hk
  change execBankHandover c x s = _
  simp only [execBankHandover, hb]

/-- A frame that could fire takes the bank of the idle resident frame that fired least recently. -/
theorem exec_registerBankSwap {s : State} {c m n : Nat} {k : Core} {f g : Frame} (hk : k = s.core c)
    (hf : k.frame m = some f) (hbank : f.bank = 4) (hrest : f.rests ≤ k.beat) (hmatch : matched k f.ctx (2 ^ 56 * m) = true)
    (hg : (n, g) ∈ k.frames.filter (fun q => q.2.ctx == f.ctx && q.2.bank < 4 && q.2.inflight == 0 && q.2.rests ≤ k.beat))
    (hfirst : ∀ q ∈ k.frames.filter (fun q => q.2.ctx == f.ctx && q.2.bank < 4 && q.2.inflight == 0 && q.2.rests ≤ k.beat),
      q = (n, g) ∨ g.lastFire < q.2.lastFire ∨ (g.lastFire = q.2.lastFire ∧ n < q.1)) :
    exec (.registerBankSwap c m) s = .next (s.setCore c { k with
      frames := sput (sput k.frames m { f with bank := g.bank, rests := k.beat + 8 }) n
        { g with bank := 4, rests := k.beat + 8 },
      spill := k.spill.map (fun e => (e.1, if e.2.frame = m then { e.2 with frame := n } else e.2)) }).tick := by
  subst hk
  have hpick := pickFirst_of_least (key := fun p : Nat × Frame => p.2.lastFire) (tie := fun p => p.1) hg hfirst
  have hgo : ¬(f.bank ≠ 4 ∨ (s.core c).beat < f.rests ∨
      (!((2 ^ 56 * m) :: ((s.core c).store.filter (fun t => frameOf t.tok.tag == m)).map (fun t => t.tok.tag)).any
        (matched (s.core c) f.ctx)) = true) := by
    rw [List.any_cons, hmatch]
    simp [hbank, hrest]
  change execRegisterBankSwap c m s = _
  simp only [execRegisterBankSwap, hf, if_neg hgo, hpick]

/-! ## A spilled bank leaves a column (R226) -/

/-- A place for a bank of a context is a register bank, or a column that is not to be avoided. -/
theorem spillPlace_allowed {k : Core} {x : Nat} {avoid : Nat → Bool} {v : Spill} (h : k.spillPlace x avoid = some v) :
    (v.inBank = true ∨ avoid v.place = false) ∧ v.ctx = x := by
  unfold Core.spillPlace at h
  split at h
  case h_1 n hn =>
    obtain rfl := Option.some.inj h
    have hfree := List.find?_some hn
    simp only [Bool.and_eq_true, Bool.not_eq_true'] at hfree
    exact ⟨.inr hfree.1, rfl⟩
  case h_2 =>
    split at h
    · obtain rfl := Option.some.inj h
      exact ⟨.inl rfl, rfl⟩
    · cases h

/-- Whether an order that waits at the matrix node of a core names a column. -/
def Core.orderNames (k : Core) (col : Nat) : Bool := k.mx.queue.any (fun q =>
  128 * (orderFields q.word).bank + (orderFields q.word).base ≤ col &&
    col ≤ 128 * (orderFields q.word).bank + (orderFields q.word).base + (orderFields q.word).n1)

theorem exec_spillBankMove {s : State} {c e : Nat} {p v : Spill} (hp : sfind (s.core c).spill e = some p)
    (hin : p.inBank = false) (hwant : (s.core c).orderNames p.place = true)
    (hv : (s.core c).spillPlace p.ctx (s.core c).orderNames = some v) :
    exec (.spillBankMove c e) s = .next (s.setCore c { s.core c with
      spill := sput (s.core c).spill e { v with frame := p.frame },
      frames := ((s.core c).frame p.frame).elim (s.core c).frames
        (fun f => sput (s.core c).frames p.frame { f with rests := (s.core c).beat + 8 }),
      clearing := (p.place, (s.core c).beat + 8) :: (s.core c).clearing }).tick := by
  unfold Core.orderNames at hwant hv
  change execSpillBankMove c e s = _
  simp only [execSpillBankMove, hp, hin, hwant, hv, Core.frame]
  cases sfind (s.core c).frames p.frame <;> rfl

/-! ## The deadlock watch (R222, R223) -/

theorem exec_allocDeadlock {s : State} {c : Nat} (h : 65536 ≤ (s.core c).dead) :
    exec (.allocDeadlock c) s = .next (raiseDeadlock (s.setCore c { s.core c with dead := 0 }) c).tick := by
  change execAllocDeadlock c s = _
  simp only [execAllocDeadlock, if_neg (Nat.not_lt.mpr h)]

theorem raise_dead (s : State) (c x i : Nat) (f : FaultCode) (detail tag addr : Nat) :
    ((s.raise c x i f detail tag addr).core c).dead = (s.core c).dead := by
  simp only [State.raise, State.raiseFrame, setCore_core_same]

section
variable {s : State} {c : Nat} {k : Core} (hk : s.core c = k)
include hk

theorem raiseDeadlock_alloc {w : Wait} {idx inst : Nat} (hw : oldestWait k.waits = some w) (hwho : w.who = .alloc idx inst) :
    raiseDeadlock s c =
      s.raise c w.owner idx .allocDeadlock 0 (((k.ctx w.owner).inst inst).elim (2 ^ 56 * w.frame) (·.tag)) 0 := by
  simp only [raiseDeadlock, hk, hw, hwho]
  cases (k.ctx w.owner).inst inst <;> rfl

theorem raiseDeadlock_other {w : Wait} (hw : oldestWait k.waits = some w) (hwho : ∀ idx inst, w.who ≠ .alloc idx inst) :
    raiseDeadlock s c = s.raiseAsync (regionOf c) (Trap.engine FaultCode.allocDeadlock.code c w.owner 0 0 0) := by
  simp only [raiseDeadlock, hk, hw]

theorem raiseDeadlock_idle {y : Nat} (hw : k.waits = []) (hy : (range 0 4).find? k.hasFrames = some y) :
    raiseDeadlock s c = s.raiseAsync (regionOf c) (Trap.engine FaultCode.allocDeadlock.code c y 0 0 0) := by
  simp only [raiseDeadlock, hk, hw, oldestWait, pickFirst, hy]

end

/-- An asynchronous trap reaches no core. -/
theorem raiseAsync_core (s : State) (r : Nat) (t : Trap) (d : Nat) : (s.raiseAsync r t).core d = s.core d := by
  simp only [State.core, raiseAsync_cores]

/-- Settles O51: each happening of the banks picks the frame or the place that its rule names, and the watch the entry. -/
theorem bankHappenings : Obligations.BankHappenings := by
  intro s c x
  refine ⟨?handover, ?swap, ?move, fun hdead => ?watch⟩
  case handover =>
    intro k b n f hk hb hlt hmem hx hbank hfirst
    rw [exec_bankHandover hk hb, passBank_of_first hlt hmem hx hbank hfirst]
  case swap =>
    intro m f n g hf hbank hrest hmatch hmem hgx hgbank hidle hgrest hfirst
    refine exec_registerBankSwap rfl hf hbank hrest hmatch ?_ fun q hq => ?_
    · simp [hmem, hgx, hgbank, hidle, hgrest]
    · simp only [List.mem_filter, Bool.and_eq_true, beq_iff_eq, decide_eq_true_eq] at hq
      obtain ⟨hq, ⟨⟨hqx, hqbank⟩, hqidle⟩, hqrest⟩ := hq
      exact hfirst q hq hqx hqbank hqidle hqrest
  case move =>
    rintro e p v _ rfl hp hin hwant hv
    refine ⟨_, exec_spillBankMove hp hin hwant hv, ?_, spillPlace_allowed hv⟩
    cases (s.core c).frame p.frame <;> rfl
  case watch =>
    have hcore := setCore_core_same s c { s.core c with dead := 0 }
    refine ⟨fun w idx inst hw hwho => ?alloc, fun w hw hwho => ?other, fun y hw hy => ?idle⟩
    case alloc =>
      refine ⟨(((s.core c).ctx w.owner).inst inst).elim (2 ^ 56 * w.frame) (·.tag), _, exec_allocDeadlock hdead, ?_, ?_,
        fun v hv => ?_, fun hnone => ?_⟩
      · rw [raiseDeadlock_alloc hcore hw hwho, tick_core, raise_dead, hcore]
      · rw [raiseDeadlock_alloc hcore hw hwho]
        rfl
      · rw [hv, Option.elim_some]
      · rw [hnone, Option.elim_none]
    case other =>
      have hraise := raiseDeadlock_other hcore hw hwho
      exact ⟨_, exec_allocDeadlock hdead, by rw [hraise, tick_core, raiseAsync_core, hcore], by rw [hraise]⟩
    case idle =>
      have hraise := raiseDeadlock_idle hcore hw hy
      exact ⟨_, exec_allocDeadlock hdead, by rw [hraise, tick_core, raiseAsync_core, hcore], by rw [hraise]⟩

end Sys2Proof.Machine
end

section
/-! O55: the copy unit (R214, R249 to R254, R260, R284, R306, R366). One clause fails, where a target of a multicast is away; that clause
with what it leaves out, and the others, are proved here one by one. -/
namespace Sys2Proof.Machine

/-! ## The queues of a unit -/

section
variable (s : State) (c cls : Nat)

theorem modCopy_copy (f : CopyUnit → CopyUnit) : ((s.modCopy c f).core c).copy = f (s.core c).copy := by
  rw [State.modCopy, setCore_core_same]

theorem setCopyQ_copyQ (q : List Copy) : ((s.setCopyQ c cls q).core c).copyQ cls = q := by
  rw [Core.copyQ, State.setCopyQ, modCopy_copy, sget_sput_same]

theorem setHeadCopy_copyQ (v : Copy) :
    ((s.setHeadCopy c cls v).core c).copyQ cls = v :: ((s.core c).copyQ cls).drop 1 := by
  rw [State.setHeadCopy, setCopyQ_copyQ]

end

/-! ## Heads start (R378) and take their slots (R254) -/

section
variable {s t : State} {c cls : Nat} {q v : Copy} {rest : List Copy} (hq : (s.core c).copyQ cls = q :: rest)
include hq

theorem startHeads_go (hs : q.started = false) (hgo : q.start s c = .go t v) (n : Nat) :
    s.startHeads c cls (n + 1) = t.setHeadCopy c cls v := by
  simp only [State.startHeads, hq, hs, hgo, Bool.false_eq_true, if_false]

theorem seekSlot_no_ring (hr : q.ring = none) : s.seekSlot c cls = s := by
  simp only [State.seekSlot, hq, hr]

/-- A started head that has asked for its slot takes the tile that its ring is granted. -/
theorem seekSlot_takes {r tile : Nat} {k : Core} (hs : q.started = true) (he : q.entry = none) (hr : q.ring = some r)
    (hslot : q.slotTile = none) (hasked : q.asked = true)
    (hg : (s.core c).takeGrant (slotWait ((s.ctx c q.ctx).ring r) q.ctx r cls).key = some (tile, k)) :
    s.seekSlot c cls =
      (s.setCore c k).setHeadCopy c cls { q with slotTile := some tile, slotOff := 32 * (s.tile c tile).base } := by
  simp only [State.seekSlot, hq, hr, hs, hslot, he, hasked, hg, Option.isSome_none, Bool.not_true, Bool.or_self,
    Bool.false_eq_true, if_false, if_true]

/-- A head with no ring slot to fill starts, and that is all. -/
theorem exec_copyStart_go (hs : q.started = false) (hgo : q.start s c = .go t v) (hr : v.ring = none) :
    exec (.copyStart c cls) s = .next (t.setHeadCopy c cls v).tick := by
  change Host.Outcome.next ((s.startHeads c cls 17).seekSlot c cls).tick = _
  rw [startHeads_go hq hs hgo, seekSlot_no_ring (setHeadCopy_copyQ t c cls v) hr]

end

/-! ## Rounds (R249, R250) -/

theorem exec_copyRound (s : State) (c : Nat) : exec (.copyRound c) s =
    .next (((((s.askSlots c).classTurn c 0).classTurn c 1).classTurn c 2).classTurn c 3).tick := by
  change execCopyRound c s = _
  simp only [execCopyRound, range, List.foldl_cons, List.foldl_nil]

section
variable {s t : State} {c cls : Nat} (ht : t = (s.startHeads c cls 17).seekSlot c cls)
include ht

theorem classTurn_empty (hq : (t.core c).copyQ cls = []) :
    s.classTurn c cls = t.modCopy c (fun v => { v with deficits := setNth v.deficits cls 0 }) := by
  subst ht
  simp only [State.classTurn, hq]

theorem classTurn_head {q : Copy} {rest : List Copy} (hq : (t.core c).copyQ cls = q :: rest) : s.classTurn c cls =
    if headWaits t c cls q then t else (t.modCopy c (fun v => { v with
      deficits := setNth v.deficits cls (nth 0 v.deficits cls + 1024 * nth 0 v.quanta cls) })).serveClass c cls 4096 := by
  subst ht
  simp only [State.classTurn, hq]

end

/-! ## Chunks (R252, R253, R366) -/

section
variable {s : State} {c n : Nat} {h : Chunk} {q : Copy} (hn : (s.core c).copy.chunks[n]? = some h)
  (hq : (s.core c).copy.find h.copy = some q)
include hn hq

theorem exec_chunkPerformed_reads (hf : h.fetched = false) : exec (.chunkPerformed c n) s =
    .next (if q.readsWait s c h then s else s.setChunk c n { h with
      fetched := true, ops := (h.ops.zip h.srcs).map (fun p => p.1.fetch s p.2) }).tick := by
  change execChunkPerformed c n s = _
  simp only [execChunkPerformed, hn, hq, hf, Bool.not_false, if_true]

variable (hf : h.fetched = true)
include hf

theorem exec_chunkPerformed_follows (hm : mustFollow (s.core c).copy.chunks n h = true) :
    exec (.chunkPerformed c n) s = .next s.tick := by
  change execChunkPerformed c n s = _
  simp only [execChunkPerformed, hn, hq, hf, hm, Bool.not_true, Bool.false_eq_true, if_false, if_true]

variable (hm : mustFollow (s.core c).copy.chunks n h = false)
include hm

/-- A vault that holds requests, or an update out of its turn, keeps the chunk in line. -/
theorem exec_chunkPerformed_held (hw : h.vaultHeld s = true ∨ atomicGoes s h.heldAt h.updateKeys = false) :
    exec (.chunkPerformed c n) s = .next (s.setChunk c n { h with heldAt := heldPlace s h.heldAt h.updateKeys }).tick := by
  have hstay : (h.vaultHeld s || !atomicGoes s h.heldAt h.updateKeys) = true := by simpa using hw
  change execChunkPerformed c n s = _
  simp only [execChunkPerformed, hn, hq, hf, hm, hstay, Bool.not_true, Bool.false_eq_true, if_false, if_true]

variable (hv : h.vaultHeld s = false) (ha : atomicGoes s h.heldAt h.updateKeys = true)
include hv ha

theorem exec_chunkPerformed_faults {f : FaultCode} {d addr : Nat} (hheld : h.held = false)
    (hland : q.landCheck s c h = .fault f d addr) :
    exec (.chunkPerformed c n) s = .next (s.failChunk c n q h f d addr).tick := by
  change execChunkPerformed c n s = _
  simp only [execChunkPerformed, hn, hq, hf, hm, hv, ha, hheld, hland, Bool.not_true, Bool.or_self, Bool.false_eq_true, if_false]

theorem exec_chunkPerformed_writes (hgo : h.held = true ∨ q.landCheck s c h = .ok) :
    exec (.chunkPerformed c n) s = .next (s.writeChunk c n q { h with heldAt := none }).tick := by
  change execChunkPerformed c n s = _
  simp only [execChunkPerformed, hn, hq, hf, hm, hv, ha, Bool.not_true, Bool.or_self, Bool.false_eq_true, if_false]
  obtain hheld | hland := hgo
  · rw [hheld, if_pos rfl]
  · rw [hland]
    exact congrArg (fun t : State => Host.Outcome.next t.tick) (ite_self _)

end

/-! ## The last chunk of a copy (R252 to R254) -/

section
variable (s : State) (c x r t : Nat)

/-- The tile of a ring slot that has been filled is ready. -/
theorem fillRing_ready : ((fillRing s c x r t).tile c t).state = .ready := by
  simp [fillRing, State.readyTile, State.tile, State.setTile, State.setCtx, Core.setCtx, Core.tile, Core.setTile, setEvent_core]

theorem fillRing_mem : (fillRing s c x r t).mem = s.mem := by simp [fillRing]

theorem fillRing_ring {g : Ring} (hg : g = (s.ctx c x).ring r) :
    ((fillRing s c x r t).ctx c x).ring r = { g with wp := (g.wp + 1) % 65536, tiles := g.tiles ++ [(g.wp, t)] } := by
  have hready : (s.readyTile c t).ctx c x = s.ctx c x := by
    rw [State.readyTile, State.ctx, setEvent_core, ← State.ctx, setTile_ctx]
  rw [fillRing, State.ctx, setEvent_core, ← State.ctx, setCtx_ctx_same, Ctx.setRing, Ctx.ring, sget_sput_same, hready, hg]

end

/-- The state once a copy has filled its ring slot, if it has one. -/
def Copy.filled (q : Copy) (s : State) (c : Nat) : State :=
  (q.ring.bind fun r => q.slotTile.map fun t => fillRing s c q.ctx r t).getD s

theorem fillSlot_filled {q : Copy} (he : q.entry = none) (s : State) (c : Nat) : q.fillSlot s c = (q.filled s c, true) := by
  unfold Copy.fillSlot Copy.filled
  rw [he]
  cases q.ring <;> cases q.slotTile <;> rfl

/-- A copy that ends fills its ring slot, leaves its move source empty and enters its flags. -/
theorem wrapUp_ends {q : Copy} (hc : q.cancelled = false) (he : q.entry = none) {s t : State} {c : Nat}
    (ht : t = q.moveTile.elim (q.filled s c) (fun m => (q.filled s c).vacateTile c m)) :
    q.wrapUp s c = (t.setCtx c q.ctx ((t.ctx c q.ctx).enterFlags q.flags), true) := by
  subst ht
  simp only [Copy.wrapUp, Copy.enterFlags, fillSlot_filled he, he, hc, Option.any_none, Option.isSome_none, Bool.false_and,
    Bool.not_true, Bool.false_eq_true, if_false]
  cases q.moveTile <;> rfl

section
variable {s s1 s2 : State} {c n fl : Nat} {q : Copy} {h : Chunk} {ts : List Nat}
  (hland : q.landOps c s (q.joinLines s c h.ops) = (s1, [], fl))
  (harr : { q with flags := q.flags ||| fl }.arrivals c h
    (s1.modCopy c (fun v => v.modify q.uid (fun d => { d with flags := d.flags ||| fl }))) h.targets = (s2, [], ts))
include hland harr

/-- A chunk with others of its copy before or behind it leaves the unit. -/
theorem writeChunk_not_last (hmore : (dropNth (s.core c).copy.chunks n).any (fun e => e.copy == q.uid) = true ∨
    (q.allIssued = false ∧ q.cancelled = false)) : s.writeChunk c n q h = s2.dropChunk c n h := by
  have hstay : ((dropNth (s.core c).copy.chunks n).any (fun e => e.copy == q.uid) || !(q.allIssued || q.cancelled)) = true := by
    simpa using hmore
  simp only [State.writeChunk, hland, harr, hstay, List.isEmpty_nil, Bool.not_true, Bool.false_eq_true, if_false, if_true]

/-- The last chunk ends the copy. -/
theorem writeChunk_last (hlast : (dropNth (s.core c).copy.chunks n).any (fun e => e.copy == q.uid) = false)
    (hall : q.allIssued = true) (hc : q.cancelled = false) (he : q.entry = none) {t : State}
    (ht : t = q.moveTile.elim (q.filled s2 c) (fun m => (q.filled s2 c).vacateTile c m)) :
    s.writeChunk c n q h = ((t.setCtx c q.ctx ((t.ctx c q.ctx).enterFlags (q.flags ||| fl))).dropChunk c n h).modCopy c
      (fun v => { v with flying := v.flying.filter (fun d => d.uid != q.uid) }) := by
  have hwrap : ({ q with flags := q.flags ||| fl } : Copy).wrapUp s2 c =
      (t.setCtx c q.ctx ((t.ctx c q.ctx).enterFlags (q.flags ||| fl)), true) :=
    wrapUp_ends (q := { q with flags := q.flags ||| fl }) hc he ht
  have hgo : ((dropNth (s.core c).copy.chunks n).any (fun e => e.copy == q.uid) || !(q.allIssued || q.cancelled)) = false := by
    rw [hlast, hall, Bool.true_or, Bool.not_true, Bool.or_false]
  simp only [State.writeChunk, hland, harr, hgo, hwrap, List.isEmpty_nil, Bool.not_true, Bool.false_eq_true, if_false]

end

/-! ## Arrivals at a phase counter (R252, R284) -/

theorem arrivals_no_signal {q : Copy} (hs : q.signal = none) (c : Nat) (h : Chunk) (s : State) (ds : List Nat) :
    q.arrivals c h s ds = (s, [], []) := by
  cases ds with
  | nil => rfl
  | cons d ds => simp only [Copy.arrivals, hs]

/-- The clause of O55 that fails, where nothing diverts what the copy lands at the core: the counter's home has a cycle. -/
theorem arrivals_at_counter {q : Copy} {c : Nat} {h : Chunk} {s : State} {d off k : Nat} {ks : List Nat}
    (hs : q.signal = some (0, off)) (hhere : q.entryAt s c d = none) (hlost : h.lostAt.contains d = false)
    (hwalk : walkHeld s (.context d q.ctx) off 16 = false)
    (hres : resolve s (.context d q.ctx) off 16 .atomic = .ok (k :: ks)) (htile : tileCheck (s.core d) q.ctx off 16 true = .ok)
    (hvault : vaultHeld s (k :: ks) = false) (hpoison : s.poisonedAt (k :: ks) = false) (hmark : s.marked k = true) :
    q.arrivals c h s [d] = (s.cycle k h.bytes, [], []) := by
  have harrive : q.arriveAt s c d 0 off h.bytes (h.lostAt.contains d) = (s.cycle k h.bytes, none) := by
    simp only [Copy.arriveAt, hhere, Nat.mul_zero, Nat.zero_add, hwalk, hres, hlost, htile, hvault, hpoison, List.headD_cons,
      hmark, if_true, if_false, Bool.false_eq_true, decide_true, Bool.true_and]
  simp only [Copy.arrivals, hs, harrive, if_true]

/-! ## Replies (R260) -/

theorem exec_copyReply {s : State} {c cls n m : Nat} {p : Packet} (hp : s.replyAt c cls n m = some p) :
    exec (.copyReply c cls n m) s = .next (s.replied p).tick := by
  change execCopyReply c cls n m s = _
  simp only [execCopyReply, hp]

theorem replied_of_replyAt {s : State} {c cls n m : Nat} {p : Packet} (hp : s.replyAt c cls n m = some p) :
    s.replied p = (s.delivered p).copyReply p.dst p.chunk cls n (m == 1) := by
  have hfits := List.find?_some hp
  simp only [Bool.and_eq_true, beq_iff_eq, bne_iff_ne] at hfits
  obtain ⟨⟨⟨⟨⟨-, hbytes⟩, hn⟩, hcls⟩, hmark⟩, -⟩ := hfits
  rw [State.replied, if_neg (hbytes ▸ hn), hbytes, hcls, hmark]

/-- What a reply, marked or not, makes of a class's window `w`, and of its bytes since it was halved and since the
last mark. -/
def afterReply (marked : Bool) (w half plain : Nat) : Nat × Nat × Nat :=
  if marked then if w ≤ half then (Nat.max 2048 (w / 2), 0, 0) else (w, half, 0)
  else if w ≤ plain then (Nat.min 32768 (w + 2048), half, plain - w) else (w, half, plain)

section
variable (s : State) (c id : Nat)

/-- Settling a chunk changes what is outstanding, and nothing else of the windows. -/
theorem settleChunk_windows : ((s.settleChunk c id).core c).copy.windows = (s.core c).copy.windows ∧
    ((s.settleChunk c id).core c).copy.sinceHalf = (s.core c).copy.sinceHalf ∧
    ((s.settleChunk c id).core c).copy.sinceMark = (s.core c).copy.sinceMark := by
  simp only [State.settleChunk]
  split
  · split
    · rw [modCopy_copy]
      exact ⟨rfl, rfl, rfl⟩
    · exact ⟨rfl, rfl, rfl⟩
  · exact ⟨rfl, rfl, rfl⟩

variable {s id} {cls bytes left : Nat} (hf : sfind (s.core c).copy.owing id = some (cls, bytes, left))
include hf

theorem settleChunk_outstanding_of_left (hl : left ≠ 0) :
    ((s.settleChunk c id).core c).copy.outstanding = (s.core c).copy.outstanding := by
  simp [State.settleChunk, hf, hl]

theorem settleChunk_outstanding_of_last (hl : left = 0) (hh : ∀ h ∈ (s.core c).copy.chunks, h.id ≠ id) :
    ((s.settleChunk c id).core c).copy.outstanding =
      setNth (s.core c).copy.outstanding cls (nth 0 (s.core c).copy.outstanding cls - bytes) := by
  have hgone : (s.core c).copy.chunks.any (fun h => h.id == id) = false := by simpa using hh
  simp only [State.settleChunk, hf, hl, hgone, Bool.not_false, decide_true, Bool.and_self, if_true, modCopy_copy]

end

section
variable {s : State} {c id cls n cls0 bytes left : Nat} {u : CopyUnit} {m : Bool} {a : Nat × Nat × Nat} {v : CopyUnit}
  (hu : u = (s.core c).copy) (hf : sfind u.owing id = some (cls0, bytes, left))
  (ha : a = afterReply m (nth 0 u.windows cls) (nth 0 u.sinceHalf cls + n) (nth 0 u.sinceMark cls + n))
include hu hf ha

/-- A reply counts in its class and leaves its chunk one less to come; then the chunk is settled. -/
theorem copyReply_settles : ∃ t : State, s.copyReply c id cls n m = t.settleChunk c id ∧ (t.core c).copy = { u with
    windows := setNth u.windows cls a.1, owing := sput u.owing id (cls, bytes, left - 1),
    sinceHalf := setNth u.sinceHalf cls a.2.1, sinceMark := setNth u.sinceMark cls a.2.2 } := by
  subst hu ha
  simp only [State.copyReply, hf, afterReply]
  cases m
  · rw [if_neg Bool.false_ne_true, if_neg Bool.false_ne_true]
    split <;> exact ⟨_, rfl, modCopy_copy _ _ _⟩
  · rw [if_pos rfl, if_pos rfl]
    split
    · exact ⟨_, rfl, (modCopy_copy _ _ _).trans (by rw [State.countEvent, setCore_core_same]; rfl)⟩
    · exact ⟨_, rfl, modCopy_copy _ _ _⟩

variable (hv : v = ((s.copyReply c id cls n m).core c).copy)
include hv

theorem copyReply_windows : v.windows = setNth u.windows cls a.1 ∧ v.sinceHalf = setNth u.sinceHalf cls a.2.1 ∧
    v.sinceMark = setNth u.sinceMark cls a.2.2 := by
  obtain ⟨t, ht, hcopy⟩ := copyReply_settles hu hf ha
  have hkeep := settleChunk_windows t c id
  rw [hcopy] at hkeep
  rw [hv, ht]
  exact hkeep

/-- The chunk's bytes are outstanding until its last reply. -/
theorem copyReply_outstanding : (2 ≤ left → v.outstanding = u.outstanding) ∧
    (left ≤ 1 → (∀ h ∈ u.chunks, h.id ≠ id) →
      v.outstanding = setNth u.outstanding cls (nth 0 u.outstanding cls - bytes)) := by
  obtain ⟨t, ht, hcopy⟩ := copyReply_settles hu hf ha
  have howing : sfind (t.core c).copy.owing id = some (cls, bytes, left - 1) := by rw [hcopy, sfind_sput_same]
  rw [hv, ht]
  refine ⟨fun hl => ?_, fun hl hh => ?_⟩
  · rw [settleChunk_outstanding_of_left c howing (by omega), hcopy]
  · rw [settleChunk_outstanding_of_last c howing (by omega) (by rwa [hcopy]), hcopy]

end

/-! ## Phase completion (R284) -/

theorem exec_phaseCompletion (s : State) (k : Nat) : exec (.phaseCompletion k) s =
    .next (if s.marked k && !vaultHeld s (counterKeys k) then s.cycle k 0 else s).tick := rfl

/-! ## A target whose context is being saved -/

/-- A multicast with a signal counter at offset 0 of window 0x0. -/
def savedCast : Copy := { (default : Copy) with words := [BitVec.ofNat 64 (2 ^ 62 + 2 ^ 42)] }

/-- Its chunk of 64 bytes, with core 1 its target. -/
def castChunk : Chunk := { (default : Chunk) with bytes := 64, targets := [1] }

/-- Context 0 of core 1 is being saved: its filling tile at granule 0 holds a marked counter, and its proof log has no room. -/
def savingTarget : State :=
  { State.reset with
    marks := [spadKey 1 0]
    cores := [(1, { Core.reset with
      tiles := [(0, { Tile.reset with state := .filling, size := 1 })]
      divs := [(0, { (default : Divert) with full := true, size := 4, used := 4 })]
      saves := [(0, default)] })] }

/-- What arrives for a context that is being saved is diverted (R340), and waits while its proof is full. -/
theorem savingTarget_arrival_waits : (savedCast.arrivals 0 castChunk savingTarget [1]).2.1 = [1] := by decide

/-- Refutes O55: the arrival of a multicast at a target is a cycle of the counter's home in the statement, whose hypotheses leave out
that the target's context may be away. Until its save has sealed, the context still owns its filling tiles, so that every check of the
arrival passes; but it is diverted. -/
theorem not_copyHappenings : ¬ Obligations.CopyHappenings := by
  intro h
  obtain ⟨-, -, -, -, -, -, -, harrivals, -⟩ := h savingTarget 0 _ rfl
  obtain ⟨-, hcounter⟩ := harrivals savedCast castChunk [1]
  have hcycle := hcounter 1 0 (spadKey 1 0) (range (spadKey 1 1) 15) rfl (by decide) rfl (by decide) (by decide) rfl (by decide)
    (by decide) (by decide) (by decide)
  have hwaits := savingTarget_arrival_waits
  rw [hcycle] at hwaits
  exact absurd hwaits (by decide)

end Sys2Proof.Machine
end

section
/-! O46: matrix orders start, are refused, wait, and complete (R311 to R313, R320, R329). -/
namespace Sys2Proof.Machine

/-! ## An order at the head of its bank (R311, R312) -/

/-- An instruction whose meaning is an order word runs as its checks say. -/
theorem orderRuns {mk : MxOrder → Instr} {op : Nat} {fab : Bool} {effect : State → Nat → Nat → MxOrder → Effect}
    (hmk : ∀ o s, exec (mk o) s = matrixOrder op fab effect o s) : OrderRuns mk op fab effect := by
  intro s c bank q o hcur hq
  refine ⟨fun h => ?go, fun f h => ?refuse, fun h => ?wait⟩
  case go => simp only [hmk, matrixOrder, hcur, hq, h]
  case refuse => simp only [hmk, matrixOrder, hcur, hq, h]
  case wait => simp only [hmk, matrixOrder, hcur, hq, h]

/-! ## The words and columns of the accumulator store -/

section
variable {m : Matrix} {j k i r : Nat}

@[simp] theorem setWord_word_same (v : Nat) : (m.setWord k r v).word k r = v := by
  by_cases hv : v = 0
  · simp [Matrix.setWord, Matrix.word, hv]
  · simp [Matrix.setWord, Matrix.word, hv]

/-- A word has its own place in the store. -/
theorem setWord_word_ne (v : Nat) (h : 128 * j + i ≠ 128 * k + r) : (m.setWord k r v).word j i = m.word j i := by
  by_cases hv : v = 0
  · simp [Matrix.setWord, Matrix.word, hv, sget_sdel_ne _ _ h]
  · simp [Matrix.setWord, Matrix.word, hv, sget_sput_ne _ _ _ h]

theorem putWords_cons (w : Nat) (ws : List Nat) : ∃ m1 : Matrix, m1.acc = (m.setWord k r w).acc ∧ m1.cols = m.cols ∧
    m.putWords k true r (w :: ws) = m1.putWords k true (r + 1) ws :=
  ⟨{ m.setWord k r w with incomplete := removeNat (m.setWord k r w).incomplete (128 * k + r) }, rfl, rfl, rfl⟩

theorem putWords_cols (ws : List Nat) : (m.putWords k true r ws).cols = m.cols := by
  induction ws generalizing m r with
  | nil => rfl
  | cons w ws ih =>
    obtain ⟨m1, -, hcols, hput⟩ := putWords_cons (m := m) (k := k) (r := r) w ws
    rw [hput, ih, hcols]

/-- Words put down a column leave every other place. -/
theorem putWords_word_outside (ws : List Nat) (h : ∀ n, r ≤ n → n < r + ws.length → 128 * j + i ≠ 128 * k + n) :
    (m.putWords k true r ws).word j i = m.word j i := by
  induction ws generalizing m r with
  | nil => rfl
  | cons w ws ih =>
    obtain ⟨m1, hacc, -, hput⟩ := putWords_cons (m := m) (k := k) (r := r) w ws
    rw [List.length_cons] at h
    rw [hput, ih fun n hn hl => h n (by omega) (by omega), Matrix.word, hacc]
    exact setWord_word_ne w (h r (Nat.le_refl r) (by omega))

theorem putWords_zeros_word (n : Nat) (hr : r ≤ i) (hi : i < r + n) :
    (m.putWords k true r (List.replicate n 0)).word k i = 0 := by
  induction n generalizing m r with
  | zero => omega
  | succ n ih =>
    obtain ⟨m1, hacc, -, hput⟩ := putWords_cons (m := m) (k := k) (r := r) 0 (List.replicate n 0)
    rw [List.replicate_succ, hput]
    obtain rfl | hlt := Nat.eq_or_lt_of_le hr
    · rw [putWords_word_outside _ fun n hn _ => by omega, Matrix.word, hacc]
      exact setWord_word_same 0
    · exact ih hlt (by omega)

@[simp] theorem setCol_col_same (v : Column) : (m.setCol k v).col k = v := by simp [Matrix.setCol, Matrix.col]

@[simp] theorem setCol_word (v : Column) : (m.setCol k v).word j i = m.word j i := rfl

theorem setCol_col_ne (v : Column) (h : j ≠ k) : (m.setCol k v).col j = m.col j := by
  simp [Matrix.setCol, Matrix.col, sget_sput_ne, h]

end

/-! ## acc.clr (R320) -/

/-- A column as `acc.clr` leaves it. -/
def clearedColumn (ctx : Nat) (o : MxOrder) : Column := { written := false, int := o.ofmt == 0, poison := false, owner := ctx }

/-- One column cleared. -/
def Matrix.clearColumn (ctx : Nat) (o : MxOrder) (m : Matrix) (k : Nat) : Matrix :=
  (m.putWords k true 0 (List.replicate 128 0)).setCol k (clearedColumn ctx o)

/-- `acc.clr` ends the running products of its columns and clears each. -/
theorem accClrEffect_m (s : State) (c ctx : Nat) (o : MxOrder) :
    (accClrEffect s c ctx o).m = o.cols.foldl (Matrix.clearColumn ctx o) ((s.core c).mx.endProducts o none) := by
  simp only [accClrEffect, Effect.plain]
  congr 1

section
variable {ctx : Nat} {o : MxOrder} {m : Matrix} {j k r : Nat}

theorem clearColumn_word_same (hr : r < 128) : (m.clearColumn ctx o k).word k r = 0 := by
  rw [Matrix.clearColumn, setCol_word, putWords_zeros_word 128 (Nat.zero_le r) (by omega)]

theorem clearColumn_word_ne (hr : r < 128) (h : j ≠ k) : (m.clearColumn ctx o k).word j r = m.word j r := by
  rw [Matrix.clearColumn, setCol_word, putWords_word_outside]
  intro n _ hn
  rw [List.length_replicate] at hn
  omega

theorem clearColumn_col_same : (m.clearColumn ctx o k).col k = clearedColumn ctx o := by
  rw [Matrix.clearColumn, setCol_col_same]

theorem clearColumn_col_ne (h : j ≠ k) : (m.clearColumn ctx o k).col j = m.col j := by
  rw [Matrix.clearColumn, setCol_col_ne _ h, Matrix.col, putWords_cols, Matrix.col]

/-- A column that is not named stays. -/
theorem clearColumns_of_not_mem {cs : List Nat} (hr : r < 128) (h : k ∉ cs) :
    (cs.foldl (Matrix.clearColumn ctx o) m).word k r = m.word k r ∧
    (cs.foldl (Matrix.clearColumn ctx o) m).col k = m.col k := by
  induction cs generalizing m with
  | nil => exact ⟨rfl, rfl⟩
  | cons c cs ih =>
    rw [List.foldl_cons]
    obtain ⟨hc, hcs⟩ := List.ne_and_not_mem_of_not_mem_cons h
    obtain ⟨hword, hcol⟩ := ih (m := m.clearColumn ctx o c) hcs
    exact ⟨hword.trans (clearColumn_word_ne hr hc), hcol.trans (clearColumn_col_ne hc)⟩

/-- The last clearing of a named column stands. -/
theorem clearColumns_of_mem {cs : List Nat} (hr : r < 128) (h : k ∈ cs) :
    (cs.foldl (Matrix.clearColumn ctx o) m).word k r = 0 ∧
    (cs.foldl (Matrix.clearColumn ctx o) m).col k = clearedColumn ctx o := by
  induction cs generalizing m with
  | nil => cases h
  | cons c cs ih =>
    rw [List.foldl_cons]
    by_cases hcs : k ∈ cs
    · exact ih hcs
    · obtain rfl : k = c := (List.mem_cons.mp h).resolve_right hcs
      obtain ⟨hword, hcol⟩ := clearColumns_of_not_mem (ctx := ctx) (o := o) (m := m.clearColumn ctx o k) hr hcs
      exact ⟨hword.trans (clearColumn_word_same hr), hcol.trans clearColumn_col_same⟩

end

theorem matrixOrdersRun : MatrixOrdersRun := by
  refine ⟨orderRuns fun _ _ => rfl, orderRuns fun _ _ => rfl, orderRuns fun _ _ => rfl, orderRuns fun _ _ => rfl,
    orderRuns fun _ _ => rfl, orderRuns fun _ _ => rfl, orderRuns fun _ _ => rfl, orderRuns fun _ _ => rfl,
    orderRuns fun _ _ => rfl, fun s c ctx o k r hr => ?_⟩
  rw [accClrEffect_m]
  refine ⟨fun hk => ?cleared, fun hk => clearColumns_of_not_mem hr hk⟩
  obtain ⟨hword, hcol⟩ := clearColumns_of_mem (ctx := ctx) (o := o) (m := (s.core c).mx.endProducts o none) hr hk
  rw [hcol]
  exact ⟨hword, rfl, rfl, rfl⟩

/-! ## Completion (R313, R329) -/

/-- An order without trains sends its completion token, with its status. -/
theorem sendCompletion_of_no_trains (s : State) (c : Nat) {r : Running} (h : r.trains = []) : sendCompletion s c r =
    s.send c (plainToken r.order.echo c r.order.cidx r.order.cport r.ctx 0 .data 0 r.status) := by
  simp only [sendCompletion, h]

/-- An order that met nothing raises nothing. -/
theorem orderFaults_of_none (s : State) (c : Nat) {r : Running} (hp : r.mpoison = none) (hs : r.sparse = none)
    (hf : r.flags = 0) : orderFaults s c r = s := by
  simp [orderFaults, hp, hs, hf]

theorem matrixOrdersComplete : MatrixOrdersComplete := by
  rintro s s1 _ c bank n r hfind - hland rfl
  refine ⟨?completes, sendCompletion_of_no_trains _ c, orderFaults_of_none _ c⟩
  change execOrderCompletion c bank s = _
  simp only [execOrderCompletion, hfind, hland]

/-- Settles O46: each order word is one shape of step at the head of a bank; `acc.clr` clears column by column; the oldest running
order of a bank makes its tile writes and is done. -/
theorem matrixOrders : Obligations.MatrixOrders := ⟨matrixOrdersRun, matrixOrdersComplete⟩

end Sys2Proof.Machine
end

section
/-! O52, O53: faulted frames park and are delivered, verdicts act on them, they re-enter, and stops land (R229 to R238, R358). -/
namespace Sys2Proof.Machine

/-! ## What causes, events and records leave of a region and of a core -/

section
variable {β : Type} {s : State} {r : Nat}

/-- A cause is held where a launch runs (R132). -/
theorem raiseAsync_held (t : Trap) (h : (s.region r).launch ≠ none) :
    ((s.raiseAsync r t).region r).held = (s.region r).held ++ [t.cause] := by
  have hsome : (s.region r).launch.isNone = false := by simpa [Option.isSome_iff_ne_none] using h
  simp [State.raiseAsync, hsome]

theorem raiseAsync_view {view : Region → β} (hv : ∀ (g : Region) l, view { g with held := l } = view g) (t : Trap) :
    view ((s.raiseAsync r t).region r) = view (s.region r) := by
  simp only [State.raiseAsync]
  split
  · rfl
  · rw [setRegion_region_same, hv]

theorem setEvent_view {view : Region → β} (hv : ∀ (g : Region) e, view { g with events := e } = view g) (b : Nat) :
    view ((s.setEvent r b).region r) = view (s.region r) := by
  simp only [State.setEvent]
  split
  · rfl
  · rw [setRegion_region_same, hv]

variable (core q0 q2 q3 : Nat)

theorem record_region_view {view : Region → β} (hv : ∀ (g : Region) i l, view { g with recIndex := i, recs := l } = view g) :
    view ((s.record r core q0 q2 q3).region r) = view (s.region r) := by
  simp only [State.record]
  split
  · split
    · rfl
    · rfl
  · rw [setRegion_region_same, hv]

/-- A record changes no core but for the count of a dropped sample (R356). -/
theorem record_core_view {view : Core → β} (hv : ∀ (k : Core) t, view { k with counters := t } = view k) (d : Nat) :
    view ((s.record r core q0 q2 q3).core d) = view (s.core d) := by
  simp only [State.record]
  split
  · split
    · exact countEvent_view hv s core 21 _ 1 d
    · rfl
  · rfl

end

/-! ## Parked frames -/

/-- A frame is parked at a core and has not resumed. -/
def IsParked (k : Core) (frame : Nat) : Prop := ∃ p, sfind k.parks frame = some p ∧ p.resumed = false

/-- A map over a table that keeps the keys, and a property of the entries, keeps an entry with it. -/
theorem exists_sfind_map {α : Type} {P : α → Prop} {g : Nat × α → Nat × α} (hk : ∀ e, (g e).1 = e.1)
    (hP : ∀ e, P e.2 → P (g e).2) {t : Sparse α} {k : Nat} (h : ∃ v, sfind t k = some v ∧ P v) :
    ∃ v, sfind (t.map g) k = some v ∧ P v := by
  induction t with
  | nil => exact h
  | cons e l ih =>
    simp only [List.map_cons, sfind, hk] at h ⊢
    by_cases he : k = e.1
    · obtain ⟨v, hv, hp⟩ := h
      rw [if_pos he] at hv
      obtain rfl := Option.some.inj hv
      exact ⟨_, if_pos he, hP e hp⟩
    · rw [if_neg he] at h ⊢
      exact ih h

theorem loseTile_isParked {k : Core} {frame : Nat} (n : Nat) (h : IsParked k frame) : IsParked (k.loseTile n) frame := by
  refine exists_sfind_map (P := fun p : Park => p.resumed = false) ?_ ?_ h
  · exact fun _ => rfl
  · exact fun _ hp => hp

/-- A tile that becomes empty takes no frame out of its park. -/
theorem vacateTile_isParked {s : State} {c frame : Nat} (n : Nat) (h : IsParked (s.core c) frame) :
    IsParked ((s.vacateTile c n).core c) frame := by
  have hparks : ((s.vacateTile c n).core c).parks = ((s.core c).loseTile n).parks :=
    vacateTile_view (view := Core.parks) (fun _ _ => rfl) (fun _ _ => rfl) s c n
  rw [IsParked, hparks]
  exact loseTile_isParked n h

theorem writePark_core (s : State) (c base : Nat) (k : Ctx) (f : Frame) (r : FaultRec) (p : Park) (is : List Nat)
    (ts : List Token) (d : Nat) : (writePark s c base k f r p is ts).core d = s.core d := by
  simp only [writePark, store_core]

/-- The core that the park image of a frame is written for has the frame parked. -/
theorem writePark_isParked {s : State} {c base n : Nat} {k : Ctx} {f : Frame} {r : FaultRec} {p q : Park} {is : List Nat}
    {ts : List Token} {k1 : Core} {l : Sparse Park} (hl : k1.parks = sput l n q) (hq : q.resumed = false) :
    IsParked ((writePark (s.setCore c k1) c base k f r p is ts).core c) n := by
  rw [writePark_core, setCore_core_same]
  exact ⟨q, by rw [hl, sfind_sput_same], hq⟩

/-- A frame that finds a park tile is parked (R229, R231). -/
theorem parkFrame_isParked {s t : State} {c n : Nat} {f : Frame} {r : FaultRec} (h : parkFrame s c n f r = some t) :
    IsParked (t.core c) n := by
  simp only [parkFrame] at h
  split at h
  · cases h
  · obtain rfl := Option.some.inj h
    cases sfind (s.core c).parks n with
    | none => exact writePark_isParked rfl rfl
    | some q => exact vacateTile_isParked q.tile (writePark_isParked rfl rfl)

/-! ## Parking and delivery (R229, R234, R236) -/

theorem exec_framePark {s t : State} {c n : Nat} {f : Frame} {r : FaultRec} (hf : (s.core c).frame n = some f)
    (hr : reported (s.core c).faults n = some r) (ho : f.state = .opened)
    (hfirst : (s.core c).faults.any (fun g => g.1 < n && g.2.ctx == f.ctx) = false) (hp : parkFrame s c n f r = some t) :
    exec (.framePark c n) s = .next (t.touch c [f.ctx]).tick := by
  change execFramePark c n s = _
  simp only [execFramePark, hf, hr, ho, hfirst, hp]
  rfl

section
variable {s : State} {r : Nat} {f : FaultRec} {rest : List FaultRec}

section
variable (h : (s.region r).records = f :: rest)
include h

theorem exec_faultRecordDelivery_handler (ht : toHandler s r f = true) : exec (.faultRecordDelivery r) s =
    .next ((s.setRegion r { s.region r with records := rest }).send (recordToken r f).core (recordToken r f)).tick := by
  change execFaultRecordDelivery r s = _
  simp only [execFaultRecordDelivery, h, ht, if_true]

theorem exec_faultRecordDelivery_mailbox (ht : toHandler s r f = false) : exec (.faultRecordDelivery r) s =
    .next ((s.setRegion r { s.region r with records := rest }).setRegion r
      { (s.setRegion r { s.region r with records := rest }).region r with messages := (s.region r).messages ++ [f] }).tick := by
  change execFaultRecordDelivery r s = _
  simp only [execFaultRecordDelivery, h, ht, Bool.false_eq_true, if_false]

end

theorem exec_faultMessage (h : (s.region r).messages = f :: rest) (hroom : (s.region r).msgs.length < 16) :
    exec (.faultMessage r) s = .next (((s.setRegion r { s.region r with
      messages := rest, msgs := (s.region r).msgs ++ [faultMessage r f] }).setEvent r 0).raiseAsync r
        { Trap.engine f.fault f.core f.ctx f.instr f.addr.toNat 0 with poison := f.poison }).tick := by
  change execFaultMessage r s = _
  simp only [execFaultMessage, h, if_neg (Nat.not_le.mpr hroom)]

end

/-- Settles O52: a frame that finds a park tile is in its core's parks, and a record leaves its queue for the handler or for the
mailbox, whose message sets an event and raises a trap. -/
theorem parkingAndDelivery : Obligations.ParkingAndDelivery := by
  intro s
  refine ⟨?park, ?record, ?message⟩
  case park =>
    intro c n f r t hf hr ho hfirst hp
    exact ⟨exec_framePark hf hr ho hfirst hp, parkFrame_isParked hp⟩
  case record =>
    rintro r f rest _ h rfl
    exact ⟨exec_faultRecordDelivery_handler h, exec_faultRecordDelivery_mailbox h⟩
  case message =>
    intro r f rest h hroom
    refine ⟨_, exec_faultMessage h hroom, ?messages, ?msgs, fun hl => ?held⟩
    case messages =>
      rw [tick_region, raiseAsync_view (view := Region.messages) fun _ _ => rfl,
        setEvent_view (view := Region.messages) fun _ _ => rfl, setRegion_region_same]
    case msgs =>
      rw [tick_region, raiseAsync_view (view := Region.msgs) fun _ _ => rfl,
        setEvent_view (view := Region.msgs) fun _ _ => rfl, setRegion_region_same]
    case held =>
      rw [tick_region, raiseAsync_held, setEvent_view (view := Region.held) fun _ _ => rfl, setRegion_region_same]
      rw [setEvent_view (view := Region.launch) fun _ _ => rfl, setRegion_region_same]
      exact hl

/-! ## Verdicts (R229, R230, R235) -/

section
variable {s : State} {c : Nat} {t : Token} {rest : List Token}

/-- A verdict waits for the capture of the frame it names (R229). -/
theorem exec_verdict_captured {p : Park} (hv : (s.core c).verdicts = t :: rest)
    (hp : sfind (s.core c).parks (frameOf t.tag) = some p) (hc : (s.core c).beat < p.captured) :
    exec (.verdict c) s = .next s.tick := by
  have hwait : (sfind (s.core c).parks (frameOf t.tag)).any (fun p => decide ((s.core c).beat < p.captured)) = true := by
    simpa [hp] using hc
  change execVerdict c s = _
  simp only [execVerdict, hv, hwait, if_true]

/-- One that fits no parked frame is stale. -/
theorem exec_verdict_stale (hv : (s.core c).verdicts = t :: rest)
    (hcap : ∀ p, sfind (s.core c).parks (frameOf t.tag) = some p → p.captured ≤ (s.core c).beat)
    (hfit : verdictFits t.core c (s.core c) t = false) : exec (.verdict c) s =
      .next ((s.setCore c { s.core c with verdicts := rest }).raiseAsync (regionOf c)
        (Trap.engine FaultCode.illegal.code c t.ctx 0 0 0)).tick := by
  have hgo : (sfind (s.core c).parks (frameOf t.tag)).any (fun p => decide ((s.core c).beat < p.captured)) = false := by
    cases h : sfind (s.core c).parks (frameOf t.tag) with
    | none => rfl
    | some p => simpa using hcap p h
  change execVerdict c s = _
  simp only [execVerdict, hv, hgo, hfit]
  rfl

/-- One that fits acts on its frame: it is declined, or it discards the frame or resumes it (R235). -/
theorem exec_verdict_acts {f : Frame} {p : Park} {r : FaultRec} {s1 : State} (hv : (s.core c).verdicts = t :: rest)
    (hfit : verdictFits t.core c (s.core c) t = true) (hf : (s.core c).frame (frameOf t.tag) = some f)
    (hp : sfind (s.core c).parks (frameOf t.tag) = some p) (hc : p.captured ≤ (s.core c).beat)
    (hr : r = f.fault.getD default) (hs : s1 = s.setCore c { s.core c with verdicts := rest }) : exec (.verdict c) s =
      .next (State.tick (if declines ((s.core c).ctx f.ctx).block t.verdict r.instr p.offend.isSome = true then
          s1.setRegion (regionOf c) { s1.region (regionOf c) with messages := (s1.region (regionOf c)).messages ++ [r] }
        else if bits t.verdict 31 30 = 2 then discardFrame (s1.answered c r.seq) c (frameOf t.tag) f p
        else resumeFrame (s1.answered c r.seq) c (frameOf t.tag) f p (bits t.verdict 29 28) t r)) := by
  have hgo : decide ((s.core c).beat < p.captured) = false := decide_eq_false (Nat.not_lt.mpr hc)
  subst hr hs
  change execVerdict c s = _
  simp only [execVerdict, hv, hp, hf, hfit, Option.any_some, hgo, Bool.not_true, Bool.false_eq_true, if_false]

end

/-! ## Re-entry (R237, log 49) -/

/-- A resumed frame's instances are back in the pipeline with their requests and answers, and its park tile is empty. -/
def State.reentered (s : State) (c x frame : Nat) (p : Park) : State :=
  let k := s.core c
  let d := (k.ctx x).shift p
  let c1 := { k with parks := sdel k.parks frame,
                     reqs := k.reqs ++ p.reqs.map (fun (q : MemReq) => { q with due := q.due + d }),
                     resps := k.resps ++ p.resps.map (fun (q : MemResp) => { q with due := q.due + d }) }
  (s.setCore c (c1.setCtx x { (c1.ctx x).reenter p with holdFire := (c1.waitingPark x).isSome })).vacateTile c p.tile

section
variable {s : State} {c x frame : Nat} {p : Park} (hw : (s.core c).waitingPark x = some (frame, p))
include hw

theorem exec_resumedReentry_returns (ht : p.tokens ≠ []) : exec (.resumedReentry c x) s =
    .next (State.tick (if (s.core c).faulted frame = true then s else s.returnParked c frame)) := by
  change execResumedReentry c x s = _
  simp only [execResumedReentry, hw]
  rw [if_pos (by simpa using ht)]

variable (ht : p.tokens = [])
include ht

theorem exec_resumedReentry_waits (hpos : positionsFree ((s.core c).ctx x) p = false) :
    exec (.resumedReentry c x) s = .next s.tick := by
  change execResumedReentry c x s = _
  simp [execResumedReentry, hw, ht, hpos]

variable (hok : (s.core c).faulted frame = false) (hpos : positionsFree ((s.core c).ctx x) p = true)
include hok hpos

theorem exec_resumedReentry_enters (hr : p.repairTrain = none) : exec (.resumedReentry c x) s =
    .next ((s.reentered c x frame p).setCore c (((s.reentered c x frame p).core c).retryFaulted x)).tick := by
  change execResumedReentry c x s = _
  simp only [execResumedReentry, hw, ht, hok, hpos, hr]
  cases p.repair with
  | none => rfl
  | some q => rfl

/-- A repair reaches the instruction that faulted (R235). -/
theorem exec_resumedReentry_repairs {q : FaultRec} {t : Train} {u : State} (hq : p.repair = some q)
    (hr : p.repairTrain = some t) (hu : u = (s.reentered c x frame p).applyRepair c x q t) :
    exec (.resumedReentry c x) s = .next (u.setCore c ((u.core c).retryFaulted x)).tick := by
  subst hu
  change execResumedReentry c x s = _
  simp only [execResumedReentry, hw, ht, hok, hpos, hq, hr]
  rfl

end

/-! ## Precise stops (R238, R358) -/

section
variable {s u : State} {c x : Nat} (hw : (s.ctx c x).stopWanted = true) (hi : (s.ctx c x).insts = [])
  (hs : (s.ctx c x).slot = .resident)
  (hu : u = s.setCtx c x { s.ctx c x with slot := .stopped, stopWanted := false, hit := none })
include hw hi hs hu

/-- A stop that no breakpoint asked for writes its record alone. -/
theorem exec_preciseStop_request (hh : (s.ctx c x).hit = none) :
    ∃ q0 q2, exec (.preciseStop c x) s = .next (u.record (regionOf c) c q0 q2 0).tick := by
  subst hu
  change ∃ q0 q2, execPreciseStop c x s = _
  simp only [execPreciseStop, hw, hi, hs, hh]
  exact ⟨_, _, rfl⟩

/-- A breakpoint's stop writes a record of what met it, and traps. -/
theorem exec_preciseStop_breakpoint {tag top second : Nat} (hh : (s.ctx c x).hit = some (tag, top, second)) :
    exec (.preciseStop c x) s = .next ((u.record (regionOf c) c (recordQ0 3 c x 0 0 (frameOf tag) (bits tag 7 0)
      (((s.ctx c x).block.map (·.id)).getD 0)) (recordQ2 top second 0) 0).raiseAsync (regionOf c)
        (Trap.engine 0 c x 0 0 0)).tick := by
  subst hu
  change execPreciseStop c x s = _
  simp only [execPreciseStop, hw, hi, hs, hh]
  cases (s.ctx c x).block with
  | none => rfl
  | some b => rfl

end

/-- The record of a stop leaves the context as the stop has. -/
theorem record_setCtx_ctx (s : State) (r c x core q0 q2 q3 : Nat) (v : Ctx) :
    ((s.setCtx c x v).record r core q0 q2 q3).ctx c x = v :=
  (record_core_view core q0 q2 q3 (view := fun k => k.ctx x) (fun _ _ => rfl) c).trans (setCtx_ctx_same s c x v)

/-- A requested stop lands where nothing of the context is in flight, and leaves its context stopped. -/
theorem preciseStopLands (s : State) (c x : Nat) (hw : (s.ctx c x).stopWanted = true) (hi : (s.ctx c x).insts = [])
    (hs : (s.ctx c x).slot = .resident) : ∃ t, exec (.preciseStop c x) s = .next t ∧ (t.ctx c x).slot = .stopped ∧
      (t.ctx c x).stopWanted = false ∧
      ((s.ctx c x).hit ≠ none → (s.region (regionOf c)).launch ≠ none → (t.region (regionOf c)).held =
        (s.region (regionOf c)).held ++ [(Trap.engine 0 c x 0 0 0).cause]) ∧
      (∀ tag top second b u, (s.ctx c x).hit = some (tag, top, second) → (s.ctx c x).block = some b →
        u = s.setCtx c x { s.ctx c x with slot := .stopped, stopWanted := false, hit := none } →
        t = ((u.record (regionOf c) c (recordQ0 3 c x 0 0 (frameOf tag) (bits tag 7 0) b.id) (recordQ2 top second 0) 0).raiseAsync
          (regionOf c) (Trap.engine 0 c x 0 0 0)).tick) := by
  cases hh : (s.ctx c x).hit with
  | none =>
    obtain ⟨q0, q2, hexec⟩ := exec_preciseStop_request hw hi hs rfl hh
    have hctx := record_setCtx_ctx s (regionOf c) c x c q0 q2 0
    refine ⟨_, hexec, ?slot, ?wanted, fun h => absurd rfl h, fun _ _ _ _ _ h => nomatch h⟩
    case slot => exact congrArg Ctx.slot (hctx _)
    case wanted => exact congrArg Ctx.stopWanted (hctx _)
  | some h =>
    obtain ⟨tag, top, second⟩ := h
    have hctx := record_setCtx_ctx s (regionOf c) c x c (recordQ0 3 c x 0 0 (frameOf tag) (bits tag 7 0)
      (((s.ctx c x).block.map (·.id)).getD 0)) (recordQ2 top second 0) 0
    have hcore (v : State) : (v.raiseAsync (regionOf c) (Trap.engine 0 c x 0 0 0)).tick.ctx c x = v.ctx c x := by
      simp only [State.ctx, tick_core, raiseAsync_core]
    refine ⟨_, exec_preciseStop_breakpoint hw hi hs rfl hh, ?slot, ?wanted, fun _ hl => ?held, ?eq⟩
    case slot => rw [hcore, hctx]
    case wanted => rw [hcore, hctx]
    case held =>
      rw [tick_region, raiseAsync_held, record_region_view _ _ _ _ (view := Region.held) fun _ _ _ => rfl, setCtx_region]
      rw [record_region_view _ _ _ _ (view := Region.launch) fun _ _ _ => rfl]
      exact hl
    case eq =>
      rintro _ _ _ b _ ⟨⟩ hb rfl
      rw [hb, Option.map_some, Option.getD_some]

/-- Settles O53: a verdict waits, is stale, or acts; a resumed frame returns its tokens and re-enters; a stop lands with its record. -/
theorem verdictsAndStops : Obligations.VerdictsAndStops := by
  rintro s c _ rfl
  refine ⟨?acts, fun t rest hv hfit hcap => exec_verdict_stale hv hcap hfit, ?tokens, ?enters,
    fun x frame p => exec_resumedReentry_waits, ?stops⟩
  case acts =>
    intro t rest f p r s1 hv hfit hf hp hr hs
    refine ⟨exec_verdict_captured hv hp, fun hc => ?_⟩
    have hact := exec_verdict_acts hv hfit hf hp hc hr hs
    refine ⟨fun hd => by rw [hact, if_pos hd], fun hd => ?_⟩
    rw [if_neg (by simp [hd])] at hact
    exact ⟨fun h2 => by rw [hact, if_pos h2], fun h2 => by rw [hact, if_neg h2]⟩
  case tokens =>
    intro x frame p hw ht
    have hexec := exec_resumedReentry_returns hw ht
    exact ⟨fun hf => by rw [hexec, if_neg (by simp [hf])], fun hf => by rw [hexec, if_pos hf]⟩
  case enters =>
    rintro x frame p _ _ _ hw ht hok hpos rfl rfl rfl
    exact ⟨exec_resumedReentry_enters hw ht hok hpos,
      fun q t v hq hr hv => exec_resumedReentry_repairs hw ht hok hpos hq hr hv⟩
  case stops => exact fun x => preciseStopLands s c x

end Sys2Proof.Machine
end

section
/-! O33: the copy commands (R247, R251, R259). -/
namespace Sys2Proof.Machine

/-! ## A copy command (R247) -/

/-- A record that can be read lies in a window of copy records. -/
theorem copyWindow_of_recordRead {s : State} {r addr n : Nat} {bs : List Nat} (h : recordRead s r addr n = .ok bs) :
    copyWindow addr = .ok () := by
  simp only [recordRead, recordWindow] at h
  split at h
  case isTrue hw => exact if_pos hw
  case isFalse => cases h

section
variable {s d : State} (hd : Drained s d)
include hd

theorem copyCommand_misaligned {op b core ctx : Nat} (ha : (d.getX s.turn b).toNat % 32 ≠ 0) :
    TrapsWith (copyCommand op b core ctx s) d s.turn (Trap.word .illegal) := by
  have hal : ((d.getX s.turn b).toNat % 32 == 0) = false := by simpa using ha
  simp only [copyCommand, command_of_drained hd, drained_turn hd, hal, need_false, res_error_bind]
  exact trapsWith_finish _ _ _

section
variable {op b : Nat} {bs : List Nat} (ha : (d.getX s.turn b).toNat % 32 = 0)
  (hrec : recordRead d s.turn (d.getX s.turn b).toNat 32 = .ok bs)
include ha hrec

theorem copyCommand_bad_record {core ctx : Nat} (hbad : copyRecordOk (wordsOf 4 bs) op (d.region s.turn).mask = false) :
    TrapsWith (copyCommand op b core ctx s) d s.turn (Trap.word .illegal) := by
  simp only [copyCommand, command_of_drained hd, drained_turn hd, ha, beq_self_eq_true, need_true, res_ok_bind,
    copyWindow_of_recordRead hrec, hrec, hbad, need_false, res_error_bind]
  exact trapsWith_finish _ _ _

/-- A copy whose checks pass joins the queue of its class, where there is room. -/
theorem copyCommand_joins {core ctx c : Nat} (hok : copyRecordOk (wordsOf 4 bs) op (d.region s.turn).mask = true)
    (hc : coreOperand d s.turn core = .ok c) (hx : ctxOperand d [c] ctx = .ok ()) (hb : (d.ctx c ctx).block ≠ none) :
    copyCommand op b core ctx s = finish d s.turn
      (await (decide (((d.core c).copyQ (bits (nth 0 (wordsOf 4 bs) 0).toNat 59 58)).length < 16)) >>= fun _ =>
        .ok (d.enqueueCopy c ctx 31 (wordsOf 4 bs))) := by
  have hneed : (d.ctx c ctx).block.isSome = true := by simpa [Option.isSome_iff_ne_none] using hb
  simp only [copyCommand, command_of_drained hd, drained_turn hd, ha, beq_self_eq_true, need_true, res_ok_bind,
    copyWindow_of_recordRead hrec, hrec, hok, hc, hx, hneed]

end

end

/-- An instruction whose meaning is a copy command is one. -/
theorem copyCompletes {mk : Nat → Nat → Nat → Instr} {op : Nat}
    (hmk : ∀ b core ctx s, exec (mk b core ctx) s = copyCommand op b core ctx s) : CopyCompletes mk op := by
  rintro s d b core ctx c _ bs _ hd rfl rfl
  rw [hmk]
  refine ⟨copyCommand_misaligned hd, fun ha hrec => copyCommand_bad_record hd ha hrec, fun ha hrec hok hc hx hb => ?_⟩
  rw [copyCommand_joins hd ha hrec hok hc hx hb]
  refine ⟨fun hroom => ?joins, fun hfull => ?waits⟩
  case joins => rw [decide_eq_true hroom, await_true, res_ok_bind, finish_ok]
  case waits => rw [decide_eq_false (Nat.not_lt.mpr hfull), await_false, res_error_bind, finish_wait]

theorem copyCommandsEnqueue : CopyCommandsEnqueue :=
  ⟨copyCompletes fun _ _ _ _ => rfl, copyCompletes fun _ _ _ _ => rfl, copyCompletes fun _ _ _ _ => rfl,
    copyCompletes fun _ _ _ _ => rfl, copyCompletes fun _ _ _ _ => rfl, copyCompletes fun _ _ _ _ => rfl⟩

/-! ## cpcancel (R259) -/

theorem lowOperand_of_lt {v : Word} {n : Nat} (h : v.toNat < 2 ^ n) : lowOperand v n = .ok v.toNat := by
  simp only [lowOperand, decide_eq_true h, need_true, res_ok_bind]

/-- What a first look of `cpcancel` at the queues of a core does. -/
def cancelLook (d : State) (r c retry id ctx : Nat) : Host.Outcome State Fault Refusal :=
  match (d.core c).findCopy id ctx with
  | none => .next (d.complete r)
  | some q =>
    if retry = 1 then .next ((if q.stopped then
      d.modCopy c (fun u => u.modify q.uid (fun e => { e with stopped := false })) else d).complete r)
    else if ((d.cancelCopy c q).core c).copy.flying.any (fun e => e.uid == q.uid) = true then
      .next (((d.cancelCopy c q).setRegion r { (d.cancelCopy c q).region r with cancelling := some (c, q.uid) }).wait r)
    else .next ((d.cancelCopy c q).complete r)

section
variable {s d : State} (hd : Drained s d) {core c : Nat} (hc : coreOperand d s.turn core = .ok c)
include hd hc

theorem exec_cpcancel {a retry ctx id : Nat} (hid : (d.getX s.turn a).toNat = id) (h8 : id < 256)
    (hx : ctxOperand d [c] ctx = .ok ()) (hfirst : (d.region s.turn).cancelling = none) :
    exec (.cpcancel a core retry ctx) s = cancelLook d s.turn c retry id ctx := by
  obtain ⟨hready, rfl⟩ := hd
  have hlow : lowOperand ((s.drain s.turn).getX s.turn a) 8 = .ok id := hid ▸ lowOperand_of_lt (by omega)
  change execCpcancel a core retry ctx s = _
  simp only [execCpcancel, hready, await_true, hlow, hc, hx, res_ok_bind, hfirst]
  rfl

/-- `cpq` takes the four quanta from the bytes of its operand (R251). -/
theorem exec_cpq {b q0 q1 q2 q3 : Nat} (hv : (d.getX s.turn b).toNat = q0 + 2 ^ 8 * q1 + 2 ^ 16 * q2 + 2 ^ 24 * q3)
    (h0 : 2 ≤ q0) (g0 : q0 < 256) (h1 : 2 ≤ q1) (g1 : q1 < 256) (h2 : 2 ≤ q2) (g2 : q2 < 256) (h3 : 2 ≤ q3)
    (g3 : q3 < 256) :
    exec (.cpq b core) s = .next ((d.modCopy c (fun u => { u with quanta := [q0, q1, q2, q3] })).complete s.turn) := by
  have hq : (range 0 4).map (fun i => bits (d.getX s.turn b).toNat (8 * i + 7) (8 * i)) = [q0, q1, q2, q3] := by
    rw [hv]
    simp only [range, List.map_cons, List.map_nil, bits, List.cons.injEq, and_true]
    omega
  have hneed : (decide ((d.getX s.turn b).toNat < 2 ^ 32) && [q0, q1, q2, q3].all (fun q => decide (2 ≤ q))) = true := by
    simp only [List.all_cons, List.all_nil, Bool.and_true, Bool.and_eq_true, decide_eq_true_eq]
    omega
  change execCpq b core s = _
  simp only [execCpq, command_of_drained hd, drained_turn hd, hq, hc, hneed, res_ok_bind, need_true, finish_ok]

end

theorem copyControlCommands : CopyControlCommands := by
  intro s d a b core retry ctx id c hd hc
  refine ⟨fun hid h8 hx hfirst => ?_, fun q0 q1 q2 q3 => exec_cpq hd hc⟩
  have hlook (retry : Nat) := exec_cpcancel hd hc (retry := retry) hid h8 hx hfirst
  refine ⟨fun hn => ?none, fun q hq => ?retries, fun q hq hf => ?cancelled, fun q hq hf => ?waits⟩
  case none => simp only [hlook, cancelLook, hn]
  case retries => simp only [hlook, cancelLook, hq, if_true]
  case cancelled => simp only [hlook, cancelLook, hq, hf]; rfl
  case waits =>
    refine ⟨_, by simp only [hlook, cancelLook, hq, hf]; rfl, ?_, ?_⟩
    · rw [wait_region_same, setRegion_region_same]
    · rw [wait_region_same, setRegion_region_same]

/-- Settles O33: the six copy commands are one command, whose checks come in order; `cpcancel` looks for the oldest copy of its id. -/
theorem copyCommands : Obligations.CopyCommands := ⟨copyCommandsEnqueue, copyControlCommands⟩

end Sys2Proof.Machine
end

section
/-! O34: phase counters and collectives (R279, R283, R284, R286, R299). -/
namespace Sys2Proof.Machine

/-! ## A phase command (R98, R286, R366) -/

section
variable {s d : State} (hd : Drained s d)
include hd

theorem drained_getX (n : Nat) : d.getX s.turn n = s.getX s.turn n := by
  obtain ⟨-, rfl⟩ := hd
  rw [State.getX, drain_region_same]
  rfl

theorem drained_heldAt : (d.region s.turn).heldAt = (s.region s.turn).heldAt := by
  obtain ⟨-, rfl⟩ := hd
  rw [drain_region_same]

variable {a : Nat} {f : State → Res State}

/-- A phase command that does not wait ends as any command does. -/
theorem phaseCommand_ok {u : State} (hf : f d = .ok u) : phaseCommand a s f = .next (u.complete s.turn) := by
  obtain ⟨hready, rfl⟩ := hd
  simp only [phaseCommand, hready, hf, if_true, finish_ok]

theorem phaseCommand_traps {t : Trap} (hf : f d = .error (.trap t)) : TrapsWith (phaseCommand a s f) d s.turn t := by
  obtain ⟨hready, rfl⟩ := hd
  simp only [phaseCommand, hready, hf, if_true]
  exact trapsWith_finish _ _ _

/-- One that waits, with no vault that keeps its atomic, has no place to keep. -/
theorem phaseCommand_waits (hf : f d = .error .wait)
    (hgo : ∀ ks, resolve d (.control s.turn) (d.getX s.turn a).toNat 16 .atomic = .ok ks →
      atomicGoes d (d.region s.turn).heldAt ks = true) : phaseCommand a s f = .next (d.wait s.turn) := by
  rw [drained_getX hd, drained_heldAt hd] at hgo
  obtain ⟨hready, rfl⟩ := hd
  simp only [phaseCommand, hready, hf, if_true]
  split
  next ks _ hks => simp [hgo ks hks]
  next => rfl

end

/-! ## The counter an operand names (R267, R286) -/

/-- No control core has the windows of a core. -/
theorem resolve_control_local {d : State} {r addr n : Nat} {w : Want} (h : addr / 2 ^ 60 ≤ 1) :
    resolve d (.control r) addr n w = .error (.protection, false) := by
  obtain h | h : addr / 2 ^ 60 = 0 ∨ addr / 2 ^ 60 = 1 := by omega
  · simp only [resolve, h]; rfl
  · simp only [resolve, h]; rfl

/-- An operand that names a counter waits for no vault: its atomic can be performed. -/
theorem atomicGoes_of_counterOperand {d : State} {r a core ctx k : Nat} {b : Bool} {ks : List Nat}
    (h : counterOperand d r a core ctx b = .ok k)
    (hks : resolve d (.control r) (d.getX r a).toNat 16 .atomic = .ok ks) :
    atomicGoes d (d.region r).heldAt ks = true := by
  by_cases hlow : (d.getX r a).toNat / 2 ^ 60 ≤ 1
  · rw [resolve_control_local hlow] at hks
    cases hks
  · simp only [counterOperand, if_neg hlow, hks, res_bind_ok] at h
    obtain ⟨-, -, -, -, h⟩ := h
    split at h
    · cases h
    · obtain ⟨-, -, h⟩ := res_bind_ok.mp h
      obtain ⟨-, -, h⟩ := res_bind_ok.mp h
      obtain ⟨ks', hks', h⟩ := res_bind_ok.mp h
      obtain rfl : ks = ks' := Except.ok.inj hks'
      obtain ⟨_, hgo, -⟩ := res_bind_ok.mp h
      exact await_ok.mp hgo

theorem counterReady_marked {d : State} {r a k : Nat} (hp : d.poisonedAt (counterKeys k) = false) (hm : d.marked k = true) :
    counterReady d r a k = .ok () := by
  simp [counterReady, hp, hm]

theorem counterReady_unmarked {d : State} {r a k : Nat} (hp : d.poisonedAt (counterKeys k) = false)
    (hm : d.marked k = false) : counterReady d r a k = .error (.trap (Trap.word .illegal)) := by
  simp [counterReady, hp, hm]

theorem badCount_of_range {v : Word} (h1 : 1 ≤ v.toNat) (h2 : v.toNat < 2 ^ 32) : badCount v = false := by
  rw [badCount, decide_eq_false (Nat.not_le.mpr h2), Bool.or_false, beq_eq_false_iff_ne]
  exact Nat.one_le_iff_ne_zero.mp h1

/-! ## The four commands -/

section
variable {s d : State} (hd : Drained s d) {a b core ctx k : Nat}
  (hk : counterOperand d s.turn a core ctx false = .ok k)
include hd hk

theorem exec_pcinit (hb : bit ((d.getX s.turn b).toNat / 2 ^ 32) 0 = false)
    (hr : bits ((d.getX s.turn b).toNat / 2 ^ 32) 18 18 = 0) {e : State}
    (he : e = ((d.askControl s.turn (d.nodeOf k) .atomic).store (counterKeys k)
      ({ phase := 0, e := (d.getX s.turn b).toNat % 2 ^ 32, a := 0,
         trigger := (d.getX s.turn b).toNat / 2 ^ 32 : PhaseCtr }.bytes)).noteKeys (counterKeys k) false) :
    exec (.pcinit a b core ctx) s = .next ((({ e with marks := insertNat e.marks k } : State).register
      ((d.getX s.turn b).toNat / 2 ^ 32)).complete s.turn) := by
  subst he
  change execPcinit a b core ctx s = _
  refine phaseCommand_ok hd ?_
  simp only [drained_turn hd, hb, hr, hk, State.askPhase, res_ok_bind]
  rfl

section
variable (h2 : (d.getX s.turn b).toNat < 2 ^ 32) (hp : d.poisonedAt (counterKeys k) = false)
include h2 hp

section
variable (h1 : 1 ≤ (d.getX s.turn b).toNat)
include h1

theorem exec_pcarrive (hm : d.marked k = true) : exec (.pcarrive a b core ctx) s =
    .next (((d.askControl s.turn (d.nodeOf k) .atomic).cycle k (d.getX s.turn b).toNat).complete s.turn) := by
  change execPcarrive a b core ctx s = _
  refine phaseCommand_ok hd ?_
  simp only [drained_turn hd, badCount_of_range h1 h2, hk, counterReady_marked hp hm, State.askPhase, res_ok_bind]

theorem exec_pcexpect (hm : d.marked k = true) : exec (.pcexpect a b core ctx) s =
    .next (((d.askControl s.turn (d.nodeOf k) .atomic).expectMore k (d.getX s.turn b).toNat).complete s.turn) := by
  change execPcexpect a b core ctx s = _
  refine phaseCommand_ok hd ?_
  simp only [drained_turn hd, badCount_of_range h1 h2, hk, counterReady_marked hp hm, State.askPhase, res_ok_bind]

variable (hm : d.marked k = false)
include hm

theorem exec_pcarrive_unmarked : TrapsWith (exec (.pcarrive a b core ctx) s) d s.turn (Trap.word .illegal) := by
  change TrapsWith (execPcarrive a b core ctx s) d s.turn _
  refine phaseCommand_traps hd ?_
  simp only [drained_turn hd, badCount_of_range h1 h2, hk, counterReady_unmarked hp hm, res_ok_bind, res_error_bind]

theorem exec_pcexpect_unmarked : TrapsWith (exec (.pcexpect a b core ctx) s) d s.turn (Trap.word .illegal) := by
  change TrapsWith (execPcexpect a b core ctx s) d s.turn _
  refine phaseCommand_traps hd ?_
  simp only [drained_turn hd, badCount_of_range h1 h2, hk, counterReady_unmarked hp hm, res_ok_bind, res_error_bind]

end

theorem exec_pcwait_unmarked (hm : d.marked k = false) :
    TrapsWith (exec (.pcwait a b core ctx) s) d s.turn (Trap.word .illegal) := by
  change TrapsWith (execPcwait a b core ctx s) d s.turn _
  refine phaseCommand_traps hd ?_
  simp only [drained_turn hd, decide_eq_false (Nat.not_le.mpr h2), hk, counterReady_unmarked hp hm, res_ok_bind,
    res_error_bind]

section
variable (hm : d.marked k = true)
include hm

theorem exec_pcwait_completes (hne : (d.counter k).phase ≠ (d.getX s.turn b).toNat) : exec (.pcwait a b core ctx) s =
    .next ((d.askControl s.turn (d.nodeOf k) .phase).complete s.turn) := by
  change execPcwait a b core ctx s = _
  refine phaseCommand_ok hd ?_
  simp only [drained_turn hd, decide_eq_false (Nat.not_le.mpr h2), hk, counterReady_marked hp hm, State.askPhase,
    bne_iff_ne.mpr hne, await_true, res_ok_bind]

theorem exec_pcwait_waits (heq : (d.counter k).phase = (d.getX s.turn b).toNat) :
    exec (.pcwait a b core ctx) s = .next (d.wait s.turn) := by
  change execPcwait a b core ctx s = _
  refine phaseCommand_waits hd ?_ fun ks hks => atomicGoes_of_counterOperand hk hks
  simp only [drained_turn hd, decide_eq_false (Nat.not_le.mpr h2), hk, counterReady_marked hp hm, heq, bne_self_eq_false,
    await_false, res_ok_bind, res_error_bind]

end

end

end

theorem phaseCommands : PhaseCommands := by
  rintro s d _ a b core ctx k _ hd rfl hk rfl
  refine ⟨fun e hb hr he => exec_pcinit hd hk hb hr he, fun h1 h2 hp hm => ⟨?arrive, ?expect⟩,
    fun h2 hp hm => ⟨exec_pcwait_completes hd hk h2 hp hm, exec_pcwait_waits hd hk h2 hp hm⟩,
    fun h1 h2 hp hm => ⟨?arriveTraps, ?expectTraps, exec_pcwait_unmarked hd hk h2 hp hm⟩⟩
  case arrive => exact exec_pcarrive hd hk h2 hp h1 hm
  case expect => exact exec_pcexpect hd hk h2 hp h1 hm
  case arriveTraps => exact exec_pcarrive_unmarked hd hk h2 hp h1 hm
  case expectTraps => exact exec_pcexpect_unmarked hd hk h2 hp h1 hm

/-! ## Collectives (R299) -/

section
variable {s d : State} (hd : Drained s d)
include hd

theorem exec_coll {b : Nat} {bs src dst : List Nat} {ws : List Word} (hws : ws = wordsOf 4 bs)
    (ha : (d.getX s.turn b).toNat % 32 = 0) (hrec : recordRead d s.turn (d.getX s.turn b).toNat 32 = .ok bs)
    (hok : collRecordOk d s.turn ws = true)
    (hsrc : vectorKeys d s.turn (nth 0 ws 1).toNat .read 8192
      (memBits (collFmt (nth 0 ws 0).toNat) / 8 * collCount (nth 0 ws 0).toNat) = .ok src)
    (hdst : vectorKeys d s.turn (nth 0 ws 2).toNat .write 8192
      (memBits (collFmt (nth 0 ws 0).toNat) / 8 * collCount (nth 0 ws 0).toNat) = .ok dst) :
    exec (.coll b) s = finish d s.turn
      (await (((d.region s.turn).colls.filter (fun k => !k.freed)).length < 4 && !vaultHeld d src) >>= fun _ =>
        .ok (d.setRegion s.turn { d.region s.turn with colls := (d.region s.turn).colls ++
          [{ words := ws,
             data := elementsAt d (memBits (collFmt (nth 0 ws 0).toNat) / 8) (collCount (nth 0 ws 0).toNat) src,
             dest := dst, start := d.ticks.toNat, paused := 0, freed := false }] })) := by
  subst hws
  change execColl b s = _
  simp only [execColl, command_of_drained hd, drained_turn hd, ha, hrec, hok, hsrc, hdst, beq_self_eq_true, need_true,
    res_ok_bind]

theorem exec_collwait {a : Nat} (hid : (d.getX s.turn a).toNat < 256) : exec (.collwait a) s = finish d s.turn
    (await (!(d.region s.turn).colls.any (fun k => !k.freed && collId k.c0 == (d.getX s.turn a).toNat)) >>= fun _ =>
      .ok d) := by
  have hlow : lowOperand (d.getX s.turn a) 8 = .ok (d.getX s.turn a).toNat := lowOperand_of_lt (by omega)
  change execCollwait a s = _
  simp only [execCollwait, command_of_drained hd, drained_turn hd, hlow, res_ok_bind]

end

theorem collectiveCommands : CollectiveCommands := by
  rintro s d a b _ _ bs src dst ws _ hd rfl rfl hws
  refine ⟨fun ha hrec hok hsrc hdst => ?coll, ?collwait⟩
  case coll =>
    rw [exec_coll hd hws ha hrec hok hsrc hdst]
    refine ⟨fun hroom hheld => ?joins, fun hw => ?waits⟩
    case joins => rw [decide_eq_true hroom, hheld]; rfl
    case waits =>
      have hno : (decide (((d.region s.turn).colls.filter (fun k => !k.freed)).length < 4) && !vaultHeld d src) = false := by
        obtain hfull | hheld := hw
        · rw [decide_eq_false (Nat.not_lt.mpr hfull), Bool.false_and]
        · rw [hheld, Bool.not_true, Bool.and_false]
      rw [hno, await_false, res_error_bind, finish_wait]
  case collwait =>
    rintro rfl hid
    rw [exec_collwait hd hid]
    exact ⟨fun hnone => by rw [hnone]; rfl, fun hsome => by rw [hsome]; rfl⟩

/-- Settles O34: each command's checks pass in order; a `pcwait` whose phase has not changed waits for no vault. -/
theorem phaseAndCollectiveCommands : Obligations.PhaseAndCollectiveCommands := ⟨phaseCommands, collectiveCommands⟩

end Sys2Proof.Machine
end

section
/-! O56: an agreeing all-reduce completes, a watch runs out, and debug hold asks for stops (R281, R300 to R304, R358). -/
namespace Sys2Proof.Machine

/-! ## An all-reduce whose participants agree (R300, R301) -/

/-- The participants of a collective that have a record at the reducers. -/
def State.participants (s : State) (rs : List Nat) (cid : Nat) : List (Nat × Coll) :=
  rs.filterMap (fun q => (s.collOf q cid).map (fun c => (q, c)))

/-- Every participant has a record of one all-reduce within the package, and the records agree. -/
structure Agreeing (s : State) (r cid : Nat) (k : Coll) (all : List (Nat × Coll)) : Prop where
  own : s.collOf r cid = some k
  listed : all = s.participants (scopeRegions (collScope k.c0) r) cid
  scope : collScope k.c0 ≠ 7
  op : collOp k.c0 = 0
  complete : all.length = (scopeRegions (collScope k.c0) r).length
  same : ∀ p ∈ all, collScope p.2.c0 = collScope k.c0 ∧ collKey p.2.c0 = collKey k.c0

section
variable {s : State} {r cid : Nat} {k : Coll} {all : List (Nat × Coll)} (h : Agreeing s r cid k all)
include h

theorem exec_collectiveComplete : exec (.collectiveComplete r cid) s =
    .next (State.tick (if all.any (fun p => vaultHeld s p.2.dest) = true then s
      else all.foldl (fun t p => t.deliverColl p.2
          (reduceTree (collFn k.c0) (collFmt k.c0) (collCount k.c0) 5 (all.map (fun p => p.2.data))))
        (all.foldl (fun t p => t.dropColl p.1 p.2) s))) := by
  obtain ⟨hown, hlist, hscope, hop, hlen, hsame⟩ := h
  have hscopes : all.any (fun p => collScope p.2.c0 != collScope k.c0) = false := by
    simpa using fun a b hp => (hsame (a, b) hp).1
  have hkeys : all.any (fun p => collKey p.2.c0 != collKey k.c0) = false := by
    simpa using fun a b hp => (hsame (a, b) hp).2
  have hno : (collScope k.c0 == 7) = false := by simpa using hscope
  have hcount : (all.length != (scopeRegions (collScope k.c0) r).length) = false := by simpa using hlen
  rw [State.participants] at hlist
  change execCollectiveComplete r cid s = _
  simp only [execCollectiveComplete, hown, ← hlist, hno, hop, hscopes, hkeys, hcount, Bool.false_and, Bool.or_false,
    Bool.false_or, beq_self_eq_true, Bool.true_or, Bool.true_and, Bool.false_eq_true, if_false, if_true]
  rfl

end

/-! ## The watch (R303) -/

theorem exec_collTimeout {s : State} {r cid : Nat} {k : Coll}
    (hk : (s.region r).colls.find? (fun q => !q.freed && collId q.c0 == cid) = some k) (hd : s.die.debugHold = false)
    (h0 : bits (s.region r).collwd.toNat 47 0 ≠ 0) (hl : bits (s.region r).collwd.toNat 47 0 ≤ k.elapsed s.ticks.toNat) :
    exec (.collTimeout r cid) s = .next ((s.setRegion r { s.region r with
      colls := (s.region r).colls.map (fun q => if q = k then { q with freed := true } else q) }).raiseAsync r
        (Trap.engine FaultCode.collTimeout.code 0 0 0 0 0)).tick := by
  change execCollTimeout r cid s = _
  simp [execCollTimeout, hk, hd, h0, Nat.not_lt.mpr hl]

/-! ## Debug hold (R302, R358, log 23) -/

/-- A map over a table that fixes the value of an unlisted key is a map of what the table holds. -/
theorem sget_map {α : Type} {g : α → α} {d : α} (hd : g d = d) (t : Sparse α) (k : Nat) :
    sget d (t.map fun e => (e.1, g e.2)) k = g (sget d t k) := by
  induction t with
  | nil => exact hd.symm
  | cons e l ih =>
    simp only [List.map_cons, sget]
    split
    · rfl
    · exact ih

/-- A context that debug hold finds resident is asked for a stop. -/
def Ctx.asked (k : Ctx) : Ctx := if k.slot = .resident then { k with stopWanted := true } else k

/-- A core as debug hold leaves it. -/
def Core.asked (c : Core) : Core := { c with ctxs := c.ctxs.map (fun (p : Nat × Ctx) => (p.1, p.2.asked)) }

theorem asked_ctx (c : Core) (x : Nat) : c.asked.ctx x = (c.ctx x).asked := sget_map rfl c.ctxs x

theorem asked_of_resident {k : Ctx} (h : k.slot = .resident) : k.asked = { k with stopWanted := true } := if_pos h

/-- Debug hold changes the package's hold and asks the contexts. -/
theorem exec_debugHold (s : State) : ∃ t, exec .debugHold s = .next t ∧ t.die.debugHold = true ∧ t.mem = s.mem ∧
    t.regions = s.regions ∧ ∀ c, t.core c = (s.core c).asked :=
  ⟨_, rfl, rfl, rfl, rfl, fun c => sget_map (g := Core.asked) (d := Core.reset) rfl s.cores c⟩

theorem exec_debugHoldRelease {s : State} (h : s.die.debugHold = true) : ∃ t, exec .debugHoldRelease s = .next t ∧
    t.die.debugHold = false ∧ t.cores = s.cores ∧ t.mem = s.mem := by
  change ∃ t, execDebugHoldRelease s = _ ∧ _
  simp only [execDebugHoldRelease, h]
  exact ⟨_, rfl, rfl, rfl, rfl⟩

/-- Settles O56: of the records that agree, a held destination makes all wait; debug hold asks each resident context and changes no
region. -/
theorem collectiveAndHoldHappenings : Obligations.CollectiveAndHoldHappenings := by
  intro s r cid
  refine ⟨?complete, fun k => exec_collTimeout, ?hold, exec_debugHoldRelease⟩
  case complete =>
    rintro k _ all hk rfl hall hscope hop hlen hsame
    have hagree (p : Nat × Coll) (hp : p ∈ all) :
        collScope p.2.c0 = collScope k.c0 ∧ collKey p.2.c0 = collKey k.c0 := by
      obtain ⟨hs, -, hkey⟩ := hsame p hp
      exact ⟨hs, hkey⟩
    have hexec := exec_collectiveComplete ⟨hk, hall, hscope, hop, hlen, hagree⟩
    refine ⟨fun hheld => ?held, fun hfree res hres => ?done⟩
    case held => rw [hexec, if_pos (by simpa using hheld)]
    case done =>
      rw [hexec, if_neg (by simpa using hfree), hres]
  case hold =>
    obtain ⟨t, hexec, hdie, hmem, hregions, hcore⟩ := exec_debugHold s
    refine ⟨t, hexec, hdie, hmem, hregions, fun c x hx => ?_⟩
    have hctx : t.ctx c x = (s.ctx c x).asked := by rw [State.ctx, hcore, asked_ctx, State.ctx]
    rw [hctx, asked_of_resident hx]
    exact ⟨rfl, hx⟩

end Sys2Proof.Machine
end

section
/-! O57: the save engine writes its pieces and its seal, and a waiting merge goes on (R280, R281, R336, R342). -/
namespace Sys2Proof.Machine

/-! ## The next piece of a save (R336) -/

/-- The number of the piece at the cursor of a save. -/
def Saving.piece (v : Saving) : Nat := v.cursor / 2048

/-- Its bytes. -/
def Saving.pieceLen (v : Saving) : Nat := Nat.min 2048 (v.image.length - v.cursor)

/-- The save of a slot with its cursor after that piece. -/
def State.stepCursor (s : State) (c x : Nat) (v : Saving) : State :=
  s.setCore c { s.core c with saves := sput (s.core c).saves x { v with cursor := v.cursor + v.pieceLen } }

/-- The piece is written at keys, with its poison (R280). -/
def State.storePiece (s : State) (v : Saving) (d : Divert) (kh : List Nat) : State :=
  s.storeMarked kh ((v.image.drop v.cursor).take v.pieceLen)
    ((range v.cursor v.pieceLen).map (fun j => d.poison.contains (j / 8)))

section
variable {s : State} {c x : Nat} {v : Saving} {d : Divert}

section
variable (hv : (s.core c).saves.find? (fun (e : Nat × Saving) => !e.2.stopped && e.2.cursor < e.2.image.length) = some (x, v))
  (hd : s.div c v.entry = some d)
include hv hd

/-- A home that is held keeps the piece waiting (R281). -/
theorem exec_savePieceWrite_held (hh : pieceHeld s c v d = true) : exec (.savePieceWrite c) s = .next s.tick := by
  change execSavePieceWrite c s = _
  simp only [execSavePieceWrite, hv, hd, hh, if_true]

theorem exec_savePieceWrite_writes (hh : pieceHeld s c v d = false) :
    exec (.savePieceWrite c) s = .next (savePiece s c x v d).tick := by
  change execSavePieceWrite c s = _
  simp only [execSavePieceWrite, hv, hd, hh, Bool.false_eq_true, if_false]

end

section
variable {kc km : List Nat} (hroom : v.cursor + v.pieceLen ≤ v.area) (hkc : imageKeys s c (d.image.toNat + 24) 4 = some kc)
  (hkm : imageKeys s c (d.image.toNat + 64 + 4 * v.piece) 4 = some km)
include hroom hkc hkm

/-- A piece at its own place in the image. -/
theorem savePiece_home {kh : List Nat} (hhost : 2 ≤ v.piece → hostPiece s c v.entry v.piece v.pieceLen d = none)
    (hkh : imageKeys s c (d.image.toNat + 2048 * v.piece) v.pieceLen = some kh) : savePiece s c x v d =
      ((s.storePiece v d kh).store kc (toBytes 4 (v.cursor + v.pieceLen))).stepCursor c x v := by
  have hnext : nextHost s c v d = none := by
    by_cases h2 : v.cursor / 2048 < 2
    · exact if_pos h2
    · exact (if_neg h2).trans (hhost (Nat.not_lt.mp h2))
  simp only [Saving.piece, Saving.pieceLen] at hroom hkm hkh
  simp only [savePiece, if_neg (Nat.not_lt.mpr hroom), hnext, hkc, hkm, hkh]
  rfl

/-- A piece at the host lent to it, which the image's map then names. -/
theorem savePiece_hosted {kh : List Nat} {m : Nat} {w : State} (h2 : 2 ≤ v.piece)
    (hhost : hostPiece s c v.entry v.piece v.pieceLen d = some (m, kh, w)) : savePiece s c x v d =
      (((w.storePiece v d kh).store km (toBytes 4 m)).store kc (toBytes 4 (v.cursor + v.pieceLen))).stepCursor c x v := by
  have hnext : nextHost s c v d = some (m, kh, w) := (if_neg (Nat.not_lt.mpr h2)).trans hhost
  simp only [Saving.piece, Saving.pieceLen] at hroom hkm
  simp only [savePiece, if_neg (Nat.not_lt.mpr hroom), hnext, hkc, hkm]
  rfl

end

/-! ## The seal (R336) -/

section
variable (hv : (s.core c).saves.find? (fun (e : Nat × Saving) => !e.2.stopped && e.2.cursor == e.2.image.length) = some (x, v))
  (hd : s.div c v.entry = some d)
include hv hd

theorem exec_saveSeal_waits (hr : (s.core c).ordersRead v.entry = true) : exec (.saveSeal c) s = .next s.tick := by
  change execSaveSeal c s = _
  simp only [execSaveSeal, hv, hd, hr, Bool.true_or, if_true]

theorem exec_saveSeal_seals {l : Launch} {ks : List Nat} (hr : (s.core c).ordersRead v.entry = false)
    (hl : (s.region (regionOf c)).launch = some l) (hh : imageHeld s c d.image.toNat 8 = false)
    (hk : imageKeys s c d.image.toNat 8 = some ks) : exec (.saveSeal c) s =
      .next ((vacate (s.store ks (toBytes 8 (2 ^ 63 + 2 ^ 32 * l.id + 2 ^ 16 * d.cxid))) c x d).setEvent (regionOf c) 5).tick := by
  change execSaveSeal c s = _
  simp only [execSaveSeal, hv, hd, hr, hl, hh, hk, Bool.false_or, Bool.false_eq_true, if_false]

end

end

/-! ## The waiting merge (R342) -/

theorem exec_restoreMerge {s : State} {c x n ptr e : Nat} {d : Divert} {image : Image} {log : List Nat}
    (hr : (s.core c).restore = some (x, n, ptr))
    (ho : restoreOperands s (regionOf c) c x ptr = .ok (e, d, image, log))
    (hf : tilesFree (s.core c) (imageTiles image) = true) :
    exec (.restoreMerge c) s = .next ((mergeImage s c x e ptr d image log).complete (regionOf c)) := by
  change execRestoreMerge c s = _
  simp only [execRestoreMerge, hr, ho, hf, if_true]

/-- Settles O57: a piece goes home or to its host, the seal waits for the orders that read, and a merge runs once its tiles are
free. -/
theorem saveAndRestoreHappenings : Obligations.SaveAndRestoreHappenings := by
  intro s c
  refine ⟨fun x v d hv hd => ⟨exec_savePieceWrite_held hv hd, fun hh => ?written⟩,
    fun x v d l ks hv hd => ⟨exec_saveSeal_waits hv hd, exec_saveSeal_seals hv hd⟩,
    fun x n ptr e d image log => exec_restoreMerge⟩
  have hexec := exec_savePieceWrite_writes hv hd hh
  refine ⟨hexec, ?home, ?hosted⟩
  case home =>
    rintro _ _ kc km kh rfl rfl hroom hhost hkc hkm hkh
    exact ⟨_, _, rfl, rfl, by rw [hexec, savePiece_home hroom hkc hkm hhost hkh]; rfl⟩
  case hosted =>
    rintro _ _ m kh w kc km rfl rfl hroom h2 hhost hkc hkm
    exact ⟨_, _, rfl, rfl, by rw [hexec, savePiece_hosted hroom hkc hkm h2 hhost]; rfl⟩

end Sys2Proof.Machine
end

section
/-! O35: the commands on context images (R336, R339, R342). -/
namespace Sys2Proof.Machine

section
variable {s d : State} (hd : Drained s d) (hpriv : (d.region s.turn).mode = .privileged) {core c : Nat}
  (hc : coreOperand d s.turn core = .ok c)
include hd hpriv hc

/-! ## cxsave (R336, R345) -/

theorem exec_cxsave {a b ctx e v ptr : Nat} {l : Launch} (hp : ptr = (d.getX s.turn b).toNat)
    (hv : v = (d.getX s.turn a).toNat) (hlow : bits v 31 16 = 0) (hhigh : bits v 63 48 = 0) (hmin : 2 ≤ bits v 47 32)
    (hmax : bits v 47 32 ≤ 256) (hwin : ptr / 2 ^ 60 = 8) (hal : ptr % 4096 = 0) (hfree : sfind (d.core c).saves ctx = none)
    (hslot : (d.ctx c ctx).slot = .resident ∨ (d.ctx c ctx).slot = .stopped) (he : (d.core c).freeEntry = some e)
    (hl : (d.region s.turn).launch = some l) : exec (.cxsave a b core ctx) s =
      .next ((switchOut d c ctx (bits v 15 0) ptr (4096 * bits v 47 32) e l).complete s.turn) := by
  have hneed : ((d.ctx c ctx).slot == .resident || (d.ctx c ctx).slot == .stopped) = true := by simpa using hslot
  subst hp hv
  change execCxsave a b core ctx s = _
  simp only [execCxsave, command_of_drained hd, drained_turn hd, needPrivileged_ok.mpr hpriv, hc, hlow, hhigh, hwin, hal,
    decide_eq_true hmin, decide_eq_true hmax, hfree, hneed, he, hl, beq_self_eq_true, Bool.and_self, need_true, res_ok_bind,
    finish_ok]

/-! ## cxrest (R342) -/

theorem exec_cxrest {b ctx e ptr : Nat} {w : Divert} {image : Image} {log : List Nat} (hp : ptr = (d.getX s.turn b).toNat)
    (ho : restoreOperands d s.turn c ctx ptr = .ok (e, w, image, log)) : exec (.cxrest b core ctx) s =
      if tilesFree (d.core c) (imageTiles image) = true then .next ((mergeImage d c ctx e ptr w image log).complete s.turn)
      else .next ((d.setCore c { d.core c with restore := some (ctx, e, ptr) }).wait s.turn) := by
  obtain ⟨hready, rfl⟩ := hd
  subst hp
  change execCxrest b core ctx s = _
  simp only [execCxrest, hready, await_true, needPrivileged_ok.mpr hpriv, hc, ho, res_ok_bind]
  rfl

/-! ## dvmap and dvclr (R339) -/

section
variable {b e : Nat} (hal : (d.getX s.turn b).toNat % 32 = 0)
include hal

theorem exec_dvmap_no_entry {bs : List Nat} (hrec : recordRead d s.turn (d.getX s.turn b).toNat 32 = .ok bs)
    (he : d.div c e = none) : TrapsWith (exec (.dvmap b core e) s) d s.turn (Trap.word .illegal) := by
  change TrapsWith (execDvmap b core e s) d s.turn _
  simp only [execDvmap, command_of_drained hd, drained_turn hd, needPrivileged_ok.mpr hpriv, hc, hal, hrec, he,
    beq_self_eq_true, need_true, res_ok_bind]
  exact trapsWith_finish _ _ _

/-- The descriptor names the entry's image: then its proof pointer decides. -/
theorem exec_dvmap_entry {bs : List Nat} {w : Divert} (hrec : recordRead d s.turn (d.getX s.turn b).toNat 32 = .ok bs)
    (he : d.div c e = some w) (hvalid : bit (itemWord bs 0) 63 = true) (hslot : bits (itemWord bs 0) 62 61 = w.slot)
    (hcxid : bits (itemWord bs 0) 47 32 = w.cxid) (hseq : bits (itemWord bs 0) 31 0 = w.seq)
    (himage : itemWord bs 1 = w.image.toNat) (hused : w.used ≤ bits (itemWord bs 3) 63 48)
    (hsize : bits (itemWord bs 3) 63 48 ≠ 0) : exec (.dvmap b core e) s = finish d s.turn
      (need (itemWord bs 2 == w.proof.toNat || (w.used == 0 && itemWord bs 2 / 2 ^ 60 == 8 && itemWord bs 2 % 32 == 0)) .illegal
        >>= fun _ => .ok (d.setDiv c e { w with
          proof := BitVec.ofNat 64 (itemWord bs 2), size := bits (itemWord bs 3) 63 48, full := false })) := by
  change execDvmap b core e s = _
  simp only [execDvmap, command_of_drained hd, drained_turn hd, needPrivileged_ok.mpr hpriv, hc, hal, hrec, he, hvalid, hslot,
    hcxid, hseq, himage, decide_eq_true hused, bne_iff_ne.mpr hsize, beq_self_eq_true, Bool.true_and, need_true, res_ok_bind]

end

theorem exec_dvclr_no_entry {e : Nat} (he : d.div c e = none) : exec (.dvclr core e) s = .next (d.complete s.turn) := by
  obtain ⟨hready, rfl⟩ := hd
  change execDvclr core e s = _
  simp only [execDvclr, hready, await_true, needPrivileged_ok.mpr hpriv, hc, he, res_ok_bind, finish_ok]

theorem exec_dvclr_clears {e : Nat} {w : Divert} {ks : List Nat} (he : d.div c e = some w)
    (hh : imageHeld d c w.image.toNat 8 = false) (hk : resolve d (.control s.turn) w.image.toNat 8 .write = .ok ks)
    (hidle : ((startClear d c e w).core c).workOf e = false) :
    exec (.dvclr core e) s = .next ((endClear (startClear d c e w) c e w ks).complete s.turn) := by
  obtain ⟨hready, rfl⟩ := hd
  change execDvclr core e s = _
  simp only [execDvclr, hready, await_true, needPrivileged_ok.mpr hpriv, hc, he, hh, hk, ofAcc, hidle, res_ok_bind,
    Bool.false_eq_true, if_false, finish_ok]

end

/-- Settles O35: the checks of each command come in the order of its table, and its effect follows. -/
theorem contextImageCommands : Obligations.ContextImageCommands := by
  rintro s d a b core ctx e c _ _ hd hpriv hc rfl rfl
  refine ⟨fun l => exec_cxsave hd hpriv hc rfl rfl, fun w image log ho => ⟨fun hf => ?merges, fun hf => ?waits⟩,
    fun bs w proof hal hrec he hvalid hslot hcxid hseq himage hused hsize hproof => ?mapped,
    fun he hal ⟨bs, hrec⟩ => exec_dvmap_no_entry hd hpriv hc hal hrec he, exec_dvclr_no_entry hd hpriv hc,
    fun w ks => exec_dvclr_clears hd hpriv hc⟩
  case merges => rw [exec_cxrest hd hpriv hc rfl ho, if_pos hf]
  case waits => rw [exec_cxrest hd hpriv hc rfl ho, if_neg (by simp [hf])]
  case mapped =>
    subst hproof
    rw [exec_dvmap_entry hd hpriv hc hal hrec he hvalid hslot hcxid hseq himage hused hsize]
    refine ⟨fun hp => ?taken, fun hne hfull => ?refused⟩
    case taken =>
      have hneed : (itemWord bs 2 == w.proof.toNat ||
          (w.used == 0 && itemWord bs 2 / 2 ^ 60 == 8 && itemWord bs 2 % 32 == 0)) = true := by simpa [and_assoc] using hp
      rw [hneed, need_true, res_ok_bind, finish_ok]
    case refused =>
      rw [beq_eq_false_iff_ne.mpr hne, beq_eq_false_iff_ne.mpr hfull]
      exact trapsWith_finish _ _ _

end Sys2Proof.Machine
end

section
/-! O59: lane repair, operating points, throttling and trip (R280, R366, R367). -/
namespace Sys2Proof.Machine

/-! ## Lane repair (R366) -/

@[simp] theorem setVault_vault_same (s : State) (v : Nat) (x : Vault) : (s.setVault v x).vault v = x := by
  simp [State.vault, State.setVault]

theorem setVault_regions (s : State) (v : Nat) (x : Vault) : (s.setVault v x).regions = s.regions := rfl

theorem setVault_poison (s : State) (v : Nat) (x : Vault) : (s.setVault v x).poison = s.poison := rfl

theorem poisonUnits_regions (s : State) (v : Nat) : (s.poisonUnits v).regions = s.regions := by
  simp [State.poisonUnits, State.setFree]

/-- The units that a lane switch finds uncorrectable lie in its vault. -/
theorem unit_vault {pkg v u : Nat} (hv : v < 4096) (hu : u < 2 ^ 24) :
    (pkg * 2 ^ 36 + v * 2 ^ 24 + u) / 2 ^ 24 % 4096 = v := by omega

theorem mem_poisonUnits {s : State} {v n : Nat} : n ∈ (s.poisonUnits v).poison ↔
    (∃ u, u ∈ Config.uncorrectable s.free ∧ u < 2 ^ 24 ∧ s.packageNo * 2 ^ 36 + v * 2 ^ 24 + u = n) ∨ n ∈ s.poison := by
  simp [State.poisonUnits, State.setFree, mem_foldl_insertNat, and_assoc]

section
variable {s : State} {v lane spare : Nat}

theorem exec_laneRepair_unpowered (h : s.die.powered = false) : exec (.laneRepair v lane spare) s = .next s.tick := by
  change execLaneRepair v lane spare s = _
  simp [execLaneRepair, h]

variable (h : s.die.powered = true)
include h

/-- The sequencer first holds the vault's requests. -/
theorem exec_laneRepair_holds (hr : (s.vault v).repair = none) : exec (.laneRepair v lane spare) s =
    .next (s.setVault v { s.vault v with held := true, repair := some (lane, spare) }).tick := by
  change execLaneRepair v lane spare s = _
  simp [execLaneRepair, h, hr]

/-- Then it switches the lane. -/
theorem exec_laneRepair_switches {l : Nat × Nat} (hr : (s.vault v).repair = some l) : exec (.laneRepair v lane spare) s =
    .next ((s.poisonUnits v).setVault v { s.vault v with
      held := false, repair := none, lanes := (s.vault v).lanes ++ [l], log := (s.vault v).log ++ [l] }).tick := by
  change execLaneRepair v lane spare s = _
  simp [execLaneRepair, h, hr]

end

/-! ## Power (R17, R367) -/

/-- A state as a thermal trip leaves it: without compute power (R367). -/
def State.tripped (s : State) : State :=
  { s.warmClear with die := { s.warmClear.die with powered := false, boot := .unpowered } }

section
variable (s : State) (layer n : Nat)

theorem exec_dvfsMove : exec (.dvfsMove layer n) s =
    .next (if s.die.powered = true ∧ layerMin layer ≤ n ∧ n ≤ 750 then s.setPoint layer n else s).tick := rfl

theorem exec_thermalThrottle : exec (.thermalThrottle layer n) s =
    .next (if s.die.powered = true ∧ 95 < n then (s.setTemp layer n).setPoint layer (layerMin layer)
      else s.setTemp layer n).tick := rfl

theorem exec_thermalTrip : exec (.thermalTrip layer n) s =
    .next (if s.die.powered = true ∧ 105 ≤ n then (s.setTemp layer n).tripped else s.setTemp layer n).tick := rfl

@[simp] theorem setTemp_temp : sfind (s.setTemp layer n).die.temp layer = some n := sfind_sput_same _ _ _

@[simp] theorem setPoint_mv : sfind (s.setPoint layer n).die.mv layer = some n := sfind_sput_same _ _ _

end

/-! ## Settling O59 -/

/-- A powered package's sequencer holds its vault, and at the next event switches the lane. -/
theorem laneRepairs (s : State) {v lane spare : Nat} (hv : v < 4096) (hp : s.die.powered = true) :
    ∃ t, exec (.laneRepair v lane spare) s = .next t ∧ t.mem = s.mem ∧ t.regions = s.regions ∧
      ((s.vault v).repair = none → (t.vault v).held = true ∧ (t.vault v).repair = some (lane, spare) ∧
        (t.vault v).lanes = (s.vault v).lanes ∧ t.cores = s.cores ∧ t.poison = s.poison) ∧
      (∀ l, (s.vault v).repair = some l → (∀ n ∈ s.poison, n ∈ t.poison) ∧
        (∀ n ∈ t.poison, n ∈ s.poison ∨ n / 2 ^ 24 % 4096 = v) ∧ (t.vault v).held = false ∧ (t.vault v).repair = none ∧
        (t.vault v).lanes = (s.vault v).lanes ++ [l] ∧ (t.vault v).log = (s.vault v).log ++ [l]) := by
  have htick (t : State) : t.tick.vault v = t.vault v := rfl
  cases hr : (s.vault v).repair with
  | none =>
    refine ⟨_, exec_laneRepair_holds hp hr, rfl, rfl, fun _ => ?_, fun _ h => nomatch h⟩
    rw [htick, setVault_vault_same]
    exact ⟨rfl, rfl, rfl, rfl, rfl⟩
  | some l =>
    refine ⟨_, exec_laneRepair_switches hp hr, ?mem, ?regions, fun h => (nomatch h), ?switched⟩
    case mem => rw [tick_mem, setVault_mem, poisonUnits_mem]
    case regions => rw [tick_regions, setVault_regions, poisonUnits_regions]
    rintro _ ⟨⟩
    rw [htick, setVault_vault_same, tick_poison, setVault_poison]
    refine ⟨fun n hn => mem_poisonUnits.mpr (.inr hn), fun n hn => ?_, rfl, rfl, rfl, rfl⟩
    obtain ⟨u, -, hu, rfl⟩ | hn := mem_poisonUnits.mp hn
    · exact .inr (unit_vault hv hu)
    · exact .inl hn

/-- Settles O59: each event acts where its condition holds, and else leaves the state but for a temperature it notes. -/
theorem repairAndPower : Obligations.RepairAndPower := by
  intro s
  refine ⟨fun v lane spare => exec_laneRepair_unpowered, fun v lane spare hv hp => laneRepairs s hv hp, fun layer mv => ?move,
    fun layer temp => ?throttle, fun layer temp => ?trip⟩
  case move =>
    rw [exec_dvfsMove]
    refine ⟨fun hp hlo hhi => by rw [if_pos ⟨hp, hlo, hhi⟩], fun hout => ?_⟩
    rw [if_neg]
    rintro ⟨hp, hlo, hhi⟩
    obtain h | h | h := hout
    · exact absurd (hp.symm.trans h) nofun
    · omega
    · omega
  case throttle =>
    refine ⟨_, exec_thermalThrottle s layer temp, ?_⟩
    by_cases h : s.die.powered = true ∧ 95 < temp
    · rw [if_pos h]
      refine ⟨setTemp_temp s layer temp, rfl, rfl, rfl, fun _ _ => setPoint_mv _ layer _, fun hno => ?_⟩
      obtain ⟨hp, ht⟩ := h
      simp only [hp, Bool.true_eq_false, false_or] at hno
      omega
    · rw [if_neg h]
      exact ⟨setTemp_temp s layer temp, rfl, rfl, rfl, fun hp ht => absurd ⟨hp, ht⟩ h, fun _ => rfl⟩
  case trip =>
    refine ⟨_, exec_thermalTrip s layer temp, ?_⟩
    by_cases h : s.die.powered = true ∧ 105 ≤ temp
    · rw [if_pos h]
      refine ⟨fun _ _ => ⟨rfl, rfl, rfl, rfl⟩, fun hno => ?_⟩
      obtain ⟨hp, ht⟩ := h
      simp only [hp, Bool.true_eq_false, false_or] at hno
      omega
    · rw [if_neg h]
      exact ⟨fun hp ht => absurd ⟨hp, ht⟩ h, fun _ => ⟨rfl, rfl, rfl, rfl⟩⟩

end Sys2Proof.Machine
end

section
/-! O7, O58: the state after reset; resets, recovery and attestation (R360 to R365). -/
namespace Sys2Proof.Machine

/-! ## The state after reset (R364, log 2) -/

theorem resetFields : ResetFields := by
  refine ⟨fun r => ⟨rfl, rfl, rfl, rfl, rfl, rfl, fun n => ?register⟩,
    fun c => ⟨rfl, rfl, rfl, fun x => ⟨rfl, rfl⟩, fun off => rfl⟩, rfl, rfl, rfl⟩
  case register => exact ite_self (0 : Word)

/-- Settles O7: nothing is listed, so each region, core and byte is as its default. -/
theorem resetState : Obligations.ResetState := ⟨reset_wf, resetFields⟩

/-! ## Bring-up (R364, R365) -/

/-- Every core of the package is as after a reset. -/
def State.CoresReset (s : State) : Prop := ∀ c, s.core c = Core.reset

/-- No counter of a reset core counts an error. -/
theorem countEvent_coresReset {s : State} (c : Nat) (h : s.CoresReset) : (s.countEvent c 12 0 1).CoresReset := by
  intro d
  by_cases hd : d = c
  · subst hd
    rw [State.countEvent, setCore_core_same, h]
    rfl
  · rw [countEvent_core_ne s 12 0 1 hd, h]

theorem spoil_coresReset {s : State} (us : List Nat) (h : s.CoresReset) : (s.spoil us).CoresReset :=
  List.foldlRecOn _ _ (motive := State.CoresReset) (by exact h) fun _ ht u _ => countEvent_coresReset (eventCore (8 * u)) ht

section
variable (n : Nat) (s : State) (p : Nat × Vault)

theorem replay_cases : replay n s p = s ∨ ∃ us, replay n s p = s.spoil us := by
  simp only [replay]
  split
  · exact .inr ⟨_, rfl⟩
  · exact .inl rfl

theorem replay_regions : (replay n s p).regions = s.regions := by
  obtain h | ⟨us, h⟩ := replay_cases n s p <;> simp [h]

theorem replay_marks : (replay n s p).marks = s.marks := by
  obtain h | ⟨us, h⟩ := replay_cases n s p <;> simp [h]

theorem replay_die : (replay n s p).die = s.die := by
  obtain h | ⟨us, h⟩ := replay_cases n s p <;> simp [h]

theorem replay_coresReset (h : s.CoresReset) : (replay n s p).CoresReset := by
  obtain hr | ⟨us, hr⟩ := replay_cases n s p
  · rwa [hr]
  · rw [hr]
    exact spoil_coresReset us h

end

section
variable (s : State) (n : Nat)

theorem bringUp_regions : (s.bringUp n).regions = s.regions :=
  foldl_view State.regions (replay_regions n) s.die.vaults s

theorem bringUp_marks : (s.bringUp n).marks = s.marks := foldl_view State.marks (replay_marks n) s.die.vaults s

/-- Bring-up changes nothing of the die but its vaults. -/
theorem bringUp_die_view {β : Type} {view : Die → β} (hv : ∀ (d : Die) l, view { d with vaults := l } = view d) :
    view (s.bringUp n).die = view s.die :=
  (hv _ _).trans (congrArg view (foldl_view State.die (replay_die n) s.die.vaults s))

theorem bringUp_coresReset (h : s.CoresReset) : (s.bringUp n).CoresReset :=
  List.foldlRecOn s.die.vaults _ (motive := State.CoresReset) h fun t ht p _ => replay_coresReset n t p ht

end

/-! ## The start of the firmware, and the boot (R360, R361) -/

/-- The measurement changes nothing of the die but what it extends. -/
theorem startFirmware_view {β : Type} {view : Die → β}
    (hv : ∀ (d : Die) m l, view { d with measure := m, bootLog := l } = view d)
    (hs : ∀ (d : Die) v b p k r i, view { d with version := v, boot := b, powered := p, package := k, routes := r, iommu := i } =
      view d) (d : Die) (n : Nat) : view (d.startFirmware n) = view d :=
  (hs _ _ _ _ _ _ _).trans (foldl_view view (fun d _ => hv d _ _) d.nor.images d)

section
variable (s : State)

theorem start_die_view {β : Type} {view : Die → β} (hl : ∀ (d : Die) l, view { d with vaults := l } = view d)
    (hv : ∀ (d : Die) m l, view { d with measure := m, bootLog := l } = view d)
    (hs : ∀ (d : Die) v b p k r i, view { d with version := v, boot := b, powered := p, package := k, routes := r, iommu := i } =
      view d) : view s.start.die = view s.die :=
  (bringUp_die_view _ _ hl).trans (startFirmware_view hv hs s.die s.free)

theorem start_running : s.start.die.boot = .running :=
  bringUp_die_view (view := Die.boot) _ _ fun _ _ => rfl

theorem start_powered : s.start.die.powered = true :=
  bringUp_die_view (view := Die.powered) _ _ fun _ _ => rfl

theorem start_regions : s.start.regions = s.regions := bringUp_regions _ _

theorem start_marks : s.start.marks = s.marks := bringUp_marks _ _

theorem start_coresReset (h : s.CoresReset) : s.start.CoresReset := bringUp_coresReset _ _ h

end

/-- A boot as its manifest's checks decide. -/
inductive Booted (s : State) : State → Prop
  | starts (h : (s.die.accepts s.die.nor && imagesOk s.die.nor) = true) : Booted s s.start
  | stops (vs) (h : (s.die.accepts s.die.nor && imagesOk s.die.nor) = false) :
      Booted s { s with die := { s.die with boot := .stopped, powered := false, vaults := vs } }

theorem booted (s : State) : Booted s s.boot := by
  rw [State.boot]
  split
  case isTrue h => exact .starts h
  case isFalse h => exact .stops _ (by simpa using h)

section
variable {s t : State} (h : Booted s t)
include h

theorem booted_boot : t.die.boot = if (s.die.accepts s.die.nor && imagesOk s.die.nor) = true then .running else .stopped := by
  cases h with
  | starts hok => rw [if_pos hok, start_running]
  | stops vs hno => rw [if_neg (by simp only [hno, Bool.false_eq_true, not_false_eq_true])]

theorem booted_powered : t.die.powered = (s.die.accepts s.die.nor && imagesOk s.die.nor) := by
  cases h with
  | starts hok => rw [hok, start_powered]
  | stops vs hno => exact hno.symm

theorem booted_mem : t.mem = s.mem := by
  cases h with
  | starts => exact start_mem s
  | stops => rfl

theorem booted_regions : t.regions = s.regions := by
  cases h with
  | starts => exact start_regions s
  | stops => rfl

theorem booted_marks : t.marks = s.marks := by
  cases h with
  | starts => exact start_marks s
  | stops => rfl

theorem booted_coresReset (hc : s.CoresReset) : t.CoresReset := by
  cases h with
  | starts => exact start_coresReset s hc
  | stops => exact hc

/-- A boot keeps the flash, the key hash and the least version. -/
theorem booted_fuses : t.die.nor = s.die.nor ∧ t.die.keyHash = s.die.keyHash ∧ t.die.minVersion = s.die.minVersion := by
  cases h with
  | starts =>
    simpa only [Prod.mk.injEq] using start_die_view (view := fun d => (d.nor, d.keyHash, d.minVersion)) s
      (fun _ _ => rfl) (fun _ _ _ => rfl) (fun _ _ _ _ _ _ _ => rfl)
  | stops => exact ⟨rfl, rfl, rfl⟩

/-- The stacks have power exactly in a running package. -/
theorem booted_powered_iff : t.die.powered = true ↔ t.die.boot = .running := by
  rw [booted_boot h, booted_powered h]
  cases s.die.accepts s.die.nor && imagesOk s.die.nor with
  | true => exact iff_of_true rfl rfl
  | false => exact iff_of_false nofun nofun

end

/-! ## Cold and warm reset (R364) -/

/-- What a cold reset leaves before the boot: the fuses, SPI-NOR and the vaults' logs. -/
def State.coldCleared (s : State) : State :=
  { State.reset with
    die := { Die.reset with keyHash := s.die.keyHash, minVersion := s.die.minVersion, nor := s.die.nor, vaults := s.die.vaults },
    agenda := s.agenda, turn := s.turn, free := s.free, vcFlits := s.vcFlits }

theorem exec_coldReset (s : State) : exec .coldReset s = .next s.coldCleared.boot.tick := rfl

theorem exec_warmReset {s : State} (h : s.die.boot = .running) : exec .warmReset s = .next s.warmClear.start.tick :=
  congrArg (fun u : State => Host.Outcome.next u.tick) (if_pos h)

/-- A lookup in the entries whose keys pass a test. -/
theorem sget_filter_key {α : Type} (p : Nat → Bool) (d : α) (t : Sparse α) (k : Nat) :
    sget d (t.filter fun e => p e.1) k = if p k = true then sget d t k else d := by
  induction t with
  | nil => exact (ite_self d).symm
  | cons e l ih =>
    by_cases hp : p e.1 = true
    · rw [List.filter_cons_of_pos (by exact hp)]
      by_cases hk : k = e.1
      · simp [sget, hk, hp]
      · simp [sget, hk, ih]
    · rw [List.filter_cons_of_neg (by exact hp), ih]
      by_cases hk : k = e.1
      · simp [hk, hp]
      · simp [sget, hk]

/-- A warm reset keeps the bytes of DRAM alone. -/
theorem warmClear_memRead (s : State) (k : Nat) :
    memRead s.warmClear.mem k = if k < 2 ^ 45 then memRead s.mem k else Config.unlistedByte := by
  have h := sget_filter_key (fun m => decide (m < 2 ^ 45)) Config.unlistedByte s.mem k
  simp only [decide_eq_true_eq] at h
  exact h

theorem coldResetBoots (s : State) : ∃ t, exec .coldReset s = .next t ∧ t.mem = [] ∧ t.regions = [] ∧
    (∀ c, t.core c = Core.reset) ∧ t.marks = [] ∧
    t.die.nor = s.die.nor ∧ t.die.keyHash = s.die.keyHash ∧ t.die.minVersion = s.die.minVersion ∧
    (t.die.boot = .running ↔ (s.die.accepts s.die.nor && imagesOk s.die.nor) = true) ∧
    (t.die.boot = .running → t.die.powered = true) ∧ (t.die.boot ≠ .running → t.die.powered = false) := by
  have hb := booted s.coldCleared
  have hp := booted_powered_iff hb
  have hpower : s.coldCleared.boot.die.powered = (s.die.accepts s.die.nor && imagesOk s.die.nor) :=
    booted_powered (s := s.coldCleared) hb
  obtain ⟨hnor, hkey, hmin⟩ := booted_fuses hb
  have hcores : s.coldCleared.boot.CoresReset := booted_coresReset (s := s.coldCleared) hb fun c => rfl
  refine ⟨_, exec_coldReset s, booted_mem hb, booted_regions hb, hcores, booted_marks hb, hnor, hkey, hmin, ?_, hp.mpr,
    fun hno => ?_⟩
  · rw [← hpower]
    exact hp.symm
  · exact Bool.eq_false_iff.mpr fun ht => hno (hp.mp ht)

theorem warmResetRuns (s : State) (h : s.die.boot = .running) : ∃ t, exec .warmReset s = .next t ∧
    t.die.boot = .running ∧ t.regions = [] ∧ (∀ c, t.core c = Core.reset) ∧
    (∀ k, k < 2 ^ 45 → memRead t.mem k = memRead s.mem k) ∧ (∀ k, 2 ^ 45 ≤ k → memRead t.mem k = Config.unlistedByte) := by
  refine ⟨_, exec_warmReset h, start_running _, start_regions _, start_coresReset s.warmClear fun c => rfl, fun k hk => ?_,
    fun k hk => ?_⟩
  · rw [tick_mem, start_mem, warmClear_memRead, if_pos hk]
  · rw [tick_mem, start_mem, warmClear_memRead, if_neg (Nat.not_lt.mpr hk)]

/-! ## Recovery (R360, log 57) -/

/-- A manifest is in SPI-NOR. -/
def State.withManifest (s : State) (m : Manifest) : State := { s with die := { s.die with nor := m } }

section
variable {s : State} {m : Manifest} (h : s.die.boot = .stopped)
include h

theorem exec_recoveryManifest_refused (ha : s.die.accepts m = false) :
    exec (.recoveryManifest m) s = .next (s.notify (.refused 1)).tick := by
  change execRecoveryManifest m s = _
  simp [execRecoveryManifest, h, ha]

theorem exec_recoveryManifest_accepted (ha : s.die.accepts m = true) :
    exec (.recoveryManifest m) s = .next (s.withManifest m).boot.tick := by
  change execRecoveryManifest m s = _
  simp only [execRecoveryManifest, h, ha, if_true, State.withManifest]

/-- The boot goes on with an accepted manifest: it passes step 4 or stops there. -/
theorem recoveryBoots (ha : s.die.accepts m = true) : ∃ t, exec (.recoveryManifest m) s = .next t ∧ t.die.nor = m ∧
    t.mem = s.mem ∧ t.regions = s.regions ∧ (imagesOk m = true → t.die.boot = .running ∧ t.die.powered = true) ∧
    (imagesOk m = false → t.die.boot = .stopped ∧ t.die.powered = false) := by
  have hb := booted (s.withManifest m)
  obtain ⟨hnor, -, -⟩ := booted_fuses hb
  have hboot := booted_boot hb
  have hpower := booted_powered hb
  have hacc : (s.withManifest m).die.accepts (s.withManifest m).die.nor = true := ha
  simp only [hacc, Bool.true_and] at hboot hpower
  have hmem := booted_mem hb
  have hregions := booted_regions hb
  refine ⟨_, exec_recoveryManifest_accepted h ha, hnor, hmem, hregions, fun hi => ?_, fun hi => ?_⟩
  · exact ⟨hboot.trans (if_pos hi), hpower.trans hi⟩
  · exact ⟨hboot.trans (if_neg (Bool.eq_false_iff.mp hi)), hpower.trans hi⟩

end

/-- What an accepted manifest has (R360, log 97). -/
theorem accepts_iff {d : Die} {m : Manifest} : d.accepts m = true ↔ m.key.length = 32 ∧ m.sig.length = 7856 ∧
    Config.sha256 m.key = d.keyHash ∧ d.minVersion ≤ m.version ∧ Config.slhDsaVerify m.key (signedText m) m.sig = true := by
  simp [Die.accepts, and_assoc]

/-! ## Attestation (R362, log 11) -/

theorem length_reportText (d : Die) (nonce : Nat) : (reportText d nonce).length = 104 := by
  simp [reportText]

/-- Bytes filled up with zeros and cut to a length have it. -/
theorem length_take_append_zeros (l : List Nat) (n : Nat) : ((l ++ List.replicate n 0).take n).length = n := by
  rw [List.length_take, List.length_append, List.length_replicate, Nat.min_eq_left (Nat.le_add_left n _)]

theorem reportIsSigned (s : State) (nonce : Nat) : ∃ sig, exec (.attestationReport nonce) s =
    .next (s.notify (.report (reportText s.die nonce ++ sig))).tick ∧ sig.length = 16224 ∧
      (reportText s.die nonce).length = 104 :=
  ⟨_, rfl, length_take_append_zeros _ _, length_reportText _ _⟩

/-- Settles O58: each boot starts or stops as its manifest's checks decide, and keeps what the reset left. -/
theorem resetsAndAttestation : Obligations.ResetsAndAttestation :=
  ⟨coldResetBoots, warmResetRuns,
    fun _ _ h => ⟨exec_recoveryManifest_refused h, recoveryBoots h⟩, fun _ _ => accepts_iff.mp, reportIsSigned⟩

end Sys2Proof.Machine
end

section
/-! The privileged registers (R84, R135, R268) under every operation that a control-core word makes: each leaves those of every
region as they were. -/
namespace Sys2Proof.Machine

/-- The handler address and the translation registers of a region (R135, R268). -/
def Region.trusted (g : Region) : Word × Sparse Word × Sparse Word × Word := (g.tvec, g.rtab, g.ptroot, g.otab)

/-- Those registers, by region. -/
def State.trusted (s : State) (r : Nat) : Word × Sparse Word × Sparse Word × Word := (s.region r).trusted

theorem samePrivileged_of_trusted {s t : State} (h : t.trusted = s.trusted) : SamePrivileged s t := by
  intro r
  have hr : (t.region r).trusted = (s.region r).trusted := congrFun h r
  simpa only [Region.trusted, Prod.mk.injEq] using hr

theorem trusted_of_regions {s t : State} (h : t.regions = s.regions) : t.trusted = s.trusted := by
  funext r
  simp only [State.trusted, State.region, h]

@[simp] theorem foldl_trusted {α : Type} {f : State → α → State} (hf : ∀ s a, (f s a).trusted = s.trusted) (l : List α)
    (s : State) : (l.foldl f s).trusted = s.trusted :=
  foldl_view State.trusted hf l s

theorem fst_trusted {β : Type} {p : State × β} {s t : State} {b : β} (h : p.1.trusted = s.trusted) (e : p = (t, b)) :
    t.trusted = s.trusted := by
  subst e; exact h

/-! ## The state's own operations -/

/-- An update of one region that leaves its privileged registers. -/
@[simp] theorem setRegion_trusted {s : State} {r : Nat} {v : Region} (ht : v.tvec = (s.region r).tvec)
    (hr : v.rtab = (s.region r).rtab) (hp : v.ptroot = (s.region r).ptroot) (ho : v.otab = (s.region r).otab) :
    (s.setRegion r v).trusted = s.trusted := by
  funext q
  by_cases hq : q = r
  · subst hq
    simp only [State.trusted, setRegion_region_same, Region.trusted, ht, hr, hp, ho]
  · simp only [State.trusted, setRegion_region_ne s v hq]

@[simp] theorem setX_trusted (s : State) (r n : Nat) (v : Word) : (s.setX r n v).trusted = s.trusted := by
  unfold State.setX Region.setX
  split <;> simp

@[simp] theorem setCore_trusted (s : State) (c : Nat) (v : Core) : (s.setCore c v).trusted = s.trusted := by rfl

@[simp] theorem setCtx_trusted (s : State) (c x : Nat) (v : Ctx) : (s.setCtx c x v).trusted = s.trusted := by rfl

@[simp] theorem modCtx_trusted (s : State) (c x : Nat) (f : Ctx → Ctx) : (s.modCtx c x f).trusted = s.trusted := by rfl

@[simp] theorem setTile_trusted (s : State) (c n : Nat) (t : Tile) : (s.setTile c n t).trusted = s.trusted := by rfl

@[simp] theorem tick_trusted (s : State) : s.tick.trusted = s.trusted := by rfl

@[simp] theorem notify_trusted (s : State) (n : Notice) : (s.notify n).trusted = s.trusted := by rfl

@[simp] theorem unmark_trusted (s : State) (lo hi : Nat) : (s.unmark lo hi).trusted = s.trusted := by rfl

@[simp] theorem countEvent_trusted (s : State) (c src x n : Nat) : (s.countEvent c src x n).trusted = s.trusted := by rfl

@[simp] theorem touch_trusted (s : State) (c : Nat) (qs : List Nat) : (s.touch c qs).trusted = s.trusted := by rfl

@[simp] theorem loseCopies_trusted (s : State) (c n : Nat) : (s.loseCopies c n).trusted = s.trusted := by rfl

@[simp] theorem setEvent_trusted (s : State) (r b : Nat) : (s.setEvent r b).trusted = s.trusted := by
  simp only [State.setEvent]
  split <;> simp

@[simp] theorem raiseAsync_trusted (s : State) (r : Nat) (t : Trap) : (s.raiseAsync r t).trusted = s.trusted := by
  simp only [State.raiseAsync]
  split <;> simp

@[simp] theorem complete_trusted (s : State) (r : Nat) : (s.complete r).trusted = s.trusted :=
  setRegion_trusted rfl rfl rfl rfl

@[simp] theorem wait_trusted (s : State) (r : Nat) : (s.wait r).trusted = s.trusted :=
  setRegion_trusted rfl rfl rfl rfl

@[simp] theorem holdAtomic_trusted (s : State) (r : Nat) (ks : List Nat) : (s.holdAtomic r ks).trusted = s.trusted :=
  setRegion_trusted rfl rfl rfl rfl

/-! ## Memory and the store buffer -/

@[simp] theorem writeKeys_trusted (s : State) (ks bs : List Nat) : (s.writeKeys ks bs).trusted = s.trusted :=
  trusted_of_regions (writeKeys_regions ks bs s)

@[simp] theorem store_trusted (s : State) (ks bs : List Nat) : (s.store ks bs).trusted = s.trusted :=
  trusted_of_regions (store_regions s ks bs)

@[simp] theorem spoil_trusted (s : State) (us : List Nat) : (s.spoil us).trusted = s.trusted :=
  trusted_of_regions (spoil_regions s us)

@[simp] theorem poisonKeys_trusted (s : State) (ks : List Nat) : (s.poisonKeys ks).trusted = s.trusted :=
  trusted_of_regions (poisonKeys_regions s ks)

@[simp] theorem rmw_trusted (s : State) (ks bs : List Nat) : (s.rmw ks bs).trusted = s.trusted := writeKeys_trusted s ks bs

@[simp] theorem storeMarked_trusted (s : State) (ks bs : List Nat) (ps : List Bool) :
    (s.storeMarked ks bs ps).trusted = s.trusted := by
  simp only [State.storeMarked]
  split
  · exact store_trusted s ks bs
  · exact (spoil_trusted _ _).trans (store_trusted s ks bs)

@[simp] theorem drain_trusted (s : State) (r : Nat) : (s.drain r).trusted = s.trusted := by
  rw [State.drain, trusted_of_regions (storeAll_regions _ _)]
  exact setRegion_trusted rfl rfl rfl rfl

@[simp] theorem drainOne_trusted (s : State) (r : Nat) : (s.drainOne r).trusted = s.trusted := by
  simp only [State.drainOne]
  split
  · rfl
  · split <;> simp

@[simp] theorem buffer_trusted (s : State) (r : Nat) (b : BufStore) : (s.buffer r b).trusted = s.trusted := by
  simp only [State.buffer]
  split <;> simp

@[simp] theorem orderDevice_trusted (s : State) (r ea : Nat) : (orderDevice s r ea).trusted = s.trusted := by
  simp only [orderDevice]
  split <;> simp

/-! ## The network -/

@[simp] theorem inject_trusted (s : State) (p : Packet) : (s.inject p).trusted = s.trusted :=
  trusted_of_regions (inject_regions s p)

@[simp] theorem sendPacket_trusted (s : State) (p : Packet) : (s.sendPacket p).trusted = s.trusted :=
  trusted_of_regions (sendPacket_regions s p)

@[simp] theorem send_trusted (s : State) (src : Nat) (t : Token) : (s.send src t).trusted = s.trusted :=
  sendPacket_trusted _ _

@[simp] theorem sendSourced_trusted (s : State) (since : Option Nat) (p : Packet) :
    (s.sendSourced since p).trusted = s.trusted :=
  inject_trusted _ _

@[simp] theorem sendAsk_trusted (s : State) (p : Packet) : (s.sendAsk p).trusted = s.trusted := by
  simp only [State.sendAsk]
  split
  · simp
  · split <;> simp

@[simp] theorem askControl_trusted (s : State) (r home : Nat) (a : Access0) : (s.askControl r home a).trusted = s.trusted := by
  simp only [State.askControl]
  split <;> simp

@[simp] theorem askPhase_trusted (s : State) (k : Nat) (a : Access0) : (s.askPhase k a).trusted = s.trusted :=
  askControl_trusted _ _ _ _

@[simp] theorem askAccess_trusted (s : State) (r ea n : Nat) (w : Want) (a : Access0) :
    (s.askAccess r ea n w a).trusted = s.trusted := by
  simp only [State.askAccess]
  split
  · split <;> simp
  · rfl

/-! ## Records, tiles, and the reset of contexts -/

@[simp] theorem record_trusted (s : State) (r core : Nat) (q0 q2 q3 : Nat) : (s.record r core q0 q2 q3).trusted = s.trusted := by
  simp only [State.record]
  split
  · split <;> simp
  · simp

@[simp] theorem sampleOf_trusted (s : State) (c x block : Nat) (n : Inst) (uncommitted : Bool) :
    (s.sampleOf c x block n uncommitted).trusted = s.trusted := by
  simp only [State.sampleOf]
  split <;> simp

@[simp] theorem sample_trusted (s : State) (c x : Nat) (n : Inst) (uncommitted : Bool) :
    (s.sample c x n uncommitted).trusted = s.trusted :=
  sampleOf_trusted _ _ _ _ _ _

@[simp] theorem vacateTile_trusted (s : State) (core n : Nat) : (s.vacateTile core n).trusted = s.trusted := by
  simp only [State.vacateTile]
  split <;> simp

@[simp] theorem emptyAll_trusted (s : State) (core : Nat) (ns : List Nat) : (s.emptyAll core ns).trusted = s.trusted := by
  simp [State.emptyAll]

@[simp] theorem releaseTile_trusted (s : State) (core n : Nat) : (s.releaseTile core n).trusted = s.trusted := by
  simp only [State.releaseTile]
  split
  · split <;> simp
  · simp

@[simp] theorem readyTile_trusted (s : State) (core n : Nat) : (s.readyTile core n).trusted = s.trusted := by
  simp [State.readyTile]

@[simp] theorem commitTile_trusted (s : State) (core n : Nat) : (s.commitTile core n).trusted = s.trusted := by
  simp only [State.commitTile]
  split
  · rfl
  · split <;> simp

@[simp] theorem noteWrite_trusted (s : State) (core off n : Nat) (poisoned : Bool) :
    (s.noteWrite core off n poisoned).trusted = s.trusted := by
  unfold State.noteWrite
  refine foldl_trusted (fun t k => ?_) _ s
  dsimp only
  split
  · simp
  · split <;> split <;> simp
  · simp

@[simp] theorem noteKeys_trusted (s : State) (ks : List Nat) (poisoned : Bool) :
    (s.noteKeys ks poisoned).trusted = s.trusted := by
  simp only [State.noteKeys]
  split
  · rfl
  · split <;> simp

theorem request_trusted {s t : State} {core : Nat} {w : Wait} (h : s.request core w = some t) : t.trusted = s.trusted := by
  simp only [State.request] at h
  split at h
  · cases h
  · cases h
    rfl

@[simp] theorem contextReset_trusted (s : State) (c x : Nat) : (s.contextReset c x).trusted = s.trusted := by
  simp [State.contextReset]

@[simp] theorem discardCores_trusted (cs : List Nat) (s : State) : (s.discardCores cs).trusted = s.trusted := by
  induction cs generalizing s with
  | nil => rfl
  | cons c cs ih => simp [State.discardCores, ih]

@[simp] theorem cleanCores_trusted (cs : List Nat) (s : State) : (s.cleanCores cs).trusted = s.trusted := by
  induction cs generalizing s with
  | nil => rfl
  | cons c cs ih => simp [State.cleanCores, ih]

/-! ## The end of a launch, and traps -/

@[simp] theorem leave_trusted (s : State) (r mask : Nat) : (s.leave r mask).trusted = s.trusted := by
  simp only [State.leave]
  split <;> simp

@[simp] theorem writeStatus_trusted (s : State) (r completion : Nat) (w : Word) :
    (s.writeStatus r completion w).trusted = s.trusted := by
  simp only [State.writeStatus]
  split
  · split
    · simp
    · split <;> simp
  · simp

@[simp] theorem endLaunch_trusted (s : State) (r status fault : Nat) : (s.endLaunch r status fault).trusted = s.trusted := by
  simp only [State.endLaunch]
  split
  · rfl
  · simp [Region.idle]

@[simp] theorem escalate_trusted (s : State) (r fault : Nat) : (s.escalate r fault).trusted = s.trusted := by
  simp [State.escalate]

@[simp] theorem takeTrap_trusted (s : State) (r : Nat) (resume : Word) (t : Trap) :
    (s.takeTrap r resume t).trusted = s.trusted := by
  simp only [State.takeTrap]
  split
  · simp
  · simp [Region.enterTrap]

/-! ## Streams, phase counters, copies and orders -/

@[simp] theorem setPortQ_trusted (s : State) (c p : Nat) (q : List PortEntry) : (s.setPortQ c p q).trusted = s.trusted := by rfl

@[simp] theorem placeBarrier_trusted (ps : List Nat) (s : State) (c : Nat) : (placeBarrier ps s c).trusted = s.trusted := by rfl

@[simp] theorem freePort_trusted (s : State) (c p : Nat) : (s.freePort c p).trusted = s.trusted := by
  simp [State.freePort]

@[simp] theorem settlePort_trusted (s : State) (c : Nat) (p : Option Nat) : (s.settlePort c p).trusted = s.trusted := by
  simp only [State.settlePort]
  split
  · rfl
  · split
    · split <;> simp
    · rfl

@[simp] theorem setCounter_trusted (s : State) (k : Nat) (p : PhaseCtr) : (s.setCounter k p).trusted = s.trusted := by
  simp [State.setCounter]

@[simp] theorem register_trusted (s : State) (trigger : Nat) : (s.register trigger).trusted = s.trusted := by
  simp only [State.register]
  split <;> simp

@[simp] theorem unregister_trusted (s : State) (trigger : Nat) : (s.unregister trigger).trusted = s.trusted := by rfl

@[simp] theorem sameCycle_trusted (s : State) (k : Nat) : (s.sameCycle k).1.trusted = s.trusted := by
  simp only [State.sameCycle]
  split
  · split <;> rfl
  · rfl

@[simp] theorem homeCycle_trusted (s : State) (k arrivals : Nat) : (s.homeCycle k arrivals).trusted = s.trusted := by
  have hdone : ({ s with lastDone := some (k, s.ticks.toNat) } : State).trusted = s.trusted := by rfl
  simp only [State.homeCycle]
  split
  · split <;> simp [hdone]
  · split <;> simp

@[simp] theorem cycle_trusted (s : State) (k arrivals : Nat) : (s.cycle k arrivals).trusted = s.trusted := by
  have hc := sameCycle_trusted s k
  simp only [State.cycle]
  split
  · rfl
  · split
    · simp
    · split
      · exact fst_trusted hc ‹_›
      · rw [homeCycle_trusted, fst_trusted hc ‹_›]

@[simp] theorem expectMore_trusted (s : State) (k n : Nat) : (s.expectMore k n).trusted = s.trusted := by
  simp [State.expectMore]

@[simp] theorem modCopy_trusted (s : State) (c : Nat) (f : CopyUnit → CopyUnit) : (s.modCopy c f).trusted = s.trusted := by rfl

@[simp] theorem setCopyQ_trusted (s : State) (c cls : Nat) (q : List Copy) : (s.setCopyQ c cls q).trusted = s.trusted := by rfl

@[simp] theorem enqueueCopy_trusted (s : State) (c x i : Nat) (ws : List Word) :
    (s.enqueueCopy c x i ws).trusted = s.trusted := by rfl

@[simp] theorem setDiv_trusted (s : State) (c e : Nat) (d : Divert) : (s.setDiv c e d).trusted = s.trusted := by rfl

@[simp] theorem dropDiv_trusted (s : State) (c e : Nat) : (s.dropDiv c e).trusted = s.trusted := by rfl

@[simp] theorem proofFull_trusted (s : State) (core e : Nat) : (s.proofFull core e).trusted = s.trusted := by
  simp only [State.proofFull]
  split
  · rfl
  · split <;> simp

theorem appendRecord_trusted {s t : State} {core e kind off mask r2 : Nat} {data : List Nat}
    (h : s.appendRecord core e kind off mask r2 data = some t) : t.trusted = s.trusted := by
  simp only [State.appendRecord] at h
  split at h
  · cases h
  · split at h
    · cases h
    · split at h <;> cases h
      simp

@[simp] theorem divert_trusted (s : State) (core e kind off mask r2 : Nat) (data : List Nat) :
    (s.divert core e kind off mask r2 data).1.trusted = s.trusted := by
  simp only [State.divert]
  split
  · rfl
  · split
    · rfl
    · split
      · exact appendRecord_trusted ‹_›
      · simp

@[simp] theorem copyEnterFlags_trusted (c : Copy) (s : State) (core flags : Nat) :
    (Copy.enterFlags c s core flags).trusted = s.trusted := by
  simp only [Copy.enterFlags]
  split
  · split <;> simp
  · simp

@[simp] theorem copyFillSlot_trusted (c : Copy) (s : State) (core : Nat) : (c.fillSlot s core).1.trusted = s.trusted := by
  simp only [Copy.fillSlot]
  split
  · split <;> simp
  · rfl

@[simp] theorem copyWrapUp_trusted (c : Copy) (s : State) (core : Nat) : (c.wrapUp s core).1.trusted = s.trusted := by
  simp only [Copy.wrapUp]
  split
  · rfl
  · split
    · rfl
    · split
      · split <;> split <;> simp
      · split
        · simp
        · split <;> simp

@[simp] theorem cancelCopy_trusted (s : State) (core : Nat) (c : Copy) : (s.cancelCopy core c).trusted = s.trusted := by
  simp only [State.cancelCopy]
  split
  · split <;> split <;> simp
  · split
    · split <;> simp
    · split <;> simp

@[simp] theorem orderTrap_trusted (s : State) (c x i : Nat) (entry : Option Nat) (f : FaultCode) (info : Nat) :
    (s.orderTrap c x i entry f info).trusted = s.trusted := by
  simp [State.orderTrap]

/-! ## Blocks and tokens that a core takes -/

@[simp] theorem raiseFrame_trusted (s : State) (c : Nat) (r : FaultRec) : (s.raiseFrame c r).trusted = s.trusted := by rfl

@[simp] theorem lostDrain_trusted (s : State) (c : Nat) (t : Token) : (s.lostDrain c t).trusted = s.trusted := by
  simp only [State.lostDrain]
  split
  · rfl
  · split <;> simp

theorem loadAll_trusted (b : Block) (x : Nat) (cs : List Nat) {s t : State} (h : loadAll b x cs s = .ok t) :
    t.trusted = s.trusted := by
  induction cs generalizing s with
  | nil => cases h; rfl
  | cons c cs ih =>
    simp only [loadAll] at h
    split at h
    · cases h
    · exact (ih h).trans rfl

@[simp] theorem dropOn_trusted (x : Nat) (s : State) (c : Nat) : (dropOn x s c).trusted = s.trusted := by
  simp only [dropOn]
  split <;> simp

@[simp] theorem refuse_trusted (s : State) (c : Nat) (t : Token) : (s.refuse c t).trusted = s.trusted := by
  simp [State.refuse]

@[simp] theorem offend_trusted (s : State) (c : Nat) (t : Token) : (s.offend c t).trusted = s.trusted := by
  simp [State.offend]

@[simp] theorem strayToken_trusted (s : State) (c : Nat) (t : Token) : (s.strayToken c t).trusted = s.trusted := by
  simp [State.strayToken]

theorem map_setCore_trusted {s u : State} {c : Nat} {k : Option Core} (h : k.map (s.setCore c) = some u) :
    u.trusted = s.trusted := by
  obtain ⟨v, -, rfl⟩ := Option.map_eq_some_iff.mp h
  rfl

theorem enterStore_trusted {s u : State} {c : Nat} {t : Token} {f : Frame} (h : enterStore s c t f = some u) :
    u.trusted = s.trusted := by
  simp only [enterStore] at h
  split at h
  · split at h
    · split at h
      · cases h
        simp
      · exact map_setCore_trusted h
    · exact map_setCore_trusted h
  · split at h
    · cases h
      rfl
    · split at h
      · cases h
        simp
      · exact map_setCore_trusted h

theorem admitToken_trusted {s u : State} {c : Nat} {t : Token} (h : admitToken s c t = some u) : u.trusted = s.trusted := by
  unfold admitToken at h
  split at h
  · cases h
    simp
  · split at h
    · cases h
      simp
    · split at h
      · cases h
        simp
      · split at h
        · cases h
          simp
        · split at h
          · cases h
            simp
          · exact enterStore_trusted h

theorem acceptOrder_trusted {s u : State} {c : Nat} {t : Token} (h : acceptOrder s c t = some u) : u.trusted = s.trusted := by
  simp only [acceptOrder] at h
  split at h
  · cases h
  · split at h <;> cases h
    · rfl
    · rfl
    · simp
    · rfl

theorem acceptRecord_trusted {s u : State} {c : Nat} {t : Token} (h : acceptRecord s c t = some u) : u.trusted = s.trusted := by
  simp only [acceptRecord] at h
  split at h
  · cases h
    simp
  · split at h
    · cases h
    · split at h
      · cases h
        simp
      · split at h <;> cases h
        rfl

theorem acceptSlot_trusted {s u : State} {c : Nat} {t : Token} (h : acceptSlot s c t = some u) : u.trusted = s.trusted := by
  unfold acceptSlot at h
  split at h
  · exact admitToken_trusted h
  · split at h
    · exact acceptOrder_trusted h
    · split at h
      · exact acceptRecord_trusted h
      · split at h
        · cases h
          simp
        · split at h <;> cases h <;> rfl

/-! ## The end of an abandoned save (R346) -/

@[simp] theorem land_trusted (s : State) (ks bs : List Nat) (ps : List Bool) : (s.land ks bs ps).trusted = s.trusted := by
  simp [State.land]

@[simp] theorem addOne_trusted (s : State) (ks : List Nat) (fmt mode uns value : Nat) (poison : Bool) :
    (s.addOne ks fmt mode uns value poison).1.trusted = s.trusted := by
  simp only [State.addOne]
  split <;> simp

@[simp] theorem freeHosted_trusted (s : State) (c e : Nat) : (freeHosted s c e).trusted = s.trusted := by
  simp [freeHosted]

@[simp] theorem applyWrite_trusted (c x : Nat) (s : State) (p : ProofRec) : (applyWrite c x s p).trusted = s.trusted := by
  simp only [applyWrite]
  split
  · split <;> simp
  · split
    · split
      · split <;> simp
      · split <;> simp
    · split
      · split
        · split <;> simp
        · split <;> simp
      · split <;> simp

@[simp] theorem applyArrival_trusted (c x : Nat) (s : State) (p : ProofRec) : (applyArrival c x s p).trusted = s.trusted := by
  simp only [applyArrival]
  split
  · rfl
  · split
    · simp
    · split
      · simp
      · split <;> simp

@[simp] theorem reinject_trusted (c : Nat) (s : State) (t : Token) : (reinject c s t).trusted = s.trusted := by
  unfold reinject
  cases hu : acceptSlot s c t with
  | none => simp
  | some u => exact acceptSlot_trusted hu

theorem applyToken_trusted (c : Nat) (sa : State × List Answered) (p : ProofRec) :
    (applyToken c sa p).1.trusted = sa.1.trusted := by
  simp only [applyToken]
  split
  · simp
  · split
    · rfl
    · split <;> rfl

@[simp] theorem finishMerge_trusted (s : State) (c x e : Nat) (d : Divert) (log : List ProofRec) (toks : List Token)
    (prio : Nat) : (finishMerge s c x e d log toks prio).trusted = s.trusted := by
  have htokens := fun sa => foldl_view (fun sa : State × List Answered => sa.1.trusted) (applyToken_trusted c) log sa
  simp only [finishMerge]
  split <;> simp [htokens]

@[simp] theorem abandonSave_trusted (s : State) (c x : Nat) (v : Saving) (d : Divert) (log : List Nat) :
    (abandonSave s c x v d log).trusted = s.trusted := by
  simp [abandonSave]

/-! ## State registers and stacks -/

@[simp] theorem changeStacks_trusted (s : State) (cs : Option (List Nat)) (x : Nat) (f : List Nat → List Nat) :
    (changeStacks s cs x f).trusted = s.trusted := by
  simp only [changeStacks]
  split <;> simp

@[simp] theorem clocksOn_trusted (s : State) (stack : Nat) : (s.clocksOn stack).trusted = s.trusted := by rfl

end Sys2Proof.Machine
end

section
/-! O6: what each control-core word does to the privileged registers in unprivileged mode (R84, R135, R268). -/
namespace Sys2Proof.Machine

/-! ## Outcomes -/

/-- A word's result: where it is a state, the privileged registers are those of `s`. -/
def ResTrusted (s : State) (x : Res State) : Prop := ∀ t, x = .ok t → t.trusted = s.trusted

/-- An outcome: where it goes on, the privileged registers are those of `s`. -/
def NextTrusted (s : State) (o : Host.Outcome State Fault Refusal) : Prop := ∀ t, o = .next t → t.trusted = s.trusted

section
variable {s d : State}

@[simp] theorem resTrusted_ok (t : State) : ResTrusted s (.ok t) ↔ t.trusted = s.trusted := by
  simp [ResTrusted]

@[simp] theorem resTrusted_error (e : Stop) : ResTrusted s (.error e) := by
  simp [ResTrusted]

@[simp] theorem resTrusted_fail (f : FaultCode) : ResTrusted s (fail f) := resTrusted_error _

@[simp] theorem resTrusted_bind {α : Type} (x : Res α) (f : α → Res State) :
    ResTrusted s (x >>= f) ↔ ∀ a, x = .ok a → ResTrusted s (f a) := by
  cases x <;> simp [ResTrusted, bind, Except.bind]

@[simp] theorem nextTrusted_next (t : State) : NextTrusted s (.next t) ↔ t.trusted = s.trusted := by
  simp [NextTrusted]

theorem finish_nextTrusted (hd : d.trusted = s.trusted) {r : Nat} {x : Res State} (hx : ResTrusted s x) :
    NextTrusted s (finish d r x) := by
  obtain ⟨t, ht, ⟨u, rfl, rfl⟩ | ⟨c, -, rfl⟩ | ⟨-, rfl⟩⟩ := finish_cases d r x
  · simpa using hx
  · simp [ht, hd]
  · simp [ht, hd]

theorem finishJump_nextTrusted (hd : d.trusted = s.trusted) {r : Nat} {x : Res State} (hx : ResTrusted s x) :
    NextTrusted s (finishJump d r x) := by
  obtain ⟨t, ht, ⟨u, rfl, rfl⟩ | ⟨c, -, rfl⟩ | ⟨-, rfl⟩⟩ := finishJump_cases d r x
  · simpa [ht] using hx
  · simp [ht, hd]
  · simp [ht, hd]

/-- A command on the state whose stores have been performed (R98), where the mode of its region is the same. -/
theorem command_nextTrusted {f : State → Res State}
    (hf : ∀ d, d.trusted = s.trusted → (d.region d.turn).mode = (s.region s.turn).mode → ResTrusted s (f d)) :
    NextTrusted s (command s f) := by
  have hd := drain_trusted s s.turn
  refine finish_nextTrusted hd ?_
  split
  · exact hf _ hd (by simp)
  · exact resTrusted_error _

/-- A privileged word stops at its check in unprivileged mode (R84). -/
theorem needPrivileged_not_ok {r : Nat} (hm : (d.region r).mode = .unprivileged) : needPrivileged d r ≠ .ok () := by
  simp [needPrivileged_ok, hm]

end

/-! ## Integer words, branches, loops -/

section
variable {s : State}

theorem aluR_trusted (f : Word → Word → Word) (d a b : Nat) : NextTrusted s (aluR f d a b s) := by
  simp [aluR]

theorem aluI_trusted (f : Word → Word) (d a : Nat) : NextTrusted s (aluI f d a s) := by
  simp [aluI]

theorem branch_trusted (c : Word → Word → Bool) (a b o : Nat) : NextTrusted s (branch c a b o s) := by
  simp only [branch]
  split <;> simp [Region.jump]

theorem execJal_trusted (o : Nat) : NextTrusted s (execJal o s) := by
  simp [execJal, Region.jump, Region.setX]

theorem execJalr_trusted (d a i : Nat) : NextTrusted s (execJalr d a i s) := by
  refine finishJump_nextTrusted rfl ?_
  simp only [resTrusted_bind, resTrusted_ok]
  intro _ _
  unfold Region.setX
  split <;> simp [Region.jump]

theorem execLoop_trusted (l c n : Nat) : NextTrusted s (execLoop l c n s) := by
  refine finishJump_nextTrusted rfl ?_
  simp only [resTrusted_bind]
  intro _ _ _ _ _ _ _ _
  split <;> simp

theorem execLbrk_trusted (l : Nat) : NextTrusted s (execLbrk l s) :=
  finishJump_nextTrusted rfl (by simp)

theorem execLcnt_trusted (d l : Nat) : NextTrusted s (execLcnt d l s) :=
  finish_nextTrusted rfl (by simp)

/-! ## Loads, stores, atomics, fences -/

theorem load_trusted (signed : Bool) (n d a i : Nat) : NextTrusted s (load signed n d a i s) := by
  have hu : (if deviceReady s s.turn (effAddr s s.turn a i) then
      (orderDevice s s.turn (effAddr s s.turn a i)).askAccess s.turn (effAddr s s.turn a i) n .read .load
      else s).trusted = s.trusted := by
    split <;> simp
  exact finish_nextTrusted hu (by simp [hu])

/-- An unprivileged access to window 0xF does not pass its checks (R88). -/
theorem resolve_device_unprivileged {m : State} {r addr n : Nat} {w : Want} {ks : List Nat}
    (hm : (m.region r).mode = .unprivileged) (h : resolve m (.control r) addr n w = .ok ks) : addr / 2 ^ 60 ≠ 15 := by
  intro hwin
  simp only [resolve, hwin, windowOf, hm] at h
  cases h

theorem store_next_trusted (hm : (s.region s.turn).mode = .unprivileged) (n x a i : Nat) :
    NextTrusted s (Machine.store n x a i s) := by
  refine finish_nextTrusted rfl ?_
  simp only [resTrusted_bind]
  intro _ _ ks hks
  have hmode : ((orderDevice s s.turn (effAddr s s.turn a i)).region s.turn).mode = .unprivileged := by
    simp only [orderDevice]
    split <;> simp [hm]
  have hwin : effAddr s s.turn a i / 2 ^ 60 ≠ 15 := by
    cases hres : resolve (orderDevice s s.turn (effAddr s s.turn a i)) (.control s.turn) (effAddr s s.turn a i) n .write with
    | error e => simp [hres, ofAcc] at hks
    | ok l => exact resolve_device_unprivileged hmode hres
  rw [if_neg hwin]
  simp

theorem execFence_trusted (sc : Nat) : NextTrusted s (execFence sc s) := by
  simp only [execFence]
  split
  · simp
  · refine finish_nextTrusted (drain_trusted _ _) ?_
    split <;> simp

theorem amo_trusted (f : Nat → AmoIn → Nat) (d a b w : Nat) : NextTrusted s (amo f d a b w s) := by
  unfold amo
  extract_lets r ea n m
  have hm : m.trusted = s.trusted := drain_trusted _ _
  split
  · exact finish_nextTrusted rfl (resTrusted_error _)
  · split
    · exact finish_nextTrusted rfl (resTrusted_error _)
    · split
      · exact finish_nextTrusted rfl (resTrusted_error _)
      · split
        · exact finish_nextTrusted rfl (resTrusted_error _)
        · split
          · exact finish_nextTrusted (by simp) (resTrusted_error _)
          · split
            · exact finish_nextTrusted (by simp [hm]) (resTrusted_error _)
            · exact finish_nextTrusted (by simp [hm]) (by simp [hm])

/-! ## Frames, blocks and tokens -/

theorem execFopen_trusted (a b core depth ctx : Nat) : NextTrusted s (execFopen a b core depth ctx s) := by
  refine command_nextTrusted fun d hd _ => ?_
  simp only [resTrusted_bind]
  intro c _ _ _
  split
  · simp
  · simp only [resTrusted_bind]
    intro rec _
    split
    · split <;> simp [hd]
    · exact resTrusted_error _

theorem execFwait_trusted (a core : Nat) : NextTrusted s (execFwait a core s) :=
  command_nextTrusted fun d hd _ => by simp [hd]

theorem execTsend_trusted (a b p : Nat) : NextTrusted s (execTsend a b p s) := by
  have hd := drain_trusted s s.turn
  simp only [execTsend]
  split
  · exact finish_nextTrusted hd (resTrusted_error _)
  · split
    · refine finish_nextTrusted ?_ ?_
      · split <;> simp
      · rw [resTrusted_ok, sendSourced_trusted]
        split <;> simp
    · exact finish_nextTrusted (by simp) (resTrusted_error _)

theorem storePayload_trusted {t : State} (h : t.trusted = s.trusted) (r addr : Nat) (bs : List Nat) :
    ResTrusted s (storePayload t r addr bs) := by
  unfold storePayload
  split <;> simp [h]

theorem execTrecv_trusted (a b : Nat) : NextTrusted s (execTrecv a b s) := by
  refine command_nextTrusted fun d hd _ => ?_
  dsimp only
  split
  · simp
  · split
    · simp only [resTrusted_bind]
      exact fun t ht => by simp [storePayload_trusted hd _ _ _ t ht]
    · simp [hd]

theorem execBload_trusted (a b ctx : Nat) : NextTrusted s (execBload a b ctx s) := by
  refine command_nextTrusted fun d hd _ => ?_
  simp only [resTrusted_bind]
  intro _ _ _ _ _ _ _ _ t ht
  rw [loadAll_trusted _ _ _ ht, hd]

theorem execBdrop_trusted (a ctx : Nat) : NextTrusted s (execBdrop a ctx s) :=
  command_nextTrusted fun d hd _ => by simp [hd]

theorem execLwait_trusted : NextTrusted s (execLwait s) := by
  have hd := drain_trusted s s.turn
  simp only [execLwait]
  split
  · exact finishJump_nextTrusted hd (by simp)
  · split
    · exact finishJump_nextTrusted (by simp) (by simp)
    · exact finishJump_nextTrusted hd (by simp)

/-! ## Streams -/

theorem execApset_trusted (b ap : Nat) : NextTrusted s (execApset b ap s) :=
  command_nextTrusted fun d hd _ => by simp [hd]

theorem execApmod_trusted (b f ap : Nat) : NextTrusted s (execApmod b f ap s) := by
  refine command_nextTrusted fun d hd _ => ?_
  dsimp only
  split <;> simp [hd]

theorem execSbind_trusted (a b port ctx ap : Nat) : NextTrusted s (execSbind a b port ctx ap s) :=
  command_nextTrusted fun d hd _ => by simp [hd]

theorem execSbar_trusted (a b w : Nat) : NextTrusted s (execSbar a b w s) := by
  have hd := drain_trusted s s.turn
  simp only [execSbar]
  split
  · exact finish_nextTrusted hd (resTrusted_error _)
  · split
    · split
      · split
        · exact finish_nextTrusted hd (by simp)
        · simp
      · exact finish_nextTrusted hd (resTrusted_error _)
    · split
      · exact finish_nextTrusted hd (resTrusted_error _)
      · exact finish_nextTrusted hd (by simp)

theorem execSstat_trusted (a core : Nat) : NextTrusted s (execSstat a core s) :=
  command_nextTrusted fun d hd _ => by simp [hd]

/-! ## Tiles and rings -/

theorem collectTalloc_trusted {t : State} (h : t.trusted = s.trusted) (r a c : Nat) (w : Wait) :
    NextTrusted s (collectTalloc t r a c w) := by
  simp only [collectTalloc]
  split <;> exact finish_nextTrusted h (by simp [h])

theorem execTalloc_trusted (a b core ctx : Nat) : NextTrusted s (execTalloc a b core ctx s) := by
  have hd := drain_trusted s s.turn
  simp only [execTalloc]
  split
  · exact finish_nextTrusted hd (resTrusted_error _)
  · split
    · exact collectTalloc_trusted hd _ _ _ _
    · split
      · exact finish_nextTrusted hd (resTrusted_error _)
      · exact collectTalloc_trusted ((request_trusted ‹_›).trans hd) _ _ _ _

theorem execTrel_trusted (a core pub ctx : Nat) : NextTrusted s (execTrel a core pub ctx s) :=
  command_nextTrusted fun d hd _ => by simp [hd, apply_ite (ResTrusted s)]

theorem execTstate_trusted (a b core sel : Nat) : NextTrusted s (execTstate a b core sel s) :=
  command_nextTrusted fun d hd _ => by simp [hd]

theorem execRinginit_trusted (a core ring ctx : Nat) : NextTrusted s (execRinginit a core ring ctx s) := by
  refine command_nextTrusted fun d hd _ => ?_
  simp only [resTrusted_bind]
  intro c _ _ _
  split <;> simp [hd]

theorem execRingwait_trusted (a core ring ctx : Nat) : NextTrusted s (execRingwait a core ring ctx s) :=
  command_nextTrusted fun d hd _ => by simp [hd]

theorem execRingrel_trusted (core ring ctx : Nat) : NextTrusted s (execRingrel core ring ctx s) :=
  command_nextTrusted fun d hd _ => by simp [hd]

/-! ## Copies, phase counters, collectives -/

theorem copyCommand_trusted (op b core ctx : Nat) : NextTrusted s (copyCommand op b core ctx s) :=
  command_nextTrusted fun d hd _ => by simp [hd]

theorem execCpcancel_trusted (a core retry ctx : Nat) : NextTrusted s (execCpcancel a core retry ctx s) := by
  have hd := drain_trusted s s.turn
  simp only [execCpcancel]
  split
  · exact finish_nextTrusted hd (resTrusted_error _)
  · split
    · split
      · exact finish_nextTrusted hd (resTrusted_error _)
      · exact finish_nextTrusted hd (by simp)
    · split
      · exact finish_nextTrusted hd (by simp)
      · split
        · refine finish_nextTrusted hd ?_
          split <;> simp
        · split
          · simp
          · exact finish_nextTrusted (by simp) (by simp)

theorem execCpq_trusted (b core : Nat) : NextTrusted s (execCpq b core s) :=
  command_nextTrusted fun d hd _ => by simp [hd]

theorem phaseCommand_trusted {a : Nat} {f : State → Res State} (hf : ∀ d, d.trusted = s.trusted → ResTrusted s (f d)) :
    NextTrusted s (phaseCommand a s f) := by
  have hd := drain_trusted s s.turn
  have hout : ResTrusted s (if s.drains s.turn then f (s.drain s.turn) else .error .wait) := by
    split
    · exact hf _ hd
    · exact resTrusted_error _
  simp only [phaseCommand]
  split
  · refine finish_nextTrusted ?_ (resTrusted_error _)
    split <;> simp
  · exact finish_nextTrusted hd hout

theorem execPcinit_trusted (a b core ctx : Nat) : NextTrusted s (execPcinit a b core ctx s) := by
  refine phaseCommand_trusted fun d hd => ?_
  simp only [resTrusted_bind, resTrusted_ok, register_trusted]
  intro _ _ k _
  exact (noteKeys_trusted _ _ _).trans (by simp [hd])

theorem execPcarrive_trusted (a b core ctx : Nat) : NextTrusted s (execPcarrive a b core ctx s) :=
  phaseCommand_trusted fun d hd => by simp [hd]

theorem execPcexpect_trusted (a b core ctx : Nat) : NextTrusted s (execPcexpect a b core ctx s) :=
  phaseCommand_trusted fun d hd => by simp [hd]

theorem execPcwait_trusted (a b core ctx : Nat) : NextTrusted s (execPcwait a b core ctx s) :=
  phaseCommand_trusted fun d hd => by simp [hd]

theorem execColl_trusted (b : Nat) : NextTrusted s (execColl b s) :=
  command_nextTrusted fun d hd _ => by simp [hd]

theorem execCollwait_trusted (a : Nat) : NextTrusted s (execCollwait a s) :=
  command_nextTrusted fun d hd _ => by simp [hd]

/-! ## Contexts and debugging -/

theorem execCxprio_trusted (a prio ctx : Nat) : NextTrusted s (execCxprio a prio ctx s) :=
  command_nextTrusted fun d hd _ => by simp [hd]

theorem execCxpark_trusted (a ctx : Nat) : NextTrusted s (execCxpark a ctx s) := by
  have hd := drain_trusted s s.turn
  simp only [execCxpark]
  split
  · exact finish_nextTrusted hd (resTrusted_error _)
  · split
    · exact finish_nextTrusted hd (by simp)
    · exact finish_nextTrusted (by simp) (resTrusted_error _)

theorem resumeOn_trusted (x : Nat) {t : State} (h : t.trusted = s.trusted) (c : Nat) : ResTrusted s (resumeOn x t c) := by
  unfold resumeOn
  split
  · simp [h]
  · split <;> simp [h]

theorem resumeAll_trusted (x : Nat) (cs : List Nat) {t : State} (h : t.trusted = s.trusted) :
    ResTrusted s (resumeAll x cs t) := by
  induction cs generalizing t with
  | nil => simpa [resumeAll] using h
  | cons c cs ih =>
    simp only [resumeAll, resTrusted_bind]
    exact fun u hu => ih (resumeOn_trusted x h c u hu)

theorem execCxresume_trusted (a ctx : Nat) : NextTrusted s (execCxresume a ctx s) := by
  refine command_nextTrusted fun d hd _ => ?_
  simp only [resTrusted_bind]
  exact fun cs _ _ _ _ _ => resumeAll_trusted ctx cs hd

theorem execRenter_trusted (a b own ctx : Nat) : NextTrusted s (execRenter a b own ctx s) :=
  command_nextTrusted fun d hd _ => by simp [hd]

theorem execRleave_trusted (a own ctx : Nat) : NextTrusted s (execRleave a own ctx s) :=
  command_nextTrusted fun d hd _ => by simp [hd]

theorem execSmark_trusted (b : Nat) : NextTrusted s (execSmark b s) :=
  command_nextTrusted fun d hd _ => by simp [hd]

theorem execBkpt_trusted (b core ctx : Nat) : NextTrusted s (execBkpt b core ctx s) :=
  command_nextTrusted fun d hd _ => by simp [hd]

/-! ## Traps, events and state registers -/

theorem execTrap_trusted (k : Nat) : NextTrusted s (execTrap k s) := by
  refine finishJump_nextTrusted (drain_trusted _ _) ?_
  simp only [resTrusted_bind, resTrusted_ok]
  intro _ _
  split <;> simp [Region.completed]

theorem execWfe_trusted : NextTrusted s (execWfe s) :=
  command_nextTrusted fun d hd _ => by simp [hd]

theorem execEventsClear_trusted (b : Nat) : NextTrusted s (execEventsClear b s) :=
  command_nextTrusted fun d hd _ => by simp [hd]

theorem execMvfs_trusted (a n : Nat) : NextTrusted s (execMvfs a n s) := by
  refine command_nextTrusted fun d hd _ => ?_
  split <;> simp [hd]

theorem execFlagWordWrite_trusted (b n : Nat) : NextTrusted s (execFlagWordWrite b n s) :=
  command_nextTrusted fun d hd _ => by simp [hd]

theorem execDselScorecardClear_trusted (b : Nat) : NextTrusted s (execDselScorecardClear b s) := by
  refine command_nextTrusted fun d hd _ => ?_
  simp only [resTrusted_bind, resTrusted_ok]
  intro _ _
  split <;> simp [hd]

theorem execScorecardLatch_trusted (a : Nat) : NextTrusted s (execScorecardLatch a s) :=
  command_nextTrusted fun d hd _ => by simp [hd]

theorem execLayerClockLatch_trusted (a : Nat) : NextTrusted s (execLayerClockLatch a s) :=
  command_nextTrusted fun d hd _ => by simp [hd]

/-! ## The privileged words, and `mvts` -/

/-- A write of hsel, tdest, collwd, an advert or a record register changes no privileged register. -/
theorem writeReg_trusted {g u : Region} {n v : Nat} (h : g.writeReg n v = some u) : u.trusted = g.trusted := by
  simp only [Region.writeReg] at h
  repeat' split at h
  all_goals cases h
  all_goals rfl

/-- A register that unprivileged code may write is none of the handler's or of the trap's (Table 6.7). -/
theorem not_trapReg_of_not_privileged {n : Nat} (hr : readable n = true) (hp : privilegedReg n = false) : ¬ n < 0x22 := by
  intro hn
  interval_cases n <;> revert hr hp <;> decide

theorem writeStateReg_trusted {d u : State} {r n v : Nat} (hn : ¬ n < 0x22) (h : writeStateReg d r n v = .ok u) :
    u.trusted = d.trusted := by
  simp only [writeStateReg, if_neg hn] at h
  split at h
  · split at h <;> cases h
    rfl
  · split at h <;> cases h
    have hg := writeReg_trusted ‹_›
    simp only [Region.trusted, Prod.mk.injEq] at hg
    obtain ⟨ht, hr, hp, ho⟩ := hg
    exact setRegion_trusted ht hr hp ho

theorem execMvts_trusted (hm : (s.region s.turn).mode = .unprivileged) (b n : Nat) : NextTrusted s (execMvts b n s) := by
  refine command_nextTrusted fun d hd hmode => ?_
  simp only [resTrusted_bind]
  intro _ hcheck u hu
  obtain ⟨_, hread, hpriv⟩ := res_bind_ok.mp hcheck
  have hread := need_ok.mp hread
  have hpriv := need_ok.mp hpriv
  simp only [hmode, hm, Bool.and_eq_true, Bool.or_eq_true, Bool.not_eq_true'] at hread hpriv
  exact (writeStateReg_trusted (not_trapReg_of_not_privileged hread.1 (by simpa using hpriv)) hu).trans hd

/-- A command that checks for privileged mode first takes no effect in unprivileged mode (R84). -/
theorem command_needPrivileged_trusted (hm : (s.region s.turn).mode = .unprivileged) {f : State → Res State}
    (hf : ∀ d, ∃ g : Unit → Res State, f d = needPrivileged d d.turn >>= g) : NextTrusted s (command s f) := by
  refine command_nextTrusted fun d _ hmode => ?_
  obtain ⟨g, hg⟩ := hf d
  rw [hg, resTrusted_bind]
  exact fun _ h => absurd h (needPrivileged_not_ok (hmode.trans hm))

theorem execTret_trusted (hm : (s.region s.turn).mode = .unprivileged) : NextTrusted s (execTret s) := by
  refine finishJump_nextTrusted (drain_trusted _ _) ?_
  simp only [resTrusted_bind]
  exact fun _ _ _ h => absurd h (needPrivileged_not_ok (by simpa using hm))

theorem execCxrest_trusted (hm : (s.region s.turn).mode = .unprivileged) (b core ctx : Nat) :
    NextTrusted s (execCxrest b core ctx s) := by
  have hstop := needPrivileged_not_ok (d := s.drain s.turn) (r := s.turn) (by simpa using hm)
  simp only [execCxrest]
  split
  · exact finish_nextTrusted (drain_trusted _ _) (resTrusted_error _)
  · rename_i h
    obtain ⟨_, -, h⟩ := res_bind_ok.mp h
    obtain ⟨_, h, -⟩ := res_bind_ok.mp h
    exact absurd (by simpa using h) hstop

theorem execDvclr_trusted (hm : (s.region s.turn).mode = .unprivileged) (core e : Nat) : NextTrusted s (execDvclr core e s) := by
  have hstop := needPrivileged_not_ok (d := s.drain s.turn) (r := s.turn) (by simpa using hm)
  simp only [execDvclr]
  split
  · exact finish_nextTrusted (drain_trusted _ _) (resTrusted_error _)
  · rename_i h
    obtain ⟨_, -, h⟩ := res_bind_ok.mp h
    obtain ⟨_, h, -⟩ := res_bind_ok.mp h
    exact absurd (by simpa using h) hstop

end

/-! ## Every control-core word -/

/-- What a control-core word does to the privileged registers, through the lemma about the function that gives it its meaning; the
instructions left over have another kind of word, or none. -/
theorem exec_trusted {i : Instr} {w : Nat} {s : State} (hi : encodeWord i = some (.control, w))
    (hm : (s.region s.turn).mode = .unprivileged) : NextTrusted s (exec i s) := by
  unfold exec
  cases i with
  | add | sub | and | or | xor | sll | srl | sra | mul | mulh | mulhn | min | max | minn | maxn | slt | sltn =>
    exact aluR_trusted _ _ _ _
  | clz | popc | addi | andi | ori | xori | slli | srli | srai | lui => exact aluI_trusted _ _ _
  | ldB | ldH | ldW | ldD | ldnB | ldnH | ldnW => exact load_trusted _ _ _ _ _
  | stB | stH | stW | stD => exact store_next_trusted hm _ _ _ _
  | amoSwap | amoAdd | amoAnd | amoOr | amoXor | amoMax | amoMin | amoMaxn | amoMinn | amoCas => exact amo_trusted _ _ _ _ _
  | fence => exact execFence_trusted _
  | beq | bne | blt | bge | bltn | bgen => exact branch_trusted _ _ _ _
  | jal => exact execJal_trusted _
  | jalr => exact execJalr_trusted _ _ _
  | loop => exact execLoop_trusted _ _ _
  | lbrk => exact execLbrk_trusted _
  | lcnt => exact execLcnt_trusted _ _
  | tsend => exact execTsend_trusted _ _ _
  | trecv => exact execTrecv_trusted _ _
  | fopen => exact execFopen_trusted _ _ _ _ _
  | fwait => exact execFwait_trusted _ _
  | apset => exact execApset_trusted _ _
  | apmod => exact execApmod_trusted _ _ _
  | sbind => exact execSbind_trusted _ _ _ _ _
  | sbar => exact execSbar_trusted _ _ _
  | sstat => exact execSstat_trusted _ _
  | bload => exact execBload_trusted _ _ _
  | bdrop => exact execBdrop_trusted _ _
  | lwait => exact execLwait_trusted
  | talloc => exact execTalloc_trusted _ _ _ _
  | trel => exact execTrel_trusted _ _ _ _
  | tstate => exact execTstate_trusted _ _ _ _
  | ringinit => exact execRinginit_trusted _ _ _ _
  | ringwait => exact execRingwait_trusted _ _ _ _
  | ringrel => exact execRingrel_trusted _ _ _
  | cp | cpg | cps | cpsa | cpm | cpbin => exact copyCommand_trusted _ _ _ _
  | cpcancel => exact execCpcancel_trusted _ _ _ _
  | cpq => exact execCpq_trusted _ _
  | pcinit => exact execPcinit_trusted _ _ _ _
  | pcarrive => exact execPcarrive_trusted _ _ _ _
  | pcexpect => exact execPcexpect_trusted _ _ _ _
  | pcwait => exact execPcwait_trusted _ _ _ _
  | coll => exact execColl_trusted _
  | collwait => exact execCollwait_trusted _
  | cxprio => exact execCxprio_trusted _ _ _
  | cxpark => exact execCxpark_trusted _ _
  | cxresume => exact execCxresume_trusted _ _
  | cxsave | dvmap | translationRegisterWrite => exact command_needPrivileged_trusted hm fun _ => ⟨_, rfl⟩
  | cxrest => exact execCxrest_trusted hm _ _ _
  | dvclr => exact execDvclr_trusted hm _ _
  | renter => exact execRenter_trusted _ _ _ _
  | rleave => exact execRleave_trusted _ _ _
  | smark => exact execSmark_trusted _
  | bkpt => exact execBkpt_trusted _ _ _
  | trap => exact execTrap_trusted _
  | tret => exact execTret_trusted hm
  | mvfs => exact execMvfs_trusted _ _
  | mvts => exact execMvts_trusted hm _ _
  | wfe => exact execWfe_trusted
  | eventsClear => exact execEventsClear_trusted _
  | flagWordWrite => exact execFlagWordWrite_trusted _ _
  | dselScorecardClear => exact execDselScorecardClear_trusted _
  | scorecardLatch => exact execScorecardLatch_trusted _
  | layerClockLatch => exact execLayerClockLatch_trusted _
  | _ => simp [encodeWord] at hi

/-- Settles O6: each control-core word leaves the privileged registers, or stops at its check for privileged mode. -/
theorem unprivilegedWordsKeepPrivilegedRegisters : Obligations.UnprivilegedWordsKeepPrivilegedRegisters :=
  fun _ _ _ t hi hm ht => samePrivileged_of_trusted (exec_trusted hi hm t ht)

end Sys2Proof.Machine
end

section
/-! Integer words, branches and loops (R83 to R87, R100 to R108): sign extension and the values of Tables 5.1, 5.2 as bit-vector
operations. -/
namespace Sys2Proof.Machine

/-! ## Sign extension and shifts -/

theorem bit_eq_testBit (v i : Nat) : bit v i = v.testBit i := by
  rw [Nat.testBit_eq_decide_div_mod_eq, bit]
  rfl

theorem sextNat_eq_toInt {n : Nat} (hn : 0 < n) (v : Nat) : sextNat n v = (BitVec.ofNat n v).toInt := by
  have hm : (BitVec.ofNat n v).msb = bit v (n - 1) := by
    rw [BitVec.msb_eq_getLsbD_last, BitVec.getLsbD_ofNat, bit_eq_testBit]
    simp [hn]
  rw [BitVec.toInt_eq_msb_cond, hm, sextNat]
  simp

theorem ofInt_sextNat {n : Nat} (hn : 0 < n) (v : Nat) :
    BitVec.ofInt 64 (sextNat n v) = (BitVec.ofNat n v).signExtend 64 := by
  rw [sextNat_eq_toInt hn, BitVec.signExtend]

theorem sext16_eq (i : Nat) : sext16 i = (BitVec.ofNat 16 i).signExtend 64 := ofInt_sextNat (by decide) i

theorem zext16_eq (i : Nat) : zext16 i = (BitVec.ofNat 16 i).setWidth 64 := by
  apply BitVec.eq_of_toNat_eq
  simp [zext16]

theorem luiValue_eq (i : Nat) : luiValue i = (BitVec.ofNat 16 i ++ (0 : BitVec 16)).signExtend 64 := by
  rw [luiValue, ofInt_sextNat (by decide)]
  congr 1
  apply BitVec.eq_of_toNat_eq
  rw [BitVec.toNat_append, BitVec.toNat_ofNat, BitVec.toNat_ofNat]
  simp [Nat.shiftLeft_eq]
  omega

theorem branchTarget_eq (pc : Word) {n : Nat} (hn : 0 < n) (o : Nat) :
    branchTarget pc n o = pc + 4 * (BitVec.ofNat n o).signExtend 64 := by
  rw [branchTarget, ← ofInt_sextNat hn, BitVec.ofInt_mul]
  rfl

theorem toNat_shiftBits (y : Word) : (y.extractLsb' 0 6).toNat = shiftOf y := by
  simp [shiftOf, BitVec.extractLsb'_toNat]

/-! ## Products -/

theorem highHalf_eq_extract (z : BitVec 128) (p : Int) (hp : z = BitVec.ofInt 128 p) :
    highHalf p = z.extractLsb' 64 64 := by
  subst hp
  apply BitVec.eq_of_toNat_eq
  have h : ((p % 2 ^ 128).toNat / 2 ^ 64 % 2 ^ 64 : Nat) = ((p / 2 ^ 64) % 2 ^ 64).toNat := by omega
  simpa [highHalf, BitVec.extractLsb'_toNat, Nat.shiftRight_eq_div_pow] using h.symm

theorem highHalf_signed (x y : Word) :
    highHalf (x.toInt * y.toInt) = (x.signExtend 128 * y.signExtend 128).extractLsb' 64 64 :=
  highHalf_eq_extract _ _ (by rw [BitVec.ofInt_mul, BitVec.signExtend, BitVec.signExtend])

theorem highHalf_unsigned (x y : Word) :
    highHalf (x.toNat * y.toNat : Nat) = (x.setWidth 128 * y.setWidth 128).extractLsb' 64 64 :=
  highHalf_eq_extract _ _ (by
    rw [Nat.cast_mul, BitVec.ofInt_mul, BitVec.ofInt_natCast, BitVec.ofInt_natCast, BitVec.ofNat_toNat, BitVec.ofNat_toNat])

/-! ## The smaller and the larger of two words -/

theorem smallerSigned_eq (x y : Word) : (if x.toInt ≤ y.toInt then x else y) = if y.slt x then y else x := by
  by_cases h : x.toInt ≤ y.toInt <;> simp [BitVec.slt, h]

theorem largerSigned_eq (x y : Word) : (if x.toInt ≤ y.toInt then y else x) = if x.slt y then y else x := by
  rcases lt_trichotomy x.toInt y.toInt with h | h | h
  · simp [BitVec.slt, h, h.le]
  · rw [BitVec.toInt_inj.mp h, ite_self, ite_self]
  · simp [BitVec.slt, h.not_ge, h.not_gt]

theorem smaller_eq (x y : Word) : (if x.toNat ≤ y.toNat then x else y) = if y.ult x then y else x := by
  by_cases h : x.toNat ≤ y.toNat <;> simp [BitVec.ult, h]

theorem larger_eq (x y : Word) : (if x.toNat ≤ y.toNat then y else x) = if x.ult y then y else x := by
  rcases lt_trichotomy x.toNat y.toNat with h | h | h
  · simp [BitVec.ult, h, h.le]
  · rw [BitVec.toNat_inj.mp h, ite_self, ite_self]
  · simp [BitVec.ult, h.not_ge, h.not_gt]

/-! ## Counts of bits -/

/-- The number of bits up to the highest one bit, as `clz64` finds it among the lowest `n`. -/
def topBits (v n : Nat) : Nat := (maskList v n).foldl (fun _ i => i + 1) 0

theorem topBits_succ (v n : Nat) : topBits v (n + 1) = if bit v n then n + 1 else topBits v n := by
  simp only [topBits, maskList, range_succ_last, List.filter_append, List.foldl_append, Nat.zero_add]
  cases hb : bit v n <;> simp [hb]

theorem topBits_bounds (v n : Nat) : topBits v n ≤ n ∧ v % 2 ^ n < 2 ^ topBits v n ∧
    (0 < topBits v n → 2 ^ (topBits v n - 1) ≤ v % 2 ^ n) := by
  induction n with
  | zero => simp [topBits, maskList, range, Nat.mod_one]
  | succ n ih =>
    obtain ⟨hle, hlt, hge⟩ := ih
    have hmod : v % 2 ^ (n + 1) = v % 2 ^ n + 2 ^ n * (v / 2 ^ n % 2) := Nat.mod_pow_succ
    rw [topBits_succ]
    cases hb : bit v n with
    | true =>
      have h1 : v / 2 ^ n % 2 = 1 := by simpa [bit] using hb
      exact ⟨le_rfl, Nat.mod_lt _ (by positivity), fun _ => by simp [hmod, h1]⟩
    | false =>
      have h0 : v / 2 ^ n % 2 = 0 := by simpa [bit] using hb
      rw [hmod, h0]
      exact ⟨Nat.le_succ_of_le hle, by simpa using hlt, by simpa using hge⟩

theorem clz64_bounds (x : Word) : clz64 x ≤ 64 ∧ x.toNat < 2 ^ (64 - clz64 x) ∧
    (clz64 x < 64 → 2 ^ (63 - clz64 x) ≤ x.toNat) := by
  obtain ⟨hle, hlt, hge⟩ := topBits_bounds x.toNat 64
  rw [Nat.mod_eq_of_lt x.isLt] at hlt hge
  have hc : clz64 x = 64 - topBits x.toNat 64 := rfl
  rw [hc, show 64 - (64 - topBits x.toNat 64) = topBits x.toNat 64 by omega,
    show 63 - (64 - topBits x.toNat 64) = topBits x.toNat 64 - 1 by omega]
  exact ⟨Nat.sub_le _ _, hlt, fun h => hge (by omega)⟩

theorem range_eq_range' (lo n : Nat) : range lo n = List.range' lo n := by
  induction n generalizing lo with
  | zero => rfl
  | succ n ih => rw [range, ih, List.range'_succ]

theorem range_zero_eq (n : Nat) : range 0 n = List.range n := by
  rw [range_eq_range', List.range_eq_range']

theorem popc64_eq (x : Word) : popc64 x = (List.range 64).countP (fun i => x.getLsbD i) := by
  simp only [popc64, maskList, range_zero_eq, List.countP_eq_length_filter, bit_eq_testBit]
  rfl

/-! ## Tables 5.1 and 5.2 -/

section
variable {s : State} {d a b : Nat} {x y v : Word}

theorem aluR_eq {f : Word → Word → Word} (hx : s.getX s.turn a = x) (hy : s.getX s.turn b = y) (hv : f x y = v) :
    aluR f d a b s = .next ((s.setX s.turn d v).complete s.turn) := by
  rw [aluR, hx, hy, hv]

theorem aluI_eq {f : Word → Word} (hx : s.getX s.turn a = x) (hv : f x = v) :
    aluI f d a s = .next ((s.setX s.turn d v).complete s.turn) := by
  rw [aluI, hx, hv]

end

theorem registerForms : RegisterForms := by
  intro s d a b x y hx hy
  refine ⟨aluR_eq hx hy rfl, aluR_eq hx hy rfl, aluR_eq hx hy rfl, aluR_eq hx hy rfl, aluR_eq hx hy rfl,
    aluR_eq (f := fun x y => x <<< shiftOf y) hx hy ?sll, aluR_eq (f := fun x y => x >>> shiftOf y) hx hy ?srl,
    aluR_eq (f := fun x y => x.sshiftRight (shiftOf y)) hx hy ?sra, aluR_eq hx hy rfl,
    aluR_eq (f := fun x y => highHalf (x.toInt * y.toInt)) hx hy (highHalf_signed x y),
    aluR_eq (f := fun x y => highHalf (x.toNat * y.toNat : Nat)) hx hy (highHalf_unsigned x y),
    aluR_eq (f := fun x y => if x.toInt ≤ y.toInt then x else y) hx hy (smallerSigned_eq x y),
    aluR_eq (f := fun x y => if x.toInt ≤ y.toInt then y else x) hx hy (largerSigned_eq x y),
    aluR_eq (f := fun x y => if x.toNat ≤ y.toNat then x else y) hx hy (smaller_eq x y),
    aluR_eq (f := fun x y => if x.toNat ≤ y.toNat then y else x) hx hy (larger_eq x y),
    aluR_eq (f := fun x y => if x.toInt < y.toInt then 1 else 0) hx hy ?slt,
    aluR_eq (f := fun x y => if x.toNat < y.toNat then 1 else 0) hx hy ?sltn⟩
  case sll => rw [BitVec.shiftLeft_eq', toNat_shiftBits]
  case srl => rw [BitVec.ushiftRight_eq', toNat_shiftBits]
  case sra => rw [BitVec.sshiftRight', toNat_shiftBits]
  case slt => simp [BitVec.slt]
  case sltn => simp [BitVec.ult]

theorem countWords : CountWords := by
  intro s d a x hx
  exact ⟨⟨clz64 x, aluI_eq (f := fun x => BitVec.ofNat 64 (clz64 x)) hx rfl, clz64_bounds x⟩,
    aluI_eq (f := fun x => BitVec.ofNat 64 (popc64 x)) hx (congrArg _ (popc64_eq x))⟩

/-- Settles O9: each row's function of the model is the bit-vector operation of Table 5.1. -/
theorem integerRegisterForms : Obligations.IntegerRegisterForms := ⟨registerForms, countWords⟩

theorem immediateForms : ImmediateForms := by
  intro s d a i n x hx
  exact ⟨aluI_eq (f := (· + sext16 i)) hx (by rw [sext16_eq]), aluI_eq (f := (· &&& zext16 i)) hx (by rw [zext16_eq]),
    aluI_eq (f := (· ||| zext16 i)) hx (by rw [zext16_eq]), aluI_eq (f := (· ^^^ zext16 i)) hx (by rw [zext16_eq]),
    aluI_eq (f := (· <<< n)) hx rfl, aluI_eq (f := (· >>> n)) hx rfl, aluI_eq (f := (·.sshiftRight n)) hx rfl,
    aluI_eq (f := fun _ => luiValue i) (getX_zero s s.turn) (luiValue_eq i)⟩

/-! ## General registers -/

theorem setX_region_ne (s : State) (r n : Nat) (v : Word) {q : Nat} (hq : q ≠ r) : (s.setX r n v).region q = s.region q := by
  rw [State.setX, setRegion_region_ne _ _ hq]

theorem setX_zero_region (s : State) (r : Nat) (v : Word) (q : Nat) : (s.setX r 0 v).region q = s.region q := by
  by_cases hq : q = r
  · subst hq; simp [State.setX, Region.setX]
  · exact setX_region_ne s r 0 v hq

/-- Settles O8: a write sets the table entry of its register in its region, and x0 has none. -/
theorem generalRegisters : Obligations.GeneralRegisters := fun s r v =>
  ⟨getX_zero s r, setX_zero_region s r v, fun n hn => by simp [setX_getX, hn], fun n m hm => by simp [setX_getX, hm],
    fun q n m hq => by simp only [State.getX, setX_region_ne s r n v hq]⟩

end Sys2Proof.Machine
end

section
/-! The words of majors 0x06 to 0x09 and 0x1F that are no instruction, and the branches, jumps and loops (R87, R100 to R108). -/
namespace Sys2Proof.Machine

/-! ## Words that are no instruction -/

theorem ifZero_error {z : Nat} (i : Instr) (hz : z ≠ 0) : ifZero z i = .error .nonzeroField := if_neg hz

theorem fieldOf_major {w : Nat} (hw : w < 2 ^ 32) : fieldOf w 26 6 = w / 2 ^ 26 := by
  rw [fieldOf]; omega

theorem decodeWord_reserved_shift {w : Nat} (hw : w < 2 ^ 32) (hlo : 6 ≤ w / 2 ^ 26) (hhi : w / 2 ^ 26 ≤ 8)
    (hb : bits w 15 6 ≠ 0) : decodeWord .control w = .error .nonzeroField := by
  have hz : fieldOf w 6 10 ≠ 0 := hb
  have hm : w / 2 ^ 26 = 6 ∨ w / 2 ^ 26 = 7 ∨ w / 2 ^ 26 = 8 := by omega
  rw [← fieldOf_major hw] at hm
  rcases hm with h | h | h <;> simp only [decodeWord, decodeControl, h] <;> exact ifZero_error _ hz

theorem decodeWord_reserved_lui {w : Nat} (hw : w < 2 ^ 32) (hm : w / 2 ^ 26 = 9) (hb : bits w 20 16 ≠ 0) :
    decodeWord .control w = .error .nonzeroField := by
  rw [← fieldOf_major hw] at hm
  simp only [decodeWord, decodeControl, hm]
  exact ifZero_error _ hb

theorem reservedImmediateBits : ReservedImmediateBits := by
  intro s ks w hw hread hbits hq hc hk hp
  have he : decodeWord .control w = .error .nonzeroField := by
    rcases hbits with ⟨hlo, hhi, hb⟩ | ⟨hm, hb⟩
    · exact decodeWord_reserved_shift hw hlo hhi hb
    · exact decodeWord_reserved_lui hw hm hb
  exact fetchFaultsTrapAtPc.2.1 s ks _ hq hc hk hp (hread ▸ he)

/-- Settles O10: the immediate's extension is a bit-vector operation, and a reserved bit makes the word undecodable. -/
theorem integerImmediateForms : Obligations.IntegerImmediateForms := ⟨immediateForms, reservedImmediateBits⟩

theorem emptyLoopBodyIsIllegal : EmptyLoopBodyIsIllegal := by
  intro w hw hm hb
  have h9 : fieldOf w 9 10 = 0 := hb
  rw [← fieldOf_major hw] at hm
  simp only [decodeWord, decodeControl, hm, h9]
  by_cases h0 : fieldOf w 0 9 ≠ 0
  · exact ⟨_, if_pos h0⟩
  · exact ⟨_, if_neg h0⟩

/-! ## End processing and unwinding -/

theorem endCheck_again {a : Word} {n : Nat} {ls : Sparse LoopEntry} {e : LoopEntry}
    (he : e = sget { start := 0, len := 0, count := 0 } ls n) (ha : a = e.last) (hc : 2 ≤ e.count) :
    endCheck a (n + 1) ls = (n + 1, sput ls n { e with count := e.count - 1 }, e.start) := by
  have h0 : 0 < e.count - 1 := by omega
  simp only [endCheck, ← he, if_pos ha, if_pos h0]

theorem endCheck_done {a : Word} {n : Nat} {ls : Sparse LoopEntry} {e : LoopEntry}
    (he : e = sget { start := 0, len := 0, count := 0 } ls n) (ha : a = e.last) (hc : e.count = 1) :
    endCheck a (n + 1) ls = endCheck a n (sput ls n { e with count := 0 }) := by
  simp only [endCheck, ← he, if_pos ha, hc, Nat.sub_self, Nat.lt_irrefl, if_false]

theorem complete_of_endCheck {s : State} {r d : Nat} {ls : Sparse LoopEntry} {pc : Word}
    (h : endCheck (s.region r).pc (s.region r).depth (s.region r).loops = (d, ls, pc)) :
    s.complete r = (s.setRegion r { s.region r with depth := d, loops := ls, pc := pc, waiting := false, heldAt := none,
                                                    sendSince := none }).tick := by
  simp only [State.complete, Region.completed, h]

theorem endProcessing : EndProcessing := by
  refine ⟨fun a ls => rfl, fun a n ls e he => ⟨fun ha => ?_, fun ha hc => endCheck_again he ha hc,
    fun ha hc => endCheck_done he ha hc⟩, fun s r d ls pc h => complete_of_endCheck h⟩
  exact endCheck_next a n ls (he ▸ ha)

theorem unwind_held {t : Word} {n : Nat} {ls : Sparse LoopEntry} {e : LoopEntry}
    (he : e = sget { start := 0, len := 0, count := 0 } ls n) (h : e.start.toNat ≤ t.toNat ∧ t.toNat ≤ e.last.toNat) :
    unwind t (n + 1) ls = n + 1 := by
  simp only [unwind, ← he, if_pos h]

theorem unwind_left {t : Word} {n : Nat} {ls : Sparse LoopEntry} {e : LoopEntry}
    (he : e = sget { start := 0, len := 0, count := 0 } ls n) (h : ¬(e.start.toNat ≤ t.toNat ∧ t.toNat ≤ e.last.toNat)) :
    unwind t (n + 1) ls = unwind t n ls := by
  simp only [unwind, ← he, if_neg h]

theorem unwindKeepsTheHoldingLoop : UnwindKeepsTheHoldingLoop := by
  intro t d ls e he
  refine ⟨unwind_le t d ls, ?_⟩
  induction d with
  | zero => exact ⟨fun l h => absurd h (Nat.succ_ne_zero l).symm, fun l _ h => absurd h (Nat.not_lt_zero l)⟩
  | succ n ih =>
    by_cases h : (e n).start.toNat ≤ t.toNat ∧ t.toNat ≤ (e n).last.toNat
    · rw [unwind_held (he n) h]
      refine ⟨fun l hl => ?_, fun l hge hlt => absurd hlt (by omega)⟩
      obtain rfl : n = l := by omega
      exact h
    · rw [unwind_left (he n) h]
      refine ⟨ih.1, fun l hge hlt => ?_⟩
      rcases Nat.lt_succ_iff_lt_or_eq.mp hlt with hl | rfl
      · exact ih.2 l hge hl
      · exact h

/-- Settles O22: the innermost loop's end is one step of `endCheck`, and unwinding is by induction on the depth. -/
theorem endProcessingAndUnwinding : Obligations.EndProcessingAndUnwinding := ⟨endProcessing, unwindKeepsTheHoldingLoop⟩

/-! ## Branches and jumps -/

theorem branch_completes {c taken : Word → Word → Bool} (h : ∀ x y, c x y = taken x y) (s : State) (a b o : Nat) (g : Region)
    (t : Word) (hg : g = s.region s.turn) (ht : t = g.pc + 4 * (BitVec.ofNat 16 o).signExtend 64) :
    (taken (s.getX s.turn a) (s.getX s.turn b) = true → branch c a b o s =
      .next (s.setRegion s.turn { g with pc := t, depth := unwind t g.depth g.loops, waiting := false, heldAt := none,
                                         sendSince := none }).tick) ∧
    (taken (s.getX s.turn a) (s.getX s.turn b) = false → branch c a b o s = .next (s.complete s.turn)) := by
  subst hg ht
  simp only [branch, h, branchTarget_eq _ (show 0 < 16 by decide)]
  constructor
  · intro hc; simp only [hc, if_true]; rfl
  · intro hc; simp [hc]

theorem conditionalBranches : ConditionalBranches := by
  refine ⟨branch_completes fun _ _ => rfl, branch_completes fun _ _ => rfl,
    branch_completes (c := fun x y => x.toInt < y.toInt) fun x y => rfl,
    branch_completes (c := fun x y => y.toInt ≤ x.toInt) (taken := fun x y => !x.slt y) fun x y => ?bge,
    branch_completes (c := fun x y => x.toNat < y.toNat) fun x y => rfl,
    branch_completes (c := fun x y => y.toNat ≤ x.toNat) (taken := fun x y => !x.ult y) fun x y => ?bgen⟩
  case bge => simp [BitVec.slt, ← decide_not]
  case bgen => simp [BitVec.ult, ← decide_not]

theorem lowBits_eq_zero (t : Word) : t.extractLsb' 0 2 = 0 ↔ t.toNat % 4 = 0 := by
  rw [← BitVec.toNat_inj]
  simp [BitVec.extractLsb'_toNat]

theorem execJal_eq (o : Nat) (s : State) : exec (.jal o) s =
    .next (s.setRegion s.turn (((s.region s.turn).setX 1 ((s.region s.turn).pc + 4)).jump
      ((s.region s.turn).pc + 4 * (BitVec.ofNat 26 o).signExtend 64) false)).tick := by
  rw [← branchTarget_eq _ (show 0 < 26 by decide)]
  rfl

theorem execJalr_eq (d a i : Nat) (s : State) {t : Word} (ht : t = s.getX s.turn a + (BitVec.ofNat 16 i).signExtend 64) :
    exec (.jalr d a i) s = finishJump s s.turn (do
      need (t.toNat % 4 == 0) .illegal
      .ok (s.setRegion s.turn (((s.region s.turn).setX d ((s.region s.turn).pc + 4)).jump t (d == 0)))) := by
  rw [ht, ← sext16_eq]
  rfl

theorem execJalr_aligned (d a i : Nat) (s : State) {t : Word} (ht : t = s.getX s.turn a + (BitVec.ofNat 16 i).signExtend 64)
    (h4 : t.extractLsb' 0 2 = 0) : exec (.jalr d a i) s =
      .next (s.setRegion s.turn (((s.region s.turn).setX d ((s.region s.turn).pc + 4)).jump t (d == 0))).tick := by
  rw [execJalr_eq d a i s ht, need_ok.mpr (beq_iff_eq.mpr ((lowBits_eq_zero t).mp h4)), res_ok_bind]
  rfl

theorem execJalr_misaligned (d a i : Nat) (s : State) {t : Word}
    (ht : t = s.getX s.turn a + (BitVec.ofNat 16 i).signExtend 64) (h4 : t.extractLsb' 0 2 ≠ 0) :
    TrapsWith (exec (.jalr d a i) s) s s.turn (Trap.word .illegal) := by
  have h : (t.toNat % 4 == 0) = false := beq_eq_false_iff_ne.mpr fun h => h4 ((lowBits_eq_zero t).mpr h)
  rw [TrapsWith, execJalr_eq d a i s ht, h, need_false, res_error_bind]
  rfl

theorem jumps : Jumps := by
  refine ⟨fun s o g hg => ?_, fun s d a i g t hg ht => ⟨fun h4 hd => ?link, fun h4 hd => ?unwinds,
    fun h4 => execJalr_misaligned d a i s ht h4⟩⟩
  · subst hg; rw [execJal_eq]; rfl
  case link =>
    subst hg
    rw [execJalr_aligned d a i s ht h4, beq_eq_false_iff_ne.mpr hd]
    simp only [Region.jump, Region.setX, if_neg hd]
    rfl
  case unwinds =>
    subst hg hd
    rw [execJalr_aligned 0 a i s ht h4]
    rfl

/-- Settles O20: each branch's test is the bit-vector comparison, and `jalr`'s check the target's low bits. -/
theorem branchesAndJumps : Obligations.BranchesAndJumps := ⟨conditionalBranches, jumps⟩

/-! ## Loop words -/

/-- The last check of `loop`: the body of `n` words lies inside the innermost open loop (R104). -/
def Region.loopFits (g : Region) (n : Nat) : Bool :=
  g.depth == 0 || g.pc.toNat + 4 * n ≤ (g.loopAt (g.depth - 1)).last.toNat

theorem loopFits_iff {g : Region} {n : Nat} :
    g.loopFits n = true ↔ g.depth = 0 ∨ g.pc.toNat + 4 * n ≤ (g.loopAt (g.depth - 1)).last.toNat := by
  simp [Region.loopFits]

section
variable {s : State} {g : Region} {l c n k d : Nat}

/-- What `loop` does once its checks have passed. -/
def Region.openLoop (g : Region) (l n k : Nat) : Region :=
  if k = 0 then { g with pc := g.pc + BitVec.ofNat 64 (4 * n + 4), waiting := false, heldAt := none, sendSince := none }
  else { g with loops := sput g.loops l { start := g.pc + 4, len := n, count := k }, depth := l + 1, pc := g.pc + 4,
                waiting := false, heldAt := none, sendSince := none }

theorem execLoop_checks (hg : g = s.region s.turn) (hk : k = (s.getX s.turn c).toNat) :
    exec (.loop l c n) s = finishJump s s.turn (do
      need (l == g.depth) .illegal
      need (l < 4) .illegal
      need (k < 2 ^ 48) .illegal
      need (g.loopFits n) .illegal
      .ok (s.setRegion s.turn (g.openLoop l n k))) := by
  subst hg hk
  change execLoop l c n s = _
  simp only [execLoop, Region.openLoop, Region.loopFits]
  split <;> rfl

theorem execLoop_opens (hg : g = s.region s.turn) (hk : k = (s.getX s.turn c).toNat) (hl : l = g.depth) (h4 : l < 4)
    (hc : k < 2 ^ 48) (hin : g.depth = 0 ∨ g.pc.toNat + 4 * n ≤ (g.loopAt (g.depth - 1)).last.toNat) :
    exec (.loop l c n) s = .next (s.setRegion s.turn (g.openLoop l n k)).tick := by
  rw [execLoop_checks hg hk, need_ok.mpr (beq_iff_eq.mpr hl), res_ok_bind, need_ok.mpr (decide_eq_true h4), res_ok_bind,
    need_ok.mpr (decide_eq_true hc), res_ok_bind, need_ok.mpr (loopFits_iff.mpr hin), res_ok_bind]
  rfl

theorem execLoop_refused (hg : g = s.region s.turn) (hk : k = (s.getX s.turn c).toNat)
    (h : l ≠ g.depth ∨ 4 ≤ l ∨ 2 ^ 48 ≤ k ∨
      (g.depth ≠ 0 ∧ (g.loopAt (g.depth - 1)).last.toNat < g.pc.toNat + 4 * n)) :
    TrapsWith (exec (.loop l c n) s) s s.turn (Trap.word .illegal) := by
  rw [TrapsWith, execLoop_checks hg hk]
  cases h1 : l == g.depth
  · rfl
  cases h2 : decide (l < 4)
  · rfl
  cases h3 : decide (k < 2 ^ 48)
  · rfl
  have h4 : g.loopFits n = false := by
    rw [Bool.eq_false_iff, ne_eq, loopFits_iff]
    have := beq_iff_eq.mp h1
    have := of_decide_eq_true h2
    have := of_decide_eq_true h3
    omega
  rw [h4]
  rfl

theorem execLbrk_leaves (hg : g = s.region s.turn) (hl : l < g.depth) : exec (.lbrk l) s = .next (s.setRegion s.turn
    { g with pc := (g.loopAt l).last + 4, depth := l, waiting := false, heldAt := none, sendSince := none }).tick := by
  subst hg
  change execLbrk l s = _
  rw [execLbrk, need_ok.mpr (decide_eq_true hl), res_ok_bind]
  rfl

theorem execLbrk_refused (hg : g = s.region s.turn) (hl : g.depth ≤ l) :
    TrapsWith (exec (.lbrk l) s) s s.turn (Trap.word .illegal) := by
  subst hg
  change execLbrk l s = _
  rw [execLbrk, decide_eq_false (by omega), need_false, res_error_bind]
  rfl

theorem execLcnt_reads (hg : g = s.region s.turn) (hl : l < g.depth) :
    exec (.lcnt d l) s = .next ((s.setX s.turn d (BitVec.ofNat 64 (g.loopAt l).count)).complete s.turn) := by
  subst hg
  change execLcnt d l s = _
  rw [execLcnt, need_ok.mpr (decide_eq_true hl), res_ok_bind]
  rfl

theorem execLcnt_refused (hg : g = s.region s.turn) (hl : g.depth ≤ l) :
    TrapsWith (exec (.lcnt d l) s) s s.turn (Trap.word .illegal) := by
  subst hg
  change execLcnt d l s = _
  rw [execLcnt, decide_eq_false (by omega), need_false, res_error_bind]
  rfl

end

/-- Settles O21: each word's checks are `need`s in a row, and the rest is its effect. -/
theorem loopWords : Obligations.LoopWords :=
  ⟨emptyLoopBodyIsIllegal, fun _ _ _ _ _ _ hg hk => ⟨execLoop_opens hg hk, execLoop_refused hg hk⟩,
    fun _ _ _ hg => ⟨execLbrk_leaves hg, execLbrk_refused hg⟩, fun _ _ _ _ hg => ⟨execLcnt_reads hg, execLcnt_refused hg⟩⟩

end Sys2Proof.Machine
end

section
/-! O25: the privileged words in unprivileged mode (R84, R135). O19: fences and drains (R95, R96). -/
namespace Sys2Proof.Machine

/-! ## Privileged words -/

section
variable {s d : State} (hd : Drained s d)
include hd

theorem drained_mode : (d.region s.turn).mode = (s.region s.turn).mode := by
  obtain ⟨-, rfl⟩ := hd
  rw [drain_region_same]

variable (hm : (s.region s.turn).mode = .unprivileged)
include hm

/-- In unprivileged mode the check that a privileged word makes first fails (R84). -/
theorem needPrivileged_drained : needPrivileged d s.turn = .error (.trap (Trap.word .protection)) := by
  rw [needPrivileged, drained_mode hd, hm]
  rfl

/-- A command that begins with the check for privileged mode. -/
theorem command_needPrivileged (f : State → Res State) :
    TrapsWith (command s fun t => needPrivileged t t.turn >>= fun _ => f t) d s.turn (Trap.word .protection) := by
  rw [command_of_drained hd, drained_turn hd, needPrivileged_drained hd hm, res_error_bind]
  exact trapsWith_finish _ _ _

theorem exec_cxrest_unprivileged (b core ctx : Nat) :
    TrapsWith (exec (.cxrest b core ctx) s) d s.turn (Trap.word .protection) := by
  have hp := needPrivileged_drained hd hm
  obtain ⟨hready, rfl⟩ := hd
  change TrapsWith (execCxrest b core ctx s) _ _ _
  simp only [execCxrest, hready, await_true, res_ok_bind, hp, res_error_bind]
  exact trapsWith_finish _ _ _

theorem exec_dvclr_unprivileged (core e : Nat) :
    TrapsWith (exec (.dvclr core e) s) d s.turn (Trap.word .protection) := by
  have hp := needPrivileged_drained hd hm
  obtain ⟨hready, rfl⟩ := hd
  change TrapsWith (execDvclr core e s) _ _ _
  simp only [execDvclr, hready, await_true, res_ok_bind, hp, res_error_bind]
  exact trapsWith_finish _ _ _

theorem exec_tret_unprivileged : TrapsWith (exec .tret s) d s.turn (Trap.word .protection) := by
  rw [TrapsWith, exec_tret hd, needPrivileged_drained hd hm, res_error_bind]
  rfl

theorem privileged_test_false {n : Nat} (hn : privilegedReg n = true) :
    (!privilegedReg n || (d.region s.turn).mode == .privileged) = false := by
  rw [drained_mode hd, hm, hn]
  rfl

theorem exec_mvfs_unprivileged {n : Nat} (a : Nat) (hr : readable n = true) (hn : privilegedReg n = true) :
    TrapsWith (exec (.mvfs a n) s) d s.turn (Trap.word .protection) := by
  have hc : readCheck d s.turn n = .error (.trap (Trap.word .protection)) := by
    simp only [readCheck, hr, need_true, res_ok_bind, privileged_test_false hd hm hn, need_false]
  rw [exec_mvfs hd, hc, res_error_bind]
  exact trapsWith_finish _ _ _

theorem exec_mvts_unprivileged {n : Nat} (b : Nat) (hr : readable n = true) (ho : readOnly n = false)
    (hn : privilegedReg n = true) : TrapsWith (exec (.mvts b n) s) d s.turn (Trap.word .protection) := by
  have hc : writeCheck d s.turn n = .error (.trap (Trap.word .protection)) := by
    simp only [writeCheck, hr, ho, Bool.not_false, Bool.and_self, need_true, res_ok_bind, privileged_test_false hd hm hn,
      need_false]
  rw [exec_mvts hd, hc, res_error_bind]
  exact trapsWith_finish _ _ _

theorem exec_translationRegisterWrite_unprivileged (b n : Nat) :
    TrapsWith (exec (.translationRegisterWrite b n) s) d s.turn (Trap.word .protection) := by
  change TrapsWith (execTranslationRegisterWrite b n s) _ _ _
  exact command_needPrivileged hd hm _

theorem exec_cxsave_unprivileged (a b core ctx : Nat) :
    TrapsWith (exec (.cxsave a b core ctx) s) d s.turn (Trap.word .protection) := by
  change TrapsWith (execCxsave a b core ctx s) _ _ _
  exact command_needPrivileged hd hm _

theorem exec_dvmap_unprivileged (b core e : Nat) :
    TrapsWith (exec (.dvmap b core e) s) d s.turn (Trap.word .protection) := by
  change TrapsWith (execDvmap b core e s) _ _ _
  exact command_needPrivileged hd hm _

end

/-- Settles O25: each word makes the check for privileged mode before every effect but the drain. -/
theorem privilegedWordsTrap : Obligations.PrivilegedWordsTrap := by
  rintro s d a b n core ctx e _ hd hm rfl
  exact ⟨exec_tret_unprivileged hd hm, exec_translationRegisterWrite_unprivileged hd hm b n,
    exec_cxsave_unprivileged hd hm a b core ctx, exec_cxrest_unprivileged hd hm b core ctx,
    exec_dvmap_unprivileged hd hm b core e, exec_dvclr_unprivileged hd hm core e,
    exec_mvfs_unprivileged hd hm a, exec_mvts_unprivileged hd hm b⟩

/-! ## Fences -/

theorem complete_region_stores (s : State) (r : Nat) : ((s.complete r).region r).stores = (s.region r).stores := by
  obtain ⟨d, ls, p, hg⟩ := completed_frame (s.region r)
  rw [complete_region_same, hg]

theorem execFence_performs {s : State} {sc : Nat} (hsc : 2 ≤ sc) (h : s.drains s.turn = true) :
    exec (.fence sc) s = .next ((s.drain s.turn).complete s.turn) := by
  change execFence sc s = _
  rw [execFence, if_neg (by omega), if_pos h, finish_ok]

theorem execFence_waits {s : State} {sc : Nat} (hsc : 2 ≤ sc) (h : s.drains s.turn = false) :
    exec (.fence sc) s = .next ((s.drain s.turn).wait s.turn) := by
  change execFence sc s = _
  rw [execFence, if_neg (by omega), if_neg (by simp [h]), finish_wait]

theorem execFence_near {s : State} {sc : Nat} (hsc : sc < 2) : exec (.fence sc) s = .next (s.complete s.turn) := by
  change execFence sc s = _
  rw [execFence, if_pos hsc]

/-! ## STORE_BUFFER_DRAIN -/

section
variable {s : State} {r : Nat}

theorem exec_storeBufferDrain (s : State) (r : Nat) : exec (.storeBufferDrain r) s = .next (s.payOne r).tick := rfl

theorem payOne_stores {b : BufStore} {rest : List BufStore} (hs : (s.region r).stores = b :: rest)
    (hv : vaultHeld s b.keys = false) :
    s.payOne r = (s.setRegion r { s.region r with stores := rest }).store b.keys b.bytes := by
  simp [State.payOne, State.drainOne, hs, hv]

/-- No buffered store can go: there is none, or the home of the oldest is held. -/
def State.storesRest (s : State) (r : Nat) : Prop := ∀ b ∈ (s.region r).stores.head?, vaultHeld s b.keys = true

theorem payOne_of_storesRest (h : s.storesRest r) : s.payOne r =
    if (s.region r).owed.head?.any (fun p => s.statusReady r p.1.toNat) then s.payStatus r else s.payRecord r := by
  have hs : (s.region r).stores.head?.any (fun b => !vaultHeld s b.keys) = false := by
    simpa [Option.any_eq_false, State.storesRest] using h
  simp only [State.payOne, hs, Bool.false_eq_true, if_false]

theorem storesRest_of_empty (hs : (s.region r).stores = []) : s.storesRest r := by
  simp [State.storesRest, hs]

theorem storesRest_of_held {b : BufStore} {rest : List BufStore} (hs : (s.region r).stores = b :: rest)
    (hv : vaultHeld s b.keys = true) : s.storesRest r := by
  simpa [State.storesRest, hs] using hv

theorem payOne_record (h : s.storesRest r) (ho : (s.region r).owed = []) : s.payOne r = s.payRecord r := by
  rw [payOne_of_storesRest h, ho]
  rfl

theorem payRecord_none (hr : (s.region r).recs = []) : s.payRecord r = s := by
  simp [State.payRecord, hr]

end

/-- Settles O19: `payOne` tries the oldest store, then the oldest owed status word, then the oldest record. -/
theorem fencesAndTheStoreBuffer : Obligations.FencesAndTheStoreBuffer := by
  refine ⟨fun s sc hsc h => ⟨_, execFence_performs hsc h, rfl, ?emptied, ?memory⟩, fun s sc hsc h => execFence_waits hsc h,
    fun s sc hsc => execFence_near hsc, fun s r b rest hs => ⟨fun hv => ?goes, fun hv ho hr => ?rests⟩,
    fun s r hs => ⟨fun p rest u ho hready hu => ?status, fun ho => ⟨fun hr => ?nothing, ?record⟩⟩, fun s r mask ho => ?leaves⟩
  case emptied => rw [complete_region_stores, drain_region_of_drains h]
  case memory => rw [complete_mem, drain_mem_of_drains h]
  case goes => rw [exec_storeBufferDrain, payOne_stores hs hv]
  case rests => rw [exec_storeBufferDrain, payOne_record (storesRest_of_held hs hv) ho, payRecord_none hr]
  case status =>
    subst hu
    rw [exec_storeBufferDrain, payOne_of_storesRest (storesRest_of_empty hs)]
    simp only [ho, List.head?_cons, Option.any_some, hready, if_true, State.payStatus]
  case nothing => rw [exec_storeBufferDrain, payOne_record (storesRest_of_empty hs) ho, payRecord_none hr]
  case record =>
    rintro at' q0 q2 q3 rest ks hr rfl
    rw [exec_storeBufferDrain, payOne_record (storesRest_of_empty hs) ho]
    exact ⟨fun hv => by simp [State.payRecord, hr, hv], fun hv => by simp [State.payRecord, hr, hv]⟩
  case leaves => simp [State.leave, ho]

end Sys2Proof.Machine
end

section
/-! O11, O12, O15: loads, the words that write one register, and the faults of loads and stores (R88 to R92, R99, R305). -/
namespace Sys2Proof.Machine

/-! ## The packet of an access touches the network alone (R290, R305) -/

/-- `s` with the queues, arrivals, sequence numbers and waiting packets of the network of `t`. -/
def State.withNetworkOf (s t : State) : State :=
  { s with queues := t.queues, arrivals := t.arrivals, sent := t.sent, undelivered := t.undelivered,
           waitingSend := t.waitingSend }

theorem place_network (s : State) (p : Packet) : s.place p = s.withNetworkOf (s.place p) := by
  simp only [State.place]
  split <;> rfl

theorem sendPacket_network (s : State) (p : Packet) : s.sendPacket p = s.withNetworkOf (s.sendPacket p) := by
  simp only [State.sendPacket, State.inject]
  split
  · rw [place_network]; rfl
  · rfl

theorem sendAsk_network (s : State) (p : Packet) : s.sendAsk p = s.withNetworkOf (s.sendAsk p) := by
  simp only [State.sendAsk]
  split
  · exact sendPacket_network _ _
  · split
    · exact sendPacket_network _ _
    · rfl

theorem askControl_network (s : State) (r home : Nat) (a : Access0) :
    s.askControl r home a = s.withNetworkOf (s.askControl r home a) := by
  cases a <;> exact sendAsk_network _ _

theorem packetsTouchTheNetworkAlone : PacketsTouchTheNetworkAlone := fun s r home a => askControl_network s r home a

section
variable (s : State) (r home : Nat) (a : Access0)

@[simp] theorem askControl_region (q : Nat) : (s.askControl r home a).region q = s.region q := by
  rw [askControl_network]; rfl

@[simp] theorem askControl_getX (q n : Nat) : (s.askControl r home a).getX q n = s.getX q n := by
  rw [askControl_network]; rfl

@[simp] theorem askControl_readByte (k : Nat) : (s.askControl r home a).readByte k = s.readByte k := by
  rw [askControl_network]; rfl

@[simp] theorem askControl_cores : (s.askControl r home a).cores = s.cores := by
  rw [askControl_network]; rfl

@[simp] theorem askControl_die : (s.askControl r home a).die = s.die := by
  rw [askControl_network]; rfl

@[simp] theorem askControl_poison : (s.askControl r home a).poison = s.poison := by
  rw [askControl_network]; rfl

@[simp] theorem askControl_marks : (s.askControl r home a).marks = s.marks := by
  rw [askControl_network]; rfl

@[simp] theorem askControl_ccRead (q : Nat) (ks : List Nat) : (s.askControl r home a).ccRead q ks = s.ccRead q ks := by
  rw [askControl_network]; rfl

@[simp] theorem askControl_ccPoisoned (q : Nat) (ks : List Nat) :
    ccPoisoned (s.askControl r home a) q ks = ccPoisoned s q ks := by
  rw [askControl_network]; rfl

@[simp] theorem askControl_vaultHeld (ks : List Nat) : vaultHeld (s.askControl r home a) ks = vaultHeld s ks := by
  rw [askControl_network]; rfl

@[simp] theorem askControl_resolve (who : Actor) (addr n : Nat) (w : Want) :
    resolve (s.askControl r home a) who addr n w = resolve s who addr n w := by
  rw [askControl_network]; rfl

@[simp] theorem askControl_walkHeld (who : Actor) (addr n : Nat) :
    walkHeld (s.askControl r home a) who addr n = walkHeld s who addr n := by
  rw [askControl_network]; rfl

end

/-! ## Words that write one register -/

theorem setX_region_frame (g : Region) (n : Nat) (v : Word) : g.setX n v = { g with x := (g.setX n v).x } := by
  simp only [Region.setX]
  split <;> rfl

/-- A register write and end processing differ from the state before as `OnlyRegister` says. -/
theorem onlyRegister_setX_complete (s : State) (r d : Nat) (v : Word) :
    OnlyRegister s ((s.setX r d v).complete r) r d := by
  refine ⟨fun n hn => ?registers, fun k => rfl, ((s.region r).setX d v).completed, ?state, ?region⟩
  case registers => rw [complete_getX, setX_getX, if_neg (fun h => hn h.1)]
  case state => rw [State.complete, State.setX, setRegion_region_same, setRegion_setRegion]
  case region =>
    rw [setX_region_frame]
    rfl

/-- A word of a shape that writes its register and completes. -/
theorem onlyRegister_of_writes {s t : State} {d : Nat} {o : Host.Outcome State Fault Refusal}
    (ho : ∃ v, o = .next ((s.setX s.turn d v).complete s.turn)) (h : o = .next t) : OnlyRegister s t s.turn d := by
  obtain ⟨v, rfl⟩ := ho
  obtain rfl := Host.Outcome.next.inj h
  exact onlyRegister_setX_complete s s.turn d v

theorem integerWordsFrame : IntegerWordsFrame := by
  intro s t d a b i h
  rcases h with h | h | h | h | h | h | h | h | h | h | h | h | h | h | h | h | h | h | h | h | h | h | h | h | h | h | h <;>
    exact onlyRegister_of_writes ⟨_, rfl⟩ h

/-! ## Loads -/

theorem effAddr_eq (s : State) (r a i : Nat) : effAddr s r a i = (s.getX r a + (BitVec.ofNat 16 i).signExtend 64).toNat := by
  rw [effAddr, sext16_eq]

theorem bit_offset (ea : Nat) : bit (ea % 2 ^ 60) 59 = bit ea 59 := by
  simp only [bit]
  congr 1
  omega

/-- An access with offset bit 59 set in window 0xF has no memory key (R99). -/
theorem resolve_device_keys {s : State} {r ea n : Nat} {w : Want} {ks : List Nat}
    (hr : resolve s (.control r) ea n w = .ok ks) (hw : ea / 2 ^ 60 = 15) (hb : bit ea 59 = true) : ks = [] := by
  simp only [resolve, windowOf, hw] at hr
  split at hr
  case isFalse => exact absurd hr (by simp [bind, Except.bind])
  case isTrue =>
    simp only [bind, Except.bind, bit_offset, hb] at hr
    repeat' split at hr
    all_goals simp_all

section
variable {s m u : State} {signed : Bool} {d a i ea n : Nat} {ks : List Nat}

theorem askAccess_of_ok {r : Nat} {w : Want} (acc : Access0) (hw : walkHeld m (.control r) ea n = false)
    (hr : resolve m (.control r) ea n w = .ok ks) (hv : vaultHeld m ks = false) :
    m.askAccess r ea n w acc = m.askControl r (m.homeAt ks) acc := by
  simp [State.askAccess, hr, hw, hv]

theorem load_ready (hea : ea = (s.getX s.turn a + (BitVec.ofNat 16 i).signExtend 64).toNat) (hm : m = orderDevice s s.turn ea)
    (hd : deviceReady s s.turn ea = true) (hu : u = m.askAccess s.turn ea n .read .load) :
    load signed n d a i s =
      finish u s.turn (loadBytes u s.turn ea n >>= fun v => .ok (u.setX s.turn d (extendLoad signed n v))) := by
  subst hm hu
  rw [← effAddr_eq] at hea
  subst hea
  simp only [load, hd, if_true, await_true, res_ok_bind]

theorem loadBytes_device {r : Nat} (hw : walkHeld u (.control r) ea n = false)
    (hr : resolve u (.control r) ea n .read = .ok ks) (hdev : ea / 2 ^ 60 = 15 ∧ bit ea 59 = true) :
    loadBytes u r ea n = .ok (deviceRead u (ea % 2 ^ 60) n) := by
  simp only [loadBytes, hw, hr, Bool.not_false, await_true, res_ok_bind, ofAcc, if_pos hdev]

theorem loadBytes_memory {r : Nat} (hw : walkHeld u (.control r) ea n = false)
    (hr : resolve u (.control r) ea n .read = .ok ks) (hdev : ¬(ea / 2 ^ 60 = 15 ∧ bit ea 59 = true))
    (hv : vaultHeld u ks = false) : loadBytes u r ea n =
      if ccPoisoned u r ks then .error (.trap (Trap.access .protection ea true)) else .ok (ofBytes (u.ccRead r ks)) := by
  simp only [loadBytes, hw, hr, hv, Bool.not_false, await_true, res_ok_bind, ofAcc, if_neg hdev]

theorem loadBytes_fault {r : Nat} {f : FaultCode} {p : Bool} (hw : walkHeld u (.control r) ea n = false)
    (hr : resolve u (.control r) ea n .read = .error (f, p)) :
    loadBytes u r ea n = .error (.trap (Trap.access f ea p)) := by
  simp only [loadBytes, hw, hr, Bool.not_false, await_true, res_ok_bind, ofAcc, res_error_bind]

variable (hea : ea = (s.getX s.turn a + (BitVec.ofNat 16 i).signExtend 64).toNat) (hm : m = orderDevice s s.turn ea)
  (hd : deviceReady s s.turn ea = true) (hw : walkHeld m (.control s.turn) ea n = false)
include hea hm hd hw

/-- A load whose address does not pass its checks (R88). -/
theorem load_faults {f : FaultCode} {p : Bool} (hr : resolve m (.control s.turn) ea n .read = .error (f, p)) :
    TrapsWith (load signed n d a i s) m s.turn (Trap.access f ea p) := by
  have hu : m = m.askAccess s.turn ea n .read .load := by rw [State.askAccess, hr]
  rw [load_ready hea hm hd hu, loadBytes_fault hw hr, res_error_bind]
  exact trapsWith_finish _ _ _

variable (hr : resolve m (.control s.turn) ea n .read = .ok ks) (hv : vaultHeld m ks = false)
  (hu : u = m.askControl s.turn (m.homeAt ks) .load)
include hr hv hu

theorem load_device (hdev : ea / 2 ^ 60 = 15 ∧ bit ea 59 = true) : load signed n d a i s =
    .next ((u.setX s.turn d (extendLoad signed n (deviceRead u (ea % 2 ^ 60) n))).complete s.turn) := by
  rw [load_ready hea hm hd (hu.trans (askAccess_of_ok .load hw hr hv).symm),
    loadBytes_device (ks := ks) (by rw [hu, askControl_walkHeld, hw]) (by rw [hu, askControl_resolve, hr]) hdev, res_ok_bind,
    finish_ok]

/-- A load whose address passes its checks reads its bytes, or meets poison among them (R89, R92). -/
theorem load_memory (hdev : ¬(ea / 2 ^ 60 = 15 ∧ bit ea 59 = true)) : load signed n d a i s =
    if ccPoisoned m s.turn ks then finish u s.turn (.error (.trap (Trap.access .protection ea true)))
    else .next ((u.setX s.turn d (extendLoad signed n (ofBytes (m.ccRead s.turn ks)))).complete s.turn) := by
  rw [load_ready hea hm hd (hu.trans (askAccess_of_ok .load hw hr hv).symm),
    loadBytes_memory (ks := ks) (by rw [hu, askControl_walkHeld, hw]) (by rw [hu, askControl_resolve, hr]) hdev
      (by rw [hu, askControl_vaultHeld, hv])]
  rw [hu, askControl_ccPoisoned, askControl_ccRead]
  split <;> rfl

end

theorem loadCompletes_of {mk : Nat → Nat → Nat → Instr} {n : Nat} {ext : Nat → Word} (signed : Bool)
    (hmk : ∀ d a i s, exec (mk d a i) s = load signed n d a i s) (hext : ∀ v, extendLoad signed n v = ext v) :
    LoadCompletes mk n ext := by
  intro s m u d a i ea ks hea hm hd hw hr hv hu
  refine ⟨fun hdev => ⟨resolve_device_keys hr hdev.1 hdev.2, ?_⟩, fun hdev hp => ?_⟩
  · rw [hmk, load_device hea hm hd hw hr hv hu hdev, hext]
  · rw [hmk, load_memory hea hm hd hw hr hv hu hdev, if_neg (by simp [hp]), hext]

theorem extendLoad_signed {n : Nat} (hn : 0 < n) (v : Nat) :
    extendLoad true n v = (BitVec.ofNat (8 * n) v).signExtend 64 := ofInt_sextNat (by omega) v

/-- Settles O11: each load is `load` of its width, and a signed one sign-extends its bytes. -/
theorem loadsWriteTheirRegister : Obligations.LoadsWriteTheirRegister :=
  ⟨loadCompletes_of true (fun _ _ _ _ => rfl) (extendLoad_signed (by decide)),
    loadCompletes_of true (fun _ _ _ _ => rfl) (extendLoad_signed (by decide)),
    loadCompletes_of true (fun _ _ _ _ => rfl) (extendLoad_signed (by decide)),
    loadCompletes_of false (fun _ _ _ _ => rfl) (fun _ => rfl), loadCompletes_of false (fun _ _ _ _ => rfl) (fun _ => rfl),
    loadCompletes_of false (fun _ _ _ _ => rfl) (fun _ => rfl), loadCompletes_of false (fun _ _ _ _ => rfl) (fun _ => rfl)⟩

/-! ## The frame of the loads -/

section
variable {s m u t : State} {d a i ea n : Nat} {ks : List Nat}
  (hea : ea = (s.getX s.turn a + (BitVec.ofNat 16 i).signExtend 64).toNat) (hm : m = orderDevice s s.turn ea)
  (hd : deviceReady s s.turn ea = true) (hw : walkHeld m (.control s.turn) ea n = false)
include hea hm hd hw

/-- A load that passes its checks writes its register and completes, whatever it reads. -/
theorem load_onlyRegister (signed : Bool) (hr : resolve m (.control s.turn) ea n .read = .ok ks) (hv : vaultHeld m ks = false)
    (hp : ¬(ea / 2 ^ 60 = 15 ∧ bit ea 59 = true) → ccPoisoned m s.turn ks = false) (h : load signed n d a i s = .next t) :
    OnlyRegister (m.askControl s.turn (m.homeAt ks) .load) t s.turn d := by
  by_cases hdev : ea / 2 ^ 60 = 15 ∧ bit ea 59 = true
  · rw [load_device hea hm hd hw hr hv rfl hdev] at h
    obtain rfl := Host.Outcome.next.inj h
    exact onlyRegister_setX_complete _ _ _ _
  · rw [load_memory hea hm hd hw hr hv rfl hdev, if_neg (by simp [hp hdev])] at h
    obtain rfl := Host.Outcome.next.inj h
    exact onlyRegister_setX_complete _ _ _ _

/-- A load that meets poison (R92). -/
theorem load_poisoned (signed : Bool) (hr : resolve m (.control s.turn) ea n .read = .ok ks) (hv : vaultHeld m ks = false)
    (hu : u = m.askControl s.turn (m.homeAt ks) .load) (hdev : ea / 2 ^ 60 ≠ 15) (hp : ccPoisoned m s.turn ks = true) :
    TrapsWith (load signed n d a i s) u s.turn (Trap.access .protection ea true) := by
  rw [load_memory hea hm hd hw hr hv hu (fun h => hdev h.1), if_pos hp]
  exact trapsWith_finish _ _ _

/-- A store whose address does not pass its checks (R85, R88). -/
theorem store_faults {f : FaultCode} {p : Bool} (hr : resolve m (.control s.turn) ea n .write = .error (f, p)) :
    TrapsWith (store n d a i s) s s.turn (Trap.access f ea p) := by
  subst hm
  rw [← effAddr_eq] at hea
  subst hea
  simp only [store, hd, hw, hr, Bool.not_false, Bool.and_self, await_true, res_ok_bind, ofAcc, res_error_bind]
  exact trapsWith_finish _ _ _

end

theorem orderDevice_memory {s : State} {r ea : Nat} (h : ea / 2 ^ 60 ≠ 15) : orderDevice s r ea = s := if_neg h

theorem orderDevice_device {s : State} {r ea : Nat} (h : ea / 2 ^ 60 = 15) : orderDevice s r ea = s.drain r := if_pos h

theorem deviceReady_memory {s : State} {r ea : Nat} (h : ea / 2 ^ 60 ≠ 15) : deviceReady s r ea = true := by
  rw [deviceReady, bne_iff_ne.mpr h, Bool.true_or]

theorem loadsFrame : LoadsFrame := by
  refine ⟨?loads, fun s m ea hm => ⟨fun h => by rw [hm, orderDevice_memory h], fun h => ?drained⟩⟩
  case loads =>
    intro s t m d a i ea n ks hea hm hd hw hr hv hp h
    have frame (signed : Bool) (hl : load signed n d a i s = .next t) := load_onlyRegister hea hm hd hw signed hr hv hp hl
    obtain ⟨rfl, h | h⟩ | ⟨rfl, h | h⟩ | ⟨rfl, h | h⟩ | ⟨rfl, h⟩ := h
    exacts [frame true h, frame false h, frame true h, frame false h, frame true h, frame false h, frame false h]
  case drained =>
    rw [hm, orderDevice_device h]
    exact ⟨rfl, drain_cores _ _, drain_die _ _, fun q hq => drain_region_ne _ hq, fun n => drain_getX _ _ _,
      fun k hk => drain_readByte _ _ _ hk⟩

/-- Settles O12: every one of these words writes its register and completes, a load after its packet has entered the network. -/
theorem oneRegisterWordsFrame : Obligations.OneRegisterWordsFrame :=
  ⟨integerWordsFrame, loadsFrame, packetsTouchTheNetworkAlone⟩

/-- Settles O15: `load` and `store` end at the first check that fails. -/
theorem accessFaultsTrap : Obligations.AccessFaultsTrap := by
  refine ⟨fun s m d a i ea f p hea hm hd hw => ?_, fun s u d a i ea ks hu hea hdev hw hv hp => ?_⟩
  · exact ⟨fun hr => ⟨load_faults hea hm hd (hw 1) hr, load_faults hea hm hd (hw 1) hr⟩,
      fun hr => ⟨load_faults hea hm hd (hw 2) hr, load_faults hea hm hd (hw 2) hr⟩,
      fun hr => ⟨load_faults hea hm hd (hw 4) hr, load_faults hea hm hd (hw 4) hr⟩,
      fun hr => load_faults hea hm hd (hw 8) hr, fun hr => store_faults hea hm hd (hw 1) hr,
      fun hr => store_faults hea hm hd (hw 2) hr, fun hr => store_faults hea hm hd (hw 4) hr,
      fun hr => store_faults hea hm hd (hw 8) hr⟩
  · have poisoned (signed : Bool) (n : Nat) (hr : resolve s (.control s.turn) ea n .read = .ok ks) :
        TrapsWith (load signed n d a i s) u s.turn (Trap.access .protection ea true) :=
      load_poisoned hea (orderDevice_memory hdev).symm (deviceReady_memory hdev) (hw n) signed hr hv hu hdev hp
    exact ⟨fun hr => ⟨poisoned true 1 hr, poisoned false 1 hr⟩, fun hr => ⟨poisoned true 2 hr, poisoned false 2 hr⟩,
      fun hr => ⟨poisoned true 4 hr, poisoned false 4 hr⟩, fun hr => poisoned false 8 hr⟩

end Sys2Proof.Machine
end

section
/-! O14: what a performed store does to memory and to poison (R92, R95). -/
namespace Sys2Proof.Machine

/-! ## Bytes -/

theorem writeByte_readByte_same (s : State) (k : Nat) {b : Nat} (hb : b < 256) : (s.writeByte k b).readByte k = b := by
  simp only [State.readByte, State.writeByte, memRead_memWrite_same, BitVec.toNat_ofNat]
  exact Nat.mod_eq_of_lt hb

/-- Bytes written at distinct keys are read back. -/
theorem writeKeys_readKeys {ks bs : List Nat} (s : State) (hlen : ks.length = bs.length) (hnd : ks.Nodup)
    (hb : ∀ b ∈ bs, b < 256) : (s.writeKeys ks bs).readKeys ks = bs := by
  induction ks generalizing bs s with
  | nil => rw [List.eq_nil_of_length_eq_zero hlen.symm]; rfl
  | cons k ks ih =>
    match bs with
    | [] => simp at hlen
    | b :: bs =>
      obtain ⟨hk, hnd⟩ := List.nodup_cons.mp hnd
      have htail : (s.writeKeys (k :: ks) (b :: bs)).readKeys ks = bs :=
        ih (s.writeByte k b) (Nat.succ.inj hlen) hnd fun c hc => hb c (List.mem_cons_of_mem _ hc)
      have hhead : (s.writeKeys (k :: ks) (b :: bs)).readByte k = b := by
        rw [State.writeKeys, writeKeys_readByte _ _ _ _ hk, writeByte_readByte_same _ _ (hb b List.mem_cons_self)]
      rw [State.readKeys, List.map_cons, hhead]
      exact congrArg (b :: ·) htail

theorem performedStoreReadsBack : PerformedStoreReadsBack := by
  rintro s _ ks bs rfl hlen hnd hb
  exact ⟨writeKeys_readKeys s hlen hnd hb, fun k hk => store_readByte ks bs s k hk, store_regions s ks bs, store_cores s ks bs,
    store_die s ks bs, store_ports s ks bs⟩

/-! ## Poison -/

theorem mem_removeNat {l : List Nat} {u k : Nat} : k ∈ removeNat l u ↔ k ∈ l ∧ k ≠ u := by
  induction l with
  | nil => simp [removeNat]
  | cons a l ih =>
    simp only [removeNat]
    by_cases h : u = a
    · rw [if_pos h, ih, List.mem_cons, ← h]
      exact ⟨fun ⟨hm, hne⟩ => ⟨.inr hm, hne⟩, fun ⟨hm, hne⟩ => ⟨hm.resolve_left hne, hne⟩⟩
    · rw [if_neg h, List.mem_cons, ih, List.mem_cons]
      by_cases hk : k = a
      · simp [hk, Ne.symm h]
      · simp [hk]

theorem mem_foldl_removeNat {us l : List Nat} {k : Nat} : k ∈ us.foldl removeNat l ↔ k ∈ l ∧ k ∉ us := by
  induction us generalizing l with
  | nil => simp
  | cons u us ih =>
    rw [List.foldl_cons, ih, mem_removeNat, List.mem_cons, not_or, and_assoc]

theorem mem_wholeUnits {ks : List Nat} {u : Nat} :
    u ∈ wholeUnits ks ↔ ∀ j ∈ range (8 * u) 8, j ∈ ks := by
  simp only [wholeUnits, List.mem_map, List.mem_filter, Bool.and_eq_true, beq_iff_eq, List.all_eq_true,
    List.contains_iff_mem]
  constructor
  · rintro ⟨k, ⟨-, hk, hall⟩, rfl⟩
    rwa [show 8 * (k / 8) = k by omega]
  · intro hall
    exact ⟨8 * u, ⟨hall _ (mem_range.mpr (by omega)), by omega, hall⟩, by omega⟩

theorem mem_wholeUnits_range {k n u : Nat} : u ∈ wholeUnits (range k n) ↔ k ≤ 8 * u ∧ 8 * u + 8 ≤ k + n := by
  simp only [mem_wholeUnits, mem_range]
  constructor
  · intro h
    have hfirst := h (8 * u) (by omega)
    have hlast := h (8 * u + 7) (by omega)
    omega
  · intro h j hj
    omega

/-- A store clears the poison of the words it covers whole, and of no other (R92). -/
theorem mem_store_poison {s : State} {ks bs : List Nat} {u : Nat} :
    u ∈ (s.store ks bs).poison ↔ u ∈ s.poison ∧ u ∉ wholeUnits ks := by
  simp only [State.store, writeKeys_poison, mem_foldl_removeNat]

theorem storesAndPoison : StoresAndPoison := by
  intro s k n bs _
  refine ⟨fun h8 hn hmem => (mem_store_poison.mp hmem).2 (mem_wholeUnits_range.mpr (by omega)), fun u hu => ?_⟩
  rw [mem_store_poison, mem_wholeUnits_range]
  exact and_iff_left hu

/-- Settles O14: the bytes by induction on the keys, and the poison by which words `wholeUnits` names. -/
theorem performedStores : Obligations.PerformedStores := ⟨performedStoreReadsBack, storesAndPoison⟩

end Sys2Proof.Machine
end

section
/-! O17, O18: the ten atomics (R93, R94, R97, R366). -/
namespace Sys2Proof.Machine

/-! ## What an atomic's write leaves -/

section
variable (s : State) (ks bs : List Nat)

@[simp] theorem rmw_poison : (s.rmw ks bs).poison = s.poison := writeKeys_poison ks bs s

@[simp] theorem rmw_marks : (s.rmw ks bs).marks = s.marks := writeKeys_marks ks bs s

@[simp] theorem rmw_cores : (s.rmw ks bs).cores = s.cores := writeKeys_cores ks bs s

@[simp] theorem rmw_die : (s.rmw ks bs).die = s.die := writeKeys_die ks bs s

@[simp] theorem rmw_getX (r n : Nat) : (s.rmw ks bs).getX r n = s.getX r n := by
  have hr : (s.rmw ks bs).regions = s.regions := writeKeys_regions ks bs s
  simp only [State.getX, State.region, hr]

theorem rmw_readByte {k : Nat} (h : k ∉ ks) : (s.rmw ks bs).readByte k = s.readByte k := writeKeys_readByte ks bs s k h

end

/-- A word's write at its home, register write and end of word change its keys and its register alone. -/
theorem rmw_setX_complete_frame (u : State) (r d : Nat) (v : Word) (ks bs : List Nat) {t : State}
    (ht : t = ((u.rmw ks bs).setX r d v).complete r) :
    (∀ k, k ∉ ks → t.readByte k = u.readByte k) ∧ t.poison = u.poison ∧ t.marks = u.marks ∧
      (∀ q, q ≠ d → t.getX r q = u.getX r q) ∧ t.cores = u.cores ∧ t.die = u.die := by
  subst ht
  refine ⟨fun k hk => rmw_readByte u ks bs hk, rmw_poison u ks bs, rmw_marks u ks bs, fun q hq => ?_, rmw_cores u ks bs,
    rmw_die u ks bs⟩
  rw [complete_getX, setX_getX, if_neg (fun h => hq h.1), rmw_getX]

/-! ## The outcomes of `amo` -/

/-- What an atomic of `n` bytes at `ks` of `m` computes from: the old word, and the operand and expected value of `s` (R93). -/
def amoIn (s m : State) (b d n : Nat) (ks : List Nat) : AmoIn :=
  ⟨m.readNat ks, (s.getX s.turn b).toNat % 2 ^ (8 * n), (s.getX s.turn d).toNat % 2 ^ (8 * n)⟩

/-- What `amo` does with the answer of its checks, where no held home keeps it from them (R93, R94). -/
def amoAt (f : Nat → AmoIn → Nat) (s m : State) (d b w ea n : Nat) : Acc (List Nat) → Host.Outcome State Fault Refusal
  | .error e => finish s s.turn (ofAcc ea (.error e))
  | .ok ks =>
    let u := m.askControl s.turn (m.homeAt ks) .atomic
    if !atomicGoes m (s.region s.turn).heldAt ks then finish (s.holdAtomic s.turn ks) s.turn (.error .wait)
    else if m.poisonedAt ks then finish u s.turn (.error (.trap (Trap.access .protection ea true)))
    else finish u s.turn (.ok ((u.rmw ks (toBytes n (f (8 * n) (amoIn s m b d n ks)))).setX s.turn d
      (if w = 0 then BitVec.ofInt 64 (sextNat 32 (m.readNat ks)) else BitVec.ofNat 64 (m.readNat ks))))

section
variable {f : Nat → AmoIn → Nat} {s m : State} {d a b w ea n : Nat} {ks : List Nat}
  (hea : ea = (s.getX s.turn a).toNat) (hn : n = if w = 0 then 4 else 8)
include hea hn

theorem amo_misaligned (h : ea % n ≠ 0) : TrapsWith (amo f d a b w s) s s.turn (Trap.access .illegal ea) := by
  subst hea hn
  simp only [amo, if_pos h]
  exact trapsWith_finish _ _ _

variable (ha : ea % n = 0)
include ha

theorem amo_device (h : ea / 2 ^ 60 = 15) : TrapsWith (amo f d a b w s) s s.turn (Trap.access .protection ea) := by
  subst hea hn
  simp only [amo, if_neg (not_not_intro ha), if_pos h]
  exact trapsWith_finish _ _ _

variable (hw : ea / 2 ^ 60 ≠ 15) (hm : m = s.drain s.turn)
include hw hm

theorem amo_waits (h : s.drains s.turn = false ∨ walkHeld m (.control s.turn) ea n = true) :
    amo f d a b w s = .next (s.wait s.turn) := by
  subst hea hn hm
  have hheld : (!s.drains s.turn || walkHeld (s.drain s.turn) (.control s.turn) (s.getX s.turn a).toNat
      (if w = 0 then 4 else 8)) = true := by
    rcases h with h | h <;> simp [h]
  simp only [amo, if_neg (not_not_intro ha), if_neg hw, if_pos hheld]
  rfl

variable (hd : s.drains s.turn = true) (hh : walkHeld m (.control s.turn) ea n = false)
include hd hh

theorem amo_checked : amo f d a b w s = amoAt f s m d b w ea n (resolve m (.control s.turn) ea n .atomic) := by
  subst hea hn hm
  have hfree : ¬(!s.drains s.turn || walkHeld (s.drain s.turn) (.control s.turn) (s.getX s.turn a).toNat
      (if w = 0 then 4 else 8)) = true := by simp [hd, hh]
  simp only [amo, if_neg (not_not_intro ha), if_neg hw, if_neg hfree]
  rfl

theorem amo_faults {c : FaultCode} {p : Bool} (hr : resolve m (.control s.turn) ea n .atomic = .error (c, p)) :
    TrapsWith (amo f d a b w s) s s.turn (Trap.access c ea p) := by
  rw [TrapsWith, amo_checked hea hn ha hw hm hd hh, hr]
  rfl

variable (hr : resolve m (.control s.turn) ea n .atomic = .ok ks)
include hr

theorem amo_held (hg : atomicGoes m (s.region s.turn).heldAt ks = false) :
    amo f d a b w s = .next ((s.holdAtomic s.turn ks).wait s.turn) := by
  rw [amo_checked hea hn ha hw hm hd hh, hr]
  simp only [amoAt, hg, Bool.not_false, if_true, finish_wait]

variable (hg : atomicGoes m (s.region s.turn).heldAt ks = true)
include hg

theorem amo_poisoned (hp : m.poisonedAt ks = true) : TrapsWith (amo f d a b w s)
    (m.askControl s.turn (m.homeAt ks) .atomic) s.turn (Trap.access .protection ea true) := by
  rw [TrapsWith, amo_checked hea hn ha hw hm hd hh, hr]
  simp only [amoAt, hg, hp, Bool.not_true, Bool.false_eq_true, if_false, if_true, finish_trap, askControl_region]

theorem amo_completes (hp : m.poisonedAt ks = false) : amo f d a b w s = .next
    ((((m.askControl s.turn (m.homeAt ks) .atomic).rmw ks (toBytes n (f (8 * n) (amoIn s m b d n ks)))).setX s.turn d
      (if w = 0 then (BitVec.ofNat 32 (m.readNat ks)).signExtend 64 else BitVec.ofNat 64 (m.readNat ks))).complete
      s.turn) := by
  rw [amo_checked hea hn ha hw hm hd hh, hr, ← ofInt_sextNat (by decide)]
  simp only [amoAt, hg, hp, Bool.not_true, Bool.false_eq_true, if_false, finish_ok]

end

/-! ## The ten atomics -/

/-- An atomic is `amo` of its operation, and the operation is `f` at every width. -/
theorem atomicCompletes_of {mk : Nat → Nat → Nat → Nat → Nat → Instr} {op : Nat → AmoIn → Nat}
    {f : (bits' : Nat) → (old operand expected : Nat) → Nat} (hmk : ∀ d a b w sc s, exec (mk d a b w sc) s = amo op d a b w s)
    (hf : ∀ n o v e, 0 < n → op n ⟨o, v, e⟩ = f n o v e) : AtomicCompletes mk f := by
  rintro s m d a b w sc ea n _ ks hea hn ha hw ⟨hd, hm⟩ hh hr hg hp rfl
  have hpos : 0 < 8 * n := by rw [hn]; split <;> decide
  obtain ⟨hbytes, hpoison, hmarks, hx, hcores, hdie⟩ := rmw_setX_complete_frame (m.askControl s.turn (m.homeAt ks) .atomic)
    s.turn d (if w = 0 then (BitVec.ofNat 32 (m.readNat ks)).signExtend 64 else BitVec.ofNat 64 (m.readNat ks)) ks
    (toBytes n (f (8 * n) (m.readNat ks) ((s.getX s.turn b).toNat % 2 ^ (8 * n)) ((s.getX s.turn d).toNat % 2 ^ (8 * n)))) rfl
  refine ⟨_, ?_, rfl, fun k hk => ?_, ?_, ?_, fun q hq => ?_, ?_, ?_⟩
  · rw [hmk, amo_completes hea hn ha hw hm hd hh hr hg hp, amoIn, hf _ _ _ _ hpos]
  · rw [hbytes k hk, askControl_readByte]
  · rw [hpoison, askControl_poison]
  · rw [hmarks, askControl_marks]
  · rw [hx q hq, askControl_getX, hm, drain_getX]
  · rw [hcores, askControl_cores, hm, drain_cores]
  · rw [hdie, askControl_die, hm, drain_die]

theorem sextNat_lt_iff {n : Nat} (hn : 0 < n) (x y : Nat) :
    sextNat n x < sextNat n y ↔ (BitVec.ofNat n x).slt (BitVec.ofNat n y) = true := by
  rw [sextNat_eq_toInt hn, sextNat_eq_toInt hn, BitVec.slt_iff_toInt_lt]

/-- Settles O17: each atomic is `amo` of its row of R93. -/
theorem atomicsReadModifyWrite : Obligations.AtomicsReadModifyWrite := by
  refine ⟨atomicCompletes_of (op := fun _ i => i.operand) (fun _ _ _ _ _ _ => rfl) fun _ _ _ _ _ => rfl,
    atomicCompletes_of (op := fun n i => (i.old + i.operand) % 2 ^ n) (fun _ _ _ _ _ _ => rfl) fun _ _ _ _ _ => rfl,
    atomicCompletes_of (op := fun _ i => i.old &&& i.operand) (fun _ _ _ _ _ _ => rfl) fun _ _ _ _ _ => rfl,
    atomicCompletes_of (op := fun _ i => i.old ||| i.operand) (fun _ _ _ _ _ _ => rfl) fun _ _ _ _ _ => rfl,
    atomicCompletes_of (op := fun _ i => i.old ^^^ i.operand) (fun _ _ _ _ _ _ => rfl) fun _ _ _ _ _ => rfl,
    atomicCompletes_of (op := fun n i => if sextNat n i.old < sextNat n i.operand then i.operand else i.old)
      (fun _ _ _ _ _ _ => rfl) fun n o v _ hn => ?max,
    atomicCompletes_of (op := fun n i => if sextNat n i.operand < sextNat n i.old then i.operand else i.old)
      (fun _ _ _ _ _ _ => rfl) fun n o v _ hn => ?min,
    atomicCompletes_of (op := fun _ i => Nat.max i.old i.operand) (fun _ _ _ _ _ _ => rfl) fun n o v _ _ => ?maxn,
    atomicCompletes_of (op := fun _ i => Nat.min i.old i.operand) (fun _ _ _ _ _ _ => rfl) fun n o v _ _ => ?minn,
    atomicCompletes_of (op := fun _ i => if i.old = i.expected then i.operand else i.old)
      (fun _ _ _ _ _ _ => rfl) fun _ _ _ _ _ => rfl⟩
  case max => simp only [sextNat_lt_iff hn]
  case min => simp only [sextNat_lt_iff hn]
  case maxn =>
    change max o v = _
    rw [max_def_lt]
  case minn =>
    change min o v = _
    rw [min_comm, min_def_lt]

theorem atomicFaults_of {mk : Nat → Nat → Nat → Nat → Nat → Instr} {op : Nat → AmoIn → Nat}
    (hmk : ∀ d a b w sc s, exec (mk d a b w sc) s = amo op d a b w s) : AtomicFaults mk := by
  intro s m d a b w sc ea n ks hea hn hm
  rw [hmk]
  refine ⟨fun ha _ => amo_misaligned hea hn ha, fun ha _ => .inl (amo_misaligned hea hn ha),
    fun ha hw => amo_device hea hn ha hw, fun ha hw h => amo_waits hea hn ha hw hm h,
    fun ha hw hd hh => ⟨fun f p hr => ?_, ?_, ?_⟩⟩
  · exact amo_faults hea hn ha hw hm hd hh hr
  · exact fun hr hg hp => amo_poisoned hea hn ha hw hm hd hh hr hg hp
  · exact fun hr hg => amo_held hea hn ha hw hm hd hh hr hg

/-- Settles O18: `amo` makes its checks before it writes. -/
theorem atomicsFaultUnchanged : Obligations.AtomicsFaultUnchanged :=
  ⟨atomicFaults_of (op := fun _ i => i.operand) fun _ _ _ _ _ _ => rfl,
    atomicFaults_of (op := fun n i => (i.old + i.operand) % 2 ^ n) fun _ _ _ _ _ _ => rfl,
    atomicFaults_of (op := fun _ i => i.old &&& i.operand) fun _ _ _ _ _ _ => rfl,
    atomicFaults_of (op := fun _ i => i.old ||| i.operand) fun _ _ _ _ _ _ => rfl,
    atomicFaults_of (op := fun _ i => i.old ^^^ i.operand) fun _ _ _ _ _ _ => rfl,
    atomicFaults_of (op := fun n i => if sextNat n i.old < sextNat n i.operand then i.operand else i.old)
      fun _ _ _ _ _ _ => rfl,
    atomicFaults_of (op := fun n i => if sextNat n i.operand < sextNat n i.old then i.operand else i.old)
      fun _ _ _ _ _ _ => rfl,
    atomicFaults_of (op := fun _ i => Nat.max i.old i.operand) fun _ _ _ _ _ _ => rfl,
    atomicFaults_of (op := fun _ i => Nat.min i.old i.operand) fun _ _ _ _ _ _ => rfl,
    atomicFaults_of (op := fun _ i => if i.old = i.expected then i.operand else i.old) fun _ _ _ _ _ _ => rfl⟩

end Sys2Proof.Machine
end

section
/-! O16: the windows that a control core reaches and the order of an access's checks (R88, R267). -/
namespace Sys2Proof.Machine

/-! ## Windows with no part a control core may reach -/

section
variable {s : State} {r addr n : Nat} {w : Want}

theorem resolve_window_error {who : Actor} {e : FaultCode × Bool} (h : windowOf s who (addr / 2 ^ 60) = .error e) :
    resolve s who addr n w = .error e := by
  simp only [resolve, h]
  rfl

theorem windowOf_unlisted {win : Nat} (h4 : 4 ≤ win) (h8 : win ≠ 8) (h15 : win ≠ 15) :
    windowOf s (.control r) win = .error (.translation, false) := by
  simp only [windowOf]
  split
  case h_7 => rfl
  all_goals omega

theorem windowOf_device_unprivileged (hm : (s.region r).mode = .unprivileged) :
    windowOf s (.control r) 15 = .error (.protection, false) := by
  simp [windowOf, hm]

theorem windowOf_device (hm : (s.region r).mode = .privileged) : windowOf s (.control r) 15 = .ok (2 ^ 60, 0) := by
  simp [windowOf, hm]

end

/-! ## Accesses to a window part that ends at `stop` -/

section
variable {s : State} {r addr n stop base : Nat} {w : Want}
  (hwin : windowOf s (.control r) (addr / 2 ^ 60) = .ok (stop, base))
include hwin

/-- The checks in their order (Table 5.3). -/
theorem resolve_of_window : resolve s (.control r) addr n w =
    if stop ≤ addr % 2 ^ 60 then .error (.translation, false)
    else if addr / 2 ^ 60 = 15 ∧ bits (addr % 2 ^ 60) 58 45 ≠ 0 then .error (.translation, false)
    else if (addr + n - 1) % 2 ^ 64 / 2 ^ 60 ≠ addr / 2 ^ 60 then .error (.windowStraddle, false)
    else if stop < addr % 2 ^ 60 + n ∨ (addr / 2 ^ 60 = 15 ∧ bits (addr % 2 ^ 60 + n - 1) 58 45 ≠ 0) then
      .error (.translation, false)
    else if addr / 2 ^ 60 = 8 then globalKeys s r 0 (addr % 2 ^ 60) n w
    else if addr / 2 ^ 60 = 15 then (if bit (addr % 2 ^ 60) 59 then .ok [] else .ok (range (bits (addr % 2 ^ 60) 44 0) n))
    else .ok (range (base + addr % 2 ^ 60) n) := by
  simp only [resolve, hwin]
  rfl

theorem resolve_straddles (h15 : addr / 2 ^ 60 ≠ 15) (hoff : addr % 2 ^ 60 < stop)
    (h : (addr + n - 1) % 2 ^ 64 / 2 ^ 60 ≠ addr / 2 ^ 60) :
    resolve s (.control r) addr n w = .error (.windowStraddle, false) := by
  rw [resolve_of_window hwin, if_neg (by omega), if_neg (fun hd => h15 hd.1), if_pos h]

variable (hn : 0 < n) (ha : addr < 2 ^ 64)
include hn ha

/-- An access whole within its window part. -/
theorem resolve_within (h15 : addr / 2 ^ 60 ≠ 15) (hstop : stop ≤ 2 ^ 60) (h : addr % 2 ^ 60 + n ≤ stop) :
    resolve s (.control r) addr n w =
      if addr / 2 ^ 60 = 8 then globalKeys s r 0 (addr % 2 ^ 60) n w else .ok (range (base + addr % 2 ^ 60) n) := by
  rw [resolve_of_window hwin, if_neg (by omega), if_neg (fun hd => h15 hd.1), if_neg (by omega),
    if_neg (fun hd => hd.elim (by omega) (fun hd => h15 hd.1)), if_neg h15]

/-- An access that starts or ends past its window part, which ends before the window does. -/
theorem resolve_past (h15 : addr / 2 ^ 60 ≠ 15) (hstop : stop + n ≤ 2 ^ 60) (h : stop < addr % 2 ^ 60 + n) :
    resolve s (.control r) addr n w = .error (.translation, false) := by
  rw [resolve_of_window hwin]
  by_cases hoff : stop ≤ addr % 2 ^ 60
  · rw [if_pos hoff]
  · rw [if_neg hoff, if_neg (fun hd => h15 hd.1), if_neg (by omega), if_pos (.inl h)]

end

/-! ## Window 0xF -/

section
variable {s : State} {r addr n : Nat} {w : Want} (hm : (s.region r).mode = .privileged) (h15 : addr / 2 ^ 60 = 15)
include hm h15

theorem resolve_device_past (hn : 0 < n) (hn8 : n ≤ 8) (_ha : addr < 2 ^ 64)
    (h : bits (addr % 2 ^ 60) 58 45 ≠ 0 ∨ bits (addr % 2 ^ 60 + n - 1) 58 45 ≠ 0) :
    resolve s (.control r) addr n w = .error (.translation, false) := by
  rw [resolve_of_window (h15 ▸ windowOf_device hm), if_neg (by omega)]
  by_cases hb : bits (addr % 2 ^ 60) 58 45 ≠ 0
  · rw [if_pos ⟨h15, hb⟩]
  · have hlow : addr % 2 ^ 60 / 2 ^ 45 % 2 ^ 14 = 0 := not_not.mp hb
    rw [if_neg (fun hd => hb hd.2), if_neg (by omega), if_pos (.inr ⟨h15, h.resolve_left hb⟩)]

theorem resolve_device_within (hn : 0 < n) (hn8 : n ≤ 8) (_ha : addr < 2 ^ 64) (hfirst : bits (addr % 2 ^ 60) 58 45 = 0)
    (hlast : bits (addr % 2 ^ 60 + n - 1) 58 45 = 0) : resolve s (.control r) addr n w =
      if bit (addr % 2 ^ 60) 59 then .ok [] else .ok (range (bits (addr % 2 ^ 60) 44 0) n) := by
  have hlow : addr % 2 ^ 60 / 2 ^ 45 % 2 ^ 14 = 0 := hfirst
  rw [resolve_of_window (h15 ▸ windowOf_device hm), if_neg (by omega), if_neg (fun hd => hd.2 hfirst), if_neg (by omega),
    if_neg (fun hd => hd.elim (by omega) (fun hd => hd.2 hlast)), if_neg (by omega), if_pos h15]

end

/-- Settles O16: one lemma for each way the checks of `resolve` end. -/
theorem windowChecks : Obligations.WindowChecks := by
  rintro s r addr _ n w hn hn8 ha rfl
  refine ⟨fun h => resolve_control_local h, fun h hm => ?_, fun h4 h8 h15 => resolve_window_error (windowOf_unlisted h4 h8 h15),
    fun h hend => ?region, fun h hend => ?sector, fun h => ?translated, fun h hm => ⟨resolve_device_past hm h hn hn8 ha,
      fun hf hl => ?device⟩, fun stop base hwin hoff h15 hs => resolve_straddles hwin h15 hoff hs⟩
  · exact resolve_window_error (h ▸ windowOf_device_unprivileged hm)
  case region =>
    have hwin : windowOf s (.control r) (addr / 2 ^ 60) = .ok (s.regionEnd r, regionKey r 0) := by rw [h]; rfl
    refine ⟨fun hin => ?_, resolve_past hwin hn ha (by omega) (by omega)⟩
    rw [resolve_within hwin hn ha (by omega) (by omega) hin, if_neg (by omega)]
    rfl
  case sector =>
    have hwin : windowOf s (.control r) (addr / 2 ^ 60) = .ok (s.sectorEnd (r / 4), sectorKey (r / 4) 0) := by rw [h]; rfl
    refine ⟨fun hin => ?_, resolve_past hwin hn ha (by omega) (by omega)⟩
    rw [resolve_within hwin hn ha (by omega) (by omega) hin, if_neg (by omega)]
    rfl
  case translated =>
    have hwin : windowOf s (.control r) (addr / 2 ^ 60) = .ok (2 ^ 52, 0) := by rw [h]; rfl
    refine ⟨fun hin => ?_, resolve_past hwin hn ha (by omega) (by omega)⟩
    rw [resolve_within hwin hn ha (by omega) (by omega) hin, if_pos h]
  case device =>
    rw [resolve_device_within hm h hn hn8 ha hf hl]
    exact ⟨fun hb => if_pos hb, fun hb => if_neg (Bool.eq_false_iff.mp hb)⟩

end Sys2Proof.Machine
end

section
/-! O13: stores enter the store buffer (R90, R95, R99): the keys of an access, the buffer, and what the stores leave alone. -/
namespace Sys2Proof.Machine

/-! ## A translation keeps the offset in the page (R268 to R271) -/

section
variable {s : State} {table va : Nat} {t : Nat × Bool × Bool × Bool}

theorem rangeSearch_entry {n i : Nat} (h : rangeSearch s table va n i = .ok (some t)) :
    ∃ j, (i ≤ j ∧ j < i + n) ∧ s.poisonedAt (rangeEntry table j) = false ∧ ∃ e, e = s.readNat (rangeEntry table j) ∧
      bit e 63 = true ∧ bits e 51 0 ≤ va ∧ t.1 = bits e 172 128 + (va - bits e 51 0) := by
  induction n generalizing i with
  | zero => cases h
  | succ n ih =>
    simp only [rangeSearch] at h
    split at h
    · cases h
    case isFalse hp =>
      split at h
      case isTrue he =>
        simp only [Bool.and_eq_true, decide_eq_true_eq] at he
        cases h
        exact ⟨i, by omega, Bool.eq_false_of_not_eq_true hp, _, rfl, he.1.1, he.1.2, rfl⟩
      case isFalse =>
        obtain ⟨j, hj, hrest⟩ := ih h
        exact ⟨j, by omega, hrest⟩

theorem rangeLookup_offset (h : rangeLookup s table va = .ok (some t)) : t.1 % 4096 = va % 4096 := by
  simp only [rangeLookup] at h
  split at h
  · cases h
  case h_2 hs =>
    split at h
    · cases h
    case isFalse hbad =>
      cases h
      obtain ⟨j, hj, hp, e, he, hvalid, hbase, ht⟩ := rangeSearch_entry hs
      have hok : rangeBad e = false := by
        by_contra hne
        exact hbad (List.any_eq_true.mpr ⟨j, mem_range.mpr hj, by simp [hp, ← he, hne]⟩)
      have hb : bits e 51 0 % 4096 = 0 ∧ bits e 172 128 % 4096 = 0 := by
        simp only [rangeBad, hvalid, Bool.true_and, Bool.or_eq_false_iff, bne_eq_false_iff_eq] at hok
        tauto
      omega

theorem leafSize_pages {code size l : Nat} (h : leafSize code = some (size, l)) : 4096 ∣ size := by
  simp only [leafSize] at h
  split at h <;> cases h <;> decide

theorem leafAddress_offset {size frame : Nat} (h : 4096 ∣ size) :
    (2 ^ 12 * frame + va % size) % 2 ^ 45 % 4096 = va % 4096 := by
  have hsize : va % size % 4096 = va % 4096 := Nat.mod_mod_of_dvd _ h
  omega

/-- The index of a page-table entry for `va` at a level (R270). -/
def pageIndex (va level : Nat) : Nat := if level = 3 then bits va 51 39 else va / 2 ^ (12 + 9 * level) % 512

/-- What `pageWalk` does with the entry for `va` in a table at a level: `next` walks the table that the entry names. -/
def pageStep (s : State) (va level table : Nat) (next : Nat → Acc (Nat × Bool × Bool × Bool)) :
    Acc (Nat × Bool × Bool × Bool) :=
  let ks := physKeys (table + 8 * pageIndex va level) 8
  let e := s.readNat ks
  if s.poisonedAt ks then .error (.translation, true)
  else if !bit e 63 || bits e 55 45 != 0 || bits e 11 0 != 0 then .error (.translation, false)
  else if bit e 56 then
    match leafSize (bits e 59 57) with
    | some (size, l) =>
      if l = level then .ok ((2 ^ 12 * bits e 44 12 + va % size) % 2 ^ 45, bit e 62, bit e 61, bit e 60)
      else .error (.translation, false)
    | none => .error (.translation, false)
  else next (2 ^ 12 * bits e 44 12)

theorem pageWalk_zero (s : State) (va table : Nat) :
    pageWalk s va 0 table = pageStep s va 0 table fun _ => .error (.translation, false) := by rfl

theorem pageWalk_succ (s : State) (va level table : Nat) :
    pageWalk s va (level + 1) table = pageStep s va (level + 1) table (pageWalk s va level) := by rfl

theorem pageStep_offset {level : Nat} {next : Nat → Acc (Nat × Bool × Bool × Bool)}
    (hnext : ∀ b, next b = .ok t → t.1 % 4096 = va % 4096) (h : pageStep s va level table next = .ok t) :
    t.1 % 4096 = va % 4096 := by
  simp only [pageStep] at h
  split at h
  · cases h
  split at h
  · cases h
  split at h
  · split at h
    case h_1 size l hl =>
      split at h
      · cases h
        exact leafAddress_offset (leafSize_pages hl)
      · cases h
    case h_2 => cases h
  · exact hnext _ h

theorem pageWalk_offset {level : Nat} (h : pageWalk s va level table = .ok t) : t.1 % 4096 = va % 4096 := by
  induction level generalizing table with
  | zero =>
    rw [pageWalk_zero] at h
    exact pageStep_offset (fun _ hb => by cases hb) h
  | succ level ih =>
    rw [pageWalk_succ] at h
    exact pageStep_offset (fun _ hb => ih hb) h

theorem translate_offset {r x : Nat} (h : translate s r x va = .ok t) : t.1 % 4096 = va % 4096 := by
  simp only [translate] at h
  split at h
  · cases h
  case h_2 hr =>
    cases h
    split at hr
    · exact rangeLookup_offset hr
    · cases hr
  case h_3 =>
    split at h
    · exact pageWalk_offset h
    · cases h

end

/-! ## The keys of an access are as many as its bytes, and distinct -/

theorem nodup_range (lo n : Nat) : (range lo n).Nodup := range_eq_range' lo n ▸ List.nodup_range'

/-- The keys of an access of `n` bytes, one for each byte. -/
def KeysOf (n : Nat) (ks : List Nat) : Prop := ks.length = n ∧ ks.Nodup

theorem keysOf_range (lo n : Nat) : KeysOf n (range lo n) := ⟨length_range lo n, nodup_range lo n⟩

/-- Bytes that end a page and bytes that begin one never overlap, even where both pages are one in memory. -/
theorem keysOf_pages {p q va n : Nat} (hn : n ≤ 2048) (hp : p % 4096 = va % 4096) (hq : q % 4096 = 0)
    (h : 4096 - va % 4096 < n) : KeysOf n (range p (4096 - va % 4096) ++ range q (n - (4096 - va % 4096))) := by
  refine ⟨by rw [List.length_append, length_range, length_range]; omega,
    List.Nodup.append (nodup_range _ _) (nodup_range _ _) fun k hfirst hlast => ?_⟩
  rw [mem_range] at hfirst hlast
  omega

theorem globalKeys_keysOf {s : State} {r x va n : Nat} {w : Want} {ks : List Nat} (hn : n ≤ 2048)
    (h : globalKeys s r x va n w = .ok ks) : KeysOf n ks := by
  simp only [globalKeys] at h
  cases ht : translate s r x va with
  | error e => rw [ht] at h; cases h
  | ok t =>
    simp only [ht, bind, Except.bind] at h
    split at h
    · split at h
      · cases h; exact keysOf_range _ _
      · cases h
    case isFalse hpage =>
      cases hu : translate s r x (va + (4096 - va % 4096)) with
      | error e => rw [hu] at h; cases h
      | ok u =>
        simp only [hu] at h
        split at h
        · cases h
          exact keysOf_pages hn (translate_offset ht) ((translate_offset hu).trans (by omega)) (by omega)
        · cases h

theorem resolve_keysOf {s : State} {r addr n : Nat} {w : Want} {ks : List Nat} (hn : n ≤ 2048) (h15 : addr / 2 ^ 60 ≠ 15)
    (h : resolve s (.control r) addr n w = .ok ks) : KeysOf n ks := by
  cases hwin : windowOf s (.control r) (addr / 2 ^ 60) with
  | error e => rw [resolve_window_error hwin] at h; cases h
  | ok p =>
    obtain ⟨stop, base⟩ := p
    rw [resolve_of_window hwin, if_neg (fun hd : addr / 2 ^ 60 = 15 ∧ _ => h15 hd.1), if_neg h15] at h
    split at h
    · cases h
    split at h
    · cases h
    split at h
    · cases h
    split at h
    · exact globalKeys_keysOf hn h
    · cases h; exact keysOf_range _ _

end Sys2Proof.Machine
end

section
/-! O13: what a core sees through its store buffer, and the four stores (R90, R95, R99). -/
namespace Sys2Proof.Machine

/-! ## Reads through the buffer (R95) -/

/-- The byte that a buffered store holds for a key. -/
def BufStore.byteAt (b : BufStore) (k : Nat) : Option Nat := ((b.keys.zip b.bytes).find? (fun p => p.1 == k)).map (·.2)

/-- The newest store is read first. -/
theorem bufRead_append (l : List BufStore) (b : BufStore) (k d : Nat) :
    bufRead (l ++ [b]) k d = (b.byteAt k).getD (bufRead l k d) := by
  simp only [bufRead, List.foldl_append, List.foldl_cons, List.foldl_nil, BufStore.byteAt]
  cases (b.keys.zip b.bytes).find? (fun p => p.1 == k) <;> rfl

theorem byteAt_eq_none {b : BufStore} {k : Nat} (h : k ∉ b.keys) : b.byteAt k = none := by
  rw [BufStore.byteAt, Option.map_eq_none_iff, List.find?_eq_none]
  intro p hp hk
  exact h (beq_iff_eq.mp hk ▸ (List.of_mem_zip hp).1)

/-- A store holds its bytes at its keys. -/
theorem map_byteAt {ks bs : List Nat} (hlen : ks.length = bs.length) (hnd : ks.Nodup) (f : Nat → Nat) :
    ks.map (fun k => ((BufStore.mk ks bs).byteAt k).getD (f k)) = bs := by
  induction ks generalizing bs with
  | nil => rw [List.eq_nil_of_length_eq_zero hlen.symm]; rfl
  | cons k ks ih =>
    match bs with
    | [] => simp at hlen
    | b :: bs =>
      obtain ⟨hk, hnd⟩ := List.nodup_cons.mp hnd
      have htail : ∀ j ∈ ks, (BufStore.mk (k :: ks) (b :: bs)).byteAt j = (BufStore.mk ks bs).byteAt j := by
        intro j hj
        have hne : (k == j) = false := beq_eq_false_iff_ne.mpr fun h => hk (h ▸ hj)
        simp only [BufStore.byteAt, List.zip_cons_cons, List.find?_cons, hne]
      rw [List.map_cons, List.map_congr_left fun j hj => congrArg (Option.getD · (f j)) (htail j hj),
        ih (Nat.succ.inj hlen) hnd]
      simp [BufStore.byteAt]

/-! ## A store that enters the buffer -/

/-- A full buffer performs its oldest store, which changes that store's bytes alone and leaves the others in their order. -/
theorem drainOne_cases (s : State) (r : Nat) : s.drainOne r = s ∨ ∃ b rest, (s.region r).stores = b :: rest ∧
    s.drainOne r = (s.setRegion r { s.region r with stores := rest }).store b.keys b.bytes := by
  simp only [State.drainOne]
  split
  · exact .inl rfl
  case h_2 b rest hs =>
    split
    · exact .inl rfl
    · exact .inr ⟨b, rest, hs, rfl⟩

theorem drainOne_region_same (s : State) (r : Nat) : ∃ l, (s.drainOne r).region r = { s.region r with stores := l } := by
  obtain h | ⟨b, rest, -, h⟩ := drainOne_cases s r
  · exact ⟨_, by rw [h]⟩
  · exact ⟨rest, by rw [h, store_region, setRegion_region_same]⟩

theorem drainOne_region_ne (s : State) {q r : Nat} (hq : q ≠ r) : (s.drainOne r).region q = s.region q := by
  obtain h | ⟨b, rest, -, h⟩ := drainOne_cases s r
  · rw [h]
  · rw [h, store_region, setRegion_region_ne _ _ hq]

theorem drainOne_cores (s : State) (r : Nat) : (s.drainOne r).cores = s.cores := by
  obtain h | ⟨b, rest, -, h⟩ := drainOne_cases s r
  · rw [h]
  · rw [h, store_cores, setRegion_cores]

theorem drainOne_die (s : State) (r : Nat) : (s.drainOne r).die = s.die := by
  obtain h | ⟨b, rest, -, h⟩ := drainOne_cases s r
  · rw [h]
  · rw [h, store_die, setRegion_die]

theorem drainOne_readByte (s : State) (r : Nat) {k : Nat} (hk : ∀ b ∈ (s.region r).stores.head?, k ∉ b.keys) :
    (s.drainOne r).readByte k = s.readByte k := by
  obtain h | ⟨b, rest, hs, h⟩ := drainOne_cases s r
  · rw [h]
  · rw [h, store_readByte _ _ _ _ (hk b (by simp [hs]))]
    rfl

/-- The state that a new store finds: with room in the buffer, or the oldest store performed. -/
def State.madeRoom (s : State) (r : Nat) : State := if (s.region r).stores.length < 8 then s else s.drainOne r

theorem buffer_eq (s : State) (r : Nat) (b : BufStore) : s.buffer r b = (s.madeRoom r).setRegion r
    { (s.madeRoom r).region r with stores := ((s.madeRoom r).region r).stores ++ [b] } := by rfl

theorem madeRoom_of_room {s : State} {r : Nat} (h : (s.region r).stores.length < 8) : s.madeRoom r = s := if_pos h

/-- What holds of `s` and of `s` with the oldest store performed. -/
theorem madeRoom_cases {s : State} {r : Nat} {P : State → Prop} (h : P s) (hd : P (s.drainOne r)) : P (s.madeRoom r) := by
  simp only [State.madeRoom]
  split
  · exact h
  · exact hd

section
variable (s : State) (r : Nat) (b : BufStore) {t : State} (ht : t = (s.buffer r b).complete r)
include ht

theorem buffered_region_same : ∃ g : Region, t.region r = g ∧ g.x = (s.region r).x ∧
    g.stores = ((s.madeRoom r).region r).stores ++ [b] := by
  obtain ⟨l, hl⟩ : ∃ l, (s.madeRoom r).region r = { s.region r with stores := l } :=
    madeRoom_cases (P := fun u => ∃ l, u.region r = { s.region r with stores := l }) ⟨_, rfl⟩ (drainOne_region_same s r)
  obtain ⟨d, ls, p, hg⟩ := completed_frame ((s.buffer r b).region r)
  refine ⟨_, rfl, ?_, ?_⟩
  · rw [ht, complete_region_same, hg, buffer_eq, setRegion_region_same, hl]
  · rw [ht, complete_region_same, hg, buffer_eq, setRegion_region_same]

theorem buffered_readByte (k : Nat) : t.readByte k = (s.madeRoom r).readByte k := by
  rw [ht, buffer_eq]
  rfl

theorem buffered_ccRead (ks : List Nat) : t.ccRead r ks = ks.map fun k =>
    (b.byteAt k).getD (bufRead ((s.madeRoom r).region r).stores k ((s.madeRoom r).readByte k)) := by
  obtain ⟨g, hg, -, hstores⟩ := buffered_region_same s r b ht
  simp only [State.ccRead, hg, hstores, bufRead_append, buffered_readByte s r b ht]

/-- A core reads the bytes that it has stored (R95). -/
theorem buffered_ccRead_own (hlen : b.keys.length = b.bytes.length) (hnd : b.keys.Nodup) : t.ccRead r b.keys = b.bytes := by
  rw [buffered_ccRead s r b ht]
  exact map_byteAt hlen hnd _

theorem buffered_ccRead_other (hroom : (s.region r).stores.length < 8) {k : Nat} (hk : k ∉ b.keys) :
    t.ccRead r [k] = s.ccRead r [k] := by
  rw [buffered_ccRead s r b ht, madeRoom_of_room hroom]
  simp only [List.map_cons, byteAt_eq_none hk, Option.getD_none, List.map_nil]
  rfl

theorem buffered_readByte_frame {k : Nat} (hk : ∀ c ∈ (s.region r).stores.head?, k ∉ c.keys) :
    t.readByte k = s.readByte k := by
  rw [buffered_readByte s r b ht]
  exact madeRoom_cases (P := fun u => u.readByte k = s.readByte k) rfl (drainOne_readByte s r hk)

theorem buffered_getX (q : Nat) : t.getX r q = s.getX r q := by
  obtain ⟨g, hg, hx, -⟩ := buffered_region_same s r b ht
  simp only [State.getX, hg, Region.getX, hx]

theorem buffered_cores : t.cores = s.cores := by
  rw [ht, complete_cores, buffer_eq, setRegion_cores]
  exact madeRoom_cases (P := fun u => u.cores = s.cores) rfl (drainOne_cores s r)

theorem buffered_die : t.die = s.die := by
  rw [ht, complete_die, buffer_eq, setRegion_die]
  exact madeRoom_cases (P := fun u => u.die = s.die) rfl (drainOne_die s r)

theorem buffered_region_ne {q : Nat} (hq : q ≠ r) : t.region q = s.region q := by
  rw [ht, complete_region_ne _ hq, buffer_eq, setRegion_region_ne _ _ hq]
  exact madeRoom_cases (P := fun u => u.region q = s.region q) rfl (drainOne_region_ne s hq)

end

/-! ## The four stores -/

section
variable {s m u : State} {x a i ea v n : Nat} {ks : List Nat}
  (hea : ea = (s.getX s.turn a + (BitVec.ofNat 16 i).signExtend 64).toNat) (hx : v = (s.getX s.turn x).toNat)
  (hm : m = orderDevice s s.turn ea) (hd : deviceReady s s.turn ea = true)
  (hw : walkHeld m (.control s.turn) ea n = false) (hr : resolve m (.control s.turn) ea n .write = .ok ks)
  (hu : u = m.askControl s.turn (m.homeAt ks) .store)
include hea hx hm hd hw hr hu

/-- A store whose address passes its checks. -/
theorem store_checked : store n x a i s = finish s s.turn
    (if ea / 2 ^ 60 = 15 then
      if bit ea 59 then .ok (deviceWrite u (ea % 2 ^ 60) n v)
      else await (!vaultHeld m ks) >>= fun _ => .ok (u.store ks (toBytes n v))
    else await (s.bufferRoom s.turn) >>= fun _ => .ok (u.buffer s.turn { keys := ks, bytes := toBytes n v })) := by
  subst hm hu hx
  rw [← effAddr_eq] at hea
  subst hea
  simp only [store, hd, hw, hr, Bool.not_false, Bool.and_self, await_true, res_ok_bind, ofAcc]

theorem store_enters (h15 : ea / 2 ^ 60 ≠ 15) (hroom : s.bufferRoom s.turn = true) : store n x a i s =
    .next ((u.buffer s.turn { keys := ks, bytes := toBytes n v }).complete s.turn) := by
  rw [store_checked hea hx hm hd hw hr hu, if_neg h15, hroom]
  rfl

theorem store_waits (h15 : ea / 2 ^ 60 ≠ 15) (hroom : s.bufferRoom s.turn = false) :
    store n x a i s = .next (s.wait s.turn) := by
  rw [store_checked hea hx hm hd hw hr hu, if_neg h15, hroom]
  rfl

theorem store_device (h15 : ea / 2 ^ 60 = 15) (hb : bit ea 59 = true) : store n x a i s =
    .next ((deviceWrite u (ea % 2 ^ 60) n v).complete s.turn) := by
  rw [store_checked hea hx hm hd hw hr hu, if_pos h15, if_pos hb]
  rfl

theorem store_physical (h15 : ea / 2 ^ 60 = 15) (hb : bit ea 59 = false) (hv : vaultHeld m ks = false) : store n x a i s =
    .next ((u.store ks (toBytes n v)).complete s.turn) := by
  rw [store_checked hea hx hm hd hw hr hu, if_pos h15, if_neg (Bool.eq_false_iff.mp hb), hv]
  rfl

end

theorem storeCompletes_of {mk : Nat → Nat → Nat → Instr} {n : Nat} (hn : n ≤ 8)
    (hmk : ∀ x a i s, exec (mk x a i) s = store n x a i s) : StoreCompletes mk n := by
  intro s m u x a i ea v ks hea hx hm hd hw hr hu
  rw [hmk]
  refine ⟨fun h15 hroom => ?_, store_waits hea hx hm hd hw hr hu, store_device hea hx hm hd hw hr hu,
    store_physical hea hx hm hd hw hr hu⟩
  have henters := store_enters hea hx hm hd hw hr hu h15 hroom
  rw [orderDevice_memory h15] at hm
  subst hm hu
  obtain ⟨hlen, hnd⟩ := resolve_keysOf (by omega) h15 hr
  have hlen' : ks.length = (toBytes n v).length := by rw [hlen, length_toBytes]
  obtain ⟨t, ht⟩ : ∃ t, t = ((m.askControl m.turn (m.homeAt ks) .store).buffer m.turn ⟨ks, toBytes n v⟩).complete m.turn :=
    ⟨_, rfl⟩
  refine ⟨t, ht ▸ henters, ht, buffered_ccRead_own _ _ _ ht hlen' hnd, fun hroom => ⟨fun k => ?_, fun k hk => ?_⟩, fun k hk => ?_,
    fun q => ?_, ?_, ?_, fun q hq => ?_⟩
  · rw [buffered_readByte _ _ _ ht, madeRoom_of_room (by rw [askControl_region]; exact hroom), askControl_readByte]
  · rw [buffered_ccRead_other _ _ _ ht (by rw [askControl_region]; exact hroom) hk, askControl_ccRead]
  · rw [buffered_readByte_frame _ _ _ ht (by rw [askControl_region]; exact hk), askControl_readByte]
  · rw [buffered_getX _ _ _ ht, askControl_getX]
  · rw [buffered_cores _ _ _ ht, askControl_cores]
  · rw [buffered_die _ _ _ ht, askControl_die]
  · rw [buffered_region_ne _ _ _ ht hq, askControl_region]

/-- Settles O13: the keys of an access are distinct, so the newest entry of the buffer answers each with its own byte. -/
theorem storesEnterTheBuffer : Obligations.StoresEnterTheBuffer :=
  ⟨storeCompletes_of (by decide) fun _ _ _ _ => rfl, storeCompletes_of (by decide) fun _ _ _ _ => rfl,
    storeCompletes_of (by decide) fun _ _ _ _ => rfl, storeCompletes_of (by decide) fun _ _ _ _ => rfl⟩

end Sys2Proof.Machine
end
